-- ==== Sys2Proof/Word.lean ====
section
/-! DEFINITION. The bit-vector types of the Sumet 9 (R11, R76): bytes, 32-bit words, 64-bit pairs,
lane masks and 57-bit virtual addresses. -/

namespace Sys2Proof

/-- A byte of memory (R11). -/
abbrev Byte := BitVec 8

/-- A 32-bit register value (R76). -/
abbrev Word := BitVec 32

/-- A 64-bit value in an even/odd pair (R11). -/
abbrev DWord := BitVec 64

/-- A lane mask: bit l stands for lane l of a group (R18). -/
abbrev Mask := BitVec 32

/-- A virtual address, bits [56:0] (R198). -/
abbrev Addr := BitVec 57

/-- A 96-bit instruction word (R39). -/
abbrev Word96 := BitVec 96

end Sys2Proof
end

