-- ==== Sys2Proof/Syntax.lean ====
section
/-! DEFINITION. The instructions and events of the Sumet 9: one constructor of `Instr` for each row
of the opcode table. A 96-bit instruction carries the fields of its X layout class (R44) with its
operand specifiers already named by register file (R41); a drain word carries the fields of R181 to
R184; a queue command carries the fields of R377; an event carries what it acts on. -/

namespace Sys2Proof

/-- An operand specifier (R41). -/
inductive Operand where
  | v (n : BitVec 10)      -- vector register
  | s (n : BitVec 10)      -- scalar register
  | q (n : BitVec 5)       -- operand file
  | x (n : BitVec 2)       -- last-result file
  | sr (n : BitVec 8)      -- special register
  | p (n : BitVec 3)       -- predicate
  | imm (k : BitVec 10)    -- signed immediate
  deriving DecidableEq, Repr, Inhabited

/-- Guard and scheduling hints, common to every instruction (R39, R40, R45 to R47). -/
structure Hdr where
  gn : Bool
  gp : BitVec 3
  stall : BitVec 4
  yield : Bool
  dup : BitVec 2
  deriving DecidableEq, Repr, Inhabited

/-- X layout class XN (R44): `x` must be zero. -/
structure XN where
  h : Hdr
  d : Operand
  a : Operand
  b : Operand
  x : BitVec 32
  deriving DecidableEq, Repr, Inhabited

/-- X layout class XK (R44): a 32-bit constant. -/
structure XK where
  h : Hdr
  d : Operand
  a : Operand
  b : Operand
  k : BitVec 32
  deriving DecidableEq, Repr, Inhabited

/-- X layout class XF (R44). -/
structure XF where
  h : Hdr
  d : Operand
  a : Operand
  b : Operand
  c : Operand
  df : BitVec 4
  sf : BitVec 4
  rnd : BitVec 3
  sat : Bool
  sub : BitVec 8
  deriving DecidableEq, Repr, Inhabited

/-- X layout class XA (R44). In `ldt` and `stt`, `mf` holds the coordinate count NC. -/
structure XA where
  h : Hdr
  d : Operand
  a : Operand
  b : Operand
  c : Operand
  mf : BitVec 4
  rf : BitVec 4
  rnd : BitVec 3
  sat : Bool
  scope : BitVec 3
  sk : Bool
  ord : BitVec 3
  prb : Bool
  deriving DecidableEq, Repr, Inhabited

/-- X layout class XW (R44). -/
structure XW where
  h : Hdr
  d : Operand
  a : Operand
  b : Operand
  c : Operand
  n : BitVec 6
  ctr : BitVec 3
  scope : BitVec 3
  sk : Bool
  low : BitVec 7
  deriving DecidableEq, Repr, Inhabited

/-- X layout class XT (R44). -/
structure XT where
  h : Hdr
  d : Operand
  a : Operand
  b : Operand
  c : Operand
  af : BitVec 4
  bf : BitVec 4
  td : BitVec 3
  spr : BitVec 2
  sub : BitVec 7
  deriving DecidableEq, Repr, Inhabited

/-- A drain word with two sources (R181, R183): `r` and `s` are RND and SAT where the row has them. -/
structure DW where
  d : BitVec 3
  a : BitVec 4
  b : BitVec 4
  r : BitVec 3
  s : Bool
  deriving DecidableEq, Repr, Inhabited

/-- A drain word with a constant (R183). -/
structure DK where
  d : BitVec 3
  a : BitVec 4
  k : BitVec 16
  deriving DecidableEq, Repr, Inhabited

/-- A drain memory word (R184): `d` is the destination of `dld`, `v` the value of `dst` and `dred`. -/
structure DM where
  d : BitVec 3
  v : BitVec 4
  o : BitVec 4
  f : BitVec 4
  r : BitVec 3
  s : Bool
  p : BitVec 2
  x : Bool
  g : Bool
  deriving DecidableEq, Repr, Inhabited

/-- A queue: the PASID and the queue number (R371). -/
structure QRef where
  pasid : Nat
  q : Nat
  deriving DecidableEq, Repr, Inhabited

/-- A partition of a core, which holds one drain engine (R188). -/
structure EngRef where
  die : Nat
  core : Nat
  part : Nat
  deriving DecidableEq, Repr, Inhabited

/-- A group record: die, logical core, partition and slot (R270). -/
structure Place where
  die : Nat
  core : Nat
  part : Nat
  slot : Nat
  deriving DecidableEq, Repr, Inhabited

/-- A path of a group (R20): groups carry identities of the model's own. -/
structure Who where
  gid : Nat
  path : Nat
  deriving DecidableEq, Repr, Inhabited

/-- The fields of a LAUNCH command (R377). -/
structure LaunchCmd where
  barrier : Bool
  x : BitVec 32
  y : BitVec 32
  z : BitVec 32
  header : BitVec 64
  stages : BitVec 64
  args : List (BitVec 32)
  deriving DecidableEq, Repr, Inhabited

/-- The fields of SIGNAL, WAITWORD, COPY and TIMESTAMP commands (R377). -/
structure WordCmd where
  barrier : Bool
  addr : BitVec 64
  value : BitVec 64
  count : BitVec 64
  scope : BitVec 8
  width : BitVec 8
  test : BitVec 8
  deriving DecidableEq, Repr, Inhabited

/-- A debug request (R421), less its OP, which the constructor names. -/
structure DebugReq where
  seq : BitVec 32
  level : BitVec 8
  die : Nat
  path : Nat
  lchid : Nat
  block : Nat
  grpid : Nat
  deliver : Bool
  pasid : Nat
  deriving DecidableEq, Repr, Inhabited

/-- A request on the recovery port to program fuses (R389); one for the SVN fuses carries the owner's signature. -/
inductive FuseOp where
  | programOwner (hash : BitVec 256)
  | blowOwnerOnly
  | blowSvn (svn : Nat) (sig : BitVec 512)
  deriving DecidableEq, Repr, Inhabited

/-- The reply to an ATS translation request (R352): the physical page and permissions, or none. -/
structure AtsReply where
  ppn : Nat
  r : Bool
  w : Bool
  x : Bool
  inBar : Bool
  deriving DecidableEq, Repr, Inhabited

/-- The operations of `atom` and `red` (R242). -/
inductive AtomOp where
  | add | sub | min | max | and | or | xor | exch | incw | decw
  deriving DecidableEq, Repr, Inhabited

/-- A remote access that arrives at this module's spline port (R239, R356): a read or write of bytes, or an
atomic of a memory format. -/
inductive RemoteOp where
  | read (n : Nat)
  | write (bytes : List (BitVec 8))
  | atomic (op : AtomOp) (mf : BitVec 4) (v : BitVec 64)
  | cas (mf : BitVec 4) (cmp new : BitVec 64)
  deriving DecidableEq, Repr, Inhabited

/-- An access from outside the dies: its operation, its order (R222), and, at a spline port, the hop scope that it carries
(R238, R239). -/
structure OuterOp where
  op : RemoteOp
  ord : BitVec 3
  hops : Option Nat
  deriving DecidableEq, Repr, Inhabited

/-- Every row of the opcode table. -/
inductive Instr where
  | nop (w : XN)  -- NOP (R96)
  | bra (w : XK)  -- BRA (R87)
  | brx (w : XN)  -- BRX (R88)
  | call (w : XK)  -- CALL (R89)
  | callx (w : XN)  -- CALLX (R89)
  | ret (w : XN)  -- RET (R88)
  | loop (w : XK)  -- LOOP (R90)
  | loopx (w : XK)  -- LOOPX (R90)
  | join (w : XK)  -- JOIN (R93)
  | exit (w : XN)  -- EXIT (R94)
  | yield (w : XN)  -- YIELD (R95)
  | sleep (w : XK)  -- SLEEP (R95)
  | brk (w : XK)  -- BRK (R96)
  | sleepExpiry (w : Who)  -- SLEEP_EXPIRY (R95)
  | add (w : XF)  -- ADD (R122)
  | addc (w : XF)  -- ADDC (R122)
  | sub (w : XF)  -- SUB (R122)
  | subb (w : XF)  -- SUBB (R122)
  | neg (w : XF)  -- NEG (R122)
  | abs (w : XF)  -- ABS (R122)
  | mul (w : XF)  -- MUL (R122)
  | mulhi (w : XF)  -- MULHI (R122)
  | mulw (w : XF)  -- MULW (R122)
  | mad (w : XF)  -- MAD (R122)
  | madhi (w : XF)  -- MADHI (R122)
  | div (w : XF)  -- DIV (R123)
  | rem (w : XF)  -- REM (R123)
  | min (w : XF)  -- MIN (R122)
  | max (w : XF)  -- MAX (R122)
  | sad (w : XF)  -- SAD (R122)
  | dp4 (w : XF)  -- DP4 (R122)
  | dp2 (w : XF)  -- DP2 (R122)
  | and (w : XN)  -- AND (R124)
  | or (w : XN)  -- OR (R124)
  | xor (w : XN)  -- XOR (R124)
  | not (w : XN)  -- NOT (R124)
  | andn (w : XN)  -- ANDN (R124)
  | lop3 (w : XF)  -- LOP3 (R125)
  | shl (w : XN)  -- SHL (R124)
  | shr (w : XN)  -- SHR (R124)
  | sar (w : XN)  -- SAR (R124)
  | rotl (w : XN)  -- ROTL (R124)
  | fsh (w : XF)  -- FSH (R125)
  | popc (w : XN)  -- POPC (R124)
  | clz (w : XN)  -- CLZ (R124)
  | ctz (w : XN)  -- CTZ (R124)
  | brev (w : XN)  -- BREV (R124)
  | bfe (w : XF)  -- BFE (R125)
  | bfi (w : XF)  -- BFI (R125)
  | bperm (w : XF)  -- BPERM (R125)
  | cmp (w : XF)  -- CMP (R126)
  | sel (w : XF)  -- SEL (R127)
  | mov (w : XN)  -- MOV (R128)
  | movi (w : XK)  -- MOVI (R128)
  | movs (w : XN)  -- MOVS (R128)
  | movv (w : XN)  -- MOVV (R128)
  | mvsp (w : XN)  -- MVSP (R128)
  | stsp (w : XN)  -- STSP (R128)
  | pand (w : XN)  -- PAND (R128)
  | por (w : XN)  -- POR (R128)
  | pxor (w : XN)  -- PXOR (R128)
  | pnot (w : XN)  -- PNOT (R128)
  | pmov (w : XN)  -- PMOV (R128)
  | shfl (w : XF)  -- SHFL (R131)
  | vote (w : XF)  -- VOTE (R132)
  | redux (w : XF)  -- REDUX (R133)
  | scan (w : XF)  -- SCAN (R133)
  | bcast (w : XN)  -- BCAST (R134)
  | matchLanes (w : XF)  -- MATCH (R135)
  | fadd (w : XF)  -- FADD (R139)
  | fsub (w : XF)  -- FSUB (R139)
  | fmul (w : XF)  -- FMUL (R139)
  | fma (w : XF)  -- FMA (R139)
  | fmin (w : XF)  -- FMIN (R140)
  | fmax (w : XF)  -- FMAX (R140)
  | fminn (w : XF)  -- FMINN (R140)
  | fmaxn (w : XF)  -- FMAXN (R140)
  | fcmp (w : XF)  -- FCMP (R141)
  | fclass (w : XF)  -- FCLASS (R142)
  | fscale (w : XF)  -- FSCALE (R143)
  | frnd (w : XF)  -- FRND (R143)
  | rcp (w : XF)  -- RCP (R147)
  | rsq (w : XF)  -- RSQ (R147)
  | sqrt (w : XF)  -- SQRT (R145)
  | fdiv (w : XF)  -- FDIV (R145)
  | ex2 (w : XF)  -- EX2 (R147)
  | lg2 (w : XF)  -- LG2 (R147)
  | sinpi (w : XF)  -- SINPI (R146)
  | cospi (w : XF)  -- COSPI (R146)
  | sincospi (w : XF)  -- SINCOSPI (R146)
  | tanh (w : XF)  -- TANH (R147)
  | cvt (w : XF)  -- CVT (R149)
  | cvtpk (w : XF)  -- CVTPK (R150)
  | cvtcb (w : XF)  -- CVTCB (R151)
  | rng (w : XF)  -- RNG (R152)
  | trng (w : XN)  -- TRNG (R153)
  | sampleCat (w : XF)  -- SAMPLE_CAT (R154)
  | ldGbl (w : XA)  -- LD_GBL (R209)
  | ldScr (w : XA)  -- LD_SCR (R209)
  | ldCls (w : XA)  -- LD_CLS (R209)
  | ldObj (w : XA)  -- LD_OBJ (R209)
  | stGbl (w : XA)  -- ST_GBL (R210)
  | stScr (w : XA)  -- ST_SCR (R210)
  | stCls (w : XA)  -- ST_CLS (R210)
  | stObj (w : XA)  -- ST_OBJ (R210)
  | ldt (w : XA)  -- LDT (R213)
  | stt (w : XA)  -- STT (R213)
  | prf (w : XN)  -- PRF (R215)
  | probe (w : XN)  -- PROBE (R215)
  | pgreq (w : XN)  -- PGREQ (R216)
  | peerst (w : XA)  -- PEERST (R217)
  | atomAdd (w : XA)  -- ATOM_ADD (R243)
  | atomSub (w : XA)  -- ATOM_SUB (R243)
  | atomMin (w : XA)  -- ATOM_MIN (R243)
  | atomMax (w : XA)  -- ATOM_MAX (R243)
  | atomAnd (w : XA)  -- ATOM_AND (R243)
  | atomOr (w : XA)  -- ATOM_OR (R243)
  | atomXor (w : XA)  -- ATOM_XOR (R243)
  | atomExch (w : XA)  -- ATOM_EXCH (R243)
  | atomIncw (w : XA)  -- ATOM_INCW (R243)
  | atomDecw (w : XA)  -- ATOM_DECW (R243)
  | cas (w : XA)  -- CAS (R244)
  | redAdd (w : XA)  -- RED_ADD (R243)
  | redSub (w : XA)  -- RED_SUB (R243)
  | redMin (w : XA)  -- RED_MIN (R243)
  | redMax (w : XA)  -- RED_MAX (R243)
  | redAnd (w : XA)  -- RED_AND (R243)
  | redOr (w : XA)  -- RED_OR (R243)
  | redXor (w : XA)  -- RED_XOR (R243)
  | redIncw (w : XA)  -- RED_INCW (R243)
  | redDecw (w : XA)  -- RED_DECW (R243)
  | ldacq (w : XA)  -- LDACQ (R246)
  | strel (w : XA)  -- STREL (R246)
  | fence (w : XA)  -- FENCE (R247)
  | bar (w : XW)  -- BAR (R257)
  | bararv (w : XW)  -- BARARV (R256)
  | barwt (w : XW)  -- BARWT (R257)
  | barinit (w : XW)  -- BARINIT (R255)
  | waitc (w : XW)  -- WAITC (R248)
  | waitw (w : XA)  -- WAITW (R251)
  | waitf (w : XA)  -- WAITF (R251)
  | fill (w : XA)  -- FILL (R250)
  | syncinit (w : XA)  -- SYNCINIT (R250)
  | semop (w : XW)  -- SEMOP (R260)
  | semwait (w : XW)  -- SEMWAIT (R260)
  | xkick (w : XN)  -- XKICK (R261)
  | cbld (w : XT)  -- CBLD (R173)
  | drainld (w : XK)  -- DRAINLD (R180)
  | mma (w : XT)  -- MMA (R168)
  | mmloop (w : XT)  -- MMLOOP (R169)
  | tzero (w : XT)  -- TZERO (R170)
  | tmovGet (w : XT)  -- TMOV_GET (R171)
  | tmovPut (w : XT)  -- TMOV_PUT (R171)
  | tmovDrain (w : XT)  -- TMOV_DRAIN (R171)
  | tsacc (w : XT)  -- TSACC (R172)
  | rstlbl (w : XK)  -- RSTLBL (R174)
  | spawn (w : XK)  -- SPAWN (R313)
  | spawnx (w : XK)  -- SPAWNX (R314)
  | tasknew (w : XN)  -- TASKNEW (R322)
  | taskget (w : XN)  -- TASKGET (R323)
  | taskdone (w : XN)  -- TASKDONE (R324)
  | tasksync (w : XN)  -- TASKSYNC (R325)
  | stage (w : XN)  -- STAGE (R328)
  | promote (w : XN)  -- PROMOTE (R307)
  | trap (w : XK)  -- TRAP (R408)
  | rte (w : XN)  -- RTE (R408)
  | csrrd (w : XK)  -- CSRRD (R407)
  | csrwr (w : XK)  -- CSRWR (R407)
  | logmark (w : XK)  -- LOGMARK (R282)
  | trcon (w : XN)  -- TRCON (R428)
  | trcoff (w : XN)  -- TRCOFF (R428)
  | halt (w : XN)  -- HALT (R408)
  | dend  -- DEND (R183)
  | dfadd (w : DW)  -- DFADD (R183)
  | dfsub (w : DW)  -- DFSUB (R183)
  | dfmul (w : DW)  -- DFMUL (R183)
  | dfma (w : DW)  -- DFMA (R183)
  | dfmax (w : DW)  -- DFMAX (R183)
  | dfmin (w : DW)  -- DFMIN (R183)
  | drelu (w : DW)  -- DRELU (R183)
  | dsel (w : DW)  -- DSEL (R183)
  | diadd (w : DW)  -- DIADD (R183)
  | dimad (w : DW)  -- DIMAD (R183)
  | dshl (w : DK)  -- DSHL (R183)
  | dand (w : DW)  -- DAND (R183)
  | dmov (w : DW)  -- DMOV (R183)
  | dmovi (w : DK)  -- DMOVI (R183)
  | dmovhi (w : DK)  -- DMOVHI (R183)
  | dfcmp (w : DW)  -- DFCMP (R183)
  | dld (w : DM)  -- DLD (R184)
  | dst (w : DM)  -- DST (R184)
  | dred (w : DM)  -- DRED (R193)
  | drst  -- DRST (R195)
  | impreciseFaultEntry (w : Who)  -- IMPRECISE_FAULT_ENTRY (R400)
  | loadComplete (gid op : Nat) (lanes : BitVec 32)  -- LOAD_COMPLETE (R209)
  | storeComplete (gid op : Nat) (lanes : BitVec 32)  -- STORE_COMPLETE (R201)
  | atomicComplete (gid op : Nat) (lanes : BitVec 32)  -- ATOMIC_COMPLETE (R243)
  | scratchpadAccessComplete (gid op : Nat) (lanes : BitVec 32)  -- SCRATCHPAD_ACCESS_COMPLETE (R205)
  | peerstArrival (gid op : Nat) (lanes : BitVec 32)  -- PEERST_ARRIVAL (R218)
  | registerLineFill (gid line : Nat)  -- REGISTER_LINE_FILL (R35)
  | matrixOpComplete (gid : Nat)  -- MATRIX_OP_COMPLETE (R168)
  | drainRow (e : EngRef)  -- DRAIN_ROW (R187)
  | drainComplete (e : EngRef)  -- DRAIN_COMPLETE (R195)
  | tceCopy (gid op : Nat) (elems : List Nat)  -- TCE_COPY (R263)
  | tceCopyComplete (gid op : Nat)  -- TCE_COPY_COMPLETE (R263)
  | restTableWake (w : Who)  -- REST_TABLE_WAKE (R252)
  | waitTimeout (w : Who)  -- WAIT_TIMEOUT (R251)
  | promotion (die : Nat)  -- PROMOTION (R302)
  | blockDispatch (die lchid : Nat) (places : List Place)  -- BLOCK_DISPATCH (R292)
  | groupRecordFree (gid : Nat)  -- GROUP_RECORD_FREE (R85)
  | childHeaderCheck (die lchid : Nat)  -- CHILD_HEADER_CHECK (R313)
  | spawnxCountRead (die lchid : Nat)  -- SPAWNX_COUNT_READ (R314)
  | taskAccept (w : Who)  -- TASK_ACCEPT (R322)
  | tasksyncCopy (gid op : Nat)  -- TASKSYNC_COPY (R325)
  | replayHoldRelease (w : Who)  -- REPLAY_HOLD_RELEASE (R278)
  | replayHoldTimeout (w : Who)  -- REPLAY_HOLD_TIMEOUT (R279)
  | shavingsSample (e : EngRef)  -- SHAVINGS_SAMPLE (R337)
  | pageWalk (die core tlb pasid : Nat) (va : BitVec 57) (write : Bool)  -- PAGE_WALK (R358)
  | atsTranslationResponse (pasid : Nat) (va : BitVec 57) (reply : Option AtsReply)  -- ATS_TRANSLATION_RESPONSE (R352)
  | pageMigration (page die : Nat)  -- PAGE_MIGRATION (R363)
  | remoteAccess (sender addr : Nat) (x : OuterOp)  -- REMOTE_ACCESS (R239)
  | queueNop (q : QRef) (barrier : Bool)  -- QUEUE_NOP (R376)
  | launch (q : QRef) (c : LaunchCmd)  -- LAUNCH (R308)
  | signal (q : QRef) (c : WordCmd)  -- SIGNAL (R378)
  | waitword (q : QRef) (c : WordCmd)  -- WAITWORD (R378)
  | waitwordComplete (q : QRef)  -- WAITWORD_COMPLETE (R378)
  | copy (q : QRef) (c : WordCmd)  -- COPY (R380)
  | copyCommandComplete (q : QRef)  -- COPY_COMMAND_COMPLETE (R378)
  | timestamp (q : QRef) (c : WordCmd)  -- TIMESTAMP (R378)
  | kick (die aperture : Nat)  -- KICK (R382)
  | headstockWake (die : Nat)  -- HEADSTOCK_WAKE (R382)
  | shootdown (die : Nat) (sdctl : BitVec 64)  -- SHOOTDOWN (R364)
  | shootdownComplete (die : Nat)  -- SHOOTDOWN_COMPLETE (R365)
  | atsInvalidate (pasid vpn pages : Nat)  -- ATS_INVALIDATE (R365)
  | pasidTeardown (die : Nat) (tdctl : BitVec 64)  -- PASID_TEARDOWN (R383)
  | teardownComplete (die : Nat)  -- TEARDOWN_COMPLETE (R383)
  | hostRegisterWrite (offset : Nat) (value : BitVec 64)  -- HOST_REGISTER_WRITE (R12)
  | dreqHalt (r : DebugReq)  -- DREQ_HALT (R423)
  | dreqResume (r : DebugReq)  -- DREQ_RESUME (R422)
  | dreqStep (r : DebugReq)  -- DREQ_STEP (R424)
  | dreqFlush (r : DebugReq)  -- DREQ_FLUSH (R421)
  | dreqExit (r : DebugReq)  -- DREQ_EXIT (R421)
  | dreqForce (r : DebugReq)  -- DREQ_FORCE (R423)
  | dreqSwitch (r : DebugReq)  -- DREQ_SWITCH (R421)
  | sliceStopRequest (die pasid : Nat)  -- SLICE_STOP_REQUEST (R418)
  | groupPreempt (gid : Nat)  -- GROUP_PREEMPT (R414)
  | scratchpadSave (die pasid lchid block role : Nat)  -- SCRATCHPAD_SAVE (R417)
  | contextSwitchComplete (die pasid : Nat)  -- CONTEXT_SWITCH_COMPLETE (R418)
  | contextSwitchIn (die pasid : Nat)  -- CONTEXT_SWITCH_IN (R294)
  | groupResume (gid : Nat) (pl : Place)  -- GROUP_RESUME (R416)
  | powerUp  -- POWER_UP (R387)
  | dieReset (die : Nat)  -- DIE_RESET (R341)
  | recoveryImage (component : Nat) (image : List (BitVec 8))  -- RECOVERY_IMAGE (R390)
  | measurementExtend (mr : Nat) (digest : BitVec 256)  -- MEASUREMENT_EXTEND (R391)
  | quote (nonce : BitVec 256)  -- QUOTE (R391)
  | frequencyStep (die freq : Nat)  -- FREQUENCY_STEP (R341)
  | correctedError (die : Nat) (dram : Bool)  -- CORRECTED_ERROR (R409)
  | uncorrectableError (unit a b : Nat)  -- UNCORRECTABLE_ERROR (R409)
  | pageRequestResponse (die pasid : Nat) (va : BitVec 57) (granted : Bool)  -- PAGE_REQUEST_RESPONSE (R216)
  | grainRingControlWrite (pasid offset : Nat) (value : BitVec 64)  -- GRAIN_RING_CONTROL_WRITE (R268)
  | instructionFetch (w : Who)  -- INSTRUCTION_FETCH (R38)
  | hostMemoryAccess (agent addr : Nat) (x : OuterOp)  -- HOST_MEMORY_ACCESS (R394)
  | linkTraining (bit : Nat) (ok : Bool)  -- LINK_TRAINING (R392)
  | fuseProgramming (f : FuseOp)  -- FUSE_PROGRAMMING (R389)
  | headstockGating (die : Nat) (power : Bool)  -- HEADSTOCK_GATING (R382)
  deriving DecidableEq, Repr, Inhabited

/-- What one step does: a path issues its next instruction, an event of the table takes place, or a
drain engine runs one word of its program (R187). -/
inductive Choice where
  | issue (w : Who)
  | event (i : Instr)
  | drainWord (e : EngRef)
  deriving DecidableEq, Repr, Inhabited

end Sys2Proof
end

