-- ==== Sys2Proof/Config.lean ====
section
/-! DEFINITION. What an implementation fixes and what the manual leaves open. The opaque constants
are FREE VALUES: they have no body, so nothing can be proved about the value they give. Each is
applied to `State.tick`, a plain counter that every step advances, or to the operands on which it depends (log entries 1
to 4, 14). -/

namespace Sys2Proof.Config

/-- Free value: what happens next, wherever the manual fixes no order between agents and leaves inputs to the
outside: a path issues, a drain engine runs a word, or an event takes place (R19, R205, R226, R245; log entry
1). A choice that is not enabled changes nothing. -/
opaque nextChoice : Nat → Choice

/-- Free value: which of several outcomes that a step has, numbered, comes about (R245, R263; log entry 1). -/
opaque pick : Nat → Nat

/-- Free value: how many clk pass before a step, beyond what stall counts require (R45, R341; log
entry 2). -/
opaque clkGap : Nat → Nat

/-- Free value: a bit for an outcome the manual gives as "either" (R49, R162, R189, R219; log
entry 3). The second argument names which choice of the step it is. -/
opaque freeBit : Nat → Nat → Bool

/-- Free value: a value that the manual does not state (R43, R279; log entry 14). The second argument
names which value of the step it is. -/
opaque freeWord : Nat → Nat → BitVec 256

/-- Free value: the bits of an integer immediate in a floating format that does not hold it, where an instruction delivers
an operand's own bits or its integral value (R4, R140, R143; log entry 14). It is a function of the operand, so the same
instruction on the same operands gives the same bits. -/
opaque immBits (fmt : BitVec 4) (value : Int) : Nat

/-- Free value: hardware entropy of `trng` (R153), one word for each lane (log entry 4). -/
opaque entropy : Nat → Nat → BitVec 32

/-- Free value: the signature that the device identity key makes over a digest (R391; log entry 5:
the key is in no part of the manual). -/
opaque signDigest : BitVec 256 → BitVec 512

/-- Free value: whether an ECDSA P-256 signature over a digest verifies under the key whose SHA-256
is the first argument (R388; log entry 5: the manual does not say where the key itself is kept). -/
opaque ecdsaVerifies : BitVec 256 → BitVec 512 → BitVec 256 → Bool

/-- Free value: the digest that an owner signs to ask that the SVN fuses be blown to a number (R389; log entry 5: the
manual gives the request no layout). -/
opaque svnDigest : Nat → BitVec 256

/-- Free value: the distance of a module as the tailstock writes it into the scope table at boot (R395; log
entry 26: the manual does not fix the topology). -/
opaque scopeDistance : Nat → Byte

/-- Identity of the latency table of this stepping (R334). -/
def latencyTable : Nat := 0x21

/-- Enabled clusters of a die (R2, R270): the physical clusters 0 to 12 but one spare. Which one is
spare differs between dies and the manual does not fix it (log entry 6). -/
opaque spareCluster : Nat → Fin 13

/-- Cores per die that are enabled (R2). -/
def coresPerDie : Nat := 48

/-- Partitions per core (R2). -/
def partsPerCore : Nat := 8

/-- Group records per partition (R2, R32). -/
def slotsPerPart : Nat := 16

/-- Register-cache lines of a partition that footprints may pin (R33). -/
def pinLines : Nat := 448

/-- Register-cache lines of a partition left for lines outside footprints (R33). -/
def looseLines : Nat := 64

/-- Scratchpad bytes of a core (R2, R34). -/
def scratchBytes : Nat := 327680

/-- Rest-table entries of a die (R2, R305). -/
def restEntries : Nat := 8192

/-- Outstanding page requests of a die (R216). -/
def pageRequests : Nat := 256

/-- Tasks in flight that a die accepts (R320). -/
def tasksInFlight : Nat := 1024

end Sys2Proof.Config
end

