-- ==== Sys2Proof/Machine/Sparse.lean ====
section
/-! DEFINITION. Sparse maps from numbers to values in ONE canonical form: keys strictly rising, and
no entry equal to what an unlisted key reads as. Memory, register files, scratchpads, tiles and
semaphores are all held so, and equal contents are then equal data. -/

namespace Sys2Proof.Machine

/-- A sparse map; an unlisted key reads as the default that each use names. -/
abbrev Sparse (β : Type) := List (Nat × β)

/-- The value at key `a`, or the default `d`. -/
def spGet {β : Type} (d : β) : Sparse β → Nat → β
  | [], _ => d
  | (k, v) :: r, a => if a = k then v else spGet d r a

/-- The map without key `a`. -/
def spErase {β : Type} : Sparse β → Nat → Sparse β
  | [], _ => []
  | (k, v) :: r, a => if a = k then spErase r a else (k, v) :: spErase r a

/-- Insertion of a key that the map does not hold, before the first greater key. -/
def spInsert {β : Type} : Sparse β → Nat → β → Sparse β
  | [], a, v => [(a, v)]
  | (k, x) :: r, a, v => if a < k then (a, v) :: (k, x) :: r else (k, x) :: spInsert r a v

/-- The map with `v` at key `a`; writing the default removes the entry. -/
def spSet {β : Type} [DecidableEq β] (d : β) (m : Sparse β) (a : Nat) (v : β) : Sparse β :=
  if v = d then spErase m a else spInsert (spErase m a) a v

/-- Keys from `lo` upwards strictly rising, and no value equal to the default. -/
def spWfFrom {β : Type} [DecidableEq β] (d : β) : Nat → Sparse β → Bool
  | _, [] => true
  | lo, (k, v) :: r => decide (lo ≤ k) && decide (v ≠ d) && spWfFrom d (k + 1) r

/-- The canonical form. -/
def spWf {β : Type} [DecidableEq β] (d : β) (m : Sparse β) : Bool := spWfFrom d 0 m

end Sys2Proof.Machine
end

