-- ==== Sys2Proof/Machine/State.lean ====
section
/-! DEFINITION. The state of one Sumet 9 module as plain data: its groups with their register files,
path tables, frames and operations in flight; its launches, blocks, queues and contexts; its memory,
TLBs, tags, versions and poison; its dies, host-side registers, boot state and task pools. -/

namespace Sys2Proof.Machine

/-- A stop of the machine. Nothing stops it: every row of the opcode table has its effect, and the one fault is raised by
no definition (safe). -/
inductive Fault where
  /-- Raised by nothing: a step that names a drain engine which runs no word changes nothing but the time. Safe. -/
  | noSuchEngine
  deriving DecidableEq, Repr

/-- Why an instruction has no meaning. -/
inductive Refusal where
  /-- The instruction has no meaning in the model yet. Raised only by arms of `exec`. Safe. -/
  | notModelled (mnemonic : String)
  deriving DecidableEq, Repr

/-! ### Small types -/

/-- The six outstanding-operation counters (R50), in the order of the CTR codes (R44). -/
inductive Ctr where
  | ld | st | sp | cp | mx | at
  deriving DecidableEq, Repr, Inhabited

/-- Address spaces (R198). -/
inductive Space where
  | gbl | scr | cls | obj
  deriving DecidableEq, Repr, Inhabited

/-- Trap causes (R398). -/
inductive Cause where
  | illegalOpcode | illegalField | illegalOperand | illegalMma | privileged
  | intDivzero | intOverflow
  | fpInvalid | fpDivzero | fpOverflow | fpUnderflow | fpInexact
  | scoreboardUndersized
  | memNotPresent | memProtection | memAlign | memBounds | fetchFault | poison
  | progressInversion | progressNoroom | progressDepth
  | replayDiverge | replayGap
  | drainFault
  | breakpoint | debugHalt | singleStep
  | userTrap
  deriving DecidableEq, Repr, Inhabited

/-! ### The consistency model's records (R220 to R240) -/

/-- A lower bound, by byte of any memory, on the stamp of the write that a read returns: what happens before the
read has been written or read there (R224, R226). Bytes not listed have the bound 0. -/
abbrev View := Sparse Nat

/-- Who performs an access (R220): a path, an engine of a core, the headstock of a die, a hart of the host complex, a
PCIe requester, or a spline port. -/
inductive AgentKind where
  | path | engine | headstock | hart | pcie | port
  deriving DecidableEq, Repr, Inhabited

/-- An agent and where it lies, by which the scopes count (R220, R227). -/
structure Agent where
  kind : AgentKind
  die : Nat
  core : Nat
  gid : Nat
  lchid : Nat
  block : Nat
  path : Nat
  deriving DecidableEq, Repr, Inhabited

/-- What a release hands on (R223): its agent, its scope, and what is ordered before it. -/
structure Msg where
  who : Agent
  scope : BitVec 3
  sk : Bool
  view : View
  deriving DecidableEq, Repr, Inhabited

/-- A release fence that a path has issued (R222, R247): its scope, what precedes it, and the identities of the earlier
accesses that were in flight then. -/
structure RelFence where
  scope : BitVec 3
  sk : Bool
  view : View
  olds : List Nat
  deriving DecidableEq, Repr, Inhabited

/-! ### Records (R269, R385) -/

/-- A logged event before it has a sequence number (R269): `flags` holds the lane in [4:0], [5] a
failed compare and [6] a timeout. -/
structure GEvent where
  typ : Nat
  flags : Nat
  issuer : Nat
  line : Nat
  version : Nat
  payload : Nat
  deriving DecidableEq, Repr, Inhabited

/-- An event that is kept until the records that it follows are in the ring (R274): the line whose version it observes, the
operation whose record it is, if any, and the operations in flight whose records it follows. -/
structure LateRec where
  ev : GEvent
  line : Option Nat
  own : Option Nat
  olds : List Nat
  deriving DecidableEq, Repr, Inhabited

/-- A record of an error report (R385). -/
structure Report where
  code : Nat
  die : Nat
  queue : Nat
  rptr : Nat
  lchid : Nat
  d0 : Nat
  d1 : Nat
  deriving DecidableEq, Repr, Inhabited

/-- What a headstock is still to write in a context's memory, in order: bytes at an address, or a record of a queue's
error report. It waits for a translation (R352). -/
inductive HeadWork where
  | bytes (die pasid addr : Nat) (bs : List Byte)
  | report (die pasid : Nat) (r : Report)
  deriving DecidableEq, Repr

/-- Hardware loop state of a path (R79, R82). -/
structure LoopSt where
  loopc : BitVec 32
  loops : BitVec 57
  loope : BitVec 57
  loopp : BitVec 3
  deriving DecidableEq, Repr, Inhabited

/-- The trap frame of a path-table index (R399). -/
structure Frame where
  cause : BitVec 8
  path : BitVec 3
  ncause : BitVec 8
  imp : Bool
  inH : Bool
  nested : Bool
  stop : Bool
  pend : Bool
  held : BitVec 9
  skid : BitVec 16
  fpc : BitVec 64
  rpc : BitVec 64
  faddr : BitVec 64
  lmask : Mask
  pmask : Mask
  loopc : BitVec 32
  info : BitVec 32
  loops : BitVec 64
  loope : BitVec 64
  npc : BitVec 64
  ctrs : BitVec 36
  loopp : BitVec 3
  dcur : BitVec 64
  exprec : BitVec 256
  fndrec : BitVec 256
  deriving DecidableEq, Repr, Inhabited

/-- What a waiting path waits for (R251, R257, R260, R323). -/
inductive WaitKind where
  | word (ne : Bool) (cmp : BitVec 64) (wide : Bool)   -- waitw (ne) or waitf
  | sem (n : Nat) (need : Nat)
  | bar (sp : Space) (phase : BitVec 32) (token : Bool)  -- `token`: barwt
  | arriving (sp : Space) (token : Bool)  -- until its group arrives; `token`: bararv
  | task                    -- a task of the pool whose HEAD is at the wait's address
  | accept (desc seq : Nat) -- until the dependence table accepts a descriptor, as a number; its order of reaching the headstock (R320)
  | promote                 -- until the promotion that `promote` asked for ends (R307)
  | op (id : Nat)           -- in replay: a logged operation that the path holds for (R278)
  deriving DecidableEq, Repr, Inhabited

/-- A wait in progress: its operands as read when it issued. -/
structure Wait where
  kind : WaitKind
  addr : Nat                -- virtual address of the word, the object or the pool's HEAD
  dst : Operand
  act : Mask
  scope : BitVec 3
  sk : Bool
  deadline : Option Nat     -- CLK at which it times out
  timeout : Nat             -- T
  checked : Bool            -- R295
  hdr : Hdr                 -- the stall and yield of the instruction
  spot : Option (Nat × Bool)  -- parked: the line that it read last, and whether its page is sync-capable (R301)
  met : Bool                -- in replay: the line's version has been its record's (R278)
  deriving DecidableEq, Repr, Inhabited

/-- What a path is doing between instructions (R20, R95, R305, R329). -/
inductive PStat where
  | run
  | arrived (region : Nat)
  | sleeping (deadline : Nat)
  | parked
  | promoting
  | accepting               -- a `tasknew` held until the table accepts it (R322)
  | replayHold
  deriving DecidableEq, Repr, Inhabited

/-- A path-table entry (R20, R82) with its trap frame and its debugger state. -/
structure Path where
  live : Bool
  pc : Addr
  mask : Mask
  slices : BitVec 8
  lp : LoopSt
  earliest : Nat            -- earliest clk of the next issue (R45)
  stat : PStat
  wait : Option Wait
  frame : Frame
  issued : Nat              -- instructions issued, for SKID (R402)
  last : Nat                -- clk of the latest issue, plus 1 (R340)
  exempt : Bool             -- no comparator matches the next issue (R425)
  stepping : Bool           -- one instruction, then SINGLE_STEP (R424)
  haltPend : Bool           -- a debug halt is pending (R408, R423)
  pendAt : Nat              -- clk in which a trap with PEND last stopped the path, plus 1 (R405)
  reason : BitVec 5         -- stall reason last shown (R340)
  holdSince : Option Nat    -- running clk at which a replay hold began (R279)
  redo : Option (Addr × Mask) -- the lanes of an instruction that a replay fault stopped after their events (R279)
  view : View               -- what the path's accesses so far have written and read (R224)
  heard : List Msg          -- releases that its relaxed reads returned, for a later acquire fence (R223)
  fences : List RelFence    -- its release fences (R223)
  deriving DecidableEq, Repr, Inhabited

/-- A deferral entry (R82). -/
structure Deferral where
  owner : Nat
  pc : Addr
  mask : Mask
  region : Option Nat
  lp : LoopSt
  deriving DecidableEq, Repr, Inhabited

/-- An open join region (R82): index in the 16-entry table, join PC, lane set and opener record. `came` holds the
lanes that arrived before a deferral entry of their path ran (R22). -/
structure Region where
  ix : Nat
  pc : Addr
  lanes : Mask
  came : Mask
  opener : Option Nat
  deriving DecidableEq, Repr, Inhabited

/-- One element of a memory operation: its lane, address, the nibble of a CB4 element, the values that
it stores, compares or adds, and in replay its record's number and the line version at which it is performed (R278). In a load,
`val2` 1 marks an element outside its tensor, which reads zero (R213); in an `add`, that the operand is
the exact integer in `val` (R43). Scratchpad addresses are 2^20 · role + offset, and OBJ addresses
2^40 · identity + offset. -/
structure Elem where
  lane : Nat
  addr : Nat
  nib : Option Bool
  val : BitVec 64
  val2 : BitVec 64
  ver : Option (Nat × Nat)
  deriving DecidableEq, Repr, Inhabited

/-- A byte that an engine has read ahead of its operation's completion (R162, R180): its address, its
value, and whether its line was poisoned. -/
structure EarlyByte where
  addr : Nat
  val : Byte
  bad : Bool
  deriving DecidableEq, Repr, Inhabited

/-- A matrix operand: register words as read at issue, word k of lane l at 32·k + l, or a scratchpad
descriptor with the bytes read so far (R160, R162). -/
inductive MatSrc where
  | regs (words : List (BitVec 32))
  | desc (role ofs rpitch tpitch rot : Nat) (got : List EarlyByte)
  deriving DecidableEq, Repr, Inhabited

/-- A matrix operation in flight (R167). -/
inductive MatOp where
  | cbld (slot : Nat) (src : MatSrc)
  | mma (t : Nat) (steps : Nat) (a b : MatSrc) (mt : List (BitVec 32)) (af bf : BitVec 4)
      (sp24 zero : Bool) (sa sb : Nat)
  | tzero (t : Nat)
  | get (t v : Nat) (act : Mask) (landed : List Nat)  -- elements 32·i + j written so far
  | put (t : Nat) (act : Mask) (words : List (BitVec 32))
  | tsacc (t ts : Nat) (rows cols : List (BitVec 32))
  | drain (t p : Nat) (args : List (BitVec 32)) (rm : BitVec 3) (restart : Addr)
  | drainld (p n : Nat) (addr : Nat) (got : List EarlyByte)
  | none
  deriving DecidableEq, Repr, Inhabited

/-- A tensor shape record (R211). -/
structure Tsr where
  base : Nat
  space : BitVec 2
  fmt : BitVec 4
  ndim : Nat
  clip : Nat
  rot : Nat
  ext : List Nat
  str : List Nat
  deriving DecidableEq, Repr, Inhabited

/-- A copy request (R261) with the two TSRs as read at issue. -/
structure CopyReq where
  src : Tsr
  dst : Tsr
  ndim : Nat
  mode : Nat
  scope : BitVec 3
  sk : Bool
  barobj : Nat
  sigaddr : Nat
  sigval : BitVec 64
  box : List Nat
  sorg : List Int
  dorg : List Int
  deriving DecidableEq, Repr

/-- What an operation in flight does when it is performed (R50). -/
inductive OpKind where
  | load (sp : Space) (dst : Operand) (mf rf : BitVec 4) (rnd : BitVec 3) (sat : Bool)
      (probe : Option (BitVec 3)) (acq : Bool)
  | store (sp : Space) (mf : BitVec 4) (tag fill : Bool)
  | atomic (op : AtomOp) (mf : BitVec 4) (dst : Option Operand)
  | cas (mf : BitVec 4) (dst : Operand)
  | probe (p : BitVec 3)
  | sem (n : Nat) (amount : BitVec 32) (dst : Operand)
  | peer (arrive : List (Nat × Nat))       -- arrival clk of each lane's row (R218)
  | matrix (m : MatOp)
  | copy (r : CopyReq) (performed : List Nat)  -- box elements performed or dropped
  | tasksync (pool upto : Nat)
  | taskrec (pool id : Nat)
  deriving DecidableEq, Repr

/-- An operation in flight of a group (R50), in issue order. `todo` holds the elements not yet
performed; `deps` the operations that are performed first (R204, R222, R225). -/
structure Op where
  id : Nat
  ctr : Ctr
  path : Nat                -- 8 once its path has ended
  issuer : Nat              -- its ISSUER in the grain ring, as at its issue (R270)
  past : BitVec 8           -- the paths whose program order it precedes (R221)
  pc : Addr
  issuedAt : Nat            -- the path's count of issued instructions at issue
  act : Mask
  todo : List Elem
  done : Bool
  deps : List Nat
  olds : List Nat           -- accesses of its path issued before it (R204)
  rel : BitVec 8            -- the paths whose later stores and atomics follow it: a release fence (R247)
  full : BitVec 8           -- the paths whose later accesses all follow it: a join (R24)
  view : View               -- what precedes it in its path's program order (R224)
  own : View                -- what it has itself written and read
  fences : List RelFence    -- the release fences before it (R223)
  bad : List (Nat × Cause × Nat)  -- lanes that met a fault, with their addresses
  ev : BitVec 8             -- conversion events so far, ORed into ASTAT at completion (R113)
  scope : BitVec 3
  sk : Bool
  ord : BitVec 3
  kind : OpKind
  started : Bool
  ahead : Bool              -- an `ldt` or `stt`, whose pages may be translated ahead (R360)
  since : Nat               -- the stamp of the latest write when it was issued: what its engine may still read (R189, R232)
  stale : Bool              -- its group has gone back to its restart label since it was issued (R432)
  deriving DecidableEq, Repr

/-- A fault that is raised or held and has not entered a path (R403). -/
structure HeldFault where
  op : Nat
  path : Nat
  cause : Cause
  fpc : Addr
  faddr : BitVec 64
  lmask : Mask
  issuedAt : Nat
  deriving DecidableEq, Repr, Inhabited

/-- A fixed-latency write that the scoreboard tracks (R49): the path, the register by its specifier,
the clk at which it finishes, and the lanes' values before it. -/
structure SbEntry where
  path : Nat
  reg : Operand
  done : Nat
  old : List (BitVec 32)
  deriving DecidableEq, Repr

/-- A drain that a fault stopped (R190, R413): the saved tile and what `rte` needs. -/
structure StoppedDrain where
  op : Nat
  path : Nat
  tile : List (BitVec 32)
  t : Nat
  p : Nat
  row : Nat
  args : List (BitVec 32)
  rm : BitVec 3
  kind : BitVec 8
  ni : Bool
  flags : BitVec 8          -- events so far
  resumed : Bool
  deriving DecidableEq, Repr

/-- The recorded arrivals of a participant, a group or a half of one, at one barrier object (R253,
R256). -/
structure BarArrival where
  half : Nat
  sp : Space
  addr : Nat
  paths : List Nat
  deriving DecidableEq, Repr

/-- Special-register state of a group that is not per path (R79), and its small group state. -/
structure GroupRegs where
  emask : Mask
  astat : BitVec 32
  astatWas : BitVec 32      -- ASTAT before the clk of the latest explicit write to it (R114)
  astatClk : Nat            -- that clk plus 1, or 0
  due : List (Nat × BitVec 8) -- flags, ASTAT [7:0], that are ORed in at the end of a clk (R114)
  restart : Addr
  trapvec : BitVec 64
  xp : BitVec 2
  stage : BitVec 4
  pendStage : Option (BitVec 4)
  pendClk : Nat             -- clk of the governor's assignment that is pending, plus 1 (R328)
  tron : Bool
  deriving DecidableEq, Repr, Inhabited

/-- One group (R18): its place in the hierarchy, its register files, its paths, its operations in
flight and its matrix state. `place` is none while the group is pre-empted. -/
structure Group where
  gid : Nat
  die : Nat
  lchid : Nat
  block : Nat
  grpid : Nat
  role : Nat
  pasid : Nat
  image : Nat               -- group image slot (R411)
  place : Option Place
  reserved : Option Place   -- the record that a placed-again group is to resume in
  last : Option Place       -- the record that it last held
  byPromo : Bool            -- a promotion placed it (R32)
  dispatched : Nat          -- clk of the latest placement (R327)
  age : Nat                 -- place in its partition's age order (R332)
  ended : Bool
  v : Sparse Word           -- V(n) of lane l at 32·n + l
  s : Sparse Word
  q : Sparse Word
  x : Sparse Word
  p : Sparse Mask           -- P0 to P6
  regs : GroupRegs
  paths : List Path         -- the eight entries of the path table
  deferrals : List Deferral
  regions : List Region     -- open regions, newest first
  held : Mask               -- lanes held at open regions (R84)
  exited : Mask             -- lanes that have exited or been dropped
  ops : List Op
  faults : List HeldFault   -- raised and held faults, in issue order of their operations
  sb : List SbEntry
  lines : List (Nat × Nat)  -- register lines that it has used, each with its latest use; those outside its footprint are in the cache (R35)
  absent : List Nat         -- lines of its footprint that have been replaced (R36)
  dirty : List Nat          -- lines written since they were last in the image (R35)
  used : Nat                -- its latest use of the cache
  missing : Option Nat      -- the register line that the group stalls for
  issues : Nat              -- instructions issued by its paths
  issuedClk : Nat           -- clk of the latest issue of a path, plus 1 (R339)
  issuedPaths : BitVec 8    -- the paths that issued in that clk
  views : List View         -- by counter: what its completed operations wrote and read, the latest 63 apart (R233)
  recent : List (Nat × Nat × View) -- the latest completed operations: counter, identity, what they wrote and read (R51, R233)
  lateS : List (Operand × Nat × Nat) -- uniform registers written at a completion: the clk plus 1, and the path (R77)
  tiles : Sparse Word       -- T(t), element (i, j) at 1024·t + 32·i + j
  slots : Sparse (BitVec 16) -- entry k of cbN at 16·N + k
  drains : Sparse Word      -- word k of program slot p at 64·p + k
  stopped : Option StoppedDrain
  arrival : List BarArrival
  task : Option (Nat × Nat) -- the task held: pool and identity
  stopReq : Bool            -- a stop request has reached the group (R418)
  restarts : Bool           -- its tiles were discarded: it resumes at RESTART (R175, R176)
  flushed : Bool            -- the image holds its state for a debugger to change (R421, R422)
  poisonLines : List Nat    -- poisoned register lines: vector line k, scalar line 512 + k (R409)
  poisonTiles : List Nat
  deriving DecidableEq, Repr

/-- A kernel header's fields (R62). -/
structure KHeader where
  compat : Bool
  recomputable : Bool
  staged : Bool
  taskworker : Bool
  nolog : Bool
  cls : BitVec 2
  lattab : Nat
  vregs : Nat
  sregs : Nat
  scratch : Nat
  tiles : Nat
  drains : Nat
  roles : Nat
  sbreq : BitVec 2
  groups : Nat
  entry : Nat
  draintime : Nat
  deriving DecidableEq, Repr, Inhabited

/-- A launch (R29, R310). -/
structure Launch where
  lchid : Nat
  die : Nat
  pasid : Nat
  queue : Nat               -- queue of the root's LAUNCH command
  cmd : Nat                 -- command count of the root's LAUNCH command
  parent : Option Nat
  order : Nat               -- order of creation
  cls : BitVec 2
  hdr : KHeader
  hdrAddr : Nat
  sbmode : BitVec 2         -- effective scoreboard mode (R48)
  grid : Nat × Nat × Nat
  args : List Word
  n : Nat                   -- spawn-tree counter
  total : Nat               -- blocks
  next : Nat                -- index of the first block that has not started
  unchecked : Bool          -- a child whose header check is due (R313)
  count : Option (Nat × Nat)  -- `spawnx`: count address and cap, until read (R314)
  saw : View                -- `spawnx`: what its path has written and read, for the count's read (R314)
  lastGroups : Option Nat   -- groups of the last block of a `spawnx` child
  semBase : Nat
  semCnt : Nat
  stages : Nat              -- stage table address, 0 for none
  rname : Nat               -- in replay: the LCHID by which the records name it, 0 while none has (R277)
  deriving DecidableEq, Repr, Inhabited

/-- Where a started block stands: in records, in records and being evicted, out with its context, or evicted (R293, R417). -/
inductive BlockStat where
  | resident | evicting | out | evicted
  deriving DecidableEq, Repr, Inhabited

/-- A role's scratchpad allocation (R34): the core, the base unit, and its bytes. -/
structure Alloc where
  role : Nat
  core : Nat
  base : Nat
  bytes : Sparse Byte
  poison : Sparse (BitVec 128)
  saved : Option Nat        -- scratchpad save slot while the block is out (R417)
  freed : Bool
  deriving DecidableEq, Repr, Inhabited

/-- A block that has started and not ended. Blocks that have not started are those from `next` on of their
launch (R309). -/
structure Block where
  die : Nat
  lchid : Nat
  ix : Nat
  stat : BlockStat
  ordinal : Nat             -- order of its dispatch on the die
  gone : List Nat           -- groups whose records are freed
  allocs : List Alloc
  deriving DecidableEq, Repr, Inhabited

/-- A progress tag (R296). For a line, `vpn` is the virtual page through which `syncinit` reached it, until which is unmapped
the tag lasts (R250). -/
structure Tag where
  ctx : Nat
  die : Nat
  cls : BitVec 2
  lch : Nat
  vpn : Nat := 0
  deriving DecidableEq, Repr, Inhabited

/-- What a rest-table entry is keyed by (R305). -/
inductive RestKey where
  | line (phys : Nat)
  | sem (n : Nat)
  deriving DecidableEq, Repr, Inhabited

/-- A rest-table entry (R305). -/
structure RestEntry where
  die : Nat
  who : Who
  key : RestKey
  woken : Bool
  overflow : Bool           -- on the context's overflow list
  deriving DecidableEq, Repr, Inhabited

/-- A TLB entry (R360): which TLB of which core, its tag, and the leaf it caches. -/
structure TlbEntry where
  die : Nat
  core : Nat
  tlb : Nat                 -- 0 instruction, 1 per-lane, 2 walk-ahead
  pasid : Nat
  gen : Nat
  vpn : Nat                 -- first virtual page, 4 KiB units
  pages : Nat               -- pages covered
  ppn : Nat                 -- physical page of `vpn`
  attr : BitVec 9           -- PTE bits [62:54]
  r : Bool
  w : Bool
  x : Bool
  dirty : Bool
  since : Nat               -- stamp of the write that made the mapping (log entry 51)
  deriving DecidableEq, Repr, Inhabited

/-- A fetched code packet (R38): 16 bytes at 16·`packet` of a context. -/
structure Packet where
  die : Nat
  core : Nat
  pasid : Nat
  gen : Nat
  packet : Nat
  bytes : List Byte
  deriving DecidableEq, Repr, Inhabited

/-- A store or reduction of a drain that is translated and not yet performed (R189, R193). `unit` is 0
for module memory, 1 for memory behind the PCIe window, 2 for another module's, 3 for a scratchpad. -/
structure RowAccess where
  row : Nat
  col : Nat
  red : Bool
  mf : BitVec 4
  unit : Nat
  addr : Nat
  val : BitVec 64
  deriving DecidableEq, Repr, Inhabited

/-- The drain engine of a partition (R188): the drain it runs, the row, the word to run next, the
working registers d0 to d7 of the 32 elements at 8·j + k, and what the row has gathered. -/
structure Engine where
  gid : Nat
  op : Nat
  t : Nat
  p : Nat
  row : Nat
  dpc : Nat
  active : Bool             -- a row is being run
  d : Sparse Word
  args : List Word
  rm : BitVec 3
  tile : List Word          -- elements as the drain reads them
  acc : List RowAccess      -- accesses not yet performed, oldest first
  flags : BitVec 8          -- events so far, laid out as ASTAT [7:0]
  ni : Bool
  finished : Bool           -- all rows are done
  deriving DecidableEq, Repr, Inhabited

/-- A placement that a promotion has planned (R300). -/
structure Seat where
  die : Nat
  lchid : Nat
  block : Nat
  grp : Nat
  place : Place
  deriving DecidableEq, Repr, Inhabited

/-- A promotion request at a die's headstock (R303): the waiting path, the target launch and its die, the
class, and once planned the placements, and the blocks to be evicted as die, LCHID and block (R302). -/
structure PromoReq where
  who : Who
  target : Nat
  tdie : Nat
  cls : BitVec 2
  clk : Nat                 -- CLK of the waiter's die when it asked
  plan : Option (List Seat × List (Nat × Nat × Nat))
  evs : List Nat            -- evicted groups whose EVICT records have been written (R276)
  deriving DecidableEq, Repr, Inhabited

/-- Where a version of a range lives (R318): at its own address, or in the buffer whose first granule has
this ring count. -/
inductive Loc where
  | home
  | buf (start : Nat)
  deriving DecidableEq, Repr, Inhabited

/-- A granule range (R317): base granule and length, 0 where unused. -/
structure GRange where
  base : Nat
  len : Nat
  deriving DecidableEq, Repr, Inhabited

/-- A task in flight (R317, R320): its descriptor, the locations its ranges resolved to, the identities of
the tasks it is held for, and the buffers that must be copied home first (R318). -/
structure Task where
  id : Nat
  slot : Nat
  entry : Nat
  args : List Word
  rd : List GRange
  wr : List GRange
  rdLoc : List Loc
  wrLoc : List Loc
  hold : List Nat
  holdHome : List Nat       -- buffers, by ring count
  taken : Bool
  recorded : Bool           -- its record has been written (R322)
  view : View               -- what happens before it: the work of the tasks that it was held for (R237)
  deriving DecidableEq, Repr, Inhabited

/-- A renamed version (R318, R319), known by the ring count of its first granule. -/
structure Version where
  writer : Nat
  range : GRange
  start : Nat
  freed : Bool
  deriving DecidableEq, Repr, Inhabited

/-- The headstock's state of a task pool (R316). -/
structure Pool where
  pasid : Nat
  addr : Nat
  die : Option Nat          -- the die whose group first posted to it
  tbase : Nat
  tcount : Nat
  rbase : Nat
  rgran : Nat
  nextid : Nat
  done : Nat
  closed : Nat
  rhead : Nat
  rtail : Nat
  tasks : List Task
  versions : List Version   -- in the order of their buffers
  waiters : List Who        -- waiting `taskget`s in the order they parked
  seen : View               -- what the tasks that are done have written and read (R237)
  deriving DecidableEq, Repr, Inhabited

/-- A command of a queue that has started and not completed (R378). -/
structure PendCmd where
  ix : Nat
  cmd : Instr
  lchid : Nat               -- the launch of a LAUNCH command
  moved : Sparse Bool       -- bytes that a COPY command has copied
  deriving DecidableEq, Repr

/-- A queue as the headstock serves it (R375): commands read and not started, and commands started. -/
structure Queue where
  ref : QRef
  die : Nat
  waiting : List Instr
  bad : Option (Nat × Nat)  -- OP and byte offset of a malformed command behind them (R376)
  started : List PendCmd
  view : View               -- what its commands have written and read, for the accesses of later ones (R375, R378)
  deriving DecidableEq, Repr

/-- An ATS request of a context, or the page that an answer is for (R352): the TLB that asked. -/
structure AtsPage where
  die : Nat
  core : Nat
  tlb : Nat
  vpn : Nat
  deriving DecidableEq, Repr, Inhabited

/-- What the headstock holds of a context (R352, R372, R411, R412). -/
structure Ctx where
  pasid : Nat
  ext : Bool                -- external translation (R352)
  priv : Bool
  gen : Nat
  root : Nat
  attr : BitVec 9           -- PTE bits [62:54] of every page of an external context
  image : Nat
  offObjs : List Nat        -- objects that an engine has found faulty and stopped using (R368)
  drainmem : Nat
  drainw : Nat
  on : List Nat             -- dies on which it is switched in
  dvec : BitVec 64
  draint : Nat
  slice : Nat
  sliceAt : Sparse Nat      -- running clk at which the current slice began, by die
  sliceLen : Sparse Nat     -- length of the current slice, by die (R418)
  deferred : Sparse Nat     -- slice clk + 1 of a deferred expiry, by die (R405)
  scrofs : Nat
  scrmax : Nat
  trsel : Nat
  lost : Nat                -- trace records dropped since the last LOST (R427)
  headStop : List Nat       -- dies on which a replay stopped dispatching (R279)
  attach : Bool
  bpc : List (BitVec 64)
  grain : Nat               -- grain-ring object, 0 none
  shav : Nat                -- shavings-ring object, 0 none
  mode : BitVec 2           -- ring mode in effect (R268)
  taken : List Nat          -- replay: record numbers taken and above TAIL
  late : List LateRec       -- recording: events not yet in the ring (R274)
  names : List (Nat × Nat)  -- replay: die and recorded LCHID of the launches that records have named (R277)
  ords : Sparse Nat         -- events of a type on a die since recording began: 256·die + type
  stopping : List Nat       -- dies on which it is being switched out
  switching : Option (Nat × Nat) -- die and SEQ of a SWITCH request that has not been acknowledged (R421)
  runClk : Sparse Nat       -- running clk of the context, by die (R294)
  atsAsk : List AtsPage     -- ATS requests not yet answered (R352)
  ats : List (AtsPage × Option TlbEntry) -- ATS answers not yet used (R352)
  teardown : Bool
  deriving DecidableEq, Repr

/-- Gating of a die's headstock (R382). -/
inductive Gating where
  | running | clockGated | powerGated
  deriving DecidableEq, Repr, Inhabited

/-- One die: its clock, counters, headstock and host-side registers (R386). -/
structure Die where
  clk : Nat
  issueClk : Nat            -- clk of the latest issue on the die, plus 1
  issueKey : Nat            -- its core, partition, slot and path, as one number
  freq : Nat
  fceil : Nat
  lchNext : Nat
  gating : Gating
  pendBuf : List Nat
  bitmap : Sparse Bool
  pgreqs : List (Nat × Nat)
  promo : List PromoReq
  dispatches : Nat
  shvctl : BitVec 32
  shvPos : Sparse Nat       -- sampler rotation: next slot, and next path, of a partition
  sdaddr : BitVec 64
  sdctl : BitVec 64
  tdctl : BitVec 64
  ecnt : BitVec 64
  kdrop : BitVec 64
  qtbase : BitVec 64
  apertures : Sparse (BitVec 32)
  deriving DecidableEq, Repr, Inhabited

/-- The module's boot state and module-wide registers (R387 to R396). -/
structure Module where
  ready : BitVec 64
  readyf : BitVec 64
  otbase : BitVec 64
  otlen : Nat
  melog : BitVec 64
  scopeTable : Sparse Byte  -- distance of a module; an unlisted one reads 0xFF (R395)
  nor : List (Nat × List Byte)
  fuse0 : BitVec 256
  fuse1 : Option (BitVec 256)
  ownerOnly : Bool
  svn : Nat
  mrs : List (BitVec 256)
  hcptex : BitVec 64        -- HCPTEX of the host complex's harts, which the boot loader sets alike (R355)
  quotes : List (List (BitVec 256) × BitVec 512) -- quotes answered, newest first: MR0 to MR7 and the signature
  hostReads : List (BitVec 64) -- what host-side reads of memory returned, newest first
  outer : Sparse View       -- what a requester outside the dies has written and learnt, by its number (R220, R239)
  deriving DecidableEq, Repr, Inhabited

/-- The whole machine. `agenda`, `tick`, `cur` and `eng` are the model's own fields (log entries 1,
2 and 7): the choices already made for the coming steps, the counter of free values, and the path or
drain engine whose instruction is being run. -/
structure State where
  agenda : List Choice
  tick : Nat
  cur : Who
  eng : EngRef
  nextId : Nat              -- identities of groups and operations
  nextPlace : Nat           -- order of placements
  dies : List Die
  rtime : Nat
  headDue : List HeadWork   -- what headstocks are still to write (R352)
  mem : Sparse Byte         -- module memory, physical
  hostMem : Sparse Byte     -- memory behind the PCIe outbound window (R394)
  remoteMem : Sparse Byte   -- memory of other modules, module identity in bits [55:48]
  stamp : Nat               -- writes performed: the model's own count (R226)
  hist : Sparse (List (Nat × Byte)) -- what each byte of any memory held, newest first, by the stamp of the write (R226)
  msgs : List (Nat × List Msg) -- what the release writes of a stamp hand on (R223, R229)
  objMsgs : List (Nat × List Msg) -- what a barrier object's or a semaphore's releases hand on (R258, R260)
  sc : List Msg             -- the sequentially consistent operations performed so far (R228)
  poison : Sparse (BitVec 128) -- poisoned 64-byte lines: the halves of bytes not stored since (R409)
  tags : Sparse (Option Tag)
  vers : Sparse Nat         -- grain-ring version of a line (R273)
  place : Sparse Nat        -- placement map: die + 1 of a page (R362)
  moving : List (Nat × Nat) -- pages that are being moved, with the die that each moves to (R363)
  sems : Sparse Word        -- word n of die d at 256·d + n
  semTags : Sparse (Option Tag)
  groups : List Group
  launches : List Launch
  blocks : List Block
  ctxs : List Ctx
  queues : List Queue
  rest : List RestEntry
  tlb : List TlbEntry
  packets : List Packet
  engines : List (EngRef × Engine)
  pools : List Pool
  module : Module
  deriving DecidableEq, Repr

/-! ### Reset -/

/-- Loop state at the reset of R79. -/
def LoopSt.reset : LoopSt := { loopc := 0, loops := 0, loope := 0, loopp := 7 }

/-- The frame when a group starts (R399). -/
def Frame.reset : Frame :=
  { cause := 0, path := 0, ncause := 0, imp := false, inH := false, nested := false, stop := false,
    pend := false, held := 0, skid := 0, fpc := 0, rpc := 0, faddr := 0, lmask := 0, pmask := 0,
    loopc := 0, info := 0, loops := 0, loope := 0, npc := 0, ctrs := 0, loopp := 7, dcur := 0,
    exprec := 0, fndrec := 0 }

/-- A free path-table entry (R20). -/
def Path.free : Path :=
  { live := false, pc := 0, mask := 0, slices := 0, lp := LoopSt.reset, earliest := 0, stat := .run,
    wait := none, frame := Frame.reset, issued := 0, last := 0, exempt := false, stepping := false,
    haltPend := false, pendAt := 0, reason := 0, holdSince := none, redo := none, view := [], heard := [], fences := [] }

/-- The group's registers when it starts (R79, R111, R47, R31). -/
def GroupRegs.reset : GroupRegs :=
  { emask := 0xFFFFFFFF, astat := 0, astatWas := 0, astatClk := 0, due := [], restart := 0, trapvec := 0, xp := 0, stage := 0,
    pendStage := none, pendClk := 0, tron := false }

/-- A die after its reset (R310, R337, R341, R364, R383, R386, R396). -/
def Die.reset : Die :=
  { clk := 0, issueClk := 0, issueKey := 0, freq := 27, fceil := 27, lchNext := 1, gating := .running, pendBuf := [], bitmap := [],
    pgreqs := [], promo := [], dispatches := 0, shvctl := 0, shvPos := [], sdaddr := 0, sdctl := 0,
    tdctl := 0, ecnt := 0, kdrop := 0, qtbase := 0, apertures := [] }

/-- The module after power-up and before its first boot step (R391, R392). -/
def Module.reset : Module :=
  { ready := 0, readyf := 0, otbase := 0, otlen := 0, melog := 0, scopeTable := [], nor := [],
    fuse0 := 0, fuse1 := none, ownerOnly := false, svn := 0,
    mrs := [0, 0, 0, 0, 0, 0, 0, 0], hcptex := 0, quotes := [], hostReads := [], outer := [] }

/-- The machine right after reset: four dies at their reset values, no group, launch, queue or
context, and memory with nothing listed. -/
def State.reset : State :=
  { agenda := [], tick := 0, cur := { gid := 0, path := 0 }, eng := { die := 0, core := 0, part := 0 },
    nextId := 1, nextPlace := 1,
    dies := [Die.reset, Die.reset, Die.reset, Die.reset], rtime := 0, headDue := [],
    mem := [], hostMem := [], remoteMem := [], stamp := 0, hist := [], msgs := [], objMsgs := [], sc := [],
    poison := [], tags := [], vers := [], place := [], moving := [],
    sems := [], semTags := [], groups := [], launches := [], blocks := [], ctxs := [], queues := [],
    rest := [], tlb := [], packets := [], engines := [], pools := [], module := Module.reset }

end Sys2Proof.Machine
end

