-- ==== Sys2Proof/Machine/Bits.lean ====
section
/-! DEFINITION. Bit-field, lane-mask, byte-order and list helpers that the rest of the machine uses
(R11, R13). -/

namespace Sys2Proof.Machine

/-- The bits [hi:lo] of a number (R13). -/
def nbits (x hi lo : Nat) : Nat := (x >>> lo) % 2 ^ (hi + 1 - lo)

/-- Bit `i` of a number. -/
def nbit (x i : Nat) : Bool := x.testBit i

/-- The lanes of a group (R16). -/
def lanes : List Nat :=
  [0, 1, 2, 3, 4, 5, 6, 7, 8, 9, 10, 11, 12, 13, 14, 15, 16, 17, 18, 19, 20, 21, 22, 23, 24, 25, 26,
    27, 28, 29, 30, 31]

/-- The mask of one lane. -/
def laneBit (l : Nat) : Mask := (1 : Mask) <<< l

/-- The mask of the lanes for which `f` holds. -/
def maskOf (f : Nat → Bool) : Mask :=
  lanes.foldl (fun m l => if f l then m ||| laneBit l else m) 0

/-- The lanes of a mask, lowest first. -/
def lanesOf (m : Mask) : List Nat := lanes.filter (fun l => m.getLsbD l)

/-- The lowest lane of a mask, or 0 for an empty one (R77). -/
def lowest (m : Mask) : Nat := (lanesOf m).headD 0

/-- The lanes 4s to 4s+3 of the slices in a set (R16). -/
def sliceLanes (sl : BitVec 8) : Mask := maskOf (fun l => sl.getLsbD (l / 4))

/-- The slices that hold a lane of a mask (R16). -/
def slicesOf (m : Mask) : BitVec 8 :=
  [0, 1, 2, 3, 4, 5, 6, 7].foldl
    (fun (a : BitVec 8) k => if m &&& ((0xF : Mask) <<< (4 * k)) = 0 then a else a ||| ((1 : BitVec 8) <<< k)) 0

/-- Little-endian bytes of a number (R11). -/
def leBytes : Nat → Nat → List Byte
  | 0, _ => []
  | n + 1, x => BitVec.ofNat 8 x :: leBytes n (x / 256)

/-- The number that little-endian bytes hold (R11). -/
def ofLe : List Byte → Nat
  | [] => 0
  | b :: r => b.toNat + 256 * ofLe r

/-- A number read as two's complement of width `w` (R100). -/
def toSigned (w x : Nat) : Int := if x < 2 ^ (w - 1) then (x : Int) else (x : Int) - (2 ^ w : Nat)

/-- A number modulo 2^w. -/
def wrapN (w : Nat) (y : Int) : Nat := (y % (2 ^ w : Nat)).toNat

/-- The list with element `i` replaced. -/
def setAt {α : Type} : List α → Nat → α → List α
  | [], _, _ => []
  | _ :: r, 0, v => v :: r
  | x :: r, i + 1, v => x :: setAt r i v

/-- The element at `i`, or the default. -/
def getAt {α : Type} (d : α) : List α → Nat → α
  | [], _ => d
  | x :: _, 0 => x
  | _ :: r, i + 1 => getAt d r i

/-- The first element that satisfies `f`. -/
def findBy {α : Type} (f : α → Bool) : List α → Option α
  | [] => none
  | x :: r => if f x then some x else findBy f r

/-- The list with every element that satisfies `f` replaced by its image. -/
def updBy {α : Type} (f : α → Bool) (g : α → α) : List α → List α
  | [] => []
  | x :: r => (if f x then g x else x) :: updBy f g r

/-- `n` copies applied in turn. -/
def iter {α : Type} (f : α → α) : Nat → α → α
  | 0, x => x
  | n + 1, x => iter f n (f x)

/-- Numbers from `lo`, `n` of them, in ascending order. -/
def upFrom : Nat → Nat → List Nat
  | _, 0 => []
  | lo, n + 1 => lo :: upFrom (lo + 1) n

/-- Number of 1 bits below position `n`. -/
def popcount : Nat → Nat → Nat
  | 0, _ => 0
  | n + 1, x => (if x.testBit n then 1 else 0) + popcount n x

/-- The code of a trap cause (R398). -/
def Cause.code : Cause → BitVec 8
  | .illegalOpcode => 0x01
  | .illegalField => 0x02
  | .illegalOperand => 0x03
  | .illegalMma => 0x04
  | .privileged => 0x05
  | .intDivzero => 0x08
  | .intOverflow => 0x09
  | .fpInvalid => 0x0A
  | .fpDivzero => 0x0B
  | .fpOverflow => 0x0C
  | .fpUnderflow => 0x0D
  | .fpInexact => 0x0E
  | .scoreboardUndersized => 0x10
  | .memNotPresent => 0x18
  | .memProtection => 0x19
  | .memAlign => 0x1A
  | .memBounds => 0x1B
  | .fetchFault => 0x1C
  | .poison => 0x1D
  | .progressInversion => 0x20
  | .progressNoroom => 0x21
  | .progressDepth => 0x22
  | .replayDiverge => 0x28
  | .replayGap => 0x29
  | .drainFault => 0x30
  | .breakpoint => 0x38
  | .debugHalt => 0x39
  | .singleStep => 0x3A
  | .userTrap => 0x40

/-- The specifier of an operand (R41). -/
def opSpec : Operand → BitVec 12
  | .v n => (0 : BitVec 2) ++ n
  | .s n => (1 : BitVec 2) ++ n
  | .q n => (0x40 : BitVec 7) ++ n
  | .x n => (0x240 : BitVec 10) ++ n
  | .sr n => (0xA : BitVec 4) ++ n
  | .p n => (0x160 : BitVec 9) ++ n
  | .imm k => (3 : BitVec 2) ++ k

/-- The operand that a specifier names; none where a bit that must be zero is set (R41, R42). -/
def opOfSpec (w : BitVec 12) : Option Operand :=
  let ix := w.extractLsb' 0 10
  match w.extractLsb' 10 2, w.extractLsb' 8 2 with
  | 0, _ => some (.v ix)
  | 1, _ => some (.s ix)
  | 3, _ => some (.imm ix)
  | _, 0 => if w.extractLsb' 5 3 = 0 then some (.q (w.extractLsb' 0 5)) else none
  | _, 1 => if w.extractLsb' 2 6 = 0 then some (.x (w.extractLsb' 0 2)) else none
  | _, 2 => some (.sr (w.extractLsb' 0 8))
  | _, _ => if w.extractLsb' 3 5 = 0 then some (.p (w.extractLsb' 0 3)) else none

end Sys2Proof.Machine
end

