-- ==== Sys2Proof/WellFormed.lean ====
section
/-! DEFINITION. Which instructions are well formed: the checks of steps 2 and 3 of R52 that the word
alone decides, in their order. `check` names the cause of the first check that fails. -/

namespace Sys2Proof

open Machine

/-! ### Special registers and operands (R41, R42, R79) -/

/-- Special register numbers that exist (R79). -/
def srAssigned (n : BitVec 8) : Bool :=
  n.toNat ≤ 0x0B || [0x10, 0x11, 0x18, 0x19, 0x20, 0x21, 0x22, 0x23, 0x24, 0x30].contains n.toNat

/-- Special registers of 64 bits (R79). -/
def sr64 (n : BitVec 8) : Bool := [0x18, 0x19, 0x20, 0x22, 0x23, 0x30].contains n.toNat

/-- Special registers that a program may write (R79: RW and RWP). -/
def srWritable (n : BitVec 8) : Bool := [0x10, 0x11, 0x21, 0x22, 0x23, 0x24, 0x30].contains n.toNat

/-- The specifier of an operand that an opcode does not use (R42). -/
def unused : Operand := .v 0

/-- A register index that may begin a 64-bit pair (R42). -/
def evenIx {w : Nat} (n : BitVec w) : Bool := n.toNat % 2 == 0

/-- A source of 32 bits, or a pair, in a position that its entry does not restrict (R120, R138). -/
def srcOk (wide : Bool) : Operand → Bool
  | .v n => !wide || evenIx n
  | .s n => !wide || evenIx n
  | .q n => !wide || evenIx n
  | .x n => !wide || evenIx n
  | .sr n => srAssigned n && (!wide || sr64 n)
  | .p _ => !wide
  | .imm _ => true

/-- A destination that its entry does not restrict (R42, R78, R120, R138). -/
def dstOk (wide : Bool) : Operand → Bool
  | .v n => !wide || evenIx n
  | .s n => !wide || evenIx n
  | .q n => !wide || evenIx n
  | .x n => !wide || evenIx n
  | .sr n => srWritable n && (!wide || sr64 n)
  | .p n => !wide && n != 7
  | .imm _ => false

/-- V, S, Q or X, or a pair of one, in a position whose entry refuses every other file (R208). -/
def regOk (wide : Bool) : Operand → Bool
  | .v n => !wide || evenIx n
  | .s n => !wide || evenIx n
  | .q n => !wide || evenIx n
  | .x n => !wide || evenIx n
  | _ => false

/-- A source listed as V, S, Q or X: a special register is read wherever S is permitted (R80). -/
def srcReg (wide : Bool) : Operand → Bool
  | .sr n => srAssigned n && (!wide || sr64 n)
  | o => regOk wide o

/-- A destination listed as V, S, Q or X: a writable special register is written wherever S is
permitted (R81). -/
def dstReg (wide : Bool) : Operand → Bool
  | .sr n => srWritable n && (!wide || sr64 n)
  | o => regOk wide o

/-- A source listed as V, S, Q, X or an immediate. -/
def regImmOk (wide : Bool) : Operand → Bool
  | .imm _ => true
  | o => srcReg wide o

/-- A V or S pair and no other file (R128, whose table names the files of each of its positions). -/
def pairReg : Operand → Bool
  | .v n => evenIx n
  | .s n => evenIx n
  | _ => false

/-- A source listed as a V or S pair (R86, R199, R241): a 64-bit special register is read there too, since the
position permits the S file; R80 does not name the positions (DEDUCED, log entry 74). -/
def pairVS : Operand → Bool
  | .sr n => srAssigned n && sr64 n
  | o => pairReg o

/-- A destination listed as a V or S pair (R86): a writable 64-bit special register is written there too (R81). -/
def pairDst : Operand → Bool
  | .sr n => srWritable n && sr64 n
  | o => pairReg o

/-- An even S register, in a position whose entry names S registers by their index (R152, R214, R311). -/
def pairS : Operand → Bool
  | .s n => evenIx n
  | _ => false

/-- A source listed as an S pair (R249): a 64-bit special register, none of which is per lane, is read there too
(R80). -/
def pairUni : Operand → Bool
  | .sr n => srAssigned n && sr64 n
  | o => pairS o

/-- An S register. -/
def isS : Operand → Bool
  | .s _ => true
  | _ => false

/-- A special register. -/
def isSr : Operand → Bool
  | .sr _ => true
  | _ => false

/-- A special register that is not per lane, and so reads like an S register (R80). -/
def srUniform (wide : Bool) (n : BitVec 8) : Bool := srAssigned n && n.toNat ≥ 2 && (!wide || sr64 n)

/-- A source listed as S or an immediate. A special register that is not per lane is read there
(R80). -/
def sImm (wide : Bool) : Operand → Bool
  | .s n => !wide || evenIx n
  | .imm _ => true
  | .sr n => srUniform wide n
  | _ => false

/-- An S register or an immediate, in a position whose entry refuses every other file (R254, R407). -/
def sImmOnly : Operand → Bool
  | .s _ => true
  | .imm _ => true
  | _ => false

/-- A uniform operand: S, immediate, or a special register that is not per lane (R128, R134, R154). -/
def uniformOk : Operand → Bool := sImm false

/-- A predicate. -/
def isP : Operand → Bool
  | .p _ => true
  | _ => false

/-- A predicate that can be written: P0 to P6. -/
def isP06 : Operand → Bool
  | .p n => n != 7
  | _ => false

/-- V, Q or X. -/
def isVQX : Operand → Bool
  | .v _ => true
  | .q _ => true
  | .x _ => true
  | _ => false

/-- A V register. -/
def isV : Operand → Bool
  | .v _ => true
  | _ => false

/-! ### Shared field checks (R40, R42, R44, R47) -/

/-- How DUP may be used by an instruction: not at all, value 01 only, or 01 and 10 (R47). -/
inductive DupUse where
  | no | one | both
  deriving DecidableEq, Repr

/-- The guard is not the reserved one, and DUP is as R47 permits. -/
def hdrOk (h : Hdr) (u : DupUse) : Bool :=
  !(h.gn && h.gp == 7) &&
  match u with
  | .no => h.dup == 0
  | .one => h.dup.toNat ≤ 1
  | .both => h.dup.toNat ≤ 2

/-- With DUP 10, the C bits name a Q entry and their upper bits are zero (R47). -/
def dupQ : Operand → Bool
  | .v n => n.toNat < 32
  | _ => false

/-- RND 0 to 5 where an entry marks rounding, zero elsewhere (R44). -/
def rndOk (marked : Bool) (r : BitVec 3) : Bool := if marked then r.toNat ≤ 5 else r == 0

/-- SCOPE and SK (R44): ladder 0 to 6, or a hop scope. -/
def scopeOk (scope : BitVec 3) (sk : Bool) : Bool := sk || scope != 7

/-- Formats of 64 bits (R99). -/
def wideFmt (f : BitVec 4) : Bool := f == 3 || f == 7 || f == 8

/-- Integer formats (R99). -/
def intFmt (f : BitVec 4) : Bool := f.toNat ≤ 7

/-- Width in bits of a format (R99). -/
def fmtBits (f : BitVec 4) : Nat :=
  match f.toNat with
  | 0 => 8
  | 1 => 16
  | 2 => 32
  | 3 => 64
  | 4 => 8
  | 5 => 16
  | 6 => 32
  | 7 => 64
  | 8 => 64
  | 9 => 32
  | 10 => 16
  | 11 => 16
  | 12 => 8
  | 13 => 8
  | 14 => 4
  | _ => 0

/-- The cause of the first failing check: fields before operands (R52). -/
def ck (fields operands : Bool) : Option Cause :=
  if !fields then some .illegalField else if !operands then some .illegalOperand else none

/-- The fields of an XF instruction: which of B and C it uses, the codes it allows in DF and SF, its
marked modifiers, its SUB values, and whether its destination is a pair. -/
def xfFields (w : XF) (useB useC : Bool) (df sf : List Nat) (rnd sat : Bool) (sub : Nat → Bool)
    (pair : Bool) : Bool :=
  hdrOk w.h (if pair then .no else if useC then .one else .both) &&
  (useB || w.b == unused) &&
  (useC || (if w.h.dup == 2 then dupQ w.c else w.c == unused)) &&
  df.contains w.df.toNat && sf.contains w.sf.toNat && rndOk rnd w.rnd && (sat || !w.sat) &&
  sub w.sub.toNat

/-- SUB must be zero. -/
def sub0 (n : Nat) : Bool := n == 0

/-- Integer format codes. -/
def ints : List Nat := [0, 1, 2, 3, 4, 5, 6, 7]

/-- I32, I64, N32 and N64. -/
def ints32 : List Nat := [2, 3, 6, 7]

/-- FP64, FP32, FP16 and BF16. -/
def floats : List Nat := [8, 9, 10, 11]

/-- An integer row of R122 with operands A and B read in DF. -/
def ckInt2 (w : XF) (sat : Bool) : Option Cause :=
  let wd := wideFmt w.df
  ck (xfFields w true false ints [0] false sat sub0 wd) (dstOk wd w.d && srcOk wd w.a && srcOk wd w.b)

/-- An integer row of R122 with operand A alone. -/
def ckInt1 (w : XF) : Option Cause :=
  let wd := wideFmt w.df
  ck (xfFields w false false ints [0] false true sub0 wd) (dstOk wd w.d && srcOk wd w.a)

/-- An integer row of R122 with operands A, B and C read in DF. -/
def ckInt3 (w : XF) (sat : Bool) : Option Cause :=
  let wd := wideFmt w.df
  ck (xfFields w true true ints [0] false sat sub0 wd)
    (dstOk wd w.d && srcOk wd w.a && srcOk wd w.b && srcOk wd w.c)

/-- `addc` and `subb`: C is a predicate P0 to P6 (R122). -/
def ckCarry (w : XF) : Option Cause :=
  let wd := wideFmt w.df
  ck (xfFields w true true ints [0] false false sub0 wd)
    (dstOk wd w.d && srcOk wd w.a && srcOk wd w.b && isP06 w.c)

/-- `dp4` and `dp2`: SF names the element, DF is 32 bits of the same kind (R122). -/
def ckDot (w : XF) (i n : Nat) : Option Cause :=
  ck (xfFields w true true [2, 6] [i, n] false true sub0 false &&
      ((w.sf.toNat == i) == (w.df.toNat == 2)))
    (dstOk false w.d && srcOk false w.a && srcOk false w.b && srcOk false w.c)

/-- An XF member of family 0x2 (R125). -/
def ckBits (w : XF) (useC : Bool) (df : List Nat) (sub : Nat → Bool) : Option Cause :=
  ck (xfFields w true useC df [0] false false sub false)
    (dstOk false w.d && srcOk false w.a && srcOk false w.b && (!useC || srcOk false w.c))

/-- A floating row with DF marked (R139, R140, R143 to R145): which sources it has. -/
def ckFp (w : XF) (useB useC : Bool) (df : List Nat) (rnd sat : Bool) : Option Cause :=
  let wd := wideFmt w.df
  ck (xfFields w useB useC df [0] rnd sat sub0 wd)
    (dstOk wd w.d && srcOk wd w.a && (!useB || srcOk wd w.b) && (!useC || srcOk wd w.c))

/-- The fields of an XN instruction: X is zero, and B unused where the entry has none. -/
def xnFields (w : XN) (useD useA useB : Bool) (u : DupUse) : Bool :=
  hdrOk w.h u && (useD || w.d == unused) && (useA || w.a == unused) && (useB || w.b == unused) &&
  w.x == 0

/-- A logic row with two sources (R124). -/
def ckLogic2 (w : XN) : Option Cause :=
  ck (xnFields w true true true .one) (dstOk false w.d && srcOk false w.a && srcOk false w.b)

/-- A logic row with one source (R124). -/
def ckLogic1 (w : XN) : Option Cause :=
  ck (xnFields w true true false .one) (dstOk false w.d && srcOk false w.a)

/-- The fields of an XK instruction. -/
def xkFields (w : XK) (useD useA useB : Bool) (u : DupUse) : Bool :=
  hdrOk w.h u && (useD || w.d == unused) && (useA || w.a == unused) && (useB || w.b == unused)

/-- A constant that is a multiple of 12 as a signed number (R90, R93, R174). -/
def mul12 (k : BitVec 32) : Bool := k.toInt % 12 == 0

/-- An instruction without operands. -/
def ckNone (w : XN) : Option Cause := ck (xnFields w false false false .no) true

/-! ### Memory, atomics and synchronisation -/

/-- MF and RF of a typed load or store (R105, R118). -/
def memFmts (mf rf : BitVec 4) : Bool :=
  rf.toNat ≤ 13 && (mf.toNat ≤ 13 || (mf.toNat == 14 && intFmt rf))

/-- The address operands of a space (R199). -/
def addrOk (sp : Space) (a b : Operand) : Bool :=
  (match sp with
    | .gbl => pairVS a
    | .obj => pairVS a
    | _ => srcReg false a) && regImmOk false b

/-- `ld` of a space (R208). -/
def ckLd (sp : Space) (w : XA) : Option Cause :=
  let scr := sp == .scr || sp == .cls
  ck (hdrOk w.h .no && memFmts w.mf w.rf && rndOk true w.rnd && scopeOk w.scope w.sk &&
      !(scr && w.sk) && w.ord == 0 && (if w.prb then isP06 w.c else w.c == unused))
    (regOk (wideFmt w.rf) w.d && addrOk sp w.a w.b)

/-- `st` of a space (R208). -/
def ckSt (sp : Space) (w : XA) : Option Cause :=
  let scr := sp == .scr || sp == .cls
  ck (hdrOk w.h .no && memFmts w.mf w.rf && rndOk true w.rnd && scopeOk w.scope w.sk &&
      !(scr && w.sk) && w.ord == 0 && !w.prb && w.c == unused)
    (regOk (wideFmt w.rf) w.d && addrOk sp w.a w.b)

/-- `ldt` and `stt` (R214): MF holds NC, and B the first coordinate register. -/
def ckTensor (load : Bool) (w : XA) : Option Cause :=
  let nc := w.mf.toNat
  ck (hdrOk w.h .no && decide (1 ≤ nc) && decide (nc ≤ 7) && w.rf.toNat ≤ 13 && rndOk true w.rnd &&
      scopeOk w.scope w.sk && w.ord == 0 &&
      (if w.prb then load && isP06 w.c else w.c == unused))
    (regOk (wideFmt w.rf) w.d && pairS w.a &&
      match w.b with
      | .v n => n.toNat + nc ≤ 1024
      | _ => false)

/-- `peerst` (R217). -/
def ckPeer (w : XA) : Option Cause :=
  ck (hdrOk w.h .no && w.mf == 6 && w.rf == 6 && w.rnd == 0 && !w.sat && !w.sk && w.scope != 7 &&
      w.ord == 0 && !w.prb && w.c == unused)
    (srcReg false w.d && addrOk .cls w.a w.b)

/-- Formats of an atomic operation (R242). -/
def atomFmts : AtomOp → List Nat
  | .add => [2, 3, 6, 7, 9, 11]
  | .incw => [6, 7]
  | .decw => [6, 7]
  | _ => [2, 3, 6, 7]

/-- `atom` (R241). R241 lists no files for C: every file is taken, predicates and special registers among them (DESIGN
CHOICE, log entry 86). -/
def ckAtom (op : AtomOp) (w : XA) : Option Cause :=
  let wd := wideFmt w.mf
  ck (hdrOk w.h .no && w.mf == w.rf && (atomFmts op).contains w.mf.toNat && w.rnd == 0 && !w.sat &&
      scopeOk w.scope w.sk && w.ord.toNat ≤ 4 && !w.prb)
    (dstReg wd w.d && pairVS w.a && regImmOk false w.b && srcOk wd w.c)

/-- `cas` (R241), whose B and C take every file, as C of `atom` does (DESIGN CHOICE, log entry 86). -/
def ckCas (w : XA) : Option Cause :=
  let wd := wideFmt w.mf
  ck (hdrOk w.h .no && w.mf == w.rf && ints32.contains w.mf.toNat && w.rnd == 0 && !w.sat &&
      scopeOk w.scope w.sk && w.ord.toNat ≤ 4 && !w.prb)
    (dstReg wd w.d && pairVS w.a && srcOk wd w.b && srcOk wd w.c)

/-- `red` (R241): ORD is relaxed or release. -/
def ckRed (op : AtomOp) (w : XA) : Option Cause :=
  let wd := wideFmt w.mf
  ck (hdrOk w.h .no && w.mf == w.rf && (atomFmts op).contains w.mf.toNat && w.rnd == 0 && !w.sat &&
      scopeOk w.scope w.sk && (w.ord == 0 || w.ord == 2) && !w.prb && w.c == unused)
    (regImmOk wd w.d && pairVS w.a && regImmOk false w.b)

/-- `ldacq` and `strel` (R241). Their table gives MF the codes 0 to 13, floating formats among them,
where R73 says that no other member accepts a floating format: the model follows R241 (log 85). -/
def ckAcqRel (load : Bool) (w : XA) : Option Cause :=
  ck (hdrOk w.h .no && w.mf == w.rf && w.mf.toNat ≤ 13 && w.rnd == 0 && !w.sat &&
      scopeOk w.scope w.sk && w.ord == 0 && !w.prb && w.c == unused)
    ((if load then dstReg (wideFmt w.mf) w.d else srcOk (wideFmt w.mf) w.d) && pairVS w.a &&
      regImmOk false w.b)

/-- `fence` (R247). -/
def ckFence (w : XA) : Option Cause :=
  ck (hdrOk w.h .no && w.d == unused && w.a == unused && w.b == unused && w.c == unused &&
      w.mf == 0 && w.rf == 0 && w.rnd == 0 && !w.sat && !w.prb && scopeOk w.scope w.sk &&
      w.ord.toNat ≤ 4) true

/-- The fields that `syncinit`, `fill`, `waitw` and `waitf` share (R249), and how DUP may be used. -/
def syncFields (w : XA) (u : DupUse) : Bool :=
  hdrOk w.h u && w.mf == w.rf && (w.mf == 6 || w.mf == 7) && w.rnd == 0 && !w.sat && w.ord == 0 &&
  !w.prb && scopeOk w.scope w.sk

/-- `syncinit` and `fill` (R249). -/
def ckFill (w : XA) : Option Cause :=
  let wd := wideFmt w.mf
  ck (syncFields w .no && w.c == unused)
    ((match w.d with
      | .v n => !wd || evenIx n
      | o => sImm wd o) && pairUni w.a && sImm false w.b)

/-- `waitw` and `waitf` (R249). They count on no counter, so a 32-bit result may be duplicated (R47). -/
def ckWait (ne : Bool) (w : XA) : Option Cause :=
  let wd := wideFmt w.mf
  ck (syncFields w (if wd then .no else .one) && (ne || w.b == unused))
    (dstReg wd w.d && pairUni w.a && (!ne || sImm wd w.b) && sImm false w.c)

/-- The address of a barrier object (R254): N names the space. -/
def barAddr (w : XW) : Bool := if w.n == 2 then pairS w.a else sImmOnly w.a

/-- The fields that the barrier instructions share (R254), and how DUP may be used. -/
def barFields (w : XW) (u : DupUse) : Bool :=
  hdrOk w.h u && w.n.toNat ≤ 2 && w.ctr == 0 && !w.sk && w.scope != 7 && w.low == 0 && w.c == unused

/-- The fields that `semop` and `semwait` share (R259), and how DUP may be used. -/
def semFields (w : XW) (u : DupUse) : Bool :=
  hdrOk w.h u && w.n == 0 && w.ctr == 0 && !w.sk && w.scope != 7 && w.low == 0

/-! ### Matrix unit (R159, R167) -/

/-- A register block or a descriptor pair (R160): a V register, or an even S register. -/
def matOperand : Operand → Bool
  | .v _ => true
  | .s n => evenIx n
  | _ => false

/-- Whether a pair of formats takes the codebook slot of A and of B. -/
def mmaFields (w : XT) (useD : Bool) : Bool :=
  let sa := nbits w.sub.toNat 6 4
  let sb := nbits w.sub.toNat 3 1
  hdrOk w.h .no && (useD || w.d == unused) && w.af != 15 && w.bf != 15 && w.spr.toNat ≤ 1 &&
  (w.spr == 1 || w.c == unused) && (w.af == 14 || sa == 0) && (w.bf == 14 || sb == 0)

/-- The operands of `mma` and `mmloop` (R160, R163). -/
def mmaOperands (w : XT) : Bool :=
  matOperand w.a && matOperand w.b && (w.spr == 0 || isV w.c)

/-- The fields of the matrix moves, which take no format. -/
def xtPlain (w : XT) (useD useA useB : Bool) (sub : BitVec 7) : Bool :=
  hdrOk w.h .no && (useD || w.d == unused) && (useA || w.a == unused) && (useB || w.b == unused) &&
  w.c == unused && w.af == 0 && w.bf == 0 && w.spr == 0 && w.sub == sub

/-- A V base register of 32 (R171). -/
def tileBase : Operand → Bool
  | .v n => n.toNat ≤ 992
  | _ => false

/-- An S register whose index is a multiple of `m`, and at most `top`. -/
def sMult (m top : Nat) : Operand → Bool
  | .s n => n.toNat % m == 0 && n.toNat ≤ top
  | _ => false

/-- An S register, or an immediate that is not negative. `mmloop` refuses any other file (R169). -/
def countOk : Operand → Bool
  | .s _ => true
  | .imm k => k.toInt ≥ 0
  | _ => false

/-- The count of `loop` and `loopx`: S, or an immediate that is not negative (R90), and by R80 a special
register that is not per lane. -/
def loopCountOk : Operand → Bool
  | .sr n => srUniform false n
  | o => countOk o

/-! ### Drain words (R183, R184) -/

/-- RND of a drain operation (R183). -/
def drainRnd (r : BitVec 3) : Bool := r.toNat ≤ 5

/-- The fields of a drain memory word (R184). -/
def drainMem (w : DM) (load red : Bool) : Bool :=
  drainRnd w.r && w.f.toNat ≤ 13 && (load || w.d == 0) && (!load || w.v == 0) &&
  (!red || (!w.x &&
    (if w.g then w.f == 2 || w.f == 6 else (w.f == 9 || w.f == 11) && w.r == 0)))

/-! ### The checks, by instruction -/

/-- The cause of the first check that an instruction fails (R52, steps 2 and 3), as far as its word
alone decides it. Events have no word. -/
def check (i : Instr) : Option Cause :=
  match i with
  | .nop w => ckNone w
  | .bra w => ck (xkFields w false false false .no) true
  | .brx w => ck (xnFields w false true false .no) (pairVS w.a)
  | .call w => ck (xkFields w true false false .no) (pairDst w.d)
  | .callx w => ck (xnFields w true true false .no) (pairDst w.d && pairVS w.a)
  | .ret w => ck (xnFields w false true false .no) (pairVS w.a)
  | .loop w => ck (xkFields w false true false .no && mul12 w.k && decide (w.k.toInt > 0)) (loopCountOk w.a)
  | .loopx w =>
    ck (xkFields w false true true .no && mul12 w.k && decide (w.k.toInt > 0)) (loopCountOk w.a && isP w.b)
  | .join w => ck (xkFields w false false false .no && mul12 w.k) true
  | .exit w => ckNone w
  | .yield w => ckNone w
  | .sleep w => ck (xkFields w false false false .no) true
  | .brk w => ck (xkFields w false false false .no && decide (w.k.toNat < 256)) true
  | .add w => ckInt2 w true
  | .addc w => ckCarry w
  | .sub w => ckInt2 w true
  | .subb w => ckCarry w
  | .neg w => ckInt1 w
  | .abs w => ckInt1 w
  | .mul w => ckInt2 w true
  | .mulhi w => ckInt2 w false
  | .mulw w =>
    ck (xfFields w true false ints ints false false sub0 (wideFmt w.df) &&
        [(1, 0), (2, 1), (3, 2), (5, 4), (6, 5), (7, 6)].contains (w.df.toNat, w.sf.toNat))
      (dstOk (wideFmt w.df) w.d && srcOk false w.a && srcOk false w.b)
  | .mad w => ckInt3 w true
  | .madhi w => ckInt3 w false
  | .div w => ckInt2 w false
  | .rem w => ckInt2 w false
  | .min w => ckInt2 w false
  | .max w => ckInt2 w false
  | .sad w => ckInt3 w true
  | .dp4 w => ckDot w 0 4
  | .dp2 w => ckDot w 1 5
  | .and w => ckLogic2 w
  | .or w => ckLogic2 w
  | .xor w => ckLogic2 w
  | .not w => ckLogic1 w
  | .andn w => ckLogic2 w
  | .lop3 w => ckBits w true [0] (fun _ => true)
  | .shl w => ckLogic2 w
  | .shr w => ckLogic2 w
  | .sar w => ckLogic2 w
  | .rotl w => ckLogic2 w
  | .fsh w => ckBits w true [0] (fun n => n ≤ 1)
  | .popc w => ckLogic1 w
  | .clz w => ckLogic1 w
  | .ctz w => ckLogic1 w
  | .brev w => ckLogic1 w
  | .bfe w => ckBits w false [2, 6] sub0
  | .bfi w => ckBits w true [0] sub0
  | .bperm w => ckBits w true [0] sub0
  | .cmp w =>
    ck (xfFields w true false [0] ints false false (fun n => n ≤ 5) false)
      (dstOk false w.d && srcOk (wideFmt w.sf) w.a && srcOk (wideFmt w.sf) w.b)
  | .sel w =>
    let wd := wideFmt w.df
    ck (xfFields w true true ints32 [0] false false sub0 wd)
      (dstOk wd w.d && srcOk wd w.a && srcOk wd w.b && srcOk false w.c)
  | .mov w => ckLogic1 w
  | .movi w => ck (xkFields w true false false .one) (dstOk false w.d)
  | .movs w => ck (xnFields w true true true .one) (isS w.d && isVQX w.a && uniformOk w.b)
  | .movv w => ck (xnFields w true true true .one) (isVQX w.d && uniformOk w.a && uniformOk w.b)
  | .mvsp w =>
    ck (xnFields w true true false .no)
      (pairReg w.d && pairVS w.a)
  | .stsp w =>
    ck (xnFields w true true false .no)
      (pairReg w.a && match w.d with
        | .sr n => [0x22, 0x23, 0x30].contains n.toNat
        | _ => false)
  | .pand w => ck (xnFields w true true true .one) (isP06 w.d && isP w.a && isP w.b)
  | .por w => ck (xnFields w true true true .one) (isP06 w.d && isP w.a && isP w.b)
  | .pxor w => ck (xnFields w true true true .one) (isP06 w.d && isP w.a && isP w.b)
  | .pnot w => ck (xnFields w true true false .one) (isP06 w.d && isP w.a)
  | .pmov w =>
    ck (xnFields w true true false .one)
      ((isP06 w.d && (isP w.a || isS w.a)) || (isS w.d && isP w.a))
  | .shfl w =>
    ck (xfFields w true false [0] [0] false false (fun n => n ≤ 3) false)
      (dstOk false w.d && srcOk false w.a && srcOk false w.b)
  | .vote w =>
    ck (xfFields w false false [0] [0] false false (fun n => n ≤ 3) false)
      (srcOk false w.a && dstOk false w.d && !(isP w.d && w.sub == 3))
  | .redux w =>
    let wd := wideFmt w.df
    ck (xfFields w false false ints32 [0] false (w.sub == 0) (fun n => n ≤ 5) wd)
      (dstOk wd w.d && srcOk wd w.a)
  | .scan w =>
    let wd := wideFmt w.df
    ck (xfFields w false false ints32 [0] false (w.sub == 0) (fun n => n ≤ 5) wd)
      (dstOk wd w.d && !isS w.d && !isSr w.d && srcOk wd w.a)
  | .bcast w => ck (xnFields w true true true .one) (dstOk false w.d && srcOk false w.a && uniformOk w.b)
  | .matchLanes w =>
    ck (xfFields w false false ints32 [0] false false (fun n => n ≤ 1) false)
      ((isVQX w.d || (w.sub == 1 && !isP w.d && dstOk false w.d)) && srcOk (wideFmt w.df) w.a)
  | .fadd w => ckFp w true false floats true true
  | .fsub w => ckFp w true false floats true true
  | .fmul w => ckFp w true false floats true true
  | .fma w => ckFp w true true floats true true
  | .fmin w => ckFp w true false floats false false
  | .fmax w => ckFp w true false floats false false
  | .fminn w => ckFp w true false floats false false
  | .fmaxn w => ckFp w true false floats false false
  | .fcmp w =>
    ck (xfFields w true false [0] floats false false (fun n => n ≤ 7) false)
      (dstOk false w.d && srcOk (wideFmt w.sf) w.a && srcOk (wideFmt w.sf) w.b)
  | .fclass w =>
    ck (xfFields w false false [0] [8, 9, 10, 11, 12, 13] false false sub0 false)
      (dstOk false w.d && srcOk (wideFmt w.sf) w.a)
  | .fscale w =>
    let wd := wideFmt w.df
    ck (xfFields w true false floats [0] true true sub0 wd)
      (dstOk wd w.d && srcOk wd w.a && srcOk false w.b)
  | .frnd w => ckFp w false false floats true true
  | .rcp w => ckFp w false false [9] false true
  | .rsq w => ckFp w false false [9] false true
  | .sqrt w => ckFp w false false [8, 9] true true
  | .fdiv w => ckFp w true false [8, 9] true true
  | .ex2 w => ckFp w false false [9] false true
  | .lg2 w => ckFp w false false [9] false true
  | .sinpi w => ckFp w false false [9] true true
  | .cospi w => ckFp w false false [9] true true
  | .sincospi w =>
    ck (xfFields w false true [9] [0] true true sub0 false)
      (dstOk false w.d && srcOk false w.a && isVQX w.c && w.c != w.d)
  | .tanh w => ckFp w false false [9] false true
  | .cvt w =>
    let f := [0, 1, 2, 3, 4, 5, 6, 7, 8, 9, 10, 11, 12, 13]
    ck (xfFields w false false f f true true sub0 (wideFmt w.df))
      (dstOk (wideFmt w.df) w.d && srcOk (wideFmt w.sf) w.a)
  | .cvtpk w =>
    ck (xfFields w true false [10, 11, 1, 5, 12, 13, 0, 4] [9, 2, 6] true true (fun n => n ≤ 1) false &&
        (w.sub == 0 || fmtBits w.df == 8))
      (dstReg false w.d && srcOk false w.a && srcOk false w.b)
  | .cvtcb w =>
    ck (xfFields w true false floats [14] true true (fun n => n ≤ 7) (wideFmt w.df))
      (dstOk (wideFmt w.df) w.d && srcOk false w.a && sMult 8 1016 w.b)
  | .rng w =>
    ck (xfFields w true true [0] [0] false false sub0 true)
      (srcOk false w.a && srcOk false w.c && pairS w.b &&
        match w.d with
        | .v n => n.toNat % 4 == 0
        | .q n => n.toNat % 4 == 0
        | _ => false)
  | .trng w => ck (xnFields w true false false .one) (dstOk false w.d)
  | .sampleCat w =>
    ck (xfFields w true false [0] [0] false false sub0 false)
      (dstReg false w.d && srcOk false w.a && uniformOk w.b)
  | .ldGbl w => ckLd .gbl w
  | .ldScr w => ckLd .scr w
  | .ldCls w => ckLd .cls w
  | .ldObj w => ckLd .obj w
  | .stGbl w => ckSt .gbl w
  | .stScr w => ckSt .scr w
  | .stCls w => ckSt .cls w
  | .stObj w => ckSt .obj w
  | .ldt w => ckTensor true w
  | .stt w => ckTensor false w
  | .prf w => ck (xnFields w false true true .no) (addrOk .gbl w.a w.b)
  | .probe w => ck (xnFields w true true true .no) (isP06 w.d && addrOk .gbl w.a w.b)
  | .pgreq w => ck (xnFields w false true true .no) (addrOk .gbl w.a w.b)
  | .peerst w => ckPeer w
  | .atomAdd w => ckAtom .add w
  | .atomSub w => ckAtom .sub w
  | .atomMin w => ckAtom .min w
  | .atomMax w => ckAtom .max w
  | .atomAnd w => ckAtom .and w
  | .atomOr w => ckAtom .or w
  | .atomXor w => ckAtom .xor w
  | .atomExch w => ckAtom .exch w
  | .atomIncw w => ckAtom .incw w
  | .atomDecw w => ckAtom .decw w
  | .cas w => ckCas w
  | .redAdd w => ckRed .add w
  | .redSub w => ckRed .sub w
  | .redMin w => ckRed .min w
  | .redMax w => ckRed .max w
  | .redAnd w => ckRed .and w
  | .redOr w => ckRed .or w
  | .redXor w => ckRed .xor w
  | .redIncw w => ckRed .incw w
  | .redDecw w => ckRed .decw w
  | .ldacq w => ckAcqRel true w
  | .strel w => ckAcqRel false w
  | .fence w => ckFence w
  | .bar w => ck (barFields w .no && w.d == unused && w.b == unused) (barAddr w)
  | .bararv w => ck (barFields w .one) (dstReg false w.d && barAddr w && sImm false w.b)
  | .barwt w =>
    ck (barFields w .no && w.d == unused)
      (barAddr w && match w.b with
        | .imm _ => false
        | b => sImm false b)
  | .barinit w => ck (barFields w .no && w.d == unused) (barAddr w && sImm false w.b)
  | .waitc w =>
    ck (hdrOk w.h .no && w.d == unused && w.a == unused && w.b == unused && w.c == unused &&
        w.ctr.toNat ≤ 5 && scopeOk w.scope w.sk && w.low == 0) true
  | .waitw w => ckWait true w
  | .waitf w => ckWait false w
  | .fill w => ckFill w
  | .syncinit w => ckFill w
  | .semop w => ck (semFields w .no && w.c == unused) (dstReg false w.d && sImm false w.a && sImm false w.b)
  | .semwait w =>
    ck (semFields w .one) (dstReg false w.d && sImm false w.a && sImm false w.b && sImm false w.c)
  | .xkick w => ck (xnFields w false true false .no) (sImm false w.a)
  | .cbld w => ck (xtPlain w false true false 0) (matOperand w.a)
  | .drainld w =>
    ck (xkFields w false true false .no && decide (w.k.toNat < 2 ^ 11) &&
        decide (1 ≤ nbits w.k.toNat 10 4) && decide (nbits w.k.toNat 10 4 ≤ 64)) (pairS w.a)
  | .mma w => ck (mmaFields w false) (mmaOperands w)
  | .mmloop w => ck (mmaFields w true) (mmaOperands w && countOk w.d)
  | .tzero w => ck (xtPlain w false false false 0) true
  | .tmovGet w => ck (xtPlain w true false false 0) (tileBase w.d)
  | .tmovPut w => ck (xtPlain w false true false 1) (tileBase w.a)
  | .tmovDrain w =>
    ck (xtPlain w false true true 2)
      ((match w.a with
        | .imm k => k.toNat < 16
        | a => sImm false a) && sMult 8 1016 w.b)
  | .tsacc w =>
    ck (hdrOk w.h .no && w.d == unused && w.c == unused && w.af == 9 && w.bf == 9 && w.spr == 0 &&
        decide (w.sub.toNat < 8))
      (srcReg false w.a && srcReg false w.b)
  | .rstlbl w => ck (xkFields w false false false .no && mul12 w.k) true
  | .spawn w =>
    ck (xkFields w false true true .no && w.a != .imm 3)
      (isS w.b && match w.a with
        | .s _ => true
        | .imm k => k.toNat ≤ 2
        | .sr n => n == 0x09
        | _ => false)
  | .spawnx w =>
    ck (xkFields w false true true .no && w.a != .imm 3)
      (isS w.b && match w.a with
        | .s _ => true
        | .imm k => k.toNat ≤ 2
        | .sr n => n == 0x09
        | _ => false)
  | .tasknew w => ck (xnFields w false true true .no) (pairS w.a && sImm false w.b)
  | .taskget w => ck (xnFields w false true false .no) (pairS w.a)
  | .taskdone w => ckNone w
  | .tasksync w => ck (xnFields w false true true .no) (pairS w.a && sImm false w.b)
  | .stage w => ck (xnFields w true false false .one) (dstReg false w.d)
  | .promote w => ck (xnFields w false true true .no) (pairS w.a && sImm false w.b)
  | .trap w => ck (xkFields w false false false .no) true
  | .rte w => ckNone w
  | .csrrd w =>
    let n := w.k.toNat
    ck (xkFields w true false false .no && decide (n < 2 ^ 12))
      (dstReg false w.d &&
        ((decide (n < 0x100) && srAssigned (BitVec.ofNat 8 n)) || (decide (0x100 ≤ n) && decide (n < 0x120))))
  | .csrwr w =>
    let n := w.k.toNat
    let wd := decide (0x100 ≤ n) || sr64 (BitVec.ofNat 8 n)
    ck (xkFields w false true false .no && decide (n < 2 ^ 12))
      (((decide (n < 0x100) && srWritable (BitVec.ofNat 8 n)) || (decide (0x100 ≤ n) && decide (n < 0x120))) &&
        match w.a with
        | .s k => !wd || evenIx k
        | o => !wd && sImm false o)
  | .logmark w =>
    ck (xkFields w false true false .no)
      (w.a == unused || match w.a with
        | .s _ => true
        | .imm _ => true
        | .sr n => srAssigned n && !sr64 n
        | _ => false)
  | .trcon w => ckNone w
  | .trcoff w => ckNone w
  | .halt w => ckNone w
  | .dend => none
  | .dfadd w => ck (drainRnd w.r) true
  | .dfsub w => ck (drainRnd w.r) true
  | .dfmul w => ck (drainRnd w.r) true
  | .dfma w => ck (drainRnd w.r) true
  | .dfmax w => ck (w.r == 0 && !w.s) true
  | .dfmin w => ck (w.r == 0 && !w.s) true
  | .drelu w => ck (w.b == 0 && w.r == 0 && !w.s) true
  | .dsel w => ck (w.r == 0 && !w.s) true
  | .diadd w => ck (w.r == 0 && !w.s) true
  | .dimad w => ck (w.r == 0 && !w.s) true
  | .dshl w => ck (decide (w.k.toNat < 32)) true
  | .dand w => ck (w.r == 0 && !w.s) true
  | .dmov w => ck (w.b == 0 && w.r == 0 && !w.s) true
  | .dmovi w => ck (w.a == 0) true
  | .dmovhi w => ck (w.a == 0) true
  | .dfcmp w => ck (!w.s) true
  | .dld w => ck (drainMem w true false) true
  | .dst w => ck (drainMem w false false) true
  | .dred w => ck (drainMem w false true) true
  | .drst => none
  | .launch _ c => ck (decide (c.args.length = 8) && decide (c.stages.toNat % 512 = 0)) true
  | .signal _ c =>
    ck (decide (c.addr.toNat % 8 = 0) && c.count == 0 && decide (c.scope.toNat ≤ 6) &&
      decide (c.width.toNat ≤ 1) && c.test == 0) true
  | .waitword _ c =>
    ck (decide (c.addr.toNat % (if c.width = 0 then 4 else 8) = 0) && c.count == 0 && decide (c.scope.toNat ≤ 6) && decide (c.width.toNat ≤ 1) &&
      decide (c.test.toNat ≤ 2)) true
  | .copy _ c => ck (decide (c.count.toNat < 2 ^ 40) && c.scope == 0 && c.width == 0 && c.test == 0) true
  | .timestamp _ c =>
    ck (decide (c.addr.toNat % 8 = 0) && c.value == 0 && c.count == 0 && c.scope == 0 && c.width == 0 &&
      c.test == 0) true
  | _ => none

/-- An instruction that passes the checks its word alone decides. -/
def wellFormed (i : Instr) : Bool := (check i).isNone

end Sys2Proof
end

