-- ==== Sys2Proof/Decode.lean ====
section
/-! DEFINITION. The decoder of 96-bit instruction words (R39 to R44, R52, R68, R75), of drain words
(R181 to R185), of queue commands (R376, R377) and of debug requests (R421), and after it the
encoder. Decoding is total: a word that no instruction has is rejected by the cause of R52. -/

namespace Sys2Proof

open Machine

/-! ### Fields of a 96-bit word (R39, R41, R44) -/

/-- The hint and guard fields of a word (R39). -/
def hdrOf (w : Word96) : Hdr :=
  { gn := w.getLsbD 85, gp := w.extractLsb' 82 3, stall := w.extractLsb' 10 4, yield := w.getLsbD 9,
    dup := w.extractLsb' 7 2 }

/-- The named fields of a word before its opcode is known: header, operands and X. -/
structure Raw where
  h : Hdr
  d : Operand
  a : Operand
  b : Operand
  x : BitVec 32
  deriving DecidableEq, Repr

/-- The fields of a word; none where a specifier has a must-be-zero bit set (R41, R42). -/
def rawOf (w : Word96) : Option Raw :=
  match opOfSpec (w.extractLsb' 70 12), opOfSpec (w.extractLsb' 58 12), opOfSpec (w.extractLsb' 46 12) with
  | some d, some a, some b => some { h := hdrOf w, d := d, a := a, b := b, x := w.extractLsb' 14 32 }
  | _, _, _ => none

/-- Class XN (R44). -/
def Raw.xn (r : Raw) : XN := { h := r.h, d := r.d, a := r.a, b := r.b, x := r.x }

/-- Class XK (R44). -/
def Raw.xk (r : Raw) : XK := { h := r.h, d := r.d, a := r.a, b := r.b, k := r.x }

/-- Class XF (R44). -/
def Raw.xf (r : Raw) (f : XF → Instr) : Option Instr :=
  match opOfSpec (r.x.extractLsb' 20 12) with
  | none => none
  | some c =>
    some (f { h := r.h, d := r.d, a := r.a, b := r.b, c := c, df := r.x.extractLsb' 16 4,
              sf := r.x.extractLsb' 12 4, rnd := r.x.extractLsb' 9 3, sat := r.x.getLsbD 8,
              sub := r.x.extractLsb' 0 8 })

/-- Class XA (R44). -/
def Raw.xa (r : Raw) (f : XA → Instr) : Option Instr :=
  match opOfSpec (r.x.extractLsb' 20 12) with
  | none => none
  | some c =>
    some (f { h := r.h, d := r.d, a := r.a, b := r.b, c := c, mf := r.x.extractLsb' 16 4,
              rf := r.x.extractLsb' 12 4, rnd := r.x.extractLsb' 9 3, sat := r.x.getLsbD 8,
              scope := r.x.extractLsb' 5 3, sk := r.x.getLsbD 4, ord := r.x.extractLsb' 1 3,
              prb := r.x.getLsbD 0 })

/-- Class XW (R44). -/
def Raw.xw (r : Raw) (f : XW → Instr) : Option Instr :=
  match opOfSpec (r.x.extractLsb' 20 12) with
  | none => none
  | some c =>
    some (f { h := r.h, d := r.d, a := r.a, b := r.b, c := c, n := r.x.extractLsb' 14 6,
              ctr := r.x.extractLsb' 11 3, scope := r.x.extractLsb' 8 3, sk := r.x.getLsbD 7,
              low := r.x.extractLsb' 0 7 })

/-- Class XT (R44). -/
def Raw.xt (r : Raw) (f : XT → Option Instr) : Option Instr :=
  match opOfSpec (r.x.extractLsb' 20 12) with
  | none => none
  | some c =>
    f { h := r.h, d := r.d, a := r.a, b := r.b, c := c, af := r.x.extractLsb' 16 4,
        bf := r.x.extractLsb' 12 4, td := r.x.extractLsb' 9 3, spr := r.x.extractLsb' 7 2,
        sub := r.x.extractLsb' 0 7 }

/-- The three members of `tmov`, by SUB (R171). -/
def tmovOf (w : XT) : Option Instr :=
  match w.sub.toNat with
  | 0 => some (.tmovGet w)
  | 1 => some (.tmovPut w)
  | 2 => some (.tmovDrain w)
  | _ => none

/-! ### The opcode map (R68 to R75), family by family -/

/-- Family 0x0 of the opcode map. -/
def buildControl (m : Nat) (r : Raw) : Option Instr :=
  match m with
  | 0 => some (.nop r.xn)
  | 1 => some (.bra r.xk)
  | 2 => some (.brx r.xn)
  | 3 => some (.call r.xk)
  | 4 => some (.callx r.xn)
  | 5 => some (.ret r.xn)
  | 6 => some (.loop r.xk)
  | 7 => some (.loopx r.xk)
  | 8 => some (.join r.xk)
  | 9 => some (.exit r.xn)
  | 10 => some (.yield r.xn)
  | 11 => some (.sleep r.xk)
  | 12 => some (.brk r.xk)
  | _ => none

/-- Family 0x1 of the opcode map. -/
def buildInteger (m : Nat) (r : Raw) : Option Instr :=
  match m with
  | 0 => r.xf .add
  | 1 => r.xf .addc
  | 2 => r.xf .sub
  | 3 => r.xf .subb
  | 4 => r.xf .neg
  | 5 => r.xf .abs
  | 6 => r.xf .mul
  | 7 => r.xf .mulhi
  | 8 => r.xf .mulw
  | 9 => r.xf .mad
  | 10 => r.xf .madhi
  | 11 => r.xf .div
  | 12 => r.xf .rem
  | 13 => r.xf .min
  | 14 => r.xf .max
  | 15 => r.xf .sad
  | 16 => r.xf .dp4
  | 17 => r.xf .dp2
  | _ => none

/-- Family 0x2 of the opcode map. -/
def buildLogic (m : Nat) (r : Raw) : Option Instr :=
  match m with
  | 0 => some (.and r.xn)
  | 1 => some (.or r.xn)
  | 2 => some (.xor r.xn)
  | 3 => some (.not r.xn)
  | 4 => some (.andn r.xn)
  | 5 => r.xf .lop3
  | 6 => some (.shl r.xn)
  | 7 => some (.shr r.xn)
  | 8 => some (.sar r.xn)
  | 9 => some (.rotl r.xn)
  | 10 => r.xf .fsh
  | 11 => some (.popc r.xn)
  | 12 => some (.clz r.xn)
  | 13 => some (.ctz r.xn)
  | 14 => some (.brev r.xn)
  | 15 => r.xf .bfe
  | 16 => r.xf .bfi
  | 17 => r.xf .bperm
  | _ => none

/-- Family 0x3 of the opcode map. -/
def buildMove (m : Nat) (r : Raw) : Option Instr :=
  match m with
  | 0 => r.xf .cmp
  | 1 => r.xf .sel
  | 2 => some (.mov r.xn)
  | 3 => some (.movi r.xk)
  | 4 => some (.movs r.xn)
  | 5 => some (.movv r.xn)
  | 6 => some (.mvsp r.xn)
  | 7 => some (.stsp r.xn)
  | 8 => some (.pand r.xn)
  | 9 => some (.por r.xn)
  | 10 => some (.pxor r.xn)
  | 11 => some (.pnot r.xn)
  | 12 => some (.pmov r.xn)
  | _ => none

/-- Family 0x4 of the opcode map. -/
def buildLane (m : Nat) (r : Raw) : Option Instr :=
  match m with
  | 0 => r.xf .shfl
  | 1 => r.xf .vote
  | 2 => r.xf .redux
  | 3 => r.xf .scan
  | 4 => some (.bcast r.xn)
  | 5 => r.xf .matchLanes
  | _ => none

/-- Family 0x5 of the opcode map. -/
def buildFloat (m : Nat) (r : Raw) : Option Instr :=
  match m with
  | 0 => r.xf .fadd
  | 1 => r.xf .fsub
  | 2 => r.xf .fmul
  | 3 => r.xf .fma
  | 4 => r.xf .fmin
  | 5 => r.xf .fmax
  | 6 => r.xf .fminn
  | 7 => r.xf .fmaxn
  | 8 => r.xf .fcmp
  | 9 => r.xf .fclass
  | 10 => r.xf .fscale
  | 11 => r.xf .frnd
  | _ => none

/-- Family 0x6 of the opcode map. -/
def buildSpecial (m : Nat) (r : Raw) : Option Instr :=
  match m with
  | 0 => r.xf .rcp
  | 1 => r.xf .rsq
  | 2 => r.xf .sqrt
  | 3 => r.xf .fdiv
  | 4 => r.xf .ex2
  | 5 => r.xf .lg2
  | 6 => r.xf .sinpi
  | 7 => r.xf .cospi
  | 8 => r.xf .sincospi
  | 9 => r.xf .tanh
  | _ => none

/-- Family 0x7 of the opcode map. -/
def buildConvert (m : Nat) (r : Raw) : Option Instr :=
  match m with
  | 0 => r.xf .cvt
  | 1 => r.xf .cvtpk
  | 2 => r.xf .cvtcb
  | 3 => r.xf .rng
  | 4 => some (.trng r.xn)
  | 5 => r.xf .sampleCat
  | _ => none

/-- Family 0x8 of the opcode map. -/
def buildMemory (m : Nat) (r : Raw) : Option Instr :=
  match m with
  | 0 => r.xa .ldGbl
  | 1 => r.xa .ldScr
  | 2 => r.xa .ldCls
  | 3 => r.xa .ldObj
  | 4 => r.xa .stGbl
  | 5 => r.xa .stScr
  | 6 => r.xa .stCls
  | 7 => r.xa .stObj
  | 8 => r.xa .ldt
  | 9 => r.xa .stt
  | 10 => some (.prf r.xn)
  | 11 => some (.probe r.xn)
  | 12 => some (.pgreq r.xn)
  | 13 => r.xa .peerst
  | _ => none

/-- Family 0x9 of the opcode map. -/
def buildAtomic (m : Nat) (r : Raw) : Option Instr :=
  match m with
  | 0 => r.xa .atomAdd
  | 1 => r.xa .atomSub
  | 2 => r.xa .atomMin
  | 3 => r.xa .atomMax
  | 4 => r.xa .atomAnd
  | 5 => r.xa .atomOr
  | 6 => r.xa .atomXor
  | 7 => r.xa .atomExch
  | 8 => r.xa .atomIncw
  | 9 => r.xa .atomDecw
  | 10 => r.xa .cas
  | 11 => r.xa .redAdd
  | 12 => r.xa .redSub
  | 13 => r.xa .redMin
  | 14 => r.xa .redMax
  | 15 => r.xa .redAnd
  | 16 => r.xa .redOr
  | 17 => r.xa .redXor
  | 18 => r.xa .redIncw
  | 19 => r.xa .redDecw
  | 20 => r.xa .ldacq
  | 21 => r.xa .strel
  | _ => none

/-- Family 0xA of the opcode map. -/
def buildSync (m : Nat) (r : Raw) : Option Instr :=
  match m with
  | 0 => r.xa .fence
  | 1 => r.xw .bar
  | 2 => r.xw .bararv
  | 3 => r.xw .barwt
  | 4 => r.xw .barinit
  | 5 => r.xw .waitc
  | 6 => r.xa .waitw
  | 7 => r.xa .waitf
  | 8 => r.xa .fill
  | 9 => r.xa .syncinit
  | 10 => r.xw .semop
  | 11 => r.xw .semwait
  | _ => none

/-- Family 0xB of the opcode map. -/
def buildAsync (m : Nat) (r : Raw) : Option Instr :=
  match m with
  | 0 => some (.xkick r.xn)
  | 1 => r.xt (fun w => some (.cbld w))
  | 2 => some (.drainld r.xk)
  | _ => none

/-- Family 0xC of the opcode map. -/
def buildMatrix (m : Nat) (r : Raw) : Option Instr :=
  match m with
  | 0 => r.xt (fun w => some (.mma w))
  | 1 => r.xt (fun w => some (.mmloop w))
  | 2 => r.xt (fun w => some (.tzero w))
  | 3 => r.xt tmovOf
  | 4 => r.xt (fun w => some (.tsacc w))
  | 5 => some (.rstlbl r.xk)
  | _ => none

/-- Family 0xD of the opcode map. -/
def buildProgress (m : Nat) (r : Raw) : Option Instr :=
  match m with
  | 0 => some (.spawn r.xk)
  | 1 => some (.spawnx r.xk)
  | 2 => some (.tasknew r.xn)
  | 3 => some (.taskget r.xn)
  | 4 => some (.taskdone r.xn)
  | 5 => some (.tasksync r.xn)
  | 6 => some (.stage r.xn)
  | 7 => some (.promote r.xn)
  | _ => none

/-- Family 0xE of the opcode map. -/
def buildSystem (m : Nat) (r : Raw) : Option Instr :=
  match m with
  | 0 => some (.trap r.xk)
  | 1 => some (.rte r.xn)
  | 2 => some (.csrrd r.xk)
  | 3 => some (.csrwr r.xk)
  | 4 => some (.logmark r.xk)
  | 5 => some (.trcon r.xn)
  | 6 => some (.trcoff r.xn)
  | 7 => some (.halt r.xn)
  | _ => none

/-- How many members of a family are assigned, from member 0 upwards (R75). -/
def familySize : Nat → Nat
  | 0 => 13
  | 1 => 18
  | 2 => 18
  | 3 => 13
  | 4 => 6
  | 5 => 12
  | 6 => 10
  | 7 => 6
  | 8 => 14
  | 9 => 22
  | 10 => 12
  | 11 => 3
  | 12 => 6
  | 13 => 8
  | 14 => 8
  | _ => 0

/-- The instruction of an opcode with its fields. -/
def build (family m : Nat) (r : Raw) : Option Instr :=
  match family with
  | 0 => buildControl m r
  | 1 => buildInteger m r
  | 2 => buildLogic m r
  | 3 => buildMove m r
  | 4 => buildLane m r
  | 5 => buildFloat m r
  | 6 => buildSpecial m r
  | 7 => buildConvert m r
  | 8 => buildMemory m r
  | 9 => buildAtomic m r
  | 10 => buildSync m r
  | 11 => buildAsync m r
  | 12 => buildMatrix m r
  | 13 => buildProgress m r
  | 14 => buildSystem m r
  | _ => none

/-- The instruction of a 96-bit word, or the cause of the trap that R52 gives it in steps 1 to 3. -/
def decode (w : Word96) : Except Cause Instr :=
  let family := (w.extractLsb' 92 4).toNat
  let m := (w.extractLsb' 86 6).toNat
  if familySize family ≤ m then .error .illegalOpcode
  else if w.extractLsb' 0 7 ≠ 0 then .error .illegalField
  else
    match rawOf w with
    | none => .error .illegalField
    | some r =>
      match build family m r with
      | none => .error .illegalField
      | some i =>
        match check i with
        | some c => .error c
        | none => .ok i

/-- The word that 12 bytes hold (R38). -/
def word96Of (bytes : List Byte) : Word96 := BitVec.ofNat 96 (ofLe bytes)

/-! ### Drain words (R181 to R185) -/

/-- The fields of a word with two sources. -/
def dwOf (w : Word) : DW :=
  { d := w.extractLsb' 24 3, a := w.extractLsb' 20 4, b := w.extractLsb' 16 4, r := w.extractLsb' 13 3,
    s := w.getLsbD 12 }

/-- The fields of a word with a constant. -/
def dkOf (w : Word) : DK :=
  { d := w.extractLsb' 24 3, a := w.extractLsb' 20 4, k := w.extractLsb' 0 16 }

/-- The fields of a `dst` or `dred` word. -/
def dmOf (w : Word) : DM :=
  { d := w.extractLsb' 24 3, v := w.extractLsb' 20 4, o := w.extractLsb' 16 4, f := w.extractLsb' 12 4,
    r := w.extractLsb' 9 3, s := w.getLsbD 8, p := w.extractLsb' 6 2, x := w.getLsbD 5, g := w.getLsbD 4 }

/-- The fields of a `dld` word: SA names the offset, and SB must be zero. -/
def dmLoadOf (w : Word) : DM :=
  { d := w.extractLsb' 24 3, v := w.extractLsb' 16 4, o := w.extractLsb' 20 4, f := w.extractLsb' 12 4,
    r := w.extractLsb' 9 3, s := w.getLsbD 8, p := w.extractLsb' 6 2, x := w.getLsbD 5, g := w.getLsbD 4 }

/-- The operation that bits [31:27] name, with the bits that must be zero beyond the fields read. -/
def drainOp (w : Word) : Option (Instr × Word) :=
  match (w.extractLsb' 27 5).toNat with
  | 0x00 => some (.dend, 0x07FFFFFF)
  | 0x01 => some (.dfadd (dwOf w), 0xFFF)
  | 0x02 => some (.dfsub (dwOf w), 0xFFF)
  | 0x03 => some (.dfmul (dwOf w), 0xFFF)
  | 0x04 => some (.dfma (dwOf w), 0xFFF)
  | 0x05 => some (.dfmax (dwOf w), 0xFFFF)
  | 0x06 => some (.dfmin (dwOf w), 0xFFFF)
  | 0x07 => some (.drelu (dwOf w), 0xFFFFF)
  | 0x08 => some (.dsel (dwOf w), 0xFFFF)
  | 0x09 => some (.diadd (dwOf w), 0xFFFF)
  | 0x0A => some (.dimad (dwOf w), 0xFFFF)
  | 0x0B => some (.dshl (dkOf w), 0xFFFE0)
  | 0x0C => some (.dand (dwOf w), 0xFFFF)
  | 0x0D => some (.dmov (dwOf w), 0xFFFFF)
  | 0x0E => some (.dmovi (dkOf w), 0xFF0000)
  | 0x0F => some (.dmovhi (dkOf w), 0xFF0000)
  | 0x10 =>
    some (.dfcmp { d := w.extractLsb' 24 3, a := w.extractLsb' 20 4, b := w.extractLsb' 16 4,
                   r := w.extractLsb' 0 3, s := false }, 0xFFF8)
  | 0x11 => some (.dld (dmLoadOf w), 0xF000F)
  | 0x12 => some (.dst (dmOf w), 0x0700000F)
  | 0x13 => some (.dred (dmOf w), 0x0700000F)
  | 0x14 => some (.drst, 0x07FFFFFF)
  | _ => none

/-- The drain instruction of a word; none for an invalid word (R185). -/
def decodeDrain (w : Word) : Option Instr :=
  match drainOp w with
  | none => none
  | some (i, zero) => if w &&& zero = 0 && wellFormed i then some i else none

/-! ### Queue commands (R376, R377) -/

/-- The 64-bit field at byte `k` of a command. -/
def field64 (w : BitVec 512) (k : Nat) : BitVec 64 := w.extractLsb' (8 * k) 64

/-- The word command that the bytes of SIGNAL, WAITWORD, COPY and TIMESTAMP lay out. -/
def wordCmdOf (w : BitVec 512) : WordCmd :=
  { barrier := w.getLsbD 8, addr := field64 w 8, value := field64 w 16, count := 0,
    scope := w.extractLsb' 192 8, width := w.extractLsb' 200 8, test := w.extractLsb' 208 8 }

/-- The command that 64 bytes hold before its limits are checked. -/
def commandOf (q : QRef) (w : BitVec 512) : Option Instr :=
  match (w.extractLsb' 0 8).toNat with
  | 0 => some (.queueNop q (w.getLsbD 8))
  | 1 =>
    some (.launch q
      { barrier := w.getLsbD 8, x := w.extractLsb' 32 32, y := w.extractLsb' 64 32,
        z := w.extractLsb' 96 32, header := field64 w 16, stages := field64 w 24,
        args := [0, 1, 2, 3, 4, 5, 6, 7].map (fun k => w.extractLsb' (256 + 32 * k) 32) })
  | 2 => some (.signal q (wordCmdOf w))
  | 3 => some (.waitword q (wordCmdOf w))
  | 4 =>
    some (.copy q
      { barrier := w.getLsbD 8, addr := field64 w 8, value := field64 w 16, count := field64 w 24,
        scope := 0, width := 0, test := 0 })
  | 5 =>
    some (.timestamp q
      { barrier := w.getLsbD 8, addr := field64 w 8, value := 0, count := 0, scope := 0, width := 0,
        test := 0 })
  | _ => none

/-! ### The encoder -/

/-- A word from its fields (R39): `x` is the X field. -/
def assemble (op : BitVec 10) (h : Hdr) (d a b : Operand) (x : BitVec 32) : Word96 :=
  op ++ BitVec.ofBool h.gn ++ h.gp ++ opSpec d ++ opSpec a ++ opSpec b ++ x ++ h.stall ++
    BitVec.ofBool h.yield ++ h.dup ++ (0 : BitVec 7)

/-- A word of class XN. -/
def encXN (op : BitVec 10) (w : XN) : Word96 := assemble op w.h w.d w.a w.b w.x

/-- A word of class XK. -/
def encXK (op : BitVec 10) (w : XK) : Word96 := assemble op w.h w.d w.a w.b w.k

/-- A word of class XF. -/
def encXF (op : BitVec 10) (w : XF) : Word96 :=
  assemble op w.h w.d w.a w.b
    (opSpec w.c ++ w.df ++ w.sf ++ w.rnd ++ BitVec.ofBool w.sat ++ w.sub)

/-- A word of class XA. -/
def encXA (op : BitVec 10) (w : XA) : Word96 :=
  assemble op w.h w.d w.a w.b
    (opSpec w.c ++ w.mf ++ w.rf ++ w.rnd ++ BitVec.ofBool w.sat ++ w.scope ++ BitVec.ofBool w.sk ++
      w.ord ++ BitVec.ofBool w.prb)

/-- A word of class XW. -/
def encXW (op : BitVec 10) (w : XW) : Word96 :=
  assemble op w.h w.d w.a w.b
    (opSpec w.c ++ w.n ++ w.ctr ++ w.scope ++ BitVec.ofBool w.sk ++ w.low)

/-- A word of class XT. -/
def encXT (op : BitVec 10) (w : XT) : Word96 :=
  assemble op w.h w.d w.a w.b (opSpec w.c ++ w.af ++ w.bf ++ w.td ++ w.spr ++ w.sub)

/-- The 96-bit word of an instruction; none for the rows that are no 96-bit instruction. -/
def encode (i : Instr) : Option Word96 :=
  match i with
  | .nop w => some (encXN 0x000 w)
  | .bra w => some (encXK 0x001 w)
  | .brx w => some (encXN 0x002 w)
  | .call w => some (encXK 0x003 w)
  | .callx w => some (encXN 0x004 w)
  | .ret w => some (encXN 0x005 w)
  | .loop w => some (encXK 0x006 w)
  | .loopx w => some (encXK 0x007 w)
  | .join w => some (encXK 0x008 w)
  | .exit w => some (encXN 0x009 w)
  | .yield w => some (encXN 0x00A w)
  | .sleep w => some (encXK 0x00B w)
  | .brk w => some (encXK 0x00C w)
  | .add w => some (encXF 0x040 w)
  | .addc w => some (encXF 0x041 w)
  | .sub w => some (encXF 0x042 w)
  | .subb w => some (encXF 0x043 w)
  | .neg w => some (encXF 0x044 w)
  | .abs w => some (encXF 0x045 w)
  | .mul w => some (encXF 0x046 w)
  | .mulhi w => some (encXF 0x047 w)
  | .mulw w => some (encXF 0x048 w)
  | .mad w => some (encXF 0x049 w)
  | .madhi w => some (encXF 0x04A w)
  | .div w => some (encXF 0x04B w)
  | .rem w => some (encXF 0x04C w)
  | .min w => some (encXF 0x04D w)
  | .max w => some (encXF 0x04E w)
  | .sad w => some (encXF 0x04F w)
  | .dp4 w => some (encXF 0x050 w)
  | .dp2 w => some (encXF 0x051 w)
  | .and w => some (encXN 0x080 w)
  | .or w => some (encXN 0x081 w)
  | .xor w => some (encXN 0x082 w)
  | .not w => some (encXN 0x083 w)
  | .andn w => some (encXN 0x084 w)
  | .lop3 w => some (encXF 0x085 w)
  | .shl w => some (encXN 0x086 w)
  | .shr w => some (encXN 0x087 w)
  | .sar w => some (encXN 0x088 w)
  | .rotl w => some (encXN 0x089 w)
  | .fsh w => some (encXF 0x08A w)
  | .popc w => some (encXN 0x08B w)
  | .clz w => some (encXN 0x08C w)
  | .ctz w => some (encXN 0x08D w)
  | .brev w => some (encXN 0x08E w)
  | .bfe w => some (encXF 0x08F w)
  | .bfi w => some (encXF 0x090 w)
  | .bperm w => some (encXF 0x091 w)
  | .cmp w => some (encXF 0x0C0 w)
  | .sel w => some (encXF 0x0C1 w)
  | .mov w => some (encXN 0x0C2 w)
  | .movi w => some (encXK 0x0C3 w)
  | .movs w => some (encXN 0x0C4 w)
  | .movv w => some (encXN 0x0C5 w)
  | .mvsp w => some (encXN 0x0C6 w)
  | .stsp w => some (encXN 0x0C7 w)
  | .pand w => some (encXN 0x0C8 w)
  | .por w => some (encXN 0x0C9 w)
  | .pxor w => some (encXN 0x0CA w)
  | .pnot w => some (encXN 0x0CB w)
  | .pmov w => some (encXN 0x0CC w)
  | .shfl w => some (encXF 0x100 w)
  | .vote w => some (encXF 0x101 w)
  | .redux w => some (encXF 0x102 w)
  | .scan w => some (encXF 0x103 w)
  | .bcast w => some (encXN 0x104 w)
  | .matchLanes w => some (encXF 0x105 w)
  | .fadd w => some (encXF 0x140 w)
  | .fsub w => some (encXF 0x141 w)
  | .fmul w => some (encXF 0x142 w)
  | .fma w => some (encXF 0x143 w)
  | .fmin w => some (encXF 0x144 w)
  | .fmax w => some (encXF 0x145 w)
  | .fminn w => some (encXF 0x146 w)
  | .fmaxn w => some (encXF 0x147 w)
  | .fcmp w => some (encXF 0x148 w)
  | .fclass w => some (encXF 0x149 w)
  | .fscale w => some (encXF 0x14A w)
  | .frnd w => some (encXF 0x14B w)
  | .rcp w => some (encXF 0x180 w)
  | .rsq w => some (encXF 0x181 w)
  | .sqrt w => some (encXF 0x182 w)
  | .fdiv w => some (encXF 0x183 w)
  | .ex2 w => some (encXF 0x184 w)
  | .lg2 w => some (encXF 0x185 w)
  | .sinpi w => some (encXF 0x186 w)
  | .cospi w => some (encXF 0x187 w)
  | .sincospi w => some (encXF 0x188 w)
  | .tanh w => some (encXF 0x189 w)
  | .cvt w => some (encXF 0x1C0 w)
  | .cvtpk w => some (encXF 0x1C1 w)
  | .cvtcb w => some (encXF 0x1C2 w)
  | .rng w => some (encXF 0x1C3 w)
  | .trng w => some (encXN 0x1C4 w)
  | .sampleCat w => some (encXF 0x1C5 w)
  | .ldGbl w => some (encXA 0x200 w)
  | .ldScr w => some (encXA 0x201 w)
  | .ldCls w => some (encXA 0x202 w)
  | .ldObj w => some (encXA 0x203 w)
  | .stGbl w => some (encXA 0x204 w)
  | .stScr w => some (encXA 0x205 w)
  | .stCls w => some (encXA 0x206 w)
  | .stObj w => some (encXA 0x207 w)
  | .ldt w => some (encXA 0x208 w)
  | .stt w => some (encXA 0x209 w)
  | .prf w => some (encXN 0x20A w)
  | .probe w => some (encXN 0x20B w)
  | .pgreq w => some (encXN 0x20C w)
  | .peerst w => some (encXA 0x20D w)
  | .atomAdd w => some (encXA 0x240 w)
  | .atomSub w => some (encXA 0x241 w)
  | .atomMin w => some (encXA 0x242 w)
  | .atomMax w => some (encXA 0x243 w)
  | .atomAnd w => some (encXA 0x244 w)
  | .atomOr w => some (encXA 0x245 w)
  | .atomXor w => some (encXA 0x246 w)
  | .atomExch w => some (encXA 0x247 w)
  | .atomIncw w => some (encXA 0x248 w)
  | .atomDecw w => some (encXA 0x249 w)
  | .cas w => some (encXA 0x24A w)
  | .redAdd w => some (encXA 0x24B w)
  | .redSub w => some (encXA 0x24C w)
  | .redMin w => some (encXA 0x24D w)
  | .redMax w => some (encXA 0x24E w)
  | .redAnd w => some (encXA 0x24F w)
  | .redOr w => some (encXA 0x250 w)
  | .redXor w => some (encXA 0x251 w)
  | .redIncw w => some (encXA 0x252 w)
  | .redDecw w => some (encXA 0x253 w)
  | .ldacq w => some (encXA 0x254 w)
  | .strel w => some (encXA 0x255 w)
  | .fence w => some (encXA 0x280 w)
  | .bar w => some (encXW 0x281 w)
  | .bararv w => some (encXW 0x282 w)
  | .barwt w => some (encXW 0x283 w)
  | .barinit w => some (encXW 0x284 w)
  | .waitc w => some (encXW 0x285 w)
  | .waitw w => some (encXA 0x286 w)
  | .waitf w => some (encXA 0x287 w)
  | .fill w => some (encXA 0x288 w)
  | .syncinit w => some (encXA 0x289 w)
  | .semop w => some (encXW 0x28A w)
  | .semwait w => some (encXW 0x28B w)
  | .xkick w => some (encXN 0x2C0 w)
  | .cbld w => some (encXT 0x2C1 w)
  | .drainld w => some (encXK 0x2C2 w)
  | .mma w => some (encXT 0x300 w)
  | .mmloop w => some (encXT 0x301 w)
  | .tzero w => some (encXT 0x302 w)
  | .tmovGet w => some (encXT 0x303 w)
  | .tmovPut w => some (encXT 0x303 w)
  | .tmovDrain w => some (encXT 0x303 w)
  | .tsacc w => some (encXT 0x304 w)
  | .rstlbl w => some (encXK 0x305 w)
  | .spawn w => some (encXK 0x340 w)
  | .spawnx w => some (encXK 0x341 w)
  | .tasknew w => some (encXN 0x342 w)
  | .taskget w => some (encXN 0x343 w)
  | .taskdone w => some (encXN 0x344 w)
  | .tasksync w => some (encXN 0x345 w)
  | .stage w => some (encXN 0x346 w)
  | .promote w => some (encXN 0x347 w)
  | .trap w => some (encXK 0x380 w)
  | .rte w => some (encXN 0x381 w)
  | .csrrd w => some (encXK 0x382 w)
  | .csrwr w => some (encXK 0x383 w)
  | .logmark w => some (encXK 0x384 w)
  | .trcon w => some (encXN 0x385 w)
  | .trcoff w => some (encXN 0x386 w)
  | .halt w => some (encXN 0x387 w)
  | _ => none

/-- A drain word with two sources. -/
def encDW (op : BitVec 5) (w : DW) : Word :=
  op ++ w.d ++ w.a ++ w.b ++ w.r ++ BitVec.ofBool w.s ++ (0 : BitVec 12)

/-- A drain word with a constant. -/
def encDK (op : BitVec 5) (w : DK) : Word := op ++ w.d ++ w.a ++ (0 : BitVec 4) ++ w.k

/-- A `dst` or `dred` word. -/
def encDM (op : BitVec 5) (w : DM) : Word :=
  op ++ w.d ++ w.v ++ w.o ++ w.f ++ w.r ++ BitVec.ofBool w.s ++ w.p ++ BitVec.ofBool w.x ++
    BitVec.ofBool w.g ++ (0 : BitVec 4)

/-- The drain word of a drain instruction; none for every other row. -/
def encodeDrain (i : Instr) : Option Word :=
  match i with
  | .dend => some 0
  | .dfadd w => some (encDW 0x01 w)
  | .dfsub w => some (encDW 0x02 w)
  | .dfmul w => some (encDW 0x03 w)
  | .dfma w => some (encDW 0x04 w)
  | .dfmax w => some (encDW 0x05 w)
  | .dfmin w => some (encDW 0x06 w)
  | .drelu w => some (encDW 0x07 w)
  | .dsel w => some (encDW 0x08 w)
  | .diadd w => some (encDW 0x09 w)
  | .dimad w => some (encDW 0x0A w)
  | .dshl w => some (encDK 0x0B w)
  | .dand w => some (encDW 0x0C w)
  | .dmov w => some (encDW 0x0D w)
  | .dmovi w => some (encDK 0x0E w)
  | .dmovhi w => some (encDK 0x0F w)
  | .dfcmp w => some ((0x10 : BitVec 5) ++ w.d ++ w.a ++ w.b ++ (0 : BitVec 13) ++ w.r)
  | .dld w =>
    some ((0x11 : BitVec 5) ++ w.d ++ w.o ++ w.v ++ w.f ++ w.r ++ BitVec.ofBool w.s ++ w.p ++
      BitVec.ofBool w.x ++ BitVec.ofBool w.g ++ (0 : BitVec 4))
  | .dst w => some (encDM 0x12 w)
  | .dred w => some (encDM 0x13 w)
  | .drst => some 0xA0000000
  | _ => none

/-- The header of a command (R376). -/
def commandHead (op : BitVec 8) (barrier : Bool) : BitVec 32 :=
  (0 : BitVec 16) ++ (0 : BitVec 7) ++ BitVec.ofBool barrier ++ op

/-- A SIGNAL, WAITWORD, COPY or TIMESTAMP command: bytes 24 to 31 are the count of a COPY, or scope,
width and test. -/
def encWordCmd (op : BitVec 8) (c : WordCmd) (tail : BitVec 64) : BitVec 512 :=
  (0 : BitVec 256) ++ tail ++ c.value ++ c.addr ++ (0 : BitVec 32) ++ commandHead op c.barrier

/-- The 64 bytes of a queue command, little-endian (R377); none for every other row. -/
def encodeCommand (i : Instr) : Option (BitVec 512) :=
  match i with
  | .queueNop _ b => some ((0 : BitVec 480) ++ commandHead 0 b)
  | .launch _ c =>
    let w := fun k => getAt 0 c.args k
    some (w 7 ++ w 6 ++ w 5 ++ w 4 ++ w 3 ++ w 2 ++ w 1 ++ w 0 ++ c.stages ++ c.header ++ c.z ++ c.y ++
      c.x ++ commandHead 1 c.barrier)
  | .signal _ c => some (encWordCmd 2 c ((0 : BitVec 40) ++ c.test ++ c.width ++ c.scope))
  | .waitword _ c => some (encWordCmd 3 c ((0 : BitVec 40) ++ c.test ++ c.width ++ c.scope))
  | .copy _ c => some (encWordCmd 4 c c.count)
  | .timestamp _ c => some (encWordCmd 5 c 0)
  | _ => none

/-- The command that 64 bytes hold; none for a reserved OP, a nonzero reserved bit or a field outside
its limits (R376). A word whose fields do not fill it has a reserved bit set. -/
def decodeCommand (q : QRef) (w : BitVec 512) : Option Instr :=
  match commandOf q w with
  | none => none
  | some i => if encodeCommand i = some w && wellFormed i then some i else none

/-! ### Debug requests (R421) -/

/-- The fields of a debug request: the 64 bytes at byte 128 of the context image. -/
def debugReqOf (pasid : Nat) (w : BitVec 512) : DebugReq :=
  { seq := w.extractLsb' 0 32, level := w.extractLsb' 40 8, die := (w.extractLsb' 48 8).toNat,
    path := (w.extractLsb' 56 8).toNat, lchid := (w.extractLsb' 64 32).toNat,
    block := (w.extractLsb' 96 32).toNat, grpid := (w.extractLsb' 128 8).toNat,
    deliver := w.getLsbD 136, pasid := pasid }

/-- The debug request that 64 bytes hold; none for a malformed one: an OP of 0 or 8 to 255, a LEVEL
above 4, a nonzero reserved bit, or a LEVEL that is not its row's (R421). -/
def decodeDebug (pasid : Nat) (w : BitVec 512) : Option Instr :=
  let r := debugReqOf pasid w
  let l := r.level.toNat
  if w.extractLsb' 137 375 ≠ 0 || decide (4 < l) then none
  else
    match (w.extractLsb' 32 8).toNat with
    | 1 => some (.dreqHalt r)
    | 2 => if l = 0 then some (.dreqResume r) else none
    | 3 => if l = 0 then some (.dreqStep r) else none
    | 4 => if l = 1 then some (.dreqFlush r) else none
    | 5 => if l = 0 then some (.dreqExit r) else none
    | 6 => if l = 0 then some (.dreqForce r) else none
    | 7 => if l = 4 then some (.dreqSwitch r) else none
    | _ => none

/-! ### Words as the opcode table numbers them -/

/-- The instruction that the decoder reads from a word of `nbits` bits: a drain word of 32 bits, an
instruction word of 96 bits, or a queue command of 512 bits. -/
def decodeTableWord (nbits w : Nat) : Option Instr :=
  match nbits with
  | 32 => decodeDrain (BitVec.ofNat 32 w)
  | 96 => (decode (BitVec.ofNat 96 w)).toOption
  | 512 => decodeCommand { pasid := 0, q := 0 } (BitVec.ofNat 512 w)
  | _ => none

end Sys2Proof
end

