-- ==== Sys2Proof/Machine/Flags.lean ====
section
/-! DEFINITION. Formats, RoundTo, Sat and the conversions (R98 to R118), and the events that
instructions raise in ASTAT with their trap enables (R111, R112). -/

namespace Sys2Proof.Machine

/-! ### Events and trap enables (R111, R112) -/

/-- Events of an instruction, laid out as the sticky bits ASTAT [7:0]. -/
abbrev Events := BitVec 8

/-- Invalid. -/
def evNV : Events := 0x01
/-- Floating division by zero. -/
def evFDZ : Events := 0x02
/-- Overflow. -/
def evOF : Events := 0x04
/-- Underflow. -/
def evUF : Events := 0x08
/-- Inexact. -/
def evNX : Events := 0x10
/-- Integer division by zero. -/
def evDZ : Events := 0x20
/-- Integer overflow. -/
def evOV : Events := 0x40
/-- `sample.cat` met a negative or NaN weight or a zero total. -/
def evSW : Events := 0x80

/-- The trap causes that events raise, lowest number first, each with its event and its enable bit in
ASTAT (R111, R112). -/
def trapOrder : List (Cause × Events × Nat) :=
  [(.intDivzero, evDZ, 15), (.intOverflow, evOV, 16), (.fpInvalid, evNV, 10), (.fpDivzero, evFDZ, 11),
   (.fpOverflow, evOF, 12), (.fpUnderflow, evUF, 13), (.fpInexact, evNX, 14)]

/-- The cause that a set of events raises under an ASTAT value, with the event that raised it: the
enabled cause of the lowest number (R112). -/
def trapOf (astat : BitVec 32) (ev : Events) : Option (Cause × Events) :=
  (findBy (fun (c : Cause × Events × Nat) => ev &&& c.2.1 != 0 && astat.getLsbD c.2.2) trapOrder).map
    (fun c => (c.1, c.2.1))

/-! ### Formats (R99, R101) -/

/-- A floating format: exponent and fraction bits, bias, and whether it encodes infinities. -/
structure FFmt where
  e : Nat
  f : Nat
  bias : Nat
  inf : Bool
  deriving DecidableEq, Repr

/-- The floating format of a code 8 to 13. -/
def ffmt (c : Nat) : FFmt :=
  match c with
  | 8 => { e := 11, f := 52, bias := 1023, inf := true }
  | 10 => { e := 5, f := 10, bias := 15, inf := true }
  | 11 => { e := 8, f := 7, bias := 127, inf := true }
  | 12 => { e := 4, f := 3, bias := 7, inf := false }
  | 13 => { e := 5, f := 2, bias := 15, inf := true }
  | _ => { e := 8, f := 23, bias := 127, inf := true }

/-- Width of a floating format. -/
def FFmt.width (F : FFmt) : Nat := 1 + F.e + F.f

/-- Precision P. -/
def FFmt.prec (F : FFmt) : Nat := F.f + 1

/-- Emin. -/
def FFmt.emin (F : FFmt) : Int := 1 - (F.bias : Int)

/-- MaxFinite as a significand of P bits: all ones, or 14 in F8E4, whose topmost code is NaN. -/
def FFmt.maxSig (F : FFmt) : Nat := if F.inf then 2 ^ F.prec - 1 else 2 ^ F.prec - 2

/-- The exponent of MaxFinite's significand as an integer. -/
def FFmt.maxExp (F : FFmt) : Int :=
  (if F.inf then (2 ^ F.e - 2 : Int) else (2 ^ F.e - 1 : Int)) - (F.bias : Int) - (F.f : Int)

/-- An exact value: NaN, an infinity, a signed zero, or a finite nonzero value. `fin neg m e st` is
±m·2^e when `st` is clear, and lies strictly between m·2^e and (m+1)·2^e in magnitude when it is set. -/
inductive FNum where
  | nan (signalling : Bool)
  | inf (neg : Bool)
  | zero (neg : Bool)
  | fin (neg : Bool) (m : Nat) (e : Int) (st : Bool)
  deriving DecidableEq, Repr, Inhabited

/-- An exact dyadic value from a signed integer significand; zero takes the sign given. -/
def FNum.ofInt (m : Int) (e : Int) (zneg : Bool) : FNum :=
  if m = 0 then .zero zneg else .fin (decide (m < 0)) m.natAbs e false

/-- The sign of a value; NaN counts as positive. -/
def FNum.neg : FNum → Bool
  | .nan _ => false
  | .inf s => s
  | .zero s => s
  | .fin s _ _ _ => s

/-- The value with its sign replaced. -/
def FNum.withSign (s : Bool) : FNum → FNum
  | .nan g => .nan g
  | .inf _ => .inf s
  | .zero _ => .zero s
  | .fin _ m e st => .fin s m e st

/-- Whether the value is a NaN. -/
def FNum.isNan : FNum → Bool
  | .nan _ => true
  | _ => false

/-- NV for a signalling NaN operand (R102). -/
def FNum.snv : FNum → Events
  | .nan true => evNV
  | _ => 0

/-- The value that an encoding stands for (R101, R102). -/
def fDecode (F : FFmt) (x : Nat) : FNum :=
  let s := x.testBit (F.e + F.f)
  let ex := nbits x (F.e + F.f - 1) F.f
  let fr := x % 2 ^ F.f
  if F.inf && ex == 2 ^ F.e - 1 then
    if fr = 0 then .inf s else .nan (!fr.testBit (F.f - 1))
  else if !F.inf && ex == 2 ^ F.e - 1 && fr == 2 ^ F.f - 1 then .nan false
  else if ex = 0 then
    if fr = 0 then .zero s else .fin s fr (F.emin - (F.f : Int)) false
  else .fin s (2 ^ F.f + fr) ((ex : Int) - (F.bias : Int) - (F.f : Int)) false

/-- The canonical NaN of a format (R102). -/
def qnan (F : FFmt) : Nat :=
  if F.inf then (2 ^ F.e - 1) * 2 ^ F.f + 2 ^ (F.f - 1) else 2 ^ (F.e + F.f) - 1

/-- The encoding of a value that the format represents (R101); in F8E4 an infinity is written as the
canonical NaN (R107). -/
def fEncode (F : FFmt) (v : FNum) : Nat :=
  let sbit := fun (s : Bool) => if s then 2 ^ (F.e + F.f) else 0
  match v with
  | .nan _ => qnan F
  | .inf s => if F.inf then sbit s + (2 ^ F.e - 1) * 2 ^ F.f else qnan F
  | .zero s => sbit s
  | .fin s m e _ =>
    -- the significand scaled to the spacing of its binade, at most P bits
    let lg : Int := (Nat.log2 m : Int) + e
    let ee := max lg F.emin
    let q : Int := ee - (F.f : Int)
    let n := if e ≥ q then m * 2 ^ (e - q).toNat else m / 2 ^ (q - e).toNat
    if n < 2 ^ F.f then sbit s + n
    else sbit s + ((ee + (F.bias : Int)).toNat) * 2 ^ F.f + (n - 2 ^ F.f)

/-- MaxFinite with a sign. -/
def maxFinite (F : FFmt) (s : Bool) : FNum := .fin s F.maxSig F.maxExp false

/-- The result of an overflow (R107). Modes: 0 RNE, 1 RTZ, 2 RDN, 3 RUP, 4 RNA. -/
def overflowOf (F : FFmt) (s : Bool) (mode : Nat) : FNum :=
  match mode with
  | 1 => maxFinite F s
  | 2 => if s then .inf true else maxFinite F false
  | 3 => if s then maxFinite F true else .inf false
  | _ => .inf s

/-- Whether a significand that lies between two multiples of the spacing goes up: `odd` says the lower
multiple is odd, `c` compares the rest with half the spacing. -/
def roundsUp (mode : Nat) (s odd : Bool) (c : Ordering) : Bool :=
  match mode with
  | 0 => c == .gt || (c == .eq && odd)
  | 1 => false
  | 2 => s
  | 3 => !s
  | _ => c != .lt

/-- A magnitude m·2^e (or just above it, by `st`) as a multiple of 2^q, rounded in a mode, and whether
that is inexact (R106). -/
def roundMul (mode : Nat) (s : Bool) (m : Nat) (e : Int) (st : Bool) (q : Int) : Nat × Bool :=
  if e ≥ q then
    let lo := m * 2 ^ (e - q).toNat
    if st then (if roundsUp mode s (lo % 2 == 1) .lt then lo + 1 else lo, true) else (lo, false)
  else
    let sh := (q - e).toNat
    let lo := m / 2 ^ sh
    let r := m % 2 ^ sh
    let half := 2 ^ (sh - 1)
    if r = 0 && !st then (lo, false)
    else
      let c : Ordering := if r > half || (r = half && st) then .gt else if r = half then .eq else .lt
      (if roundsUp mode s (lo % 2 == 1) c then lo + 1 else lo, true)

/-- RoundTo (R106), with the flags of R107 and R109. -/
def roundTo (F : FFmt) (x : FNum) (mode : Nat) : FNum × Events :=
  match x with
  | .nan _ => (.nan false, 0)
  | .inf s => (.inf s, 0)
  | .zero s => (.zero s, 0)
  | .fin s m e st =>
    let lg : Int := (Nat.log2 m : Int) + e
    let ee := max lg F.emin
    let q : Int := ee - (F.f : Int)
    let (n, inexact) := roundMul mode s m e st q
    if q > F.maxExp || (q = F.maxExp && n > F.maxSig) then (overflowOf F s mode, evOF ||| evNX)
    else
      let tiny := inexact && decide (n < 2 ^ F.f)
      (if n = 0 then .zero s else .fin s n q false,
       (if inexact then evNX else 0) ||| (if tiny then evUF else 0))

/-- Sat for a floating format (R110). -/
def satF (F : FFmt) (v : FNum) : FNum :=
  match v with
  | .inf s => maxFinite F s
  | v => v

/-- A floating result as written: RoundTo, Sat if asked, then the encoding (R107, R110). -/
def fResult (F : FFmt) (mode : Nat) (sat : Bool) (x : FNum) : Nat × Events :=
  let (v, ev) := roundTo F x mode
  (fEncode F (if sat then satF F v else v), ev)

/-! ### Exact arithmetic on values (R108) -/

/-- The signed significand of a value at exponent `e0`, which is no greater than its own exponent. -/
def FNum.at (v : FNum) (e0 : Int) : Int :=
  match v with
  | .fin s m e _ => (if s then -1 else 1) * ((m * 2 ^ (e - e0).toNat : Nat) : Int)
  | _ => 0

/-- The exponent of a finite nonzero value. -/
def FNum.exp : FNum → Int
  | .fin _ _ e _ => e
  | _ => 0

/-- x + y exactly, with the events of its special cases; a zero sum of opposite signs is +0, and −0 in
RDN (R108). -/
def numAdd (mode : Nat) (x y : FNum) : FNum × Events :=
  let ev := x.snv ||| y.snv
  match x, y with
  | .nan _, _ => (.nan false, ev)
  | _, .nan _ => (.nan false, ev)
  | .inf s, .inf t => if s = t then (.inf s, 0) else (.nan false, evNV)
  | .inf s, _ => (.inf s, 0)
  | _, .inf t => (.inf t, 0)
  | .zero s, .zero t => (.zero (if s = t then s else mode == 2), 0)
  | .zero _, y => (y, 0)
  | x, .zero _ => (x, 0)
  | x, y =>
    let e0 := min x.exp y.exp
    (FNum.ofInt (x.at e0 + y.at e0) e0 (mode == 2), 0)

/-- −x. -/
def numNeg (x : FNum) : FNum := x.withSign (!x.neg)

/-- x · y exactly, with the events of its special cases. -/
def numMul (x y : FNum) : FNum × Events :=
  let ev := x.snv ||| y.snv
  let s := xor x.neg y.neg
  match x, y with
  | .nan _, _ => (.nan false, ev)
  | _, .nan _ => (.nan false, ev)
  | .inf _, .zero _ => (.nan false, evNV)
  | .zero _, .inf _ => (.nan false, evNV)
  | .inf _, _ => (.inf s, 0)
  | _, .inf _ => (.inf s, 0)
  | .zero _, _ => (.zero s, 0)
  | _, .zero _ => (.zero s, 0)
  | .fin _ m e _, .fin _ n f _ => (.fin s (m * n) (e + f) false, 0)

/-- Comparison of two values that are not NaN. -/
def numCmp (x y : FNum) : Ordering :=
  let rank : FNum → Int
    | .inf s => if s then -2 else 2
    | .zero _ => 0
    | .fin s _ _ _ => if s then -1 else 1
    | .nan _ => 0
  if rank x ≠ rank y then compare (rank x) (rank y)
  else
    match x, y with
    | .fin _ _ _ _, .fin _ _ _ _ =>
      let e0 := min x.exp y.exp
      compare (x.at e0) (y.at e0)
    | _, _ => .eq

/-! ### Integers (R100, R110) -/

/-- The value of an integer format's bits. -/
def intOf (c : Nat) (x : Nat) : Int :=
  let w := fmtBits (BitVec.ofNat 4 c)
  if c < 4 then toSigned w (x % 2 ^ w) else ((x % 2 ^ w : Nat) : Int)

/-- The range of an integer format. -/
def intLo (c : Nat) : Int := if c < 4 then -((2 ^ (fmtBits (BitVec.ofNat 4 c) - 1) : Nat) : Int) else 0
/-- The range of an integer format. -/
def intHi (c : Nat) : Int :=
  let w := fmtBits (BitVec.ofNat 4 c)
  if c < 4 then ((2 ^ (w - 1) : Nat) : Int) - 1 else ((2 ^ w : Nat) : Int) - 1

/-- Sat for an integer format. -/
def satI (c : Nat) (y : Int) : Int := max (intLo c) (min (intHi c) y)

/-- Whether an exact result lies outside an integer format. -/
def outside (c : Nat) (y : Int) : Bool := decide (y < intLo c) || decide (intHi c < y)

/-- The bits of an integer in a format: wrapped, or clamped by Sat. -/
def intBits (c : Nat) (sat : Bool) (y : Int) : Nat :=
  wrapN (fmtBits (BitVec.ofNat 4 c)) (if sat then satI c y else y)

/-- The register image of narrow bits: signed integers extend by their sign, everything else by zeros
(R103). -/
def extend (c : Nat) (x : Nat) : DWord :=
  let w := fmtBits (BitVec.ofNat 4 c)
  if c < 4 && decide (w < 32) then BitVec.ofNat 64 (wrapN 32 (toSigned w (x % 2 ^ w)))
  else BitVec.ofNat 64 (x % 2 ^ w)

/-! ### Conversions (R116, R117) -/

/-- Source formats every value of which a destination format holds (R116). -/
def exactPair (sf df : Nat) : Bool :=
  sf == df ||
  match df with
  | 8 => [9, 10, 11, 12, 13].contains sf
  | 9 => [10, 11, 12, 13].contains sf
  | 10 => [12, 13].contains sf
  | 11 => sf == 12
  | _ => false

/-- Floating to integer (R117). With `.sat` a signalling NaN raises nothing, as R117 has it, where R102 counts it among
the exceptions of conversions (DEDUCED, log entry 86). -/
def fToInt (df mode : Nat) (sat : Bool) (v : FNum) : Nat × Events :=
  match v with
  | .nan _ => (0, if sat then 0 else evNV)
  | .inf s => (intBits df false (if s then intLo df else intHi df), if sat then 0 else evNV)
  | .zero _ => (0, 0)
  | .fin s m e st =>
    let (n, inexact) := roundMul mode s m e st 0
    let y : Int := if s then -(n : Int) else (n : Int)
    (intBits df true y,
      (if inexact then evNX else 0) ||| (if outside df y && !sat then evNV else 0))

/-- The conversion of R116: the bits of SF's value in DF, and the events. -/
def convert (sf df mode : Nat) (sat : Bool) (x : Nat) : Nat × Events :=
  if sf < 8 then
    let y := intOf sf x
    if df < 8 then (intBits df sat y, 0)
    else fResult (ffmt df) mode sat (FNum.ofInt y 0 false)
  else
    let v := fDecode (ffmt sf) x
    if df < 8 then fToInt df mode sat v
    else if exactPair sf df then
      (fEncode (ffmt df) (if sat then satF (ffmt df) v else v), v.snv)
    else
      let (r, ev) := fResult (ffmt df) mode sat v
      (r, ev ||| v.snv)

/-- The mode that RND names: 5 is ASTAT.RM (R106, R115). -/
def rmode (astat : BitVec 32) (rnd : BitVec 3) : Nat :=
  if rnd = 5 then nbits astat.toNat 26 24 else rnd.toNat

/-- FP32. -/
def f32 : FFmt := ffmt 9

end Sys2Proof.Machine
end

