-- ==== Sys2Proof/Machine/Operands.lean ====
section
/-! DEFINITION. Where the machine keeps its parts (groups, paths, dies, contexts, launches, blocks),
what each operand form reads and writes (R41, R43, R77 to R81), and which registers an instruction
names (R35, R49, R329). -/

namespace Sys2Proof.Machine

/-! ### Parts of the state -/

/-- A group with nothing in it; what a name that no group has reads as. -/
def Group.blank : Group :=
  { gid := 0, die := 0, lchid := 0, block := 0, grpid := 0, role := 0, pasid := 0, image := 0,
    place := none, reserved := none, last := none, byPromo := false, dispatched := 0, age := 0, ended := true, v := [], s := [], q := [], x := [], p := [],
    regs := GroupRegs.reset, paths := [], deferrals := [], regions := [], held := 0, exited := 0,
    ops := [], faults := [], sb := [], lines := [], absent := [], dirty := [], used := 0, missing := none,
    issues := 0, issuedClk := 0, issuedPaths := 0, views := [], recent := [], lateS := [], tiles := [], slots := [],
    drains := [], stopped := none, arrival := [], task := none, stopReq := false, restarts := false, flushed := false, poisonLines := [],
    poisonTiles := [] }

/-- A launch header with nothing in it. -/
def KHeader.blank : KHeader :=
  { compat := false, recomputable := false, staged := false, taskworker := false, nolog := false,
    cls := 0, lattab := 0, vregs := 0, sregs := 0, scratch := 0, tiles := 0, drains := 0, roles := 1,
    sbreq := 0, groups := 1, entry := 0, draintime := 0 }

/-- A launch with nothing in it. -/
def Launch.blank : Launch :=
  { lchid := 0, die := 0, pasid := 0, queue := 0, cmd := 0, parent := none, order := 0, cls := 0,
    hdr := KHeader.blank, hdrAddr := 0, sbmode := 0, grid := (1, 1, 1), args := [], n := 0, total := 0, next := 0,
    unchecked := false, count := none, saw := [], lastGroups := none, semBase := 0, semCnt := 0, stages := 0, rname := 0 }

/-- A context with nothing in it. -/
def Ctx.blank : Ctx :=
  { pasid := 0, ext := false, priv := false, gen := 0, root := 0, attr := 0, image := 0, drainmem := 0,
    drainw := 0, on := [], dvec := 0, draint := 0, slice := 0, sliceAt := [], sliceLen := [], deferred := [],
    scrofs := 0, scrmax := 0, trsel := 0, lost := 0, headStop := [], attach := false, bpc := [],
    grain := 0, shav := 0, mode := 0, taken := [], late := [], names := [], ords := [], stopping := [], runClk := [], atsAsk := [], ats := [],
    switching := none, offObjs := [], teardown := false }

/-- Whether the headstock has stopped using a context's image (R368). -/
def Ctx.imageOff (c : Ctx) : Bool := c.offObjs.contains c.image

/-- The context with an object that an engine has stopped using (R368). -/
def Ctx.off (c : Ctx) (id : Nat) : Ctx := { c with offObjs := id :: c.offObjs }

/-- An object that a context's engines use, or 0 where they have stopped using it (R368). -/
def Ctx.using (c : Ctx) (id : Nat) : Nat := if c.offObjs.contains id then 0 else id

/-- The group of an identity. -/
def State.grp (s : State) (gid : Nat) : Group :=
  match findBy (fun g => g.gid == gid) s.groups with
  | some g => g
  | none => Group.blank

/-- The state with the group of an identity changed. -/
def State.updGrp (s : State) (gid : Nat) (f : Group → Group) : State :=
  { s with groups := updBy (fun g => g.gid == gid) f s.groups }

/-- The die of a number. -/
def State.dieOf (s : State) (d : Nat) : Die := getAt Die.reset s.dies d

/-- The state with a die changed. -/
def State.updDie (s : State) (d : Nat) (f : Die → Die) : State :=
  { s with dies := setAt s.dies d (f (s.dieOf d)) }

/-- The context of a PASID. -/
def State.ctxOf (s : State) (pasid : Nat) : Ctx :=
  match findBy (fun c => c.pasid == pasid) s.ctxs with
  | some c => c
  | none => Ctx.blank

/-- The state with a context changed. -/
def State.updCtx (s : State) (pasid : Nat) (f : Ctx → Ctx) : State :=
  { s with ctxs := updBy (fun c => c.pasid == pasid) f s.ctxs }

/-- Whether a context has work on a die: a launch, or a command of a queue. -/
def State.hasWork (s : State) (die pasid : Nat) : Bool :=
  s.launches.any (fun l => l.die == die && l.pasid == pasid) ||
  s.queues.any (fun q => q.die == die && q.ref.pasid == pasid && !(q.waiting.isEmpty && q.started.isEmpty))

/-- Whether another context is ready on a die. -/
def State.otherReady (s : State) (die pasid : Nat) : Bool :=
  s.ctxs.any (fun c => c.pasid != pasid && !c.teardown && !c.on.contains die && s.hasWork die c.pasid)

/-- A context's slices on a die that have ended while no other context was ready: the next one has begun (R418). -/
def Ctx.nextSlice (c : Ctx) (die : Nat) : Ctx :=
  let past := spGet 0 c.runClk die - spGet 0 c.sliceAt die
  let len := spGet 0 c.sliceLen die
  if c.slice = 0 || decide (past < len) || c.stopping.contains die || spGet 0 c.deferred die != 0 then c
  else
    { c with sliceAt := spSet 0 c.sliceAt die (spGet 0 c.sliceAt die + len + (past - len) / c.slice * c.slice),
             sliceLen := spSet 0 c.sliceLen die c.slice }

/-- Clk that pass on a die: its CLK advances, and with it the running time of the contexts that are switched in on
it (R294, R341), each in its slice (R418). -/
def State.passClk (s : State) (die n : Nat) : State :=
  { s.updDie die (fun d => { d with clk := d.clk + n }) with
    ctxs := s.ctxs.map (fun c =>
      if c.on.contains die then
        let c1 := { c with runClk := spSet 0 c.runClk die (spGet 0 c.runClk die + n) }
        if s.otherReady die c.pasid then c1 else c1.nextSlice die
      else c) }

/-- The live launch of an identity on a die (R30). -/
def State.launchOf (s : State) (die lchid : Nat) : Launch :=
  match findBy (fun l => l.die == die && l.lchid == lchid) s.launches with
  | some l => l
  | none => Launch.blank

/-- The state with a launch changed. -/
def State.updLaunch (s : State) (die lchid : Nat) (f : Launch → Launch) : State :=
  { s with launches := updBy (fun l => l.die == die && l.lchid == lchid) f s.launches }

/-- The block of a launch, if it is enqueued and has not ended. -/
def State.blockOf (s : State) (die lchid ix : Nat) : Option Block :=
  findBy (fun b => b.die == die && b.lchid == lchid && b.ix == ix) s.blocks

/-- The state with a block changed. -/
def State.updBlock (s : State) (die lchid ix : Nat) (f : Block → Block) : State :=
  { s with blocks := updBy (fun b => b.die == die && b.lchid == lchid && b.ix == ix) f s.blocks }

/-- The path of an index in a group. -/
def Group.path (g : Group) (i : Nat) : Path := getAt Path.free g.paths i

/-- The group with a path changed. -/
def Group.updPath (g : Group) (i : Nat) (f : Path → Path) : Group :=
  { g with paths := setAt g.paths i (f (g.path i)) }

/-- Whether an access width is 64 bits: the element width of a format in bytes. -/
def fmtBytes (f : BitVec 4) : Nat := fmtBits f / 8

/-! ### Special registers (R26, R28, R30, R79) -/

/-- The physical core of a logical core (R28, R270): the enabled clusters are all but the spare. -/
def physCore (die core : Nat) : Nat :=
  let k := core / 4
  let sp := (Config.spareCluster die).val
  4 * (if k < sp then k else k + 1) + core % 4

/-- What an instruction reads its operands from: the state before it, its group as the scoreboard
lets it be read (R49), its path, its lanes, what reads of CLK and RTIME return (R80), the unfinished producers
of registers that its lanes read old or new one by one (R49), and the clk in which its result is finished (R334). -/
structure Env where
  s : State
  g : Group
  pix : Nat
  act : Mask
  clk : DWord
  rtime : DWord
  mix : List SbEntry
  fin : Nat
  deriving DecidableEq, Repr

/-- The path that issues. -/
def Env.path (e : Env) : Path := e.g.path e.pix

/-- The launch of the group. -/
def Env.launch (e : Env) : Launch := e.s.launchOf e.g.die e.g.lchid

/-- A special register as lane `l` reads it (R79). -/
def Env.sr (e : Env) (n l : Nat) : DWord :=
  let compat := e.launch.hdr.compat
  let grid := e.launch.grid
  match n with
  | 0x00 => BitVec.ofNat 64 (if compat then l % 16 else l)
  | 0x01 => BitVec.ofNat 64 (l / 4)
  | 0x02 => BitVec.ofNat 64 e.pix
  | 0x03 => BitVec.ofNat 64 (if compat then 2 * e.g.grpid + l / 16 else e.g.grpid)
  | 0x04 => BitVec.ofNat 64 (e.g.block % grid.1)
  | 0x05 => BitVec.ofNat 64 (e.g.block / grid.1 % grid.2.1)
  | 0x06 => BitVec.ofNat 64 (e.g.block / grid.1 / grid.2.1)
  | 0x07 => BitVec.ofNat 64 e.g.lchid
  | 0x08 => e.g.regs.stage.setWidth 64
  | 0x09 => e.launch.cls.setWidth 64
  | 0x0A =>
    match e.g.place with
    | some pl => BitVec.ofNat 64 (physCore pl.die pl.core)
    | none => 0
  | 0x0B => BitVec.ofNat 64 e.g.die
  | 0x10 => e.g.regs.emask.setWidth 64
  | 0x11 => e.g.regs.astat.setWidth 64
  | 0x18 => e.clk
  | 0x19 => e.rtime
  | 0x20 => e.g.regs.restart.setWidth 64
  | 0x21 => e.path.lp.loopc.setWidth 64
  | 0x22 => e.path.lp.loops.setWidth 64
  | 0x23 => e.path.lp.loope.setWidth 64
  | 0x24 => e.path.lp.loopp.setWidth 64
  | 0x30 => e.g.regs.trapvec
  | _ => 0

/-! ### Register files (R76) -/

/-- Register `n` of lane `l` in the V file. -/
def Group.rdV (g : Group) (n l : Nat) : Word := spGet 0 g.v (32 * n + l)
/-- Register `n` of the S file. -/
def Group.rdS (g : Group) (n : Nat) : Word := spGet 0 g.s n
/-- Register `n` of lane `l` in the Q file. -/
def Group.rdQ (g : Group) (n l : Nat) : Word := spGet 0 g.q (32 * n + l)
/-- Register `n` of lane `l` in the X file. -/
def Group.rdX (g : Group) (n l : Nat) : Word := spGet 0 g.x (32 * n + l)
/-- The lanes in which predicate `n` is 1; P7 reads all ones. -/
def Group.rdP (g : Group) (n : Nat) : Mask := if n = 7 then 0xFFFFFFFF else spGet 0 g.p n

/-- Two words as the 64-bit value of a pair (R11). -/
def pairOf (lo hi : Word) : DWord := hi ++ lo

/-- The unfinished producer of a register, with its number among those of the instruction (R49). -/
def Env.mixOf (e : Env) (o : Operand) : Option (SbEntry × Nat) :=
  findBy (fun (x : SbEntry × Nat) => x.1.reg == o) (e.mix.zip (upFrom 0 e.mix.length))

/-- Register `n` of the S file as lane `l` reads it, an unfinished one old or new (R49). -/
def Env.rdS (e : Env) (n l : Nat) : Word :=
  match e.mixOf (.s (BitVec.ofNat 10 n)) with
  | some (x, k) => if Config.freeBit e.s.tick (64 * k + l) then getAt 0 x.old 0 else (e.s.grp e.g.gid).rdS n
  | none => e.g.rdS n

/-- The registers as an instruction that issues at `clk` reads them: ASTAT as it stood before that clk (R114). -/
def GroupRegs.seen (r : GroupRegs) (clk : Nat) : GroupRegs :=
  { r with astat := if r.astatClk = clk + 1 then r.astatWas else r.astat }

/-- A special register as lane `l` reads it, an unfinished one old or new (R49). -/
def Env.rdSr (e : Env) (n l : Nat) : DWord :=
  match e.mixOf (.sr (BitVec.ofNat 8 n)) with
  | some (x, k) =>
    if Config.freeBit e.s.tick (64 * k + l) then pairOf (getAt 0 x.old 0) (getAt 0 x.old 1)
    else
      let g := e.s.grp e.g.gid
      { e with g := { g with regs := g.regs.seen (e.s.dieOf g.die).clk } }.sr n l
  | none => e.sr n l

/-- Source operand `o` in lane `l`, as 64 bits when `wide` and as 32 bits extended by zeros otherwise.
Immediates are extended by their sign to the operand's width (R43); predicates read 1 or 0 (R78). -/
def Env.read (e : Env) (wide : Bool) (o : Operand) (l : Nat) : DWord :=
  match o with
  | .v n => if wide then pairOf (e.g.rdV n.toNat l) (e.g.rdV (n.toNat + 1) l) else (e.g.rdV n.toNat l).setWidth 64
  | .s n =>
    if wide then pairOf (e.rdS n.toNat l) (e.rdS (n.toNat + 1) l) else (e.rdS n.toNat l).setWidth 64
  | .q n => if wide then pairOf (e.g.rdQ n.toNat l) (e.g.rdQ (n.toNat + 1) l) else (e.g.rdQ n.toNat l).setWidth 64
  | .x n => if wide then pairOf (e.g.rdX n.toNat l) (e.g.rdX (n.toNat + 1) l) else (e.g.rdX n.toNat l).setWidth 64
  | .sr n => if wide then e.rdSr n.toNat l else ((e.rdSr n.toNat l).setWidth 32).setWidth 64
  | .p n => if (e.g.rdP n.toNat).getLsbD l then 1 else 0
  | .imm k => if wide then k.signExtend 64 else (k.signExtend 32).setWidth 64

/-- A 32-bit source in lane `l`. -/
def Env.rd (e : Env) (o : Operand) (l : Nat) : Word := (e.read false o l).setWidth 32

/-- A uniform 32-bit source: the lowest active lane's value of a per-lane one (R77). -/
def Env.uni (e : Env) (o : Operand) : Word := e.rd o (lowest e.act)

/-- A uniform 64-bit source. -/
def Env.uni64 (e : Env) (o : Operand) : DWord := e.read true o (lowest e.act)

/-! ### Writes (R77, R78, R81) -/

/-- A per-lane file with register `n` written in the lanes of `act`; a pair when `wide` (R11). -/
def laneWrite (wide : Bool) (n : Nat) (act : Mask) (f : Nat → DWord) (m : Sparse Word) : Sparse Word :=
  (lanesOf act).foldl
    (fun m l =>
      let m := spSet 0 m (32 * n + l) ((f l).setWidth 32)
      if wide then spSet 0 m (32 * (n + 1) + l) ((f l).extractLsb' 32 32) else m) m

/-- The S file with register `n` written, or a pair. -/
def uniWrite (wide : Bool) (n : Nat) (v : DWord) (m : Sparse Word) : Sparse Word :=
  let m := spSet 0 m n (v.setWidth 32)
  if wide then spSet 0 m (n + 1) (v.extractLsb' 32 32) else m

/-- A write of a special register by path `pix` (R81): EMASK changes only the bits of the path's
slices, and loop registers only the path's loop state. -/
def Group.srWrite (g : Group) (pix n : Nat) (v : DWord) : Group :=
  let lp := (g.path pix).lp
  match n with
  | 0x10 =>
    let own := sliceLanes (g.path pix).slices
    { g with regs := { g.regs with emask := (g.regs.emask &&& ~~~own) ||| (v.setWidth 32 &&& own) } }
  | 0x11 => { g with regs := { g.regs with astat := v.setWidth 32 } }
  | 0x21 => g.updPath pix (fun p => { p with lp := { lp with loopc := v.setWidth 32 } })
  | 0x22 => g.updPath pix (fun p => { p with lp := { lp with loops := v.setWidth 57 } })
  | 0x23 => g.updPath pix (fun p => { p with lp := { lp with loope := v.setWidth 57 } })
  | 0x24 => g.updPath pix (fun p => { p with lp := { lp with loopp := v.setWidth 3 } })
  | 0x30 => { g with regs := { g.regs with trapvec := v } }
  | _ => g

/-! ### ASTAT in time (R114) -/

/-- The flags that clk before `clk` have ORed in are part of ASTAT; later ones are still due. -/
def GroupRegs.settled (r : GroupRegs) (clk : Nat) : GroupRegs :=
  { r with
    astat := (r.due.filter (fun x => decide (x.1 < clk))).foldl (fun a x => a ||| x.2.setWidth 32) r.astat,
    due := r.due.filter (fun x => decide (clk ≤ x.1)) }

/-- ASTAT with every flag that is due: what it holds once no instruction is unfinished. -/
def GroupRegs.finalAstat (r : GroupRegs) : BitVec 32 := r.due.foldl (fun a x => a ||| x.2.setWidth 32) r.astat

/-- The group with events that are ORed into ASTAT at the end of a clk (R114). -/
def Group.raise (g : Group) (clk : Nat) (ev : BitVec 8) : Group :=
  { g with regs := { g.regs with due := (clk, ev) :: g.regs.due } }

/-- The registers after an explicit write at `clk` that has changed them from `old`: what ASTAT was before the clk
is kept (R114). -/
def GroupRegs.stamped (r old : GroupRegs) (clk : Nat) : GroupRegs :=
  if r.astat = old.astat then r
  else { r with astatWas := (old.seen clk).astat, astatClk := clk + 1 }

/-- The lanes whose value is nonzero, as a predicate destination takes them (R78). -/
def predMask (act : Mask) (old : Mask) (f : Nat → DWord) : Mask :=
  (old &&& ~~~act) ||| maskOf (fun l => act.getLsbD l && (f l).setWidth 32 != (0 : Word))

/-- The group with destination `d` written by path `pix`: per lane in every lane of `act`, or once with
the lowest lane's value (R77). Nothing is written when `act` is empty, and P7 is never written. -/
def Group.write (g : Group) (pix : Nat) (act : Mask) (wide : Bool) (d : Operand) (f : Nat → DWord) : Group :=
  if act = 0 then g
  else
    match d with
    | .v n => { g with v := laneWrite wide n.toNat act f g.v }
    | .s n => { g with s := uniWrite wide n.toNat (f (lowest act)) g.s }
    | .q n => { g with q := laneWrite wide n.toNat act f g.q }
    | .x n => { g with x := laneWrite wide n.toNat act f g.x }
    | .sr n => g.srWrite pix n.toNat (f (lowest act))
    | .p n => if n = 7 then g else { g with p := spSet 0 g.p n.toNat (predMask act (g.rdP n.toNat) f) }
    | .imm _ => g

/-- What a duplicate takes in each lane: a scalar result goes to every active lane (R47). -/
def dupValue (act : Mask) (d : Operand) (f : Nat → DWord) (l : Nat) : DWord :=
  match d with
  | .s _ => f (lowest act)
  | .sr _ => f (lowest act)
  | _ => f l

/-- The group with a fixed-latency result written to its destination and its duplicate (R47). `c` holds
the Q entry of DUP 10. -/
def Group.writeDup (g : Group) (pix : Nat) (act : Mask) (wide : Bool) (h : Hdr) (d c : Operand)
    (f : Nat → DWord) : Group :=
  let g1 := g.write pix act wide d f
  if act = 0 then g1
  else if h.dup = 1 then
    { g1 with
        x := laneWrite false g1.regs.xp.toNat act (dupValue act d f) g1.x,
        regs := { g1.regs with xp := g1.regs.xp + 1 } }
  else if h.dup = 2 then
    match c with
    | .v n =>
      { g1 with q := laneWrite false n.toNat act (dupValue act d f) g1.q }
    | _ => g1
  else g1

/-- The trap of a special-register write whose value it does not take: ASTAT with a reserved bit or an
RM from 5 to 7 (R111). -/
def srValueBad (d : Operand) (v : DWord) : Bool :=
  match d with
  | .sr n => n == 0x11 && ((v.setWidth 32 : Word) &&& 0xF8FE0300 != 0 || decide (5 ≤ nbits v.toNat 26 24))
  | _ => false

/-! ### The registers that an instruction names (R35, R42, R49) -/

/-- An operand and how many consecutive registers of its file it stands for. -/
abbrev RegUse := Operand × Nat

/-- One register, or a pair. -/
def use1 (wide : Bool) (o : Operand) : RegUse := (o, if wide then 2 else 1)

/-- Shape of an `mma` (R159): K, bytes per row of A, bytes per column of B, and metadata registers;
none for a pair of formats that the table does not list. -/
def mmaShape (af bf : BitVec 4) (spr : BitVec 2) : Option (Nat × Nat × Nat × Nat) :=
  let f8 := fun (f : BitVec 4) => f == 12 || f == 13
  if af == 11 && bf == 11 then
    if spr = 0 then some (32, 64, 64, 0) else some (64, 64, 128, 2)
  else if f8 af && f8 bf then
    if spr = 0 then some (64, 64, 64, 0) else some (128, 64, 128, 4)
  else if spr ≠ 0 then none
  else if af == 14 && f8 bf then some (64, 32, 64, 0)
  else if f8 af && bf == 14 then some (64, 64, 32, 0)
  else if af == 14 && bf == 14 then some (128, 64, 64, 0)
  else none

/-- A matrix operand: a register block of `bytes` per row, or a descriptor pair (R160). -/
def matUse (bytes : Nat) (o : Operand) : RegUse :=
  match o with
  | .s _ => (o, 2)
  | _ => (o, bytes / 4)

/-- The registers that a step of `mma` or `mmloop` reads. -/
def mmaUses (w : XT) : List RegUse :=
  match mmaShape w.af w.bf w.spr with
  | none => []
  | some (_, ab, bb, m) => [matUse ab w.a, matUse bb w.b] ++ (if m = 0 then [] else [(w.c, m)])

/-- Sources A and B of an XF instruction. -/
def use2 (wide : Bool) (w : XF) : List RegUse := [use1 wide w.a, use1 wide w.b]

/-- The address operands of a memory instruction (R199). -/
def addrUses (sp : Space) (a b : Operand) : List RegUse :=
  [use1 (sp == .gbl || sp == .obj) a, (b, 1)]

/-- The sources of an instruction in the order A, B, C, D, a guard apart (R49). -/
def sources (i : Instr) : List RegUse :=
  match i with
  | .brx w => [(w.a, 2)]
  | .callx w => [(w.a, 2)]
  | .ret w => [(w.a, 2)]
  | .loop w => [(w.a, 1)]
  | .loopx w => [(w.a, 1)]
  | .add w => use2 (wideFmt w.df) w
  | .addc w => use2 (wideFmt w.df) w ++ [(w.c, 1)]
  | .sub w => use2 (wideFmt w.df) w
  | .subb w => use2 (wideFmt w.df) w ++ [(w.c, 1)]
  | .neg w => [use1 (wideFmt w.df) w.a]
  | .abs w => [use1 (wideFmt w.df) w.a]
  | .mul w => use2 (wideFmt w.df) w
  | .mulhi w => use2 (wideFmt w.df) w
  | .mulw w => use2 false w
  | .mad w => use2 (wideFmt w.df) w ++ [use1 (wideFmt w.df) w.c]
  | .madhi w => use2 (wideFmt w.df) w ++ [use1 (wideFmt w.df) w.c]
  | .div w => use2 (wideFmt w.df) w
  | .rem w => use2 (wideFmt w.df) w
  | .min w => use2 (wideFmt w.df) w
  | .max w => use2 (wideFmt w.df) w
  | .sad w => use2 (wideFmt w.df) w ++ [use1 (wideFmt w.df) w.c]
  | .dp4 w => use2 false w ++ [(w.c, 1)]
  | .dp2 w => use2 false w ++ [(w.c, 1)]
  | .and w => [(w.a, 1), (w.b, 1)]
  | .or w => [(w.a, 1), (w.b, 1)]
  | .xor w => [(w.a, 1), (w.b, 1)]
  | .not w => [(w.a, 1)]
  | .andn w => [(w.a, 1), (w.b, 1)]
  | .lop3 w => use2 false w ++ [(w.c, 1)]
  | .shl w => [(w.a, 1), (w.b, 1)]
  | .shr w => [(w.a, 1), (w.b, 1)]
  | .sar w => [(w.a, 1), (w.b, 1)]
  | .rotl w => [(w.a, 1), (w.b, 1)]
  | .fsh w => use2 false w ++ [(w.c, 1)]
  | .popc w => [(w.a, 1)]
  | .clz w => [(w.a, 1)]
  | .ctz w => [(w.a, 1)]
  | .brev w => [(w.a, 1)]
  | .bfe w => use2 false w
  | .bfi w => use2 false w ++ [(w.c, 1)]
  | .bperm w => use2 false w ++ [(w.c, 1)]
  | .cmp w => use2 (wideFmt w.sf) w
  | .sel w => use2 (wideFmt w.df) w ++ [(w.c, 1)]
  | .mov w => [(w.a, 1)]
  | .movs w => [(w.a, 1), (w.b, 1)]
  | .movv w => [(w.a, 1), (w.b, 1)]
  | .mvsp w => [(w.a, 2)]
  | .stsp w => [(w.a, 2)]
  | .pand w => [(w.a, 1), (w.b, 1)]
  | .por w => [(w.a, 1), (w.b, 1)]
  | .pxor w => [(w.a, 1), (w.b, 1)]
  | .pnot w => [(w.a, 1)]
  | .pmov w => [(w.a, 1)]
  | .shfl w => use2 false w
  | .vote w => [(w.a, 1)]
  | .redux w => [use1 (wideFmt w.df) w.a]
  | .scan w => [use1 (wideFmt w.df) w.a]
  | .bcast w => [(w.a, 1), (w.b, 1)]
  | .matchLanes w => [use1 (wideFmt w.df) w.a]
  | .fadd w => use2 (wideFmt w.df) w
  | .fsub w => use2 (wideFmt w.df) w
  | .fmul w => use2 (wideFmt w.df) w
  | .fma w => use2 (wideFmt w.df) w ++ [use1 (wideFmt w.df) w.c]
  | .fmin w => use2 (wideFmt w.df) w
  | .fmax w => use2 (wideFmt w.df) w
  | .fminn w => use2 (wideFmt w.df) w
  | .fmaxn w => use2 (wideFmt w.df) w
  | .fcmp w => use2 (wideFmt w.sf) w
  | .fclass w => [use1 (wideFmt w.sf) w.a]
  | .fscale w => [use1 (wideFmt w.df) w.a, (w.b, 1)]
  | .frnd w => [use1 (wideFmt w.df) w.a]
  | .rcp w => [(w.a, 1)]
  | .rsq w => [(w.a, 1)]
  | .sqrt w => [use1 (wideFmt w.df) w.a]
  | .fdiv w => use2 (wideFmt w.df) w
  | .ex2 w => [(w.a, 1)]
  | .lg2 w => [(w.a, 1)]
  | .sinpi w => [(w.a, 1)]
  | .cospi w => [(w.a, 1)]
  | .sincospi w => [(w.a, 1)]
  | .tanh w => [(w.a, 1)]
  | .cvt w => [use1 (wideFmt w.sf) w.a]
  | .cvtpk w => use2 false w ++ (if fmtBits w.df = 8 then [(w.d, 1)] else [])
  | .cvtcb w => [(w.a, 1), (w.b, 8)]
  | .rng w => [(w.a, 1), (w.b, 2), (w.c, 1)]
  | .sampleCat w => [(w.a, 1), (w.b, 1)]
  | .ldGbl w => addrUses .gbl w.a w.b
  | .ldScr w => addrUses .scr w.a w.b
  | .ldCls w => addrUses .cls w.a w.b
  | .ldObj w => addrUses .obj w.a w.b
  | .stGbl w => addrUses .gbl w.a w.b ++ [use1 (wideFmt w.rf) w.d]
  | .stScr w => addrUses .scr w.a w.b ++ [use1 (wideFmt w.rf) w.d]
  | .stCls w => addrUses .cls w.a w.b ++ [use1 (wideFmt w.rf) w.d]
  | .stObj w => addrUses .obj w.a w.b ++ [use1 (wideFmt w.rf) w.d]
  | .ldt w => [(w.a, 2), (w.b, w.mf.toNat)]
  | .stt w => [(w.a, 2), (w.b, w.mf.toNat), use1 (wideFmt w.rf) w.d]
  | .prf w => addrUses .gbl w.a w.b
  | .probe w => addrUses .gbl w.a w.b
  | .pgreq w => addrUses .gbl w.a w.b
  | .peerst w => addrUses .cls w.a w.b ++ [(w.d, 1)]
  | .atomAdd w => addrUses .gbl w.a w.b ++ [use1 (wideFmt w.mf) w.c]
  | .atomSub w => addrUses .gbl w.a w.b ++ [use1 (wideFmt w.mf) w.c]
  | .atomMin w => addrUses .gbl w.a w.b ++ [use1 (wideFmt w.mf) w.c]
  | .atomMax w => addrUses .gbl w.a w.b ++ [use1 (wideFmt w.mf) w.c]
  | .atomAnd w => addrUses .gbl w.a w.b ++ [use1 (wideFmt w.mf) w.c]
  | .atomOr w => addrUses .gbl w.a w.b ++ [use1 (wideFmt w.mf) w.c]
  | .atomXor w => addrUses .gbl w.a w.b ++ [use1 (wideFmt w.mf) w.c]
  | .atomExch w => addrUses .gbl w.a w.b ++ [use1 (wideFmt w.mf) w.c]
  | .atomIncw w => addrUses .gbl w.a w.b ++ [use1 (wideFmt w.mf) w.c]
  | .atomDecw w => addrUses .gbl w.a w.b ++ [use1 (wideFmt w.mf) w.c]
  | .cas w => [(w.a, 2), use1 (wideFmt w.mf) w.b, use1 (wideFmt w.mf) w.c]
  | .redAdd w => addrUses .gbl w.a w.b ++ [use1 (wideFmt w.mf) w.d]
  | .redSub w => addrUses .gbl w.a w.b ++ [use1 (wideFmt w.mf) w.d]
  | .redMin w => addrUses .gbl w.a w.b ++ [use1 (wideFmt w.mf) w.d]
  | .redMax w => addrUses .gbl w.a w.b ++ [use1 (wideFmt w.mf) w.d]
  | .redAnd w => addrUses .gbl w.a w.b ++ [use1 (wideFmt w.mf) w.d]
  | .redOr w => addrUses .gbl w.a w.b ++ [use1 (wideFmt w.mf) w.d]
  | .redXor w => addrUses .gbl w.a w.b ++ [use1 (wideFmt w.mf) w.d]
  | .redIncw w => addrUses .gbl w.a w.b ++ [use1 (wideFmt w.mf) w.d]
  | .redDecw w => addrUses .gbl w.a w.b ++ [use1 (wideFmt w.mf) w.d]
  | .ldacq w => addrUses .gbl w.a w.b
  | .strel w => addrUses .gbl w.a w.b ++ [use1 (wideFmt w.mf) w.d]
  | .bar w => [use1 (w.n == 2) w.a]
  | .bararv w => [use1 (w.n == 2) w.a, (w.b, 1)]
  | .barwt w => [use1 (w.n == 2) w.a, (w.b, 1)]
  | .barinit w => [use1 (w.n == 2) w.a, (w.b, 1)]
  | .waitw w => [(w.a, 2), use1 (wideFmt w.mf) w.b, (w.c, 1)]
  | .waitf w => [(w.a, 2), (w.c, 1)]
  | .fill w => [(w.a, 2), (w.b, 1), use1 (wideFmt w.mf) w.d]
  | .syncinit w => [(w.a, 2), (w.b, 1), use1 (wideFmt w.mf) w.d]
  | .semop w => [(w.a, 1), (w.b, 1)]
  | .semwait w => [(w.a, 1), (w.b, 1), (w.c, 1)]
  | .xkick w => [(w.a, 1)]
  | .cbld w => [matUse 4 w.a]
  | .drainld w => [(w.a, 2)]
  | .mma w => mmaUses w
  | .mmloop w => [(w.d, 1)]
  | .tmovPut w => [(w.a, 32)]
  | .tmovDrain w => [(w.a, 1), (w.b, 8)]
  | .tsacc w => [(w.a, 1), (w.b, 1)]
  | .spawn w => [(w.a, 1), (w.b, 12)]
  | .spawnx w => [(w.a, 1), (w.b, 12)]
  | .tasknew w => [(w.a, 2), (w.b, 1)]
  | .taskget w => [(w.a, 2)]
  | .tasksync w => [(w.a, 2), (w.b, 1)]
  | .promote w => [(w.a, 2), (w.b, 1)]
  | .csrrd w => if w.k.toNat < 0x100 then [(.sr (w.k.setWidth 8), 1)] else []
  | .csrwr w => [use1 (decide (0x100 ≤ w.k.toNat) || sr64 (w.k.setWidth 8)) w.a]
  | .logmark w => if w.a = unused then [] else [(w.a, 1)]
  | _ => []

/-- Whether an instruction's rounding mode is ASTAT.RM, which it reads when it issues (R115). -/
def readsRm (i : Instr) : Bool :=
  match i with
  | .fadd w => w.rnd == 5
  | .fsub w => w.rnd == 5
  | .fmul w => w.rnd == 5
  | .fma w => w.rnd == 5
  | .fscale w => w.rnd == 5
  | .frnd w => w.rnd == 5
  | .sqrt w => w.rnd == 5
  | .fdiv w => w.rnd == 5
  | .sinpi w => w.rnd == 5
  | .cospi w => w.rnd == 5
  | .sincospi w => w.rnd == 5
  | .cvt w => w.rnd == 5
  | .cvtpk w => w.rnd == 5
  | .cvtcb w => w.rnd == 5
  | .ldGbl w => w.rnd == 5
  | .ldScr w => w.rnd == 5
  | .ldCls w => w.rnd == 5
  | .ldObj w => w.rnd == 5
  | .stGbl w => w.rnd == 5
  | .stScr w => w.rnd == 5
  | .stCls w => w.rnd == 5
  | .stObj w => w.rnd == 5
  | .ldt w => w.rnd == 5
  | .stt w => w.rnd == 5
  | _ => false

/-- The destination of an instruction that writes a register when it issues, and its registers. -/
def fixedDest (i : Instr) : Option RegUse :=
  match i with
  | .call w => some (w.d, 2)
  | .callx w => some (w.d, 2)
  | .add w => some (use1 (wideFmt w.df) w.d)
  | .addc w => some (use1 (wideFmt w.df) w.d)
  | .sub w => some (use1 (wideFmt w.df) w.d)
  | .subb w => some (use1 (wideFmt w.df) w.d)
  | .neg w => some (use1 (wideFmt w.df) w.d)
  | .abs w => some (use1 (wideFmt w.df) w.d)
  | .mul w => some (use1 (wideFmt w.df) w.d)
  | .mulhi w => some (use1 (wideFmt w.df) w.d)
  | .mulw w => some (use1 (wideFmt w.df) w.d)
  | .mad w => some (use1 (wideFmt w.df) w.d)
  | .madhi w => some (use1 (wideFmt w.df) w.d)
  | .div w => some (use1 (wideFmt w.df) w.d)
  | .rem w => some (use1 (wideFmt w.df) w.d)
  | .min w => some (use1 (wideFmt w.df) w.d)
  | .max w => some (use1 (wideFmt w.df) w.d)
  | .sad w => some (use1 (wideFmt w.df) w.d)
  | .dp4 w => some (w.d, 1)
  | .dp2 w => some (w.d, 1)
  | .and w => some (w.d, 1)
  | .or w => some (w.d, 1)
  | .xor w => some (w.d, 1)
  | .not w => some (w.d, 1)
  | .andn w => some (w.d, 1)
  | .lop3 w => some (w.d, 1)
  | .shl w => some (w.d, 1)
  | .shr w => some (w.d, 1)
  | .sar w => some (w.d, 1)
  | .rotl w => some (w.d, 1)
  | .fsh w => some (w.d, 1)
  | .popc w => some (w.d, 1)
  | .clz w => some (w.d, 1)
  | .ctz w => some (w.d, 1)
  | .brev w => some (w.d, 1)
  | .bfe w => some (w.d, 1)
  | .bfi w => some (w.d, 1)
  | .bperm w => some (w.d, 1)
  | .cmp w => some (w.d, 1)
  | .sel w => some (use1 (wideFmt w.df) w.d)
  | .mov w => some (w.d, 1)
  | .movi w => some (w.d, 1)
  | .movs w => some (w.d, 1)
  | .movv w => some (w.d, 1)
  | .mvsp w => some (w.d, 2)
  | .stsp w => some (w.d, 1)
  | .pand w => some (w.d, 1)
  | .por w => some (w.d, 1)
  | .pxor w => some (w.d, 1)
  | .pnot w => some (w.d, 1)
  | .pmov w => some (w.d, 1)
  | .shfl w => some (w.d, 1)
  | .vote w => some (w.d, 1)
  | .redux w => some (use1 (wideFmt w.df) w.d)
  | .scan w => some (use1 (wideFmt w.df) w.d)
  | .bcast w => some (w.d, 1)
  | .matchLanes w => some (w.d, 1)
  | .fadd w => some (use1 (wideFmt w.df) w.d)
  | .fsub w => some (use1 (wideFmt w.df) w.d)
  | .fmul w => some (use1 (wideFmt w.df) w.d)
  | .fma w => some (use1 (wideFmt w.df) w.d)
  | .fmin w => some (use1 (wideFmt w.df) w.d)
  | .fmax w => some (use1 (wideFmt w.df) w.d)
  | .fminn w => some (use1 (wideFmt w.df) w.d)
  | .fmaxn w => some (use1 (wideFmt w.df) w.d)
  | .fcmp w => some (w.d, 1)
  | .fclass w => some (w.d, 1)
  | .fscale w => some (use1 (wideFmt w.df) w.d)
  | .frnd w => some (use1 (wideFmt w.df) w.d)
  | .rcp w => some (w.d, 1)
  | .rsq w => some (w.d, 1)
  | .sqrt w => some (use1 (wideFmt w.df) w.d)
  | .fdiv w => some (use1 (wideFmt w.df) w.d)
  | .ex2 w => some (w.d, 1)
  | .lg2 w => some (w.d, 1)
  | .sinpi w => some (w.d, 1)
  | .cospi w => some (w.d, 1)
  | .sincospi w => some (w.d, 1)
  | .tanh w => some (w.d, 1)
  | .cvt w => some (use1 (wideFmt w.df) w.d)
  | .cvtpk w => some (w.d, 1)
  | .cvtcb w => some (use1 (wideFmt w.df) w.d)
  | .rng w => some (w.d, 4)
  | .trng w => some (w.d, 1)
  | .sampleCat w => some (w.d, 1)
  | .rstlbl _ => some (.sr 0x20, 1)
  | .stage w => some (w.d, 1)
  | .csrrd w =>
    let wide := decide (0x100 ≤ w.k.toNat) || sr64 (w.k.setWidth 8)
    some (w.d, match w.d with
      | .v n => if wide && evenIx n then 2 else 1
      | .s n => if wide && evenIx n then 2 else 1
      | _ => 1)
  | .csrwr w => if w.k.toNat < 0x100 then some (.sr (w.k.setWidth 8), 1) else none
  | _ => none

/-- The registers of the hardware loop (R79). -/
def loopRegs : List RegUse := [(.sr 0x21, 1), (.sr 0x22, 1), (.sr 0x23, 1), (.sr 0x24, 1)]

/-- Every register that an instruction writes when it issues: its destination, the carry of `addc` and
`subb` (R122), the second result of `sincospi` (R146), and the loop state that `loop` and `loopx` set (R90). -/
def fixedDests (i : Instr) : List RegUse :=
  (fixedDest i).toList ++
  match i with
  | .addc w => [(w.c, 1)]
  | .subb w => [(w.c, 1)]
  | .sincospi w => [(w.c, 1)]
  | .loop _ => loopRegs
  | .loopx _ => loopRegs
  | _ => []

/-- The destination of an instruction that writes a register when it completes or when its wait ends. R334
publishes no latency for what `bararv`, `waitw`, `waitf`, `semwait` and `taskget` write when their path goes on: the
model lets the path's next instruction read it, with no entry of the scoreboard (log entry 85). -/
def lateDest (i : Instr) : List RegUse :=
  match i with
  | .ldGbl w => use1 (wideFmt w.rf) w.d :: (if w.prb then [(w.c, 1)] else [])
  | .ldScr w => use1 (wideFmt w.rf) w.d :: (if w.prb then [(w.c, 1)] else [])
  | .ldCls w => use1 (wideFmt w.rf) w.d :: (if w.prb then [(w.c, 1)] else [])
  | .ldObj w => use1 (wideFmt w.rf) w.d :: (if w.prb then [(w.c, 1)] else [])
  | .ldt w => use1 (wideFmt w.rf) w.d :: (if w.prb then [(w.c, 1)] else [])
  | .probe w => [(w.d, 1)]
  | .atomAdd w => [use1 (wideFmt w.mf) w.d]
  | .atomSub w => [use1 (wideFmt w.mf) w.d]
  | .atomMin w => [use1 (wideFmt w.mf) w.d]
  | .atomMax w => [use1 (wideFmt w.mf) w.d]
  | .atomAnd w => [use1 (wideFmt w.mf) w.d]
  | .atomOr w => [use1 (wideFmt w.mf) w.d]
  | .atomXor w => [use1 (wideFmt w.mf) w.d]
  | .atomExch w => [use1 (wideFmt w.mf) w.d]
  | .atomIncw w => [use1 (wideFmt w.mf) w.d]
  | .atomDecw w => [use1 (wideFmt w.mf) w.d]
  | .cas w => [use1 (wideFmt w.mf) w.d]
  | .ldacq w => [use1 (wideFmt w.mf) w.d]
  | .bararv w => [(w.d, 1)]
  | .waitw w => [use1 (wideFmt w.mf) w.d]
  | .waitf w => [use1 (wideFmt w.mf) w.d]
  | .semop w => [(w.d, 1)]
  | .semwait w => [(w.d, 1)]
  | .tmovGet w => [(w.d, 32)]
  | .taskget _ => [(.s 0, 16)]
  | _ => []

/-- The single registers that an operand and a count stand for; a special register is one of its own width. -/
def regsOf (u : RegUse) : List Operand :=
  match u.1 with
  | .v n => ((upFrom n.toNat u.2).filter (fun k => decide (k < 1024))).map (fun k => .v (BitVec.ofNat 10 k))
  | .s n => ((upFrom n.toNat u.2).filter (fun k => decide (k < 1024))).map (fun k => .s (BitVec.ofNat 10 k))
  | .q n => (upFrom n.toNat u.2).map (fun k => .q (BitVec.ofNat 5 k))
  | .x n => (upFrom n.toNat u.2).map (fun k => .x (BitVec.ofNat 2 k))
  | .sr n => [.sr n]
  | .p n => [.p n]
  | .imm _ => []

/-- The register-cache line of a register: vector lines 0 to 511, scalar lines 512 to 527 (R32). -/
def lineOf : Operand → Option Nat
  | .v n => some (n.toNat / 2)
  | .s n => some (512 + n.toNat / 64)
  | _ => none

/-- Whether a line lies in a launch's resident footprint (R33). -/
def inFootprint (h : KHeader) (line : Nat) : Bool :=
  if line < 512 then decide (2 * line < h.vregs) else decide (64 * (line - 512) < h.sregs)

end Sys2Proof.Machine
end

