-- ==== Sys2Proof/Machine/Views.lean ====
section
/-! DEFINITION. The consistency model (R220 to R240): views, which say what happens before an access; the agents that
a scope contains; what releases hand on to acquires; and what an access adds. A view bounds, byte by byte, the stamp of
the write that a later read returns (log entry 51). -/

namespace Sys2Proof.Machine

/-! ### Views (R224, R226) -/

/-- A view with the bound of one byte raised. -/
def viewRaise (v : View) (a n : Nat) : View := spSet 0 v a (max (spGet 0 v a) n)

/-- What either of two views says. -/
def viewJoin (v w : View) : View := w.foldl (fun v x => viewRaise v x.1 x.2) v

/-- The view of an access of a list of bytes, of the writes with the stamps of a list. -/
def viewOf : List Nat → List Nat → View
  | k :: ks, n :: ns => viewRaise (viewOf ks ns) k n
  | _, _ => []

/-! ### Scopes (R227, R238) -/

/-- Whether an agent is one of the module's own (R220). -/
def AgentKind.inModule : AgentKind → Bool
  | .hart => false
  | .pcie => false
  | _ => true

/-- Whether agent `b` lies within a scope of agent `a` (R227). A release or acquire at LANE synchronises with nothing.
A hop scope holds the agents of DEVICE, and those of the modules within its distance (R238), which no state of one
module shows. -/
def Agent.within (a b : Agent) (scope : BitVec 3) (sk : Bool) : Bool :=
  let paths := a.kind == .path && b.kind == .path
  if sk then a.kind.inModule && b.kind.inModule
  else
    match scope.toNat with
    | 1 => paths && a.gid == b.gid
    | 2 => paths && a.die == b.die && a.lchid == b.lchid && a.block == b.block
    | 3 => (a.kind == .path || a.kind == .engine) && (b.kind == .path || b.kind == .engine) &&
        a.die == b.die && a.core / 4 == b.core / 4
    | 4 => a.kind.inModule && b.kind.inModule && a.die == b.die
    | 5 => a.kind.inModule && b.kind.inModule
    | 6 => true
    | _ => false

/-- Whether a release synchronises with an acquire of an agent that returns its value: each lies within the other's
scope (R223). -/
def Msg.reaches (m : Msg) (a : Agent) (scope : BitVec 3) (sk : Bool) : Bool :=
  m.who.within a m.scope m.sk && a.within m.who scope sk

/-- What an acquire of an agent learns from the releases that its value carries (R223, R224). -/
def acquired (a : Agent) (scope : BitVec 3) (sk : Bool) (ms : List Msg) : View :=
  (ms.filter (fun m => m.reaches a scope sk)).foldl (fun v m => viewJoin v m.view) []

/-- The agent that a path is (R220). A group without a record lies where it last was. -/
def Group.agent (g : Group) (pix : Nat) : Agent :=
  let pl := (g.place.orElse (fun _ => g.last)).getD default
  { kind := .path, die := g.die, core := pl.core, gid := g.gid, lchid := g.lchid, block := g.block, path := pix }

/-- The engine of the core that holds a group: its TCE, or its partition's drain engine (R220, R227). -/
def Group.engineAgent (g : Group) : Agent := { g.agent 8 with kind := .engine }

/-- A die's headstock (R227). -/
def headAgent (die : Nat) : Agent :=
  { kind := .headstock, die := die, core := 0, gid := 0, lchid := 0, block := 0, path := 0 }

/-- An agent outside the dies: a hart, a PCIe requester, or the spline port. No rule says on which die the port lies
(R227): the model puts it on die 0, so DIE scope of die 0 alone contains it (DESIGN CHOICE, log entry 86). -/
def outerAgent (k : AgentKind) : Agent :=
  { kind := k, die := 0, core := 0, gid := 0, lchid := 0, block := 0, path := 0 }

/-! ### What a byte may be read as (R226) -/

/-- The history of a byte with a write of it: its stamp, and before the byte's first write what the byte held. -/
def histNote (old : Byte) (stamp : Nat) (h : Sparse (List (Nat × Byte))) (k : Nat) (b : Byte) : Sparse (List (Nat × Byte)) :=
  let past := match spGet [] h k with
    | [] => [(0, old)]
    | l => l
  spSet [] h k ((stamp, b) :: past)

/-- The writes of a byte, newest first, that a read may return: none that a write which happens before the read
follows in coherence order (R226). -/
def readable (bound : Nat) : List (Nat × Byte) → List (Nat × Byte)
  | [] => []
  | e :: r => if e.1 ≤ bound then [e] else e :: readable bound r

/-- Whether the writes picked for the bytes of an element show part of one write: a byte with it or a later one, and
another byte of it with an earlier one (R202). -/
def torn (hs : List (List (Nat × Byte))) (ps : List (Nat × Byte)) : Bool :=
  (hs.zip ps).any (fun x => x.1.any (fun e => decide (e.1 ≤ x.2.1) &&
    (hs.zip ps).any (fun y => y.1.any (fun f => f.1 == e.1) && decide (y.2.1 < e.1))))

/-- The releases that the writes of some stamps hand on (R223, R229). -/
def State.msgsOf (s : State) (stamps : List Nat) : List Msg := stamps.eraseDups.flatMap (fun n => spGet [] s.msgs n)

/-- What the releases of a barrier object's phase or of a semaphore hand on, by a key of their own (R258, R260). -/
def State.objSays (s : State) (k : Nat) : List Msg := spGet [] s.objMsgs k

/-- The state in which releases of a key hand on more. -/
def State.objTell (s : State) (k : Nat) (ms : List Msg) : State :=
  if ms = [] then s else { s with objMsgs := spSet [] s.objMsgs k (ms ++ s.objSays k) }

/-- The key of a semaphore's releases. -/
def semKey (n : Nat) : Nat := 2 ^ 100 + n

/-- The key of a barrier object's arrivals in a phase that has completed, by its number, or (none) in the current one. -/
def barKey (obj : Nat) (phase : Option Nat) : Nat := 2 ^ 33 * obj + (phase.map (fun k => k + 1)).getD 0

/-- The state in which the current phase of an object, number `phase`, has completed. -/
def State.barDone (s : State) (obj phase : Nat) : State :=
  let ms := s.objSays (barKey obj none)
  { s with objMsgs := spSet [] (spSet [] s.objMsgs (barKey obj none) []) (barKey obj (some phase)) ms }

/-- The state in which an object's releases are forgotten: it begins anew (R255). -/
def State.barFresh (s : State) (obj : Nat) : State :=
  { s with objMsgs := s.objMsgs.filter (fun x => x.1 / 2 ^ 33 != obj) }

/-- The latest write as a release, or as the next of a release sequence (R229). -/
def State.releasing (s : State) (ms : List Msg) : State :=
  if ms = [] then s else { s with msgs := (s.stamp, ms) :: s.msgs }

/-! ### What an access adds (R221, R222, R224) -/

/-- A release fence that an earlier access completes. -/
def RelFence.hear (f : RelFence) (id : Nat) (v : View) : RelFence :=
  if f.olds.contains id then { f with view := viewJoin f.view v } else f

/-- What an access of a path has written and read (`v`), and learnt as an acquire (`got`), or heard as a relaxed read:
to the paths that it precedes, and to the accesses and fences that follow it in their program order. -/
def Group.learn (g : Group) (id : Nat) (v got : View) (heard : List Msg) : Group :=
  match findBy (fun (o : Op) => o.id == id) g.ops with
  | none => g
  | some o =>
    let all := viewJoin v got
    { g with
      paths := (g.paths.zip (upFrom 0 8)).map (fun (x : Path × Nat) =>
        if o.past.getLsbD x.2 then
          { x.1 with
            view := viewJoin x.1.view all, heard := heard ++ x.1.heard,
            fences := x.1.fences.map (fun f => f.hear id all) }
        else x.1),
      ops := g.ops.map (fun y =>
        if y.id = id then { y with own := viewJoin y.own all }
        else if y.olds.contains id then
          { y with view := viewJoin y.view all, fences := y.fences.map (fun f => f.hear id all) }
        else y) }

/-- A path with a view added to what precedes its next access. -/
def Path.hears (p : Path) (v : View) : Path := { p with view := viewJoin p.view v }

/-- What the sequentially consistent operations performed so far say to one of an agent (R228). -/
def State.scView (s : State) (a : Agent) (scope : BitVec 3) (sk : Bool) : View := acquired a scope sk s.sc

/-- The number of a counter in the order of the CTR codes (R44). -/
def Ctr.code : Ctr → Nat
  | .ld => 0
  | .st => 1
  | .sp => 2
  | .cp => 3
  | .mx => 4
  | .at => 5

/-- What the operations of a counter that a `waitc` covers wrote and read (R51, R233): all but the youngest `n` of those
that have issued, outstanding or complete. -/
def Group.viewOfCtr (g : Group) (c : Ctr) (n : Nat) : View :=
  let mine := g.recent.filter (fun x => x.1 == c.code)
  let ids := mine.map (fun x => x.2.1) ++ (g.ops.filter (fun o => o.ctr == c && !o.done)).map (fun o => o.id)
  let open_ := fun (id : Nat) => decide ((ids.filter (fun y => decide (id < y))).length < n)
  mine.foldl (fun v x => if open_ x.2.1 then v else viewJoin v x.2.2) (getAt [] g.views c.code)

/-- The group with the work of a completed operation in its counter's view. A `waitc` leaves at most 63 operations
uncovered, so the work of older ones is kept together. -/
def Group.addView (g : Group) (k id : Nat) (v : View) : Group :=
  let all := (k, id, v) :: g.recent
  let mine := all.filter (fun x => x.1 == k)
  if mine.length ≤ 63 then { g with recent := all }
  else
    let old := mine.foldl (fun m x => min m x.2.1) id
    let vs := if g.views.length = 6 then g.views else List.replicate 6 []
    { g with
      recent := all.filter (fun x => !(x.1 == k && x.2.1 == old)),
      views := setAt vs k (mine.foldl (fun v x => if x.2.1 = old then viewJoin v x.2.2 else v) (getAt [] vs k)) }

end Sys2Proof.Machine
end

