-- ==== Sys2Proof/Machine/Memory.lean ====
section
/-! DEFINITION. Memory as the machine reaches it: physical bytes with their poison and the wakes of the
rest table (R203, R252, R409), Sv57 translation and its TLBs (R352 to R361), objects (R367, R368),
scratchpads (R34, R198) and the rotation of R206. What an unlisted byte reads as is ONE value, zero
(log entry 8). -/

namespace Sys2Proof.Machine

/-! ### Bytes -/

/-- What a byte of memory that nothing has written reads as (log entry 8). -/
def memDefault : Byte := 0

/-- `n` bytes from address `a`. -/
def rdBytes (m : Sparse Byte) : Nat → Nat → List Byte
  | _, 0 => []
  | a, n + 1 => spGet memDefault m a :: rdBytes m (a + 1) n

/-- The map with bytes stored from address `a`. -/
def wrBytes (m : Sparse Byte) : Nat → List Byte → Sparse Byte
  | _, [] => m
  | a, b :: r => wrBytes (spSet memDefault m a b) (a + 1) r

/-- The canonical form of a memory. -/
def Memory.wf (m : Sparse Byte) : Bool := spWf memDefault m

/-- The half of a byte in a line's poison record: bit 2·k is the low nibble of byte k, and bit 2·k + 1 the high one. -/
def halfBit (a : Nat) (hi : Bool) : BitVec 128 := 1 <<< (2 * (a % 64) + (if hi then 1 else 0))

/-- The poison record with bytes from `a` marked as stored: a line whose every byte has been stored
since it was poisoned is clear (R409). -/
def unpoison (p : Sparse (BitVec 128)) : Nat → Nat → Sparse (BitVec 128)
  | _, 0 => p
  | a, n + 1 =>
    unpoison (spSet 0 p (a / 64) (spGet 0 p (a / 64) &&& ~~~(halfBit a false ||| halfBit a true))) (a + 1) n

/-- The poison record with one half of a byte as it was in an earlier one: a store of the other nibble has not covered it. -/
def halfKept (old p : Sparse (BitVec 128)) (a : Nat) (hi : Bool) : Sparse (BitVec 128) :=
  spSet 0 p (a / 64) (spGet 0 p (a / 64) ||| (spGet 0 old (a / 64) &&& halfBit a hi))

/-- The poison record with the line of a byte poisoned anew. -/
def poisonLine (p : Sparse (BitVec 128)) (a : Nat) : Sparse (BitVec 128) := spSet 0 p (a / 64) (BitVec.allOnes 128)

/-- Whether a byte of the range lies in a poisoned line. -/
def poisoned (p : Sparse (BitVec 128)) : Nat → Nat → Bool
  | _, 0 => false
  | a, n + 1 => spGet 0 p (a / 64) != 0 || poisoned p (a + 1) n

/-- A place in memory: module memory, memory behind the PCIe outbound window, or memory of another
module behind the spline map (R356). -/
inductive PLoc where
  | mem (a : Nat)
  | host (a : Nat)
  | remote (a : Nat)
  deriving DecidableEq, Repr, Inhabited

/-- The number by which the rest table and the version table know the 64-byte line of a place. -/
def PLoc.line : PLoc → Nat
  | .mem a => a / 64
  | .host a => 2 ^ 61 + a / 64
  | .remote a => 2 ^ 60 + a / 64

/-- The number by which the poison record knows the byte of a place. -/
def PLoc.polled (p : PLoc) : Nat :=
  match p with
  | .mem a => a
  | .host a => 64 * p.line + a % 64
  | .remote a => 64 * p.line + a % 64

/-- The place `k` bytes further on. -/
def PLoc.plus : PLoc → Nat → PLoc
  | .mem a, k => .mem (a + k)
  | .host a, k => .host (a + k)
  | .remote a, k => .remote (a + k)

/-- The number by which the consistency model knows the byte of a place: in module memory its physical address. -/
def PLoc.cell : PLoc → Nat
  | .mem a => a
  | .remote a => 2 ^ 70 + a
  | .host a => 2 ^ 71 + a

/-- The number by which the consistency model knows a byte of a block's scratchpad in a role. -/
def scrCell (die lchid block role o : Nat) : Nat :=
  2 ^ 80 * (1 + ((block * 2 ^ 32 + lchid) * 4 + die) * 4 + role) + o

/-- The scratchpad allocation of a role of a block (R34). -/
def State.alloc (s : State) (die lchid block role : Nat) : Option Alloc :=
  match s.blockOf die lchid block with
  | some b => findBy (fun (a : Alloc) => a.role == role && !a.freed) b.allocs
  | none => none

/-- What the byte of a number holds now. -/
def State.byteAt (s : State) (k : Nat) : Byte :=
  if k < 2 ^ 70 then spGet memDefault s.mem k
  else if k < 2 ^ 71 then spGet memDefault s.remoteMem (k - 2 ^ 70)
  else if k < 2 ^ 80 then spGet memDefault s.hostMem (k - 2 ^ 71)
  else
    let c := k / 2 ^ 80 - 1
    match s.alloc (c / 4 % 4) (c / 16 % 2 ^ 32) (c / 2 ^ 36) (c % 4) with
    | some a => spGet memDefault a.bytes (k % 2 ^ 80)
    | none => memDefault

/-- A write of bytes, by their numbers, at one place in the coherence orders of all of them (R202, R226). It is noted
before the bytes change. -/
def State.ordered (s : State) (ks : List Nat) (bs : List Byte) : State :=
  { s with
    stamp := s.stamp + 1,
    hist := (ks.zip bs).foldl (fun h x => histNote (s.byteAt x.1) (s.stamp + 1) h x.1 x.2) s.hist }

/-- The bytes at a place. -/
def State.rdLoc (s : State) (p : PLoc) (n : Nat) : List Byte :=
  match p with
  | .mem a => rdBytes s.mem a n
  | .host a => rdBytes s.hostMem a n
  | .remote a => rdBytes s.remoteMem a n

/-- The rest-table entries of a line, woken by a write that is performed to it (R252). -/
def wakeLine (line : Nat) (r : List RestEntry) : List RestEntry :=
  updBy (fun e => e.key == RestKey.line line) (fun e => { e with woken := true }) r

/-- A write performed at a place: the bytes, the poison that it clears, the waits that it wakes, and its place in
coherence order (R226). An access lies within one line. -/
def State.wrLoc (s : State) (p : PLoc) (bs : List Byte) : State :=
  let s1 := { s.ordered (upFrom p.cell bs.length) bs with
    rest := wakeLine p.line s.rest, poison := unpoison s.poison p.polled bs.length }
  match p with
  | .mem a => { s1 with mem := wrBytes s.mem a bs }
  | .host a => { s1 with hostMem := wrBytes s.hostMem a bs }
  | .remote a => { s1 with remoteMem := wrBytes s.remoteMem a bs }

/-- A write performed to bytes of module memory that lie apart, as the bytes of one element of an object may (R202,
R367). -/
def State.wrScattered (s : State) (as : List Nat) (bs : List Byte) : State :=
  (as.zip bs).foldl (fun (t : State) x =>
    { t with mem := wrBytes t.mem x.1 [x.2], poison := unpoison t.poison x.1 1,
             rest := wakeLine (x.1 / 64) t.rest }) (s.ordered as bs)

/-! ### What a byte may be read as (R226) -/

/-- The writes of a byte as a read meets them, newest first. -/
def State.writesOf (s : State) (k : Nat) : List (Nat × Byte) :=
  match spGet [] s.hist k with
  | [] => [(0, s.byteAt k)]
  | l => l

/-- The newest write of a byte. -/
def State.newest (s : State) (k : Nat) : Nat × Byte := getAt (0, 0) (s.writesOf k) 0

/-- A write that a read of one byte may return, by a free choice (R226, R232). `floor` bounds it as a view does, and `n`
numbers the choice in its step. -/
def State.pickByte (s : State) (v : View) (floor n k : Nat) : Nat × Byte :=
  match readable (max (spGet 0 v k) floor) (s.writesOf k) with
  | [x] => x
  | cs => getAt (0, 0) cs (Config.pick (s.tick + 2 ^ 67 * (n + 1)) % cs.length)

/-- The writes that a read of an element's bytes returns: for each byte one that R226 allows, and never part of
one write (R202, R230). `n` numbers the read in its step. -/
def State.pickBytes (s : State) (v : View) (floor n : Nat) (ks : List Nat) : List (Nat × Byte) :=
  let ps := (ks.zip (upFrom 0 ks.length)).map (fun x => s.pickByte v floor (16 * n + x.2) x.1)
  if torn (ks.map s.writesOf) ps then ks.map s.newest else ps

/-- Whether a read of `n` bytes at a place consumes poison (R409). -/
def State.poisonedAt (s : State) (p : PLoc) (n : Nat) : Bool := poisoned s.poison p.polled n

/-- A write of bytes at a physical address of module memory that may cross lines, byte by byte. -/
def State.wrMem (s : State) : Nat → List Byte → State
  | _, [] => s
  | a, b :: r => (s.wrLoc (.mem a) [b]).wrMem (a + 1) r

/-- Bytes written in one line at one moment, or byte by byte where they cross a line. -/
def State.wrWhole (s : State) (a : Nat) (bs : List Byte) : State :=
  if a % 64 + bs.length ≤ 64 then s.wrLoc (.mem a) bs else s.wrMem a bs

/-- The number in `n` bytes of module memory. -/
def State.rdNum (s : State) (a n : Nat) : Nat := ofLe (rdBytes s.mem a n)

/-! ### Translation (R352 to R361) -/

/-- What an access needs of its page (R357): its permissions, and `d` where a store uses the leaf (R358). -/
structure Need where
  r : Bool
  w : Bool
  x : Bool
  d : Bool := false
  deriving DecidableEq, Repr

/-- What is asked of a page before it is known that a store uses it. -/
def Need.asks (n : Need) : Need := { n with d := false }

/-- A translated access: the place, and PTE bits [62:54] of its page. -/
structure Xlat where
  loc : PLoc
  attr : BitVec 9
  deriving DecidableEq, Repr, Inhabited

/-- KIND of a page's attributes. -/
def attrKind (a : BitVec 9) : Nat := nbits a.toNat 6 4
/-- SYNC of a page's attributes. -/
def attrSync (a : BitVec 9) : Bool := a.getLsbD 3
/-- NOLOG of a page's attributes. -/
def attrNolog (a : BitVec 9) : Bool := a.getLsbD 2
/-- PBMT of a page's attributes. -/
def attrPbmt (a : BitVec 9) : Nat := nbits a.toNat 8 7

/-- The outcome of a translation: the place, a fault, or a wait for an ATS response (R352). -/
inductive XRes where
  | ok (x : Xlat)
  | fault (c : Cause)
  | wait
  deriving DecidableEq, Repr

/-- A leaf that a walk found: the address and value of its entry, and its level (0 for 4 KiB). -/
structure Leaf where
  at_ : Nat
  pte : Nat
  level : Nat
  deriving DecidableEq, Repr

/-- The walk of Sv57 from the table at page `ppn` of `level` (R353, R354). -/
def walkFrom (m : Sparse Byte) (vpn : Nat) : Nat → Nat → Except Cause Leaf
  | 0, _ => .error .memProtection
  | level + 1, ppn =>
    let a := 4096 * ppn + 8 * (vpn / 512 ^ level % 512)
    let pte := ofLe (rdBytes m a 8)
    if !nbit pte 0 then .error .memNotPresent
    else if nbits pte 3 1 = 0 then
      if nbits pte 63 54 ≠ 0 || nbits pte 7 6 ≠ 0 then .error .memProtection
      else walkFrom m vpn level (nbits pte 53 10)
    else if !nbit pte 1 && nbit pte 2 then .error .memProtection
    else if nbits pte 53 10 % 512 ^ level ≠ 0 then .error .memProtection
    else .ok { at_ := a, pte := pte, level := level }

/-- The checks of a leaf after V: U, the permissions, then N, PBMT and KIND (R354, R357). -/
def leafOk (pte : Nat) (n : Need) : Bool :=
  nbit pte 4 && (!n.r || nbit pte 1) && (!n.w || nbit pte 2) && (!n.x || nbit pte 3) &&
  !nbit pte 63 && nbits pte 62 61 != 3 && decide (nbits pte 60 58 ≤ 2)

/-- The page number from which the model counts the pages of PCIe addresses that an ATS response gives (R352). -/
def atsBase : Nat := 2 ^ 44

/-- The place of a byte of a page. Of an address in the outbound window bits [47:0] are the PCIe address (R394); one that an
ATS response gives goes out as it is (R352). -/
def placeOf (attr : BitVec 9) (pa : Nat) : PLoc :=
  match attrKind attr with
  | 1 => .remote pa
  | 2 => .host (if pa < 4096 * atsBase then pa % 2 ^ 48 else pa - 4096 * atsBase)
  | _ => .mem pa

/-- The place that a TLB entry gives an address. -/
def TlbEntry.xlat (e : TlbEntry) (va : Nat) : Xlat :=
  { loc := placeOf e.attr (4096 * (e.ppn + (va / 4096 - e.vpn)) + va % 4096), attr := e.attr }

/-- Whether a TLB entry serves an access. -/
def TlbEntry.hits (e : TlbEntry) (die core tlb pasid gen vpn : Nat) : Bool :=
  e.die == die && e.core == core && e.tlb == tlb && e.pasid == pasid && e.gen == gen &&
  decide (e.vpn ≤ vpn) && decide (vpn < e.vpn + e.pages)

/-- Whether a TLB entry grants what an access needs, the dirty bit of a write included (R358). -/
def TlbEntry.grants (e : TlbEntry) (n : Need) : Bool :=
  (!n.r || e.r) && (!n.w || e.w) && (!n.d || e.dirty) && (!n.x || e.x)

/-- The state with a TLB entry in place of those that served the same page. -/
def State.fillTlb (s : State) (e : TlbEntry) : State :=
  { s with tlb := e :: s.tlb.filter (fun o => !o.hits e.die e.core e.tlb e.pasid e.gen e.vpn) }

/-- Whether a die's memory channels are trained (R392). -/
def State.memReady (s : State) (die : Nat) : Bool := nbit s.module.ready.toNat (5 + die)

/-- The state with a local page placed at its first touch (R362, R393): on the die of the access, or for
PLACE 00 on a die that the Sumet chooses; a page spread over all dies has no place of its own. Only a page of PLACE 01
ever moves, so nothing else tells when a page that is only read, as an object by its engine, is given its place. -/
def State.placePage (s : State) (die page : Nat) (attr : BitVec 9) : State :=
  let pl := nbits attr.toNat 1 0
  let onto := if pl = 0 then Config.pick (s.tick + 2 ^ 66) % 4 else die
  if attrKind attr ≠ 0 || pl = 3 || spGet 0 s.place page ≠ 0 || !s.memReady onto then s
  else { s with place := spSet 0 s.place page (onto + 1) }

/-- The state with the page of a place touched by a die. -/
def State.touchPage (s : State) (die : Nat) (x : Xlat) : State :=
  match x.loc with
  | .mem a => s.placePage die (a / 4096) x.attr
  | _ => s

/-- The state with pages touched that are placed as PLACE 00: those of page tables and objects (R362). -/
def State.touchPages (s : State) : List Nat → State
  | [] => s
  | p :: r => (s.placePage 0 p 0).touchPages r

/-- The pages of the tables that a walk reads. -/
def walkPages (m : Sparse Byte) (vpn : Nat) : Nat → Nat → List Nat
  | 0, _ => []
  | level + 1, ppn =>
    let pte := ofLe (rdBytes m (4096 * ppn + 8 * (vpn / 512 ^ level % 512)) 8)
    ppn :: (if nbit pte 0 && nbits pte 3 1 == 0 then walkPages m vpn level (nbits pte 53 10) else [])

/-- The stamp of the write that gave a leaf its place and attributes: what stands in its byte 0, with A and D, apart. -/
def State.leafSince (s : State) (at_ : Nat) : Nat :=
  (upFrom (at_ + 1) 7).foldl (fun n a => max n (s.newest a).1) 0

/-- A walk of a local context's tables that sets A, and D for a write, and fills a TLB (R358, R359). -/
def State.walk (s : State) (die core tlb pasid va : Nat) (n : Need) : State × XRes :=
  let c := s.ctxOf pasid
  let s0 := s.touchPages (walkPages s.mem (va / 4096) 5 c.root)
  match walkFrom s.mem (va / 4096) 5 c.root with
  | .error e => (s0, .fault e)
  | .ok l =>
    if !leafOk l.pte n then (s0, .fault .memProtection)
    else
      let pte := l.pte ||| 0x40 ||| (if n.d then 0x80 else 0)
      let s1 := if pte = l.pte then s0 else s0.wrLoc (.mem l.at_) (leBytes 8 pte)
      let e : TlbEntry :=
        { die := die, core := core, tlb := tlb, pasid := pasid, gen := c.gen,
          vpn := va / 4096 / 512 ^ l.level * 512 ^ l.level, pages := 512 ^ l.level,
          ppn := nbits pte 53 10, attr := BitVec.ofNat 9 (nbits pte 62 54), r := nbit pte 1,
          w := nbit pte 2, x := nbit pte 3, dirty := nbit pte 7, since := s.leafSince l.at_ }
      (s1.fillTlb e, .ok (e.xlat va))

/-- The state in which an ATS request of a TLB for a page is with the host (R352). -/
def State.askAts (s : State) (pasid : Nat) (pg : AtsPage) : State :=
  s.updCtx pasid (fun c => if c.atsAsk.contains pg then c else { c with atsAsk := c.atsAsk ++ [pg] })

/-- An access of an external context for which no TLB entry serves (R352, R359): it uses the answer to the request of
its TLB, once, and without one it asks and waits. Only an answer that grants the access fills the TLB. A page whose
attributes name a reserved KIND grants nothing (R354). -/
def State.atsUse (s : State) (die core tlb pasid va : Nat) (n : Need) : State × XRes :=
  let c := s.ctxOf pasid
  let pg : AtsPage := { die := die, core := core, tlb := tlb, vpn := va / 4096 }
  match findBy (fun (a : AtsPage × Option TlbEntry) => a.1 == pg) c.ats with
  | none => (s.askAts pasid pg, .wait)
  | some a =>
    let s1 := s.updCtx pasid (fun c => { c with ats := c.ats.filter (fun a => a.1 != pg) })
    match a.2 with
    | none => (s1, .fault .memNotPresent)
    | some e =>
      if e.grants n && decide (attrKind c.attr ≤ 2) then (s1.fillTlb e, .ok (e.xlat va)) else (s1, .fault .memProtection)

/-- The translation of a GLOBAL address for an access of a core: through its TLB, and where no entry of
it grants the access, by a walk or an ATS response. -/
def State.translate (s : State) (die core tlb pasid va : Nat) (n : Need) : State × XRes :=
  let c := s.ctxOf pasid
  match findBy (fun (e : TlbEntry) => e.hits die core tlb pasid c.gen (va / 4096) && e.grants n) s.tlb with
  | some e => (s, .ok (e.xlat va))
  | none =>
    if c.ext then s.atsUse die core tlb pasid va n else s.walk die core tlb pasid va n

/-- How a translated access goes on: to its place, or it waits, or its module cannot be reached. -/
inductive Way where
  | go
  | hold
  | lost
  deriving DecidableEq, Repr

/-- The distance of a module in the scope table; 0xFF for one that it does not list (R395). -/
def State.distance (s : State) (m : Nat) : Nat := (spGet (0xFF : Byte) s.module.scopeTable m).toNat

/-- Whether a remote address names a module that is listed and can be reached: some spline port has its
links trained (R392, R395). -/
def State.reachable (s : State) (pa : Nat) : Bool :=
  s.distance (nbits pa 55 48) != 0xFF && nbits s.module.ready.toNat 26 15 != 0

/-- Whether a page of module memory is being moved (R363). -/
def State.inMove (s : State) (page : Nat) : Bool := s.moving.any (fun m => m.1 == page)

/-- How a translated access goes on: one to a remote module needs its links (R395), one to a page spread over all dies waits
until their memory is ready (R393), and one to a page that moves waits for its move (R363). -/
def State.way (s : State) (x : Xlat) : Way :=
  match x.loc with
  | .remote a => if s.reachable a then .go else .lost
  | .mem a =>
    if (nbits x.attr.toNat 1 0 == 3 && nbits s.module.ready.toNat 8 5 != 15) || s.inMove (a / 4096) then .hold else .go
  | .host _ => .go

/-- The stamp of the write that made the mapping by which a core reaches an address: a read through it returns nothing
that stood there before (log entry 51). -/
def State.mappedAt (s : State) (die core tlb pasid va : Nat) : Nat :=
  match findBy (fun (e : TlbEntry) => e.hits die core tlb pasid (s.ctxOf pasid).gen (va / 4096)) s.tlb with
  | some e => e.since
  | none => 0

/-- Need of a read. -/
def needR : Need := { r := true, w := false, x := false }
/-- Need of a write. -/
def needW : Need := { r := false, w := true, x := false, d := true }
/-- Need of an atomic. -/
def needRW : Need := { r := true, w := true, x := false, d := true }
/-- Need of a fetch. -/
def needX : Need := { r := false, w := false, x := true }

/-! ### Objects (R367, R368) -/

/-- The physical address of offset `o` in a list of `n` extents at `x`. -/
def extentAt (m : Sparse Byte) : Nat → Nat → Nat → Option Nat
  | 0, _, _ => none
  | n + 1, x, o =>
    let len := ofLe (rdBytes m x 5)
    if o < len then some (ofLe (rdBytes m (x + 8) 8) + o) else extentAt m n (x + 16) (o - len)

/-- The object-table entry of an identity, as a number. -/
def State.objEntry (s : State) (id : Nat) : Nat := s.rdNum (s.module.otbase.toNat + 32 * id) 32

/-- The physical address of an offset of an object, checked in the order of R368. -/
def State.objAddr (s : State) (id o : Nat) (r w : Bool) : Except Cause Nat :=
  let e := s.objEntry id
  if id = 0 || decide (s.module.otlen ≤ id) || decide (8 ≤ nbits e 119 112) then .error .memProtection
  else if !nbit e 0 || nbits e 119 112 = 0 then .error .memNotPresent
  else if (r && !nbit e 1) || (w && !nbit e 2) then .error .memProtection
  else if nbits e 191 152 ≤ o then .error .memBounds
  else
    match extentAt s.mem (nbits e 151 140) (nbits e 255 192) o with
    | some a => .ok a
    | none => .error .memBounds

/-- The bytes of an object from an offset, each at its own place; `r` asks that it be readable. -/
def State.objBytes (s : State) (id : Nat) (r : Bool) : Nat → Nat → Except Cause (List Byte)
  | _, 0 => .ok []
  | o, n + 1 =>
    match s.objAddr id o r false with
    | .error c => .error c
    | .ok a =>
      match s.objBytes id r (o + 1) n with
      | .error c => .error c
      | .ok bs => .ok (spGet memDefault s.mem a :: bs)

/-- The bytes of an object from an offset as an engine reads them (R368). -/
def State.objRead (s : State) (id o n : Nat) : Except Cause (List Byte) := s.objBytes id true o n

/-- The number that stands in `n` bytes of an object, or zero where the object has none. -/
def State.objNum (s : State) (id o n : Nat) : Nat :=
  match s.objBytes id false o n with
  | .ok bs => ofLe bs
  | .error _ => 0

/-- The bytes of an object from an offset that a write reaches, each at its own place; `w` asks that it be writable. -/
def State.objPlaces (s : State) (id : Nat) (w : Bool) : Nat → List Byte → List (Nat × Byte)
  | _, [] => []
  | o, b :: r =>
    match s.objAddr id o false w with
    | .error _ => s.objPlaces id w (o + 1) r
    | .ok a => (a, b) :: s.objPlaces id w (o + 1) r

/-- The state with bytes of an object written at one moment. -/
def State.objStore (s : State) (id : Nat) (w : Bool) (o : Nat) (bs : List Byte) : State :=
  let ps := s.objPlaces id w o bs
  if ps.isEmpty then s
  else (s.wrScattered (ps.map (fun x => x.1)) (ps.map (fun x => x.2))).touchPages ((ps.map (fun x => x.1 / 4096)).eraseDups)

/-- The state with bytes of an object written by an engine (R368). -/
def State.objWrite (s : State) (id o : Nat) (bs : List Byte) : State := s.objStore id true o bs

/-- The state with bytes of an object written from the host side, which W does not bind. -/
def State.objPut (s : State) (id o : Nat) (bs : List Byte) : State := s.objStore id false o bs

/-- The fault that an engine meets in `n` bytes of an object from an offset, which it reads (`r`) or writes (`w`): that of
the last one, since every earlier byte passes where it does. -/
def State.objFault (s : State) (id o n : Nat) (r w : Bool) : Option Cause :=
  match s.objAddr id (o + n - 1) r w with
  | .ok _ => none
  | .error c => some c

/-! ### Scratchpads (R34, R198, R200, R206) -/

/-- The state with a role's allocation changed. -/
def State.updAlloc (s : State) (die lchid block role : Nat) (f : Alloc → Alloc) : State :=
  s.updBlock die lchid block
    (fun b => { b with allocs := updBy (fun (a : Alloc) => a.role == role && !a.freed) f b.allocs })

/-- The bytes at an offset of a role's scratchpad. -/
def State.rdScr (s : State) (die lchid block role o n : Nat) : List Byte :=
  match s.alloc die lchid block role with
  | some a => rdBytes a.bytes o n
  | none => List.replicate n 0

/-- The state with bytes of a role's scratchpad written. -/
def State.wrScr (s : State) (die lchid block role o : Nat) (bs : List Byte) : State :=
  (s.ordered (upFrom (scrCell die lchid block role o) bs.length) bs).updAlloc die lchid block role
    (fun a => { a with bytes := wrBytes a.bytes o bs, poison := unpoison a.poison o bs.length })

/-- Whether a read of a role's scratchpad consumes poison (R409). -/
def State.scrPoisoned (s : State) (die lchid block role o n : Nat) : Bool :=
  match s.alloc die lchid block role with
  | some a => poisoned a.poison o n
  | none => false

/-- Groups per role of a header: ⌈G/n⌉ (R27). -/
def roleSpan (h : KHeader) : Nat := (h.groups + h.roles - 1) / h.roles

/-- The role of a group number (R27). -/
def roleOf (h : KHeader) (g : Nat) : Nat := g / roleSpan h

/-- Whether a role holds a group of a block of `groups` groups (R27). -/
def roleHolds (h : KHeader) (groups role : Nat) : Bool := decide (role * roleSpan h < groups)

/-- The offset at which a byte of row `y` lies under rotation `r` (R206). -/
def rotate (r y o : Nat) : Nat := if r = 0 then o else Nat.xor o ((y % 2 ^ r) * 16)

end Sys2Proof.Machine
end

