-- ==== Sys2Proof/Machine/Report.lean ====
section
/-! DEFINITION. The queue table, queue directory and queue control blocks as the headstock reads them
(R370 to R373), and the error reports and module error log that it writes (R385). -/

namespace Sys2Proof.Machine

/-- The core number under which the headstock translates GLOBAL addresses of a context (log entry 9). -/
def headCore : Nat := 48

/-- The physical address of the entry of the level-1 and level-2 queue tables for a PASID (R370). -/
def qtEntry1 (s : State) (die pasid : Nat) : Nat := (s.dieOf die).qtbase.toNat + 8 * (pasid / 1024)
/-- The level-2 entry's address. -/
def qtEntry2 (s : State) (die pasid : Nat) : Nat :=
  s.rdNum (qtEntry1 s die pasid) 8 / 4096 * 4096 + 8 * (pasid % 1024)
/-- The queue directory's address. -/
def qtDir (s : State) (die pasid : Nat) : Nat := s.rdNum (qtEntry2 s die pasid) 8 / 4096 * 4096
/-- The queue pointer (R371). -/
def qPtrAt (s : State) (die pasid q : Nat) : Nat := qtDir s die pasid + 64 + 8 * q
/-- The object identity of a queue's control block. -/
def qcbObj (s : State) (die pasid q : Nat) : Nat := nbits (s.rdNum (qPtrAt s die pasid q) 8) 39 16

/-- A queue control block as a number (R373). -/
def qcb (s : State) (die pasid q : Nat) : Nat := s.objNum (qcbObj s die pasid q) 0 64

/-- ERRADDR. -/
def qcbErr (c : Nat) : Nat := nbits c 511 448
/-- RBASE. -/
def qcbRbase (c : Nat) : Nat := nbits c 447 384
/-- WPADDR. -/
def qcbWp (c : Nat) : Nat := nbits c 383 320
/-- RPTR. -/
def qcbRptr (c : Nat) : Nat := nbits c 319 288
/-- GRAIN. -/
def qcbGrain (c : Nat) : Nat := nbits c 287 264
/-- SHAV. -/
def qcbShav (c : Nat) : Nat := nbits c 263 240
/-- SEMCNT. -/
def qcbSemCnt (c : Nat) : Nat := nbits c 239 229
/-- SEMBASE. -/
def qcbSemBase (c : Nat) : Nat := nbits c 228 219
/-- LOG2N. -/
def qcbLog2n (c : Nat) : Nat := nbits c 218 214
/-- DIE. -/
def qcbDie (c : Nat) : Nat := nbits c 213 212
/-- FLOOR. -/
def qcbFloor (c : Nat) : Nat := nbits c 211 210
/-- STATE. -/
def qcbState (c : Nat) : Nat := nbits c 209 208

/-- The state with GLOBAL bytes of a context, which lie in one 64-byte line, written by the headstock at one moment; a
fault, of which nothing is written, or a wait for a translation or for its page (`some none`). -/
def headWrite (s : State) (die pasid a : Nat) (bs : List Byte) : State × Option (Option Cause) :=
  match s.translate die headCore 1 pasid (a % 2 ^ 57) needW with
  | (s1, .ok x) =>
    match s1.way x with
    | .go => ((s1.touchPage die x).wrLoc x.loc bs, none)
    | .hold => (s1, some none)
    | .lost => (s1, some (some .memNotPresent))
  | (s1, .fault c) => (s1, some (some c))
  | (s1, .wait) => (s1, some none)

/-- A context's GLOBAL bytes as the headstock reads them, a fault, or (none) a wait for a translation or
for its page (R352, R363, R393). A module that cannot be reached is a fault (R395). -/
def headRead (s : State) (die pasid : Nat) : Nat → Nat → State × Except (Option Cause) (List Byte)
  | _, 0 => (s, .ok [])
  | a, n + 1 =>
    match s.translate die headCore 1 pasid (a % 2 ^ 57) needR with
    | (s1, .ok x) =>
      match s1.way x with
      | .hold => (s1, .error none)
      | .lost => (s1, .error (some .memNotPresent))
      | .go =>
        match headRead (s1.touchPage die x) die pasid (a + 1) n with
        | (s2, .ok bs) => (s2, .ok (s2.rdLoc x.loc 1 ++ bs))
        | (s2, .error c) => (s2, .error c)
    | (s1, .fault c) => (s1, .error (some c))
    | (s1, .wait) => (s1, .error none)

/-- What has been written since a number of writes, as a view. -/
def State.writtenSince (s : State) (n : Nat) : View :=
  s.hist.filterMap (fun x => match x.2.head? with
    | some e => if n < e.1 then some (x.1, e.1) else none
    | none => none)

/-- The latest write of a die's headstock as a release at SYSTEM scope, after what it has written since a number of writes
(R385, R412, R421). -/
def State.headTells (s : State) (die n : Nat) : State :=
  s.releasing [{ who := headAgent die, scope := 6, sk := false, view := s.writtenSince n }]

/-- The context in whose memory a piece of work of a headstock lies. -/
def HeadWork.pasid : HeadWork → Nat
  | .bytes _ p _ _ => p
  | .report _ p _ => p

/-- The 64 bytes of a record. -/
def reportBytes (r : Report) : List Byte :=
  leBytes 2 r.code ++ leBytes 1 r.die ++ leBytes 1 r.queue ++ leBytes 4 r.rptr ++ leBytes 4 r.lchid ++
    leBytes 4 0 ++ leBytes 8 r.d0 ++ leBytes 8 r.d1 ++ leBytes 32 0

/-- The state with a record in the module error log, at the physical address that MELOG holds, and its count stored as a
release; none is kept while MELOG is 0. -/
def logModule (s : State) (r : Report) : State :=
  let a := s.module.melog.toNat
  if a = 0 then s
  else
    let n := s.rdNum a 8
    ((s.wrWhole (a + 64 + 64 * (n % 63)) (reportBytes r)).wrWhole a (leBytes 8 (n + 1))).headTells r.die s.stamp

/-- A record in a queue's error report, or none while its page waits for a translation; a queue that names none keeps
none. The count is stored as a release (R385). A fault of the report's own page drops the record. -/
def tryReport (s : State) (die pasid : Nat) (r : Report) : State × Bool :=
  let a := qcbErr (qcb s die pasid r.queue)
  if a = 0 then (s, true)
  else
    match headRead s die pasid a 8 with
    | (s1, .ok bs) =>
      let n := ofLe bs
      match headWrite s1 die pasid (a + 64 + 64 * (n % 63)) (reportBytes r) with
      | (s2, none) => (((headWrite s2 die pasid a (leBytes 8 (n + 1))).1).headTells die s.stamp, true)
      | (s2, some none) => (s2, false)
      | (s2, some _) => (s2, true)
    | (s1, .error none) => (s1, false)
    | (s1, .error _) => (s1, true)

/-- A piece of work done, and whether it is finished. Bytes that fault are not written. -/
def HeadWork.run (w : HeadWork) (s : State) : State × Bool :=
  match w with
  | .bytes die pasid a bs =>
    match headWrite s die pasid a bs with
    | (s1, some none) => (s1, false)
    | (s1, _) => (s1, true)
  | .report die pasid r => tryReport s die pasid r

/-- The state with a piece of work done, behind what its context is still owed, or kept until its page's translation
has come (R352). -/
def State.headPost (s : State) (w : HeadWork) : State :=
  let keep := fun (s : State) => { s with headDue := s.headDue ++ [w] }
  if s.headDue.any (fun x => x.pasid == w.pasid) then keep s
  else
    match w.run s with
    | (s1, true) => s1
    | (s1, false) => keep s1

/-- The work that headstocks are still to do, tried again. -/
def State.headFlush (s : State) : State :=
  if s.headDue.isEmpty then s else s.headDue.foldl State.headPost { s with headDue := [] }

/-- The state with a record in a queue's error report. -/
def reportQueue (s : State) (die pasid : Nat) (r : Report) : State := s.headPost (.report die pasid r)

/-- A record for an object that the headstock, the sampler or the grain-ring writer finds faulty (R368, R412): in the
error report of the context's first queue on the die, or else in the module error log (log entry 23). -/
def objectFault (s : State) (die pasid id cause : Nat) : State :=
  let r : Report := { code := 0x06, die := die, queue := 0, rptr := 0, lchid := 0, d0 := id, d1 := cause }
  match (s.queues.filter (fun q => q.ref.pasid == pasid && q.die == die)).head? with
  | some q => reportQueue s die pasid { r with queue := q.ref.q }
  | none => logModule s r

/-- A fault of a context's image: the headstock stops using it and reports it (R368, R411; log entry 85). -/
def imageFault (s : State) (die pasid : Nat) (cause : Cause) : State :=
  if (s.ctxOf pasid).imageOff then s
  else
    (objectFault s die pasid (s.ctxOf pasid).image cause.code.toNat).updCtx pasid (fun c => c.off c.image)

/-- The state with bytes of a context's image written by a headstock: one that it may not write, or that is not there, is a
fault of the image (R368). -/
def State.imageWrite (s : State) (die pasid o : Nat) (bs : List Byte) : State :=
  let c := s.ctxOf pasid
  if c.image = 0 || c.imageOff then s
  else
    match s.objFault c.image o bs.length false true with
    | none => s.objWrite c.image o bs
    | some e => imageFault s die pasid e

/-- A fault of a group with no live path, code 0x0A (R403). -/
def reportOrphan (s : State) (g : Group) (addr : BitVec 64) (c : Cause) : State :=
  let l := s.launchOf g.die g.lchid
  reportQueue s g.die g.pasid
    { code := 0x0A, die := g.die, queue := l.queue, rptr := l.cmd, lchid := g.lchid, d0 := addr.toNat,
      d1 := c.code.toNat }

end Sys2Proof.Machine
end

