-- ==== Sys2Proof/Machine/Target.lean ====
section
/-! DEFINITION. Where the bytes of an element of an access lie (R200, R356, R367): through a core's TLBs, in an object or in a
scratchpad, and whether its page can be reached now (R363, R392 to R395). -/

namespace Sys2Proof.Machine

/-! ### Places of elements -/

/-- Where the bytes of an element lie. -/
inductive Target where
  | at_ (p : PLoc) (attr : BitVec 9)
  | obj (as : List Nat)
  | scr (role o : Nat)
  deriving DecidableEq, Repr

/-- The core through whose TLB a group translates; a group without a record uses none of them. -/
def Group.tlbCore (g : Group) : Nat :=
  match g.place with
  | some pl => pl.core
  | none => headCore + 1

/-- The physical addresses of `n` bytes of an object. -/
def State.objAddrs (s : State) (id : Nat) (r w : Bool) : Nat → Nat → Except Cause (List Nat)
  | _, 0 => .ok []
  | o, n + 1 =>
    match s.objAddr id o r w with
    | .error c => .error c
    | .ok a =>
      match s.objAddrs id r w (o + 1) n with
      | .error c => .error c
      | .ok as => .ok (a :: as)

/-- A record of an access of a group to a module that cannot be reached (R395). -/
def State.unreached (s : State) (g : Group) (addr : Nat) : State :=
  let l := s.launchOf g.die g.lchid
  reportQueue s g.die g.pasid
    { code := 0x07, die := g.die, queue := l.queue, rptr := l.cmd, lchid := g.lchid, d0 := addr,
      d1 := Cause.memNotPresent.code.toNat }

/-- The state after a fault of an access that a group makes at its issue, or has its headstock make: a module that cannot be
reached is recorded (R395). -/
def State.noteFault (s : State) (g : Group) (addr : Nat) (c : Cause) : State :=
  if c != .memNotPresent then s
  else
    match (s.translate g.die headCore 1 g.pasid (addr % 2 ^ 57) { r := false, w := false, x := false }).2 with
    | .ok x => if s.way x == .lost then s.unreached g addr else s
    | _ => s

/-- A translated access as its page lets it go on: a remote module that cannot be reached faults and is
recorded (R395), and a page that is not ready waits (R363, R393). A page that it reaches is placed (R362). -/
def State.routed (s : State) (g : Group) (addr : Nat) (x : Xlat) : State × Except (Option Cause) Target :=
  match s.way x with
  | .lost => (s.unreached g addr, .error (some .memNotPresent))
  | .hold => (s, .error none)
  | .go => (s.touchPage g.die x, .ok (.at_ x.loc x.attr))

/-- The TLB through which a load or store of a group reaches a GLOBAL address: the per-lane one, or for an `ldt` or `stt`
(`ahead`) the walk-ahead one where it has translated the page ahead (R360). -/
def State.tlbFor (s : State) (g : Group) (ahead : Bool) (addr : Nat) : Nat :=
  let gen := (s.ctxOf g.pasid).gen
  if ahead && s.tlb.any (fun e => e.hits g.die g.tlbCore 2 g.pasid gen (addr / 4096)) then 2 else 1

/-- The TLB through which an operation reaches a GLOBAL address (R360): a copy the walk-ahead one. -/
def State.tlbOf (s : State) (g : Group) (o : Op) (addr : Nat) : Nat :=
  match o.kind with
  | .copy _ _ => 2
  | .tasksync _ _ => 2
  | _ => s.tlbFor g o.ahead addr

/-- The place of an element of `n` bytes through a TLB of the group's core, a fault, or (none) a wait for a
translation. -/
def State.targetIn (s : State) (g : Group) (tlb : Nat) (sp : Space) (addr n : Nat) (need : Need) :
    State × Except (Option Cause) Target :=
  match sp with
  | .gbl =>
    match s.translate g.die g.tlbCore tlb g.pasid addr need with
    | (s1, .ok x) => s1.routed g addr x
    | (s1, .fault c) => (s1, .error (some c))
    | (s1, .wait) => (s1, .error none)
  | .obj =>
    match s.objAddrs (addr / 2 ^ 40) need.r need.w (addr % 2 ^ 40) n with
    | .ok as => (s.touchPages (as.map (fun a => a / 4096)), .ok (.obj as))
    | .error c => (s, .error (some c))
  | _ => (s, .ok (.scr (addr / 2 ^ 20) (addr % 2 ^ 20)))

/-- The place of an element of an access of the per-lane TLB. -/
def State.target (s : State) (g : Group) (sp : Space) (addr n : Nat) (need : Need) :
    State × Except (Option Cause) Target :=
  s.targetIn g 1 sp addr n need

end Sys2Proof.Machine
end

