-- ==== Sys2Proof/Machine/Grain.lean ====
section
/-! DEFINITION. The grain ring (R266 to R281): its control registers and records, which live in the
ring object's bytes, the versions of lines, recording with its full modes, and the records that replay
hands out. -/

namespace Sys2Proof.Machine

/-- One byte into a CRC-8 of polynomial x⁸ + x² + x + 1 (R269). -/
def crc8Byte (c b : Nat) : Nat :=
  iter (fun x => if 128 ≤ x then Nat.xor (2 * x % 256) 7 else 2 * x) 8 (Nat.xor c b)

/-- The CRC-8 of bytes. -/
def crc8 (bs : List Byte) : Nat := bs.foldl (fun c b => crc8Byte c b.toNat) 0

/-- The 32 bytes of a record (R269). -/
def recordBytes (e : GEvent) (seq : Nat) : List Byte :=
  let body := leBytes 31
    (e.typ + e.flags * 2 ^ 8 + e.issuer * 2 ^ 16 + (seq % 2 ^ 48) * 2 ^ 40 + (e.line % 2 ^ 64) * 2 ^ 88 +
      (e.version % 2 ^ 32) * 2 ^ 152 + (e.payload % 2 ^ 64) * 2 ^ 184)
  body ++ [BitVec.ofNat 8 (crc8 body)]

/-- ISSUER of a placement (R270). -/
def issuerOf (pl : Place) (path : Nat) : Nat :=
  pl.die * 2 ^ 22 + pl.core * 2 ^ 16 + pl.part * 2 ^ 13 + pl.slot * 2 ^ 9 + path * 2 ^ 6

/-- ISSUER of a path of a group. -/
def Group.issuer (g : Group) (path : Nat) : Nat :=
  match g.place with
  | some pl => issuerOf pl path
  | none => 0

/-! ### Control registers (R267) -/

/-- FULL of the ring of a context. -/
def grainFullMode (s : State) (c : Ctx) : Bool := nbit (s.objNum c.grain 0 1) 4
/-- HOLDLIM. -/
def grainHoldLim (s : State) (c : Ctx) : Nat := s.objNum c.grain 4 4
/-- SIZE, the object's size (R267). -/
def grainSize (s : State) (c : Ctx) : Nat := nbits (s.objEntry c.grain) 191 152
/-- HEAD. -/
def grainHead (s : State) (c : Ctx) : Nat := s.objNum c.grain 16 8
/-- TAIL. -/
def grainTail (s : State) (c : Ctx) : Nat := s.objNum c.grain 24 8
/-- NEXTSEQ. -/
def grainNext (s : State) (c : Ctx) : Nat := s.objNum c.grain 32 6
/-- GAPSEQ; all ones when there is no gap. -/
def grainGap (s : State) (c : Ctx) : Nat := s.objNum c.grain 40 6
/-- DROPPED. -/
def grainDropped (s : State) (c : Ctx) : Nat := s.objNum c.grain 48 8

/-- Whether a record is a GAP. -/
def GEvent.isGap (e : GEvent) : Bool := e.typ == 0x0F

/-- Whether a ring has its GAP record, written or due. -/
def grainGapped (s : State) (c : Ctx) : Bool := grainGap s c != 2 ^ 48 - 1 || c.late.any (fun r => r.ev.isGap)

/-- Bytes of the ring that records take, those due among them. -/
def grainUsed (s : State) (c : Ctx) : Nat := grainHead s c - grainTail s c + 32 * c.late.length

/-- The capacity C of the ring (R267). -/
def grainCapacity (s : State) (c : Ctx) : Nat := grainSize s c - (if grainFullMode s c then 288 else 256)

/-- Whether the ring is full while recording (R267). -/
def grainIsFull (s : State) (c : Ctx) : Bool := decide (grainCapacity s c ≤ grainUsed s c)

/-- The object offset of the record at byte count `n`. -/
def grainAt (s : State) (c : Ctx) (n : Nat) : Nat := 256 + n % (grainSize s c - 256)

/-- The state in which the grain-ring writer has stopped using an object that it finds faulty (R368). -/
def grainStop (s : State) (c : Ctx) (id : Nat) (cause : Cause) : State :=
  (objectFault s (c.on.headD 0) c.pasid id cause.code.toNat).updCtx c.pasid (fun c =>
    { c.off id with grain := 0, late := [] })

/-- A record written at HEAD, with HEAD and NEXTSEQ advanced, and GAPSEQ for a GAP (R268, R274, R276). -/
def grainAppend (s : State) (c : Ctx) (e : GEvent) : State :=
  let seq := grainNext s c
  let h := grainHead s c
  match s.objAddr c.grain (grainAt s c h + 31) true true with
  | .error k => grainStop s c c.grain k
  | .ok _ =>
    let s1 := s.objWrite c.grain (grainAt s c h) (recordBytes e seq)
    let s2 := if e.isGap then s1.objWrite c.grain 40 (leBytes 6 seq) else s1
    let s3 := s2.objWrite c.grain 32 (leBytes 6 (seq + 1))
    s3.objWrite c.grain 16 (leBytes 8 (h + 32))

/-- FULLSEEN set. -/
def grainSetFullSeen (s : State) (c : Ctx) : State :=
  s.objWrite c.grain 1 (leBytes 1 (s.objNum c.grain 1 1 ||| 1))

/-- DROPPED advanced. -/
def grainDrop (s : State) (c : Ctx) : State := s.objWrite c.grain 48 (leBytes 8 (grainDropped s c + 1))

/-- The GAP record (R276). -/
def gapEvent (flags : Nat) : GEvent :=
  { typ := 0x0F, flags := flags, issuer := 0, line := 0, version := 0, payload := 0 }

/-- Events of one type on a die since recording or replay began. -/
def ordinalOf (c : Ctx) (die typ : Nat) : Nat := spGet 0 c.ords (256 * die + typ)

/-- The context with an ordinal advanced. -/
def Ctx.bumpOrd (c : Ctx) (die typ : Nat) : Ctx :=
  { c with ords := spSet 0 c.ords (256 * die + typ) (ordinalOf c die typ + 1) }

/-- Record types that the headstock takes (R271). -/
def headType (t : Nat) : Bool := t == 5 || t == 6 || t == 8

/-- Record types whose VERSION is an ordinal (R271, R273). -/
def ordType (t : Nat) : Bool := headType t || t == 7 || t == 9 || t == 10

/-- Whether a record follows a kept one in sequence order: both are of one path, unless the record is of an operation that
precedes the kept one, or of one line, or of one die and one type that counts, or it is the GAP (R274). -/
def LateRec.follows (r q : LateRec) : Bool :=
  r.ev.isGap || (r.ev.issuer == q.ev.issuer && !r.own.any q.olds.contains) || (r.line.isSome && r.line == q.line) ||
  (ordType r.ev.typ && r.ev.typ == q.ev.typ && r.ev.issuer / 2 ^ 22 == q.ev.issuer / 2 ^ 22)

/-- Whether an operation in flight is a kind that the ring may log: an atomic, a semaphore operation, or a
`fill` or `syncinit` (R272). -/
def OpKind.loggable (k : OpKind) : Bool :=
  match k with
  | .atomic .. => true
  | .cas .. => true
  | .sem .. => true
  | .store _ _ _ fill => fill
  | _ => false

/-- Whether a path's events are logged: the mode, and the launch's NOLOG (R272). -/
def grainOn (s : State) (g : Group) : Bool :=
  let c := s.ctxOf g.pasid
  c.grain != 0 && c.mode != 0 && !(s.launchOf g.die g.lchid).hdr.nolog

/-- Whether an event of a group at a page is logged or replayed (R272). -/
def logged (s : State) (g : Group) (attr : BitVec 9) : Bool := grainOn s g && !attrNolog attr

/-- The line number of a semaphore word. -/
def semLine (n : Nat) : Nat := 2 ^ 62 + n

/-- The line at which an element of an operation in flight is to log an event: none where it logs none, and some none
where its translation is awaited (R272). -/
def State.logLine (s : State) (g : Group) (o : Op) (x : Elem) : Option (Option Nat) :=
  match o.kind with
  | .sem n _ _ => if grainOn s g then some (some (semLine n)) else none
  | _ =>
    match (s.target g .gbl x.addr 1 { r := false, w := false, x := false }).2 with
    | .ok (.at_ p attr) => if logged s g attr then some (some p.line) else none
    | .error none => some none
    | _ => none

/-- Whether an operation in flight may still log an event. -/
def State.mayLog (s : State) (g : Group) (o : Op) : Bool :=
  !o.done && o.kind.loggable && o.todo.any (fun x => (s.logLine g o x).isSome)

/-- Those of some operations of a context that may still log an event. -/
def State.unlogged (s : State) (pasid : Nat) (ids : List Nat) : List Nat :=
  ids.filter (fun k => s.groups.any (fun g => g.pasid == pasid && g.ops.any (fun o => o.id == k && s.mayLog g o)))

/-- A path's earlier operations that may still log an event: a later record of the path follows theirs (R274). -/
def State.earlier (s : State) (g : Group) (pix : Nat) : List Nat :=
  (g.ops.filter (fun o => o.past.getLsbD pix && s.mayLog g o)).map (fun o => o.id)

/-- Slots of the ring of a context that its operations in flight are still to take: in STALL mode they have them from their
issue on, so none of them finds the ring full after it (R276). -/
def State.slotsDue (s : State) (pasid : Nat) : Nat :=
  ((s.groups.filter (fun g => g.pasid == pasid)).map (fun g =>
    ((g.ops.filter (fun o => !o.done && o.kind.loggable)).map (fun o =>
      (o.todo.filter (fun x => (s.logLine g o x).isSome)).length)).sum)).sum

/-- The operations that the record of an event must wait for, directly or behind the records that it follows. -/
def State.awaited (s : State) (pasid : Nat) (r : LateRec) : List Nat :=
  s.unlogged pasid (r.olds ++ ((s.ctxOf pasid).late.filter r.follows).flatMap (fun q => q.olds))

/-- Whether an event may not take place yet: an operation that its record must wait for would act at its own line, or at
that of a record which is kept, and would so have to wait for it in turn (R274; log entry 43). -/
def State.crossed (s : State) (pasid : Nat) (r : LateRec) : Bool :=
  let ks := r.line.toList ++ (s.ctxOf pasid).late.filterMap (fun q => q.line)
  let ids := s.awaited pasid r
  s.groups.any (fun g => g.pasid == pasid && g.ops.any (fun o => ids.contains o.id &&
    o.todo.any (fun x => match s.logLine g o x with
      | none => false
      | some none => !ks.isEmpty
      | some (some k) => ks.contains k)))

/-- A record put into the ring, or kept until the records that it follows are there (R274, R276). -/
def grainPut (s : State) (pasid : Nat) (r : LateRec) : State :=
  let c := s.ctxOf pasid
  let olds := s.awaited pasid r
  if olds.isEmpty && !c.late.any r.follows &&
      decide (grainHead s c - grainTail s c + 32 ≤ grainSize s c - 256) then grainAppend s c r.ev
  else s.updCtx pasid (fun c => { c with late := c.late ++ [{ r with olds := olds }] })

/-- The records that are due, put into the ring as far as they can be. -/
def grainFlush (s : State) (pasid : Nat) : State :=
  let c := s.ctxOf pasid
  if c.late.isEmpty then s else c.late.foldl (fun s r => grainPut s pasid r) (s.updCtx pasid (fun c => { c with late := [] }))

/-- Whether the ring has room for `n` more logged events: recording with a full ring in STALL mode holds them
(R276). -/
def grainFits (s : State) (pasid n : Nat) : Bool :=
  let c := s.ctxOf pasid
  c.mode != 1 || c.grain == 0 || grainGapped s c || grainFullMode s c ||
  decide (grainUsed s c + 32 * (s.slotsDue pasid + n) ≤ grainCapacity s c)

/-- Whether a logged event can be performed now (R276). -/
def grainRoom (s : State) (pasid : Nat) : Bool := grainFits s pasid 1

/-- Whether an operation in flight, whose slots are kept for it, can put a record into the ring: a driver's write may have
taken the room away. -/
def grainTakes (s : State) (pasid : Nat) : Bool :=
  let c := s.ctxOf pasid
  c.mode != 1 || c.grain == 0 || grainGapped s c || grainFullMode s c || !grainIsFull s c

/-- The state in which a ring without room for `n` events has held one (R276). -/
def grainStallsFor (s : State) (pasid n : Nat) : State :=
  if grainFits s pasid n then s else grainSetFullSeen s (s.ctxOf pasid)

/-- The state in which a full ring has held an event (R276). -/
def grainStalls (s : State) (pasid : Nat) : State := grainStallsFor s pasid 1

/-- The state after a logged event of a recording context is recorded, dropped, or met a full ring in MARK mode (R276).
Outside recording nothing changes. -/
def grainRecord (s : State) (pasid : Nat) (r : LateRec) : State :=
  let c := s.ctxOf pasid
  if c.mode != 1 || c.grain == 0 then s
  else if grainGapped s c then grainDrop s c
  else if grainIsFull s c then
    grainDrop (grainSetFullSeen (grainPut s pasid { ev := gapEvent 0, line := none, own := none, olds := [] }) c) c
  else grainPut s pasid r

/-! ### Writes of the control registers (R12, R266, R267) -/

/-- The bits of the control registers that a write sets: MODE, FULL, HOLDLIM, HEAD, TAIL, NEXTSEQ, VSOBJ. -/
def ringRw : Nat :=
  0x13 + (2 ^ 32 - 1) * 2 ^ 32 + (2 ^ 128 - 1) * 2 ^ 128 + (2 ^ 48 - 1) * 2 ^ 256 + (2 ^ 24 - 1) * 2 ^ 448

/-- The bits that a write leaves alone: FULLSEEN, which a 1 clears, and the read-only SIZE, GAPSEQ and
DROPPED. -/
def ringOther : Nat :=
  2 ^ 8 + (2 ^ 64 - 1) * 2 ^ 64 + (2 ^ 48 - 1) * 2 ^ 320 + (2 ^ 64 - 1) * 2 ^ 384

/-- Whether a write is refused: a reserved bit that is not zero, or MODE 11. -/
def ringRefused (o n v : Nat) : Bool :=
  let x := v % 256 ^ n * 256 ^ o
  Nat.land x (2 ^ 2048 - 1 - Nat.lor ringRw ringOther) != 0 || nbits x 1 0 == 3

/-- The state after a write of `n` bytes at offset `o` of a ring's control registers, or none where it is
refused. -/
def ringWrite (s : State) (id o n v : Nat) : Option State :=
  if ringRefused o n v then none
  else
    let old := s.objNum id 0 256
    let x := v % 256 ^ n * 256 ^ o
    let m := Nat.land ringRw ((256 ^ n - 1) * 256 ^ o)
    let seen := if nbit x 8 then Nat.land old (2 ^ 2048 - 1 - 2 ^ 8) else old
    let new := Nat.lor (Nat.land seen (2 ^ 2048 - 1 - m)) (Nat.land x m)
    some (s.objPut id o (leBytes n (new / 256 ^ o)))

/-- Whether an object is a grain ring (R367). -/
def State.isRing (s : State) (id : Nat) : Bool := nbits (s.objEntry id) 119 112 == 2

/-- The state with GAPSEQ and DROPPED at the values that the creation of the ring gives. -/
def clearGap (s : State) (id : Nat) : State :=
  (s.objPut id 40 (leBytes 6 (2 ^ 48 - 1))).objPut id 48 (leBytes 8 0)

/-- The state after a host-side write of a ring's control registers, or none where it is refused (R12, R266): the MODE
in effect of the ring's context written again ends a gap (R276; log entry 20). -/
def ringTake (s : State) (id o n v : Nat) : Option State :=
  (ringWrite s id o n v).map (fun s1 =>
    if o = 0 && s.ctxs.any (fun c => c.grain == id && c.mode.toNat == nbits v 1 0) then clearGap s1 id else s1)

/-- Whether an object is a shavings ring (R367). -/
def State.isShavings (s : State) (id : Nat) : Bool := nbits (s.objEntry id) 119 112 == 3

/-- The state after a write of `n` bytes at offset `o` of a shavings ring's control registers (R338): TAIL takes it, the
read-only fields do not, and one with a bit that must be zero changes nothing (none), as R12 has a host-side write. -/
def shavingsWrite (s : State) (id o n v : Nat) : Option State :=
  let x := v % 256 ^ n * 256 ^ o
  if x / 2 ^ 256 ≠ 0 then none
  else
    let m := Nat.land ((2 ^ 64 - 1) * 2 ^ 128) ((256 ^ n - 1) * 256 ^ o)
    let old := s.objNum id 0 64
    let new := Nat.lor (old - Nat.land old m) (Nat.land x m)
    some (s.objPut id o (leBytes n (new / 256 ^ o)))

/-- The control registers of a ring that the driver creates (R267, R338): SIZE is the object's size, and a grain ring's
GAPSEQ is all ones. -/
def State.ringMade (s : State) (id : Nat) : State :=
  let size := leBytes 8 (nbits (s.objEntry id) 191 152)
  if s.isRing id then
    s.objPut id 0 (leBytes 8 0 ++ size ++ leBytes 24 0 ++ leBytes 6 (2 ^ 48 - 1) ++ leBytes 210 0)
  else if s.isShavings id then s.objPut id 0 (size ++ leBytes 56 0)
  else s

/-! ### Versions (R273) -/

/-- The key of a line's version in a context's recording; semaphores are lines 2^62 + number. -/
def verKey (pasid line : Nat) : Nat := pasid * 2 ^ 70 + line

/-- The version of a line in a context's recording. -/
def State.version (s : State) (pasid line : Nat) : Nat := spGet 0 s.vers (verKey pasid line)

/-- The state with a line's version advanced. -/
def State.bumpVersion (s : State) (pasid line : Nat) : State :=
  { s with vers := spSet 0 s.vers (verKey pasid line) ((s.version pasid line + 1) % 2 ^ 32) }

/-- Whether a context's recording holds a version of some line. -/
def State.versioned (s : State) (pasid : Nat) : Bool := s.vers.any (fun x => x.1 / 2 ^ 70 == pasid)

/-- A die cache that evicts a versioned line, which is a free choice, writes its version to the version store, and takes
it back at the line's next event (R273). A store that is not there, that its object does not grant (R368), or that has no
room, a free choice, makes a GAP record with FLAGS[0] = 1 (R276; log entry 83). `k` numbers the context. -/
def State.evictVersion (s : State) (pasid k : Nat) : State :=
  let c := s.ctxOf pasid
  if c.mode != 1 || c.grain = 0 || grainGapped s c || !s.versioned pasid || !Config.freeBit s.tick (720000 + 2 * k) then s
  else
    let id := s.objNum c.grain 56 3
    match s.objAddr id 0 true true with
    | .ok _ => if Config.freeBit s.tick (720001 + 2 * k) then s else grainPut s pasid { ev := gapEvent 1, line := none, own := none, olds := [] }
    | .error e =>
      let s1 := if id = 0 then s else objectFault s (c.on.headD 0) pasid id e.code.toNat
      grainPut s1 pasid { ev := gapEvent 1, line := none, own := none, olds := [] }

/-- The state in which a context's ring in use has been found faulty, if it is: its control registers are read and
written (R368). -/
def ringMet (s : State) (c : Ctx) : State :=
  match s.objFault c.grain 0 256 true true with
  | none => s
  | some k => grainStop s c c.grain k

/-- The recordings of a step: a replay's ring that is faulty is met, versions leave the caches, and the records that are due
are written. -/
def State.keepRecords (s : State) : State :=
  let s1 := (s.ctxs.filter (fun c => c.mode == 2 && c.grain != 0)).foldl ringMet s
  ((s1.ctxs.filter (fun c => c.mode == 1 && c.grain != 0)).zip (upFrom 0 s1.ctxs.length)).foldl
    (fun (s : State) x => (grainFlush s x.1.pasid).evictVersion x.1.pasid x.2) s1

/-! ### Replay (R277 to R279) -/

/-- What replay finds when it looks for a taker's next record. -/
inductive Found where
  | none                      -- every record below HEAD is consumed or another taker's
  | end_ (rec : Nat)          -- END, a failed CRC or a reserved type
  | gap (rec : Nat)
  | record (ix : Nat) (r : Nat)  -- its record number and its 256 bits
  deriving DecidableEq, Repr

/-- Whether a record's CRC holds. -/
def recordOk (r : Nat) : Bool := crc8 (leBytes 31 r) == r / 2 ^ 248

/-- The record of a number. -/
def recordAtIx (s : State) (c : Ctx) (ix : Nat) : Nat := s.objNum c.grain (grainAt s c (32 * ix)) 32

/-- The next record from number `ix` on, for `n` records, for a taker that `mine` recognises; none where `stop` recognises
a record before it. -/
def findRecord (s : State) (c : Ctx) (mine stop : Nat → Bool) : Nat → Nat → Found
  | 0, _ => .none
  | n + 1, ix =>
    let r := recordAtIx s c ix
    let t := r % 256
    if c.taken.contains ix then findRecord s c mine stop n (ix + 1)
    else if t = 0x10 then .end_ r
    else if t = 0x0F then .gap r
    else if mine r then (if !recordOk r || t = 0 || decide (0x11 ≤ t) then .end_ r else .record ix r)
    else if stop r then .none
    else findRecord s c mine stop n (ix + 1)

/-- The next record that `mine` recognises. END, once this replay has passed it, stays the next record of every taker until
more records stand behind it (R278, R279). -/
def nextRecord (s : State) (c : Ctx) (mine stop : Nat → Bool) : Found :=
  let t := grainTail s c / 32
  let h := grainHead s c / 32
  if t ≠ 0 && h = t && ordinalOf c 4 0x10 ≠ 0 && recordAtIx s c (t - 1) % 256 == 0x10 then .end_ (recordAtIx s c (t - 1))
  else findRecord s c mine stop (h - t) t

/-- Whether a DISPATCH record ends what a group finds under its placement: it gives the record to a group of the replay, or
gives this group another one (R277, R288). -/
def Group.reseats (s : State) (g : Group) (r : Nat) : Bool :=
  let name := (s.launchOf g.die g.lchid).rname
  r % 256 == 5 && (nbits r 39 9 == g.issuer 0 / 2 ^ 9 ||
    (nbits r 39 38 == g.die && name != 0 && nbits r 151 88 == name && nbits r 215 184 == g.block && nbits r 231 216 == g.grpid))

/-- The next record of a path's placement, for a group that holds it. -/
def nextOfPath (s : State) (c : Ctx) (g : Group) (issuer : Nat) : Found :=
  nextRecord s c (fun r => nbits r 39 16 == issuer && !headType (r % 256)) (g.reseats s)

/-- The next record of a die's headstock. -/
def nextOfHead (s : State) (c : Ctx) (die : Nat) : Found :=
  nextRecord s c (fun r => nbits r 39 38 == die && headType (r % 256)) (fun _ => false)

/-- Whether a record of a placement stands before record `ix` and has not been consumed. -/
def pathOwes (s : State) (c : Ctx) (g : Group) (ix : Nat) : Bool :=
  let t := grainTail s c / 32
  match findRecord s c (fun r => nbits r 39 9 == g.issuer 0 / 2 ^ 9 && !headType (r % 256)) (fun _ => false) (ix - t) t with
  | .record _ _ => true
  | _ => false

/-- TAIL past the consumed records that follow it, and what is still to be remembered of them. -/
def tailPast : Nat → Nat → List Nat → Nat × List Nat
  | 0, t, taken => (t, taken)
  | n + 1, t, taken => if taken.contains t then tailPast n (t + 1) (taken.filter (· != t)) else (t, taken)

/-- The state with a record consumed: TAIL advances past every consumed record at it, and past END behind them, which the
replay remembers. -/
def takeRecord (s : State) (pasid ix : Nat) : State :=
  let c := s.ctxOf pasid
  let taken := ix :: c.taken
  let (t, rest) := tailPast taken.length (grainTail s c / 32) taken
  let ends := decide (32 * t < grainHead s c) && recordAtIx s c t % 256 == 0x10
  let s1 := s.objWrite c.grain 24 (leBytes 8 (32 * (if ends then t + 1 else t)))
  s1.updCtx pasid (fun c => { (if ends then c.bumpOrd 4 0x10 else c) with taken := rest })

/-- What becomes of a logged event of a path at its issue. -/
inductive GrainRes where
  | run (s : State) (payload : Option Nat)   -- performed; in replay with its record's payload
  | hold (s : State)                         -- a full ring or a replay hold
  | trap (c : Cause) (expected found : BitVec 256)
  deriving DecidableEq, Repr

/-- The event as it would be recorded, which the frame holds as found (R279). -/
def foundBits (s : State) (g : Group) (e : GEvent) : BitVec 256 :=
  BitVec.ofNat 256 (ofLe (recordBytes e (grainNext s (s.ctxOf g.pasid))))

/-- Whether a record is of an event's TYPE and LINE (R279). -/
def grainMatch (r : Nat) (e : GEvent) : Bool := r % 256 == e.typ && nbits r 151 88 == e.line % 2 ^ 64

/-- VERSION of a record. -/
def recVersion (r : Nat) : Nat := nbits r 183 152
/-- PAYLOAD of a record. -/
def recPayload (r : Nat) : Nat := nbits r 247 184

/-- The number of the path that an ISSUER names (R270). -/
def issuerPath (issuer : Nat) : Nat := issuer / 2 ^ 6 % 8

/-- What replay makes of the next record of an event's issuer: its number and its bits, or a hold, or the fault that the
event raises (R277 to R279). -/
inductive Next where
  | hold
  | fault (c : Cause) (expected found : BitVec 256)
  | take (ix r : Nat)
  deriving DecidableEq, Repr

/-- The next record of an event's issuer, where `ok` accepts it. The record is not consumed. -/
def nextFor (s : State) (g : Group) (e : GEvent) (ok : Nat → Bool) : Next :=
  match nextOfPath s (s.ctxOf g.pasid) g e.issuer with
  | .none => .hold
  | .end_ r => .fault .replayDiverge (BitVec.ofNat 256 r) (foundBits s g e)
  | .gap r => .fault .replayGap (BitVec.ofNat 256 r) (foundBits s g e)
  | .record ix r => if ok r then .take ix r else .fault .replayDiverge (BitVec.ofNat 256 r) (foundBits s g e)

/-- The record of an event of a path that acts now, behind the path's earlier operations. -/
def State.lateRec (s : State) (g : Group) (e : GEvent) (line : Option Nat) : LateRec :=
  { ev := e, line := line, own := none, olds := s.earlier g (issuerPath e.issuer) }

/-- A logged event of a path that acts at its issue (R272, R277 to R279): recorded behind the path's earlier operations,
or held, taken and compared in replay. `now` is the version or ordinal that the event observes, where its type has
one. -/
def grainEvent (s : State) (g : Group) (e : GEvent) (now : Option Nat) : GrainRes :=
  let c := s.ctxOf g.pasid
  if !grainOn s g then .run s none
  else if c.mode = 1 then
    if !grainRoom s g.pasid then .hold (grainStalls s g.pasid)
    else if s.crossed g.pasid (s.lateRec g e none) then .hold s
    else .run (grainRecord s g.pasid (s.lateRec g e none)) none
  else if c.mode = 2 then
    match nextFor s g e (fun r => grainMatch r e) with
    | .hold => .hold s
    | .fault c x f => .trap c x f
    | .take ix r =>
      if now.all (fun v => recVersion r == v) then .run (takeRecord s g.pasid ix) (some (recPayload r)) else .hold s
  else .run s none

/-- A logged event that carries an ordinal of its type (R271, R278): SPAWN, TASK and STAGE. -/
def ordEvent (s : State) (g : Group) (pix typ line payload : Nat) : GrainRes :=
  if !grainOn s g then .run s none
  else
    let n := ordinalOf (s.ctxOf g.pasid) g.die typ
    let e : GEvent :=
      { typ := typ, flags := 0, issuer := g.issuer pix, line := line, version := n, payload := payload }
    match grainEvent s g e (some n) with
    | .run s1 p => .run (s1.updCtx g.pasid (fun c => c.bumpOrd g.die typ)) p
    | r => r

/-- The next records of a path that are there, for at most `n` events of `es`, each matched with one by type and line, that
of its own lane before another's (R277). `skip` are records that earlier events of the same operation have found. -/
structure LaneRecs where
  got : List (Nat × Nat × Nat)                          -- the lane, and its record's number and bits
  fault : Option (Cause × BitVec 256 × BitVec 256)      -- that the first unmatched event raises (R279)
  deriving DecidableEq, Repr

/-- The records of a path's next `n` events; those not there yet are missing from the answer. -/
def grainTakeLanes (s : State) (g : Group) (skip : List Nat) : Nat → List GEvent → LaneRecs
  | 0, _ => { got := [], fault := none }
  | n + 1, es =>
    match es with
    | [] => { got := [], fault := none }
    | e0 :: _ =>
      match nextFor (s.updCtx g.pasid (fun c => { c with taken := c.taken ++ skip })) g e0 (fun r => es.any (grainMatch r)) with
      | .hold => { got := [], fault := none }
      | .fault c x f => { got := [], fault := some (c, x, f) }
      | .take ix r =>
        let e := ((findBy (fun e => grainMatch r e && e.flags % 32 == nbits r 12 8) es).orElse
          (fun _ => findBy (fun e => grainMatch r e) es)).getD e0
        let rest := grainTakeLanes s g (ix :: skip) n (es.filter (· != e))
        { rest with got := (e.flags % 32, ix, r) :: rest.got }

/-! ### Names of launches (R277, R288) -/

/-- The LCHID by which the ring's records name a launch: in replay the recorded run's, which need not be its own. -/
def Launch.recName (l : Launch) : Nat := if l.rname = 0 then l.lchid else l.rname

/-- Whether the records of a replay may name a launch for the first time: a root, or a child that no SPAWN record
named. -/
def State.nameable (s : State) (l : Launch) : Bool :=
  l.rname == 0 && !l.hdr.nolog && !l.unchecked &&
  match l.parent with
  | none => true
  | some p => (s.launchOf l.die p).hdr.nolog

/-- The live launch of a context on a die that an LCHID of its replay's records names: the one that has the name, or for
a new name the oldest that has none (log entry 85). -/
def State.launchNamed (s : State) (pasid die lch : Nat) : Option Launch :=
  match findBy (fun (l : Launch) => l.die == die && l.pasid == pasid && l.rname == lch) s.launches with
  | some l => some l
  | none =>
    if (s.ctxOf pasid).names.contains (die, lch) then none
    else
      (s.launches.filter (fun l => l.die == die && l.pasid == pasid && s.nameable l)).foldl
        (fun (o : Option Launch) l => match o with
          | none => some l
          | some x => if l.order < x.order then some l else some x) none

/-- The state in which an LCHID of a replay's records names a launch. -/
def State.nameLaunch (s : State) (pasid die lchid lch : Nat) : State :=
  let s1 := s.updLaunch die lchid (fun l => { l with rname := lch })
  s1.updCtx pasid (fun c => if c.names.contains (die, lch) then c else { c with names := (die, lch) :: c.names })

/-- Whether the records of a replay have named a launch that has completed. -/
def State.nameGone (s : State) (pasid die lch : Nat) : Bool :=
  (s.ctxOf pasid).names.contains (die, lch) &&
  !s.launches.any (fun l => l.die == die && l.pasid == pasid && l.rname == lch)

end Sys2Proof.Machine
end

