-- ==== Sys2Proof/Machine/Ops.lean ====
section
/-! DEFINITION. The operations that every instruction shares: path splits, joins and exits (R20 to R24,
R82 to R94), outstanding operations and their counters (R50), taking a trap and returning from it (R397
to R408), the latency contract and the checking scoreboard (R45 to R49, R334), and the issue of an
instruction with the checks that precede it (R52). -/

namespace Sys2Proof.Machine

/-! ### Paths (R20 to R24, R82 to R94) -/

/-- The path indices. -/
def pathIxs : List Nat := [0, 1, 2, 3, 4, 5, 6, 7]

/-- The live paths of a group. -/
def Group.live (g : Group) : List Nat := pathIxs.filter (fun i => (g.path i).live)

/-- The innermost open region of a lane mask: the newest one that holds a lane of it (log entry 10). -/
def Group.innermost (g : Group) (mask : Mask) : Option Region :=
  findBy (fun r => r.lanes &&& mask != 0) g.regions

/-- Whether a path has arrived at a region. -/
def Path.arrivedAt (p : Path) (ix : Nat) : Bool := p.live && p.stat == PStat.arrived ix

/-- The paths that have arrived at a region. -/
def Group.arrivedAt (g : Group) (ix : Nat) : List Nat := pathIxs.filter (fun i => (g.path i).arrivedAt ix)

/-- The lanes of a list of paths. -/
def Group.lanesOfPaths (g : Group) (is : List Nat) : Mask :=
  is.foldl (fun m i => m ||| (g.path i).mask) 0

/-- Whether every lane of a region has arrived or exited (R22, R84). -/
def Group.regionDone (g : Group) (r : Region) : Bool :=
  r.lanes &&& ~~~(g.lanesOfPaths (g.arrivedAt r.ix) ||| r.came ||| g.exited ||| g.held) == 0

/-- The newest region at which lanes of a path's slices arrived before a deferral entry of the path ran (R22). -/
def Group.cameAt (g : Group) (p : Path) : Option Region :=
  findBy (fun r => r.came &&& sliceLanes p.slices != 0) g.regions

/-- The group with a region changed. -/
def Group.updRegion (g : Group) (ix : Nat) (f : Region → Region) : Group :=
  { g with regions := updBy (fun r => r.ix == ix) f g.regions }

/-- A freed path-table index: its frame keeps its record, but the index is in no handler and not
stopped (log entry 11). -/
def Path.freed (p : Path) : Path :=
  { Path.free with frame := { p.frame with inH := false, stop := false, pend := false, nested := false } }

/-- The set of paths in a list, as bits. -/
def pathBits (is : List Nat) : BitVec 8 := is.foldl (fun b i => b ||| ((1 : BitVec 8) <<< i)) 0

/-- The operations of arrived paths as the fused path's (R221, R403): counts of issued instructions are
kept relative to the fused path's own. Every later access of the fused path follows them (R24). -/
def fuseOps (g : Group) (is : List Nat) (onto issued : Nat) (ops : List Op) : List Op :=
  ops.map (fun o =>
    let o := if is.contains o.path then
        { o with issuedAt := issued - ((g.path o.path).issued - o.issuedAt), path := onto } else o
    let fuse := fun (b : BitVec 8) =>
      if b &&& pathBits is = 0 then b else (b &&& ~~~pathBits is) ||| pathBits [onto]
    { o with
      past := fuse o.past, rel := fuse o.rel,
      full := if o.past &&& pathBits is = 0 then o.full else (o.full &&& ~~~pathBits is) ||| pathBits [onto] })

/-- The path continued from a deferral entry (R22). -/
def Group.runDeferral (g : Group) (pix : Nat) (d : Deferral) (rest : List Deferral) : Group :=
  { g with deferrals := rest }.updPath pix (fun p => { p with pc := d.pc, mask := d.mask, lp := d.lp })

/-- Lanes that reached the join of a region before a deferral entry of their path ran, once the region has completed and
while the path is elsewhere: they go on past the join as the path's newest deferral entry, and a path that has arrived
further out runs it at once (log entry 31). -/
def Group.giveCame (pc : Addr) (lanes : Mask) (g : Group) (pix : Nat) : Group :=
  let p := g.path pix
  let m := lanes &&& sliceLanes p.slices
  if m = 0 then g
  else
    let d : Deferral := { owner := pix, pc := pc, mask := m, region := (g.innermost m).map (fun r => r.ix), lp := p.lp }
    match p.stat with
    | .arrived ix =>
      ((g.updRegion ix (fun r => { r with came := r.came ||| p.mask })).runDeferral pix d g.deferrals).updPath pix
        (fun p => { p with stat := .run })
    | _ => { g with deferrals := d :: g.deferrals }

/-- The paths that hold slices of lanes which reached a region's join early, and that have not arrived there. -/
def Group.cameElsewhere (g : Group) (r : Region) : List Nat :=
  g.live.filter (fun i => !(g.arrivedAt r.ix).contains i && r.came &&& sliceLanes (g.path i).slices != 0)

/-- The completion of a region's own paths: the arrived paths fuse under R22 and R23, or, where none arrived, held
lanes pass outwards or are dropped (R84). -/
def Group.fuseRegion (g : Group) (r : Region) : Group :=
  let arr := g.arrivedAt r.ix
  let rest := g.regions.filter (fun x => x.ix != r.ix)
  match arr with
  | [] =>
    let outer := rest.foldl (fun m x => m ||| x.lanes) 0
    let dropped := g.held &&& r.lanes &&& ~~~outer
    { g with regions := rest, held := g.held &&& ~~~dropped, exited := g.exited ||| dropped }
  | lo :: _ =>
    let onto := match r.opener with
      | some o => if arr.contains o then o else lo
      | none => lo
    let took := g.held &&& r.lanes
    let issued := arr.foldl (fun n i => max n (g.path i).issued) 0
    let fused : Path :=
      { g.path onto with
        pc := r.pc, mask := g.lanesOfPaths arr ||| r.came ||| took,
        slices := arr.foldl (fun b i => b ||| (g.path i).slices) (slicesOf took),
        stat := .run, issued := issued, exempt := false,
        stepping := arr.any (fun i => (g.path i).stepping), haltPend := arr.any (fun i => (g.path i).haltPend),
        earliest := arr.foldl (fun n i => max n (g.path i).earliest) 0,
        view := arr.foldl (fun v i => viewJoin v (g.path i).view) [],
        heard := arr.flatMap (fun i => (g.path i).heard), fences := arr.flatMap (fun i => (g.path i).fences) }
    let paths := pathIxs.map (fun i =>
      if i = onto then fused else if arr.contains i then (g.path i).freed else g.path i)
    { g with
      paths := paths, held := g.held &&& ~~~took,
      regions := rest.map (fun x => match x.opener with
        | some o => if arr.contains o then { x with opener := some onto } else x
        | none => x),
      deferrals := g.deferrals.map (fun d => if arr.contains d.owner then { d with owner := onto } else d),
      ops := fuseOps g arr onto issued g.ops,
      faults := g.faults.map (fun f => if arr.contains f.path then
        { f with issuedAt := issued - ((g.path f.path).issued - f.issuedAt), path := onto } else f),
      sb := g.sb.map (fun e => if arr.contains e.path then { e with path := onto } else e) }

/-- The completion of a region (R22, R84): its paths fuse, and lanes that came early with a path that is elsewhere go on
when that path can run them. -/
def Group.closeRegion (g : Group) (r : Region) : Group :=
  let away := g.cameElsewhere r
  let theirs := away.foldl (fun m i => m ||| sliceLanes (g.path i).slices) 0
  away.foldl (Group.giveCame r.pc (r.came &&& theirs)) (g.fuseRegion { r with came := r.came &&& ~~~theirs })

/-- The newest deferral entry of a path that satisfies `f`, and the pool without it. -/
def takeDeferral (owner : Nat) (f : Deferral → Bool) : List Deferral → Option (Deferral × List Deferral)
  | [] => none
  | d :: r =>
    if d.owner = owner && f d then some (d, r)
    else
      match takeDeferral owner f r with
      | some (x, r') => some (x, d :: r')
      | none => none

/-- The first running path that stands at the join PC of its innermost region, with that region. A path that sleeps just
before its join PC arrives when its sleep ends: no rule says whether it arrives at once (R95; DESIGN CHOICE, log entry
86). -/
def Group.atJoin (g : Group) : Option (Nat × Region) :=
  (pathIxs.filterMap (fun i =>
    let p := g.path i
    if p.live && p.stat == PStat.run && !p.frame.stop && !p.frame.pend then
      match g.innermost p.mask with
      | some r => if r.pc = p.pc then some (i, r) else none
      | none => none
    else none)).head?

/-- One step towards a settled path table: a path at its join PC runs a deferral entry or arrives, or
else the innermost region that is done completes (R22, R97). -/
def Group.settleStep (g : Group) : Option Group :=
  match g.atJoin with
  | some (i, r) =>
    match takeDeferral i (fun d => d.region == some r.ix) g.deferrals with
    | some (d, rest) =>
      let came := (g.path i).mask
      some ((g.updRegion r.ix (fun r => { r with came := r.came ||| came })).runDeferral i d rest)
    | none => some (g.updPath i (fun p => { p with stat := .arrived r.ix }))
  | none =>
    match findBy g.regionDone g.regions with
    | some r => some (g.closeRegion r)
    | none => none

/-- The path table with every arrival and every completed region taken into account. The pool holds at
most 32 entries, the region table 16, and a region's completion lets at most 8 paths arrive. -/
def settleN : Nat → Group → Group
  | 0, g => g
  | n + 1, g =>
    match g.settleStep with
    | some g' => settleN n g'
    | none => g

/-- A group ends when no path is live (R85). -/
def Group.settle (g : Group) : Group :=
  let g := settleN 256 g
  { g with ended := g.live.isEmpty }

/-- A destination of a control transfer: its address, its lanes, and whether the lanes continue
sequentially (R21, R88, R91). -/
structure Dest where
  pc : Addr
  lanes : Mask
  seq : Bool
  deriving DecidableEq, Repr

/-- Where sequential execution goes after the instruction at `pc`, with the loop test of R91 on the loop
state `lp` of lanes `mask`. -/
def Group.seqNext (g : Group) (pc : Addr) (lp : LoopSt) (mask : Mask) : Addr × LoopSt :=
  if lp.loopc = 0 || pc ≠ lp.loope then (pc + 12, lp)
  else
    let live := g.regs.emask &&& mask
    let stop := lp.loopc = 1 || (lp.loopp ≠ 7 && g.rdP lp.loopp.toNat &&& live = 0)
    if stop then (lp.loope + 12, { lp with loopc := 0 })
    else (lp.loops, { lp with loopc := lp.loopc - 1 })

/-- The lowest free path-table index. -/
def Group.freeIx (g : Group) : Nat := (pathIxs.filter (fun i => !(g.path i).live)).headD 0

/-- The address and loop state at which lanes of a destination start. -/
def Group.startOf (g : Group) (pc : Addr) (lp : LoopSt) (d : Dest) : Addr × LoopSt :=
  if d.seq then g.seqNext pc lp d.lanes else (d.pc, lp)

/-- A new path for the slices all of whose active lanes go to one destination (R21 step 3, R88 step 3).
The new path takes the splitting path's past as its own (R221). -/
def Group.splitOff (pix : Nat) (active : Mask) (pc : Addr) (lp : LoopSt) (g : Group) (d : Dest) : Group :=
  let p := g.path pix
  let taken := [0, 1, 2, 3, 4, 5, 6, 7].foldl
    (fun (b : BitVec 8) k =>
      let ln := active &&& sliceLanes ((1 : BitVec 8) <<< k)
      if p.slices.getLsbD k && ln != 0 && ln &&& ~~~d.lanes == 0 then b ||| ((1 : BitVec 8) <<< k) else b) 0
  if taken = 0 then g
  else
    let ix := g.freeIx
    let lanes := d.lanes &&& sliceLanes taken
    let (npc, nlp) := g.startOf pc lp { d with lanes := lanes }
    let np : Path :=
      { g.path ix with
        live := true, pc := npc, mask := lanes, slices := taken, lp := nlp, earliest := p.earliest,
        stat := .run, wait := none, issued := p.issued, exempt := false, stepping := p.stepping,
        haltPend := p.haltPend, reason := 0, holdSince := none,
        view := p.view, heard := p.heard, fences := p.fences }
    let bit := pathBits [ix]
    { (g.updPath ix (fun _ => np)).updPath pix (fun p => { p with slices := p.slices &&& ~~~taken }) with
      ops := g.ops.map (fun o =>
        let copy := fun (b : BitVec 8) => if b.getLsbD pix then b ||| bit else b &&& ~~~bit
        { o with past := copy o.past, rel := copy o.rel, full := copy o.full }) }

/-- The deferral entries of a destination in the slices that the path keeps, in ascending slice (R21
step 5, R88 step 4). Lanes that continue sequentially take R91's loop test when the entry is recorded, and the
entry keeps the outcome: the model's choice (DEDUCED, log 85), since R91 speaks of the resulting paths only. -/
def Group.deferDest (pix : Nat) (region : Option Nat) (pc : Addr) (lp : LoopSt) (g : Group) (d : Dest) : Group :=
  let p := g.path pix
  [0, 1, 2, 3, 4, 5, 6, 7].foldl
    (fun (g : Group) k =>
      let lanes := d.lanes &&& sliceLanes ((1 : BitVec 8) <<< k)
      if p.slices.getLsbD k && lanes != 0 then
        let (npc, nlp) := g.startOf pc lp { d with lanes := lanes }
        { g with deferrals := { owner := pix, pc := npc, mask := lanes, region := region, lp := nlp } :: g.deferrals }
      else g) g

/-- Lanes that a split leaves outside every path: held at the open regions that hold them, or dropped
(R84). -/
def Group.leaveLanes (g : Group) (lanes : Mask) : Group :=
  let open_ := g.regions.foldl (fun m r => m ||| r.lanes) 0
  { g with held := g.held ||| (lanes &&& open_), exited := g.exited ||| (lanes &&& ~~~open_) }

/-- A control transfer of path `pix` at `pc` (R21, R88): `active` is EMASK AND the path's mask, and the
destinations share it, the first being the one with which the path continues. -/
def Group.transfer (g : Group) (pix : Nat) (pc : Addr) (active : Mask) (dests : List Dest) : Group :=
  let p := g.path pix
  let lp := p.lp
  match dests.filter (fun d => d.lanes != 0) with
  | [] => g
  | [d] =>
    let (npc, nlp) := g.startOf pc lp { d with lanes := p.mask }
    g.updPath pix (fun p => { p with pc := npc, lp := nlp })
  | d0 :: rest =>
    let region := (g.innermost p.mask).map (fun r => r.ix)
    let (npc, nlp) := g.startOf pc lp d0
    let g1 := rest.foldl (Group.splitOff pix active pc lp) g
    let g2 := rest.foldl (Group.deferDest pix region pc lp) g1
    let g3 := g2.leaveLanes (p.mask &&& ~~~active)
    g3.updPath pix (fun p => { p with pc := npc, lp := nlp, mask := d0.lanes })

/-- A path without lanes or deferral entries frees its index (R94). -/
def Group.freeIndex (g : Group) (pix : Nat) : Group :=
  let g2 := g.updPath pix (fun p => p.freed)
  { g2 with
    regions := g2.regions.map (fun r => if r.opener = some pix then { r with opener := none } else r),
    ops := g2.ops.map (fun o =>
      { o with
        past := o.past &&& ~~~pathBits [pix], rel := o.rel &&& ~~~pathBits [pix],
        full := o.full &&& ~~~pathBits [pix],
        path := if o.path = pix then 8 else o.path }),
    faults := g2.faults.map (fun f => if f.path = pix then { f with path := 8 } else f),
    sb := g2.sb.filter (fun e => e.path != pix) }

/-- A path all of whose lanes have exited, with no deferral entry left (R22, R94): where lanes of it reached a join
before an entry ran, it has arrived there with them (log entry 31); else its index is freed. -/
def Group.leavePath (g : Group) (pix : Nat) : Group :=
  match g.cameAt (g.path pix) with
  | some r =>
    let came := r.came &&& sliceLanes (g.path pix).slices
    (g.updRegion r.ix (fun r => { r with came := r.came &&& ~~~came })).updPath pix
      (fun p => { p with pc := r.pc, mask := came, stat := .arrived r.ix })
  | none => g.freeIndex pix

/-- The `exit` of lanes of a path (R94): the path goes on with its other lanes, or runs its newest
deferral entry, or leaves its region or the table. -/
def Group.exitLanes (g : Group) (pix : Nat) (lanes : Mask) : Group :=
  let left := (g.path pix).mask &&& ~~~lanes
  let g1 := { g with exited := g.exited ||| lanes }
  if left ≠ 0 then g1.updPath pix (fun p => { p with mask := left })
  else
    match takeDeferral pix (fun _ => true) g1.deferrals with
    | some (d, rest) => g1.runDeferral pix d rest
    | none => g1.leavePath pix

/-! ### Outstanding operations (R50, R51) -/

/-- Operations retired in their counters' order: one that has completed and that no older operation of
its counter precedes (R50). -/
def retire : List Ctr → List Op → List Op
  | _, [] => []
  | blocked, o :: r =>
    if o.done && !blocked.contains o.ctr then retire blocked r else o :: retire (o.ctr :: blocked) r

/-- The group with its completed operations retired. -/
def Group.retired (g : Group) : Group := { g with ops := retire [] g.ops }

/-- A counter of R50: the operations of its class that have not decremented it. -/
def Group.ctr (g : Group) (c : Ctr) : Nat := (g.ops.filter (fun o => o.ctr == c)).length

/-- The six counters as CTRS of the frame lays them out (R399). -/
def Group.ctrs (g : Group) : BitVec 36 :=
  BitVec.ofNat 6 (g.ctr .ld) ++ BitVec.ofNat 6 (g.ctr .st) ++ BitVec.ofNat 6 (g.ctr .sp) ++
    BitVec.ofNat 6 (g.ctr .cp) ++ BitVec.ofNat 6 (g.ctr .mx) ++ BitVec.ofNat 6 (g.ctr .at)

/-- The stall reason of a full counter or a `waitc` (R50, R340): 3 to 8 in CTR order. -/
def Ctr.reason : Ctr → BitVec 5
  | .ld => 3
  | .st => 4
  | .sp => 5
  | .cp => 6
  | .mx => 7
  | .at => 8

/-- Accesses in flight that precede a new access of a path in its program order. -/
def Group.before (g : Group) (pix : Nat) : List Op :=
  g.ops.filter (fun o => o.past.getLsbD pix && !o.done)

/-- A new operation of path `pix`, in issue order. One with nothing to perform is done at once. -/
def State.addOp (s : State) (gid pix : Nat) (ctr : Ctr) (act : Mask) (todo : List Elem) (deps : List Nat)
    (scope : BitVec 3) (sk : Bool) (ord : BitVec 3) (done : Bool) (kind : OpKind) : State :=
  let p := (s.grp gid).path pix
  let o : Op :=
    { id := s.nextId, ctr := ctr, path := pix, issuer := (s.grp gid).issuer pix, past := pathBits [pix], pc := p.pc, issuedAt := p.issued + 1,
      act := act, todo := todo, done := done, deps := deps,
      olds := ((s.grp gid).before pix).map (fun o => o.id), rel := 0, full := 0, view := p.view, own := [],
      fences := p.fences, bad := [], ev := 0, scope := scope,
      sk := sk, ord := ord, kind := kind, started := false, ahead := false, since := s.stamp, stale := false }
  { (s.updGrp gid (fun g =>
      ({ (if done then g.addView ctr.code s.nextId [] else g) with ops := g.ops ++ [o] } : Group).retired)) with
    nextId := s.nextId + 1 }

/-- The operation of an identity. -/
def Group.op (g : Group) (id : Nat) : Option Op := findBy (fun o => o.id == id) g.ops

/-- The group with an operation changed and completed operations retired. -/
def Group.updOp (g : Group) (id : Nat) (f : Op → Op) : Group :=
  { g with ops := updBy (fun o => o.id == id) f g.ops }.retired

/-- An operation as its group now holds it. -/
def Group.opOr (g : Group) (o : Op) : Op := (g.op o.id).getD o

/-- Whether an operation's order is an acquire (R222). -/
def ordAcq (o : BitVec 3) : Bool := o == 1 || o == 3 || o == 4
/-- Whether an operation's order is a release. -/
def ordRel (o : BitVec 3) : Bool := o == 2 || o == 3 || o == 4

/-- Whether an operation is an access of its path (R220): engine work is none (R231), and neither is a residency
probe, which reads no byte. -/
def Op.isAccess (o : Op) : Bool :=
  match o.kind with
  | .matrix _ => false
  | .copy _ _ => false
  | .tasksync _ _ => false
  | .taskrec _ _ => false
  | .probe _ => false
  | _ => true

/-- The operations that a new access must follow: acquires of the path, every access before a join, for a release
every access of the path, and for a store or an atomic every access before a release fence (R24, R222, R225, R243,
R247). Overlapping
bytes are compared when an element is performed (R204). -/
def Group.depsOf (g : Group) (pix : Nat) (ord : BitVec 3) (writes : Bool) : List Nat :=
  (g.before pix).filterMap (fun o =>
    if o.isAccess && (ordAcq o.ord || ordRel ord || o.full.getLsbD pix || (writes && o.rel.getLsbD pix))
    then some o.id else none)

/-! ### Traps (R397 to R408) -/

/-- A precise trap as its instruction raises it: `next` marks the causes whose RPC is the next
instruction (R398). -/
structure Trap where
  cause : Cause
  faddr : BitVec 64 := 0
  lmask : Mask := 0
  info : Word := 0
  next : Bool := false
  exprec : BitVec 256 := 0
  fndrec : BitVec 256 := 0
  deriving DecidableEq, Repr

/-- The cursor of a stopped drain (R191), with ACT at its reset. -/
def cursorOf (d : StoppedDrain) : BitVec 64 :=
  BitVec.ofNat 64
    (2 ^ 63 + (if d.ni then 2 ^ 62 else 0) + d.kind.toNat * 2 ^ 52 + d.p * 2 ^ 12 + d.t * 2 ^ 9 + d.row)

/-- The cursor of the group's stopped drain, or 0 (R400). -/
def Group.cursor (g : Group) : BitVec 64 :=
  match g.stopped with
  | some d => if d.resumed then 0 else cursorOf d
  | none => 0

/-- The path that a held fault enters: its own, or the live path of lowest index where that has ended
(R403). -/
def Group.faultPath (g : Group) (h : HeldFault) : Nat :=
  if h.path < 8 && (g.path h.path).live then h.path else g.live.headD 0

/-- The oldest held fault that belongs to a path. -/
def Group.faultOf (g : Group) (pix : Nat) : Option HeldFault :=
  findBy (fun h => g.faultPath h == pix) g.faults

/-- Whether a path is stopped or halted for a debugger or the driver (R401, R405). -/
def Path.stopped (p : Path) : Bool := p.frame.stop || p.frame.pend

/-- Whether an imprecise fault may enter a path: it is live, in no handler, not stopped, not arrived, and
not part-way through the issue of a logged operation that replay holds (R278, R400, R403). -/
def Path.mayFault (p : Path) : Bool :=
  p.live && !p.frame.inH && !p.stopped &&
  match p.stat, p.wait.map (fun x => x.kind) with
  | .arrived _, _ => false
  | .replayHold, some (WaitKind.op _) => false
  | _, _ => true

/-- The number of held faults of a path (R403), as HELD has it. -/
def Group.heldOf (g : Group) (pix : Nat) : BitVec 9 :=
  BitVec.ofNat 9 ((g.faults.filter (fun h => g.faultPath h == pix)).length)

/-- The frame of a path as it stands: HELD counts the faults that are held for the path now (R399, R403). -/
def Group.frameNow (g : Group) (pix : Nat) : Frame := { (g.path pix).frame with held := g.heldOf pix }

/-- The frame that a trap writes (R399, R400): every field anew but NESTED, NCAUSE and NPC. -/
def Group.frameOf (g : Group) (pix : Nat) (old : Frame) (cause : Cause) (imp : Bool) (fpc rpc : Addr)
    (lp : LoopSt) (skid : Nat) (lmask : Mask) (faddr : BitVec 64) : Frame :=
  { Frame.reset with
    cause := cause.code, path := BitVec.ofNat 3 pix, imp := imp, fpc := fpc.setWidth 64,
    rpc := rpc.setWidth 64, faddr := faddr, lmask := lmask, pmask := (g.path pix).mask,
    skid := BitVec.ofNat 16 (min skid 65535),
    held := g.heldOf pix,
    ctrs := g.ctrs, dcur := g.cursor, loopc := lp.loopc, loops := lp.loops.setWidth 64, loope := lp.loope.setWidth 64,
    loopp := lp.loopp, nested := old.nested, ncause := old.ncause, npc := old.npc }

/-- The vector step of R400: TRAPVEC, or else DVEC; a vector that is 0 or no multiple of 12 stops the
path (R401). -/
def Group.vector (g : Group) (pix : Nat) (dvec : BitVec 64) : Group :=
  let v := if g.regs.trapvec ≠ 0 then g.regs.trapvec else dvec
  g.updPath pix (fun p =>
    if v = 0 || v.toNat % 12 ≠ 0 then { p with frame := { p.frame with stop := true } }
    else { p with pc := v.setWidth 57, frame := { p.frame with inH := true } })

/-- Entry of a trap with its frame in place: LOOPC is cleared and any wait abandoned (R400, R402). A
debugger halt that meets the trap, or an attached debugger, stops the path before handler entry with
PEND 1 (R405, R422). -/
def Group.enter (g : Group) (pix clk : Nat) (attach : Bool) (dvec : BitVec 64) (f : Frame) : Group :=
  let halted := (g.path pix).haltPend || attach
  let g1 := g.updPath pix (fun p =>
    { p with
      frame := if halted then { f with pend := true } else f, lp := { p.lp with loopc := 0 }, wait := none,
      haltPend := false, stepping := false, holdSince := none, pendAt := if halted then clk + 1 else p.pendAt,
      stat := match p.stat with
        | .sleeping d => .sleeping d
        | _ => .run })
  if halted then g1 else g1.vector pix dvec

/-- A nested cause: NESTED, NCAUSE and NPC are set and the path stops (R404). -/
def Group.nest (g : Group) (pix : Nat) (cause : Cause) (npc : Addr) : Group :=
  g.updPath pix (fun p =>
    { p with
      wait := none, haltPend := false, stepping := false, holdSince := none,
      stat := match p.stat with
        | .sleeping d => .sleeping d
        | .arrived r => .arrived r
        | _ => .run,
      frame := { p.frame with nested := true, ncause := cause.code, npc := npc.setWidth 64, stop := true } })

/-- The state in which a trap has used up the answers of the host that it came from: those of an external context for the
page of its address (R352, R359). -/
def State.usedUp (s : State) (g : Group) (t : Trap) : State :=
  if !(s.ctxOf g.pasid).ext || !(t.cause == .memNotPresent || t.cause == .memProtection) then s
  else
    s.updCtx g.pasid (fun c =>
      { c with ats := c.ats.filter (fun a => a.1.die != g.die || a.1.vpn != t.faddr.toNat / 4096 || a.1.tlb != 1) })

/-- A path's recorded arrival taken back: its `bar` or `bararv` counts as not issued (R402). -/
def Group.takeBack (g : Group) (pix : Nat) : Group :=
  { g with arrival := g.arrival.filterMap (fun a =>
      let ps := a.paths.filter (fun i => i != pix)
      if ps.isEmpty then none else some { a with paths := ps }) }

/-- Entry of an imprecise fault in a path, out of the held list (R400, R402): an instruction that holds the path counts
as not issued. -/
def State.imprecise (s : State) (gid pix : Nat) (h : HeldFault) : State :=
  let g := s.grp gid
  let p := g.path pix
  let ctx := s.ctxOf g.pasid
  let s1 := { s with rest := s.rest.filter (fun e => e.who != ({ gid := gid, path := pix } : Who)) }
  let g1 := { g with faults := g.faults.filter (fun x => x != h) }
  let f := g1.frameOf pix p.frame h.cause true h.fpc p.pc p.lp (p.issued - h.issuedAt) h.lmask h.faddr
  s1.updGrp gid (fun g =>
    (({ g with faults := g.faults.filter (fun x => x != h) }.takeBack pix).enter pix (s.dieOf g.die).clk ctx.attach ctx.dvec f).settle)

/-- The fault that enters a path before anything else that it meets (R403, R405). -/
def Group.dueFault (g : Group) (pix : Nat) : Option HeldFault :=
  if (g.path pix).mayFault then g.faultOf pix else none

/-- TAKING A PRECISE TRAP, the one operation through which every instruction raises one (R400, R404,
R405): the frame of the path is written and the path goes to its vector, or stops. Where an imprecise fault of the path
is due, that enters, and the trap's instruction does not issue. -/
def State.precise (s : State) (gid pix : Nat) (t : Trap) : State :=
  let g := s.grp gid
  let p := g.path pix
  let ctx := s.ctxOf g.pasid
  match g.dueFault pix with
  | some h => s.imprecise gid pix h
  | none =>
    let s1 := ({ s with rest := s.rest.filter (fun e => e.who != ({ gid := gid, path := pix } : Who)) }).usedUp g t
    let (npc, lp) := if t.next then g.seqNext p.pc p.lp p.mask else (p.pc, p.lp)
    if p.frame.inH then s1.updGrp gid (fun g => g.nest pix t.cause p.pc)
    else
      let f := { g.frameOf pix p.frame t.cause false p.pc npc lp 0 t.lmask t.faddr with
        info := t.info, exprec := t.exprec, fndrec := t.fndrec }
      s1.updGrp gid (fun g => (g.enter pix (s.dieOf g.die).clk ctx.attach ctx.dvec f).settle)

/-- A fault placed in the held list in the issue order of its operation (R403). -/
def insertFault (h : HeldFault) : List HeldFault → List HeldFault
  | [] => [h]
  | x :: r => if h.op < x.op then h :: x :: r else x :: insertFault h r

/-- A fault raised for an operation of a group (R403): held for its path until it enters, or reported
where the group has no live path. The counter of an operation that it ends falls at that moment (R200). -/
def State.raiseFault (s : State) (gid : Nat) (h : HeldFault) : State :=
  let s1 := s.updGrp gid (fun g => { g with ops := g.ops.filter (fun o => !(o.done && o.id == h.op)) }.retired)
  let g := s1.grp gid
  if g.live.isEmpty then reportOrphan s1 g h.faddr h.cause
  else s1.updGrp gid (fun g => { g with faults := insertFault h g.faults })

/-! ### The latency contract and the scoreboard (R45 to R49, R334) -/

/-- Extra latency of a 64-bit integer form (R334). -/
def wide2 (f : BitVec 4) : Nat := if wideFmt f then 2 else 0

/-- The latency of a row of families 0x1 to 0x3 without one of its own (R334). -/
def lat4 (d : Operand) (f : BitVec 4) : Nat := (match d with | .p _ => 2 | _ => 4) + wide2 f

/-- Published latency of an instruction's result in table 0x21 (R334). The table has no row for the special registers
that `loop`, `loopx` and `csrwr` write: the model takes that of reads of special registers, 4 clk (log entry 85). -/
def latency (i : Instr) : Nat :=
  match i with
  | .pand _ => 2
  | .por _ => 2
  | .pxor _ => 2
  | .pnot _ => 2
  | .pmov _ => 2
  | .mul w => 6 + wide2 w.df
  | .mulhi w => 6 + wide2 w.df
  | .mulw w => 6 + wide2 w.df
  | .mad w => 6 + wide2 w.df
  | .madhi w => 6 + wide2 w.df
  | .sad w => 6 + wide2 w.df
  | .dp4 _ => 6
  | .dp2 _ => 6
  | .div w => if wideFmt w.df then 36 else 20
  | .rem w => if wideFmt w.df then 36 else 20
  | .add w => lat4 w.d w.df
  | .addc w => lat4 w.d w.df
  | .sub w => lat4 w.d w.df
  | .subb w => lat4 w.d w.df
  | .neg w => lat4 w.d w.df
  | .abs w => lat4 w.d w.df
  | .min w => lat4 w.d w.df
  | .max w => lat4 w.d w.df
  | .cmp w => if wideFmt w.sf then 4 else lat4 w.d w.sf
  | .sel w => lat4 w.d w.df
  | .and w => lat4 w.d 0
  | .or w => lat4 w.d 0
  | .xor w => lat4 w.d 0
  | .not w => lat4 w.d 0
  | .andn w => lat4 w.d 0
  | .lop3 w => lat4 w.d 0
  | .shl w => lat4 w.d 0
  | .shr w => lat4 w.d 0
  | .sar w => lat4 w.d 0
  | .rotl w => lat4 w.d 0
  | .fsh w => lat4 w.d 0
  | .popc w => lat4 w.d 0
  | .clz w => lat4 w.d 0
  | .ctz w => lat4 w.d 0
  | .brev w => lat4 w.d 0
  | .bfe w => lat4 w.d 0
  | .bfi w => lat4 w.d 0
  | .bperm w => lat4 w.d 0
  | .mov w => lat4 w.d 0
  | .movi w => lat4 w.d 0
  | .shfl _ => 6
  | .vote _ => 6
  | .redux w => 6 + wide2 w.df
  | .scan w => 6 + wide2 w.df
  | .bcast _ => 6
  | .matchLanes w => 6 + wide2 w.df
  | .fadd w => if w.df == 8 then 8 else 5
  | .fsub w => if w.df == 8 then 8 else 5
  | .fmul w => if w.df == 8 then 8 else 5
  | .fma w => if w.df == 8 then 8 else 5
  | .fmin w => if w.df == 8 then 8 else 5
  | .fmax w => if w.df == 8 then 8 else 5
  | .fminn w => if w.df == 8 then 8 else 5
  | .fmaxn w => if w.df == 8 then 8 else 5
  | .fcmp w => if w.sf == 8 then 8 else 5
  | .fclass w => if w.sf == 8 then 8 else 5
  | .fscale w => if w.df == 8 then 8 else 5
  | .frnd w => if w.df == 8 then 8 else 5
  | .cvt _ => 5
  | .cvtpk _ => 5
  | .cvtcb _ => 5
  | .rcp _ => 12
  | .rsq _ => 12
  | .ex2 _ => 12
  | .lg2 _ => 12
  | .tanh _ => 12
  | .sqrt w => if w.df == 8 then 34 else 18
  | .fdiv w => if w.df == 8 then 34 else 18
  | .sinpi _ => 20
  | .cospi _ => 20
  | .sincospi _ => 20
  | .rng _ => 14
  | .sampleCat _ => 16
  | .trng _ => 24
  | _ => 4

/-- The values of a register in every lane, as a scoreboard entry keeps them. -/
def Group.snapshot (g : Group) (pix : Nat) (r : Operand) : List Word :=
  match r with
  | .v n => lanes.map (fun l => g.rdV n.toNat l)
  | .q n => lanes.map (fun l => g.rdQ n.toNat l)
  | .x n => lanes.map (fun l => g.rdX n.toNat l)
  | .s n => [g.rdS n.toNat]
  | .p n => [g.rdP n.toNat]
  | .sr n =>
    match n.toNat with
    | 0x10 => [g.regs.emask]
    | 0x11 => [g.regs.astat]
    | 0x20 => [g.regs.restart.setWidth 32, (g.regs.restart.extractLsb' 32 25).setWidth 32]
    | 0x21 => [(g.path pix).lp.loopc]
    | 0x22 => [(g.path pix).lp.loops.setWidth 32, ((g.path pix).lp.loops.extractLsb' 32 25).setWidth 32]
    | 0x23 => [(g.path pix).lp.loope.setWidth 32, ((g.path pix).lp.loope.extractLsb' 32 25).setWidth 32]
    | 0x24 => [(g.path pix).lp.loopp.setWidth 32]
    | 0x30 => [g.regs.trapvec.setWidth 32, g.regs.trapvec.extractLsb' 32 32]
    | _ => []
  | .imm _ => []

/-- The group as a reader of an unfinished register may see it in mode OFF: each lane old or new by a
free value (R49). `k` numbers the choice. -/
def Group.mixOld (g : Group) (pix tick k : Nat) (e : SbEntry) : Group :=
  let oldLane := fun l => Config.freeBit tick (64 * k + l)
  let w := fun i => getAt (0 : Word) e.old i
  match e.reg with
  | .v n => { g with v := laneWrite false n.toNat (maskOf oldLane) (fun l => (w l).setWidth 64) g.v }
  | .q n => { g with q := laneWrite false n.toNat (maskOf oldLane) (fun l => (w l).setWidth 64) g.q }
  | .x n => { g with x := laneWrite false n.toNat (maskOf oldLane) (fun l => (w l).setWidth 64) g.x }
  | .p n =>
    { g with p := spSet 0 g.p n.toNat ((g.rdP n.toNat &&& ~~~maskOf oldLane) ||| (w 0 &&& maskOf oldLane)) }
  | .s n => if oldLane 0 then { g with s := spSet 0 g.s n.toNat (w 0) } else g
  | .sr n =>
    let v : DWord := pairOf (w 0) (w 1)
    if oldLane 0 then
      match n.toNat with
      | 0x10 => { g with regs := { g.regs with emask := w 0 } }
      | 0x20 => { g with regs := { g.regs with restart := v.setWidth 57 } }
      | k => g.srWrite pix k v
    else g
  | .imm _ => g

/-- The matrix operands of an `mmloop`, whose count names how many steps read them: with a count of 0 no register
block is read, and descriptors are (R169). -/
def Group.loopUses (g : Group) (i : Instr) : List RegUse :=
  match i with
  | .mmloop w =>
    let n := match w.d with
      | .s k => min 1025 (g.rdS k.toNat).toNat
      | .imm k => k.toNat
      | _ => 0
    (mmaUses w).flatMap (fun u => match u.1 with
      | .v k => if n = 0 then [] else [(.v k, n * u.2)]
      | _ => [u])
  | _ => []

/-- Whether a drain program of a slot has a word whose RND is ASTAT.RM (R183); where a special register names the slot,
whether one of any slot has (log entry 85). -/
def Group.drainReadsRm (g : Group) (i : Instr) : Bool :=
  match i with
  | .tmovDrain w =>
    let ps := match w.a with
      | .s k => [(g.rdS k.toNat).toNat]
      | .imm k => [k.toNat]
      | _ => upFrom 0 16
    (ps.flatMap (fun p => (upFrom 0 64).map (fun k => 64 * p + k))).any (fun a => match decodeDrain (spGet 0 g.drains a) with
      | some (.dfadd d) => d.r == 5
      | some (.dfsub d) => d.r == 5
      | some (.dfmul d) => d.r == 5
      | some (.dfma d) => d.r == 5
      | some (.dld d) => d.r == 5
      | some (.dst d) => d.r == 5
      | some (.dred d) => d.r == 5
      | _ => false)
  | _ => false

/-- Every register that an instruction reads, with the operand that names it, in the order guard, A, B,
C, D (R49), and last, as an operand that the order does not name, ASTAT where its rounding mode is dynamic (R115). The
read of EMASK that Active() makes is none of them: no unfinished write of EMASK holds it (log entry 85). -/
def Group.readRegs (g : Group) (i : Instr) (h : Hdr) : List (Operand × Operand) :=
  (Operand.p h.gp, Operand.p h.gp) ::
    (g.loopUses i ++ sources i).flatMap (fun u => (regsOf u).map (fun r => (u.1, r))) ++
    (if readsRm i || g.drainReadsRm i then [(Operand.sr 0x11, Operand.sr 0x11)] else [])

/-- The scoreboard entries of a path that are unfinished at a clk. -/
def Group.unfinished (g : Group) (pix clk : Nat) : List SbEntry :=
  g.sb.filter (fun e => e.path == pix && decide (clk < e.done))

/-- The reads that meet an unfinished producer: the operand and the entry (R49). -/
def Group.sbHits (g : Group) (i : Instr) (h : Hdr) (es : List SbEntry) : List (Operand × SbEntry) :=
  (g.readRegs i h).filterMap (fun r => (findBy (fun (e : SbEntry) => e.reg == r.2) es).map (fun e => (r.1, e)))

/-- Mixed views of several entries, one after another. -/
def mixAll (pix tick : Nat) : Nat → List SbEntry → Group → Group
  | _, [], g => g
  | k, e :: r, g => mixAll pix tick (k + 1) r (g.mixOld pix tick k e)

/-- The scoreboard entries that an instruction's fixed-latency result adds, in place of older entries
of the same registers. -/
def Group.track (g before : Group) (pix clk : Nat) (i : Instr) (h : Hdr) (c : Operand) : Group :=
  match fixedDests i with
  | [] => g
  | us =>
    let dup := if h.dup = 1 then [Operand.x before.regs.xp] else
      if h.dup = 2 then (match c with | .v n => [Operand.q (n.setWidth 5)] | _ => []) else []
    let regs := us.flatMap regsOf ++ dup
    let es := regs.map (fun r =>
      ({ path := pix, reg := r, done := clk + latency i, old := before.snapshot pix r } : SbEntry))
    { g with sb := es ++ g.sb.filter (fun e =>
        decide (clk < e.done) && !(e.path == pix && regs.contains e.reg)) }

/-! ### Issue (R40, R52, R329) -/

/-- The lanes of a group's path that EMASK enables (R21). -/
def Group.enabled (g : Group) (pix : Nat) : Mask := g.regs.emask &&& (g.path pix).mask

/-- The lanes in which a guard is true (R40). -/
def Group.guard (g : Group) (h : Hdr) : Mask :=
  if h.gn then ~~~g.rdP h.gp.toNat else g.rdP h.gp.toNat

/-- Active() (R14). -/
def Group.active (g : Group) (pix : Nat) (h : Hdr) : Mask := g.enabled pix &&& g.guard h

/-- What an instruction's own effect comes to. -/
inductive Res where
  | adv (s : State)     -- issued; the path continues sequentially
  | jump (s : State)    -- issued; the path table is already set
  | hold (s : State)    -- not issued yet
  | trap (t : Trap)     -- a precise trap, with no effect of its own
  deriving DecidableEq, Repr

/-- Whether an instruction names a privileged opcode or register (R42, R71, R79). -/
def privInstr (i : Instr) : Bool :=
  let tv := fun (o : Operand) => o == .sr 0x30
  match i with
  | .ldObj _ => true
  | .stObj _ => true
  | _ => (sources i ++ fixedDests i ++ lateDest i).any (fun u => tv u.1)

/-- The register-cache lines that an instruction names, its sources and destinations (R329). -/
def Group.namedLines (g : Group) (i : Instr) : List Nat :=
  ((sources i ++ g.loopUses i ++ lateDest i ++ fixedDests i).flatMap regsOf).filterMap lineOf

/-- The poison key of a register: its cache line, or the group record (R409). -/
def poisonKey (o : Operand) : Nat :=
  match lineOf o with
  | some l => l
  | none => 528

/-- The state with a path shown as held for a reason. -/
def State.heldFor (s : State) (gid pix : Nat) (reason : BitVec 5) : State :=
  s.updGrp gid (fun g => g.updPath pix (fun p => { p with reason := reason }))

/-- The state with a path held by the grain ring before `n` events: reason 18 by a full ring, and in replay reason 19 with
the running clk at which the hold began (R276, R278, R279). -/
def State.grainHeldFor (s : State) (gid pix n : Nat) : State :=
  let g := s.grp gid
  let c := s.ctxOf g.pasid
  if c.mode = 2 then
    s.updGrp gid (fun g => g.updPath pix (fun p =>
      { p with reason := 19, holdSince := some (p.holdSince.getD (spGet 0 c.runClk g.die)) }))
  else if grainFits s g.pasid n then s
  else (grainStallsFor s g.pasid n).heldFor gid pix 18

/-- The state with a path held by the grain ring before one event. -/
def State.grainHeld (s : State) (gid pix : Nat) : State := s.grainHeldFor gid pix 1

/-- The outcome of the checks that precede an instruction's own effect. -/
inductive Gate where
  | pass (s : State) (e : Env)
  | stop (s : State)
  deriving DecidableEq, Repr

/-- Which of CLK and RTIME an instruction reads (R80). -/
def readsSr (i : Instr) (n : BitVec 8) : Bool := (sources i).any (fun u => u.1 == .sr n)

/-- A read of a clock as the grain ring logs and replays it (R80, R271, R278): the state and the value
that the register receives. -/
def clockRead (s : State) (g : Group) (pix : Nat) (reads : Bool) (typ : Nat) (now : DWord) :
    GrainRes × DWord :=
  if !reads then (.run s none, now)
  else
    let e : GEvent := { typ := typ, flags := 0, issuer := g.issuer pix, line := 0, version := 0, payload := now.toNat }
    match grainEvent s g e none with
    | .run s' (some v) => (.run s' none, BitVec.ofNat 64 v)
    | r => (r, now)

/-- The reads of CLK and RTIME of an instruction, both or none of them, then its effect may begin. It finishes in the clk
of its issue plus its latency, so a read of ASTAT that issues that many clk later does not see its flags (R114; DESIGN
CHOICE, log entry 86). -/
def clockGate (i : Instr) (s : State) (view : Group) (mix : List SbEntry) (pix : Nat) (act : Mask) : Gate :=
  let gid := s.cur.gid
  let d := s.dieOf view.die
  let on := act ≠ 0
  let stopFor := fun (t : Cause) (x f : BitVec 256) =>
    Gate.stop (s.precise gid pix { cause := t, lmask := act, exprec := x, fndrec := f })
  match clockRead s view pix (on && readsSr i 0x18) 0x0B (BitVec.ofNat 64 d.clk) with
  | (.hold s1, _) => .stop (s1.grainHeld gid pix)
  | (.trap t x f, _) => stopFor t x f
  | (.run s1 _, clk) =>
    match clockRead s1 view pix (on && readsSr i 0x19) 0x0C (BitVec.ofNat 64 s.rtime) with
    | (.hold _, _) => .stop (s.grainHeldFor gid pix 2)
    | (.trap t x f, _) => stopFor t x f
    | (.run s2 _, rt) =>
      .pass s2
        { s := s, g := view, pix := pix, act := act, clk := clk, rtime := rt, mix := mix,
          fin := d.clk + latency i }

/-- The register lines of a group's own footprint (R33). -/
def KHeader.footprint (h : KHeader) : List Nat := (upFrom 0 528).filter (inFootprint h)

/-- The register lines for which a group stalls before an instruction of it issues: those of its footprint that have been
replaced, and those outside it that the instruction names and that are not in the cache (R35, R36, R416). -/
def State.missingLines (s : State) (i : Instr) : List Nat :=
  let g := s.grp s.cur.gid
  g.absent ++ (g.namedLines i).filter (fun l =>
    !inFootprint (s.launchOf g.die g.lchid).hdr l && !g.lines.any (fun x => x.1 == l))

/-- The register lines that an instruction writes. -/
def writtenLines (i : Instr) : List Nat := ((lateDest i ++ fixedDests i).flatMap regsOf).filterMap lineOf

/-- A group that uses the register lines which an instruction names: they are its most recent ones, and those that it
writes are dirty (R35). Flags of clk that have passed are in ASTAT (R114). -/
def Group.touched (g : Group) (named written : List Nat) (tick clk : Nat) : Group :=
  { g with
    lines := named.map (fun l => (l, tick)) ++ g.lines.filter (fun x => !named.contains x.1),
    dirty := written ++ g.dirty.filter (fun l => !written.contains l), used := tick,
    regs := g.regs.settled clk }

/-- The state in which the current path's instruction takes its operands: its register lines are used, and ASTAT
holds the flags of the clk that have passed. -/
def State.touch (s : State) (i : Instr) : State :=
  s.updGrp s.cur.gid (fun g => g.touched (g.namedLines i) (writtenLines i) s.tick (s.dieOf g.die).clk)

/-- The group as an instruction that issues in a clk reads it (R114). -/
def Group.seen (g : Group) (clk : Nat) : Group := { g with regs := g.regs.seen clk }

/-- The scoreboard's part of issue (R49): in mode TRAP the reader traps, in ENFORCE it shows stall reason 2 and time
passes until the producers finish, and in OFF the reader sees each lane old or new. -/
def scoreGate (i : Instr) (h : Hdr) (s : State) : Gate :=
  let gid := s.cur.gid
  let pix := s.cur.path
  let g := s.grp gid
  let seen := fun (s : State) => (s.grp gid).seen (s.dieOf g.die).clk
  match g.sbHits i h (g.unfinished pix (s.dieOf g.die).clk) with
  | [] =>
    let s1 := s.touch i
    clockGate i s1 (seen s1) [] pix ((seen s1).active pix h)
  | (o, e) :: r =>
    let es := e :: r.map (fun x => x.2)
    match (s.launchOf g.die g.lchid).sbmode.toNat with
    | 0 =>
      let s1 := s.touch i
      let view := mixAll pix s1.tick 0 es (seen s1)
      clockGate i s1 view es pix (view.active pix h)
    | 1 =>
      .stop (s.precise gid pix
        { cause := .scoreboardUndersized, faddr := (opSpec o).setWidth 64, lmask := g.active pix h })
    | _ =>
      if (g.path pix).reason ≠ 2 then .stop (s.heldFor gid pix 2)
      else
        let t := es.foldl (fun n (e : SbEntry) => max n e.done) 0
        let s1 := (s.passClk g.die (t - (s.dieOf g.die).clk)).touch i
        clockGate i s1 (seen s1) [] pix ((seen s1).active pix h)

/-- Whether a matrix instruction names a combination that the table of step shapes does not list (R52 step 5, R159). -/
def illegalMma (i : Instr) : Bool :=
  match i with
  | .mma w => (mmaShape w.af w.bf w.spr).isNone
  | .mmloop w => (mmaShape w.af w.bf w.spr).isNone
  | _ => false

/-- Whether a register block runs past v1023 (R160). -/
def RegUse.past (u : RegUse) : Bool :=
  match u.1 with
  | .v n => decide (1024 < n.toNat + u.2)
  | _ => false

/-- Whether a matrix instruction that acts names a register block that runs past v1023 (R160, R169). -/
def Group.blockPast (g : Group) (i : Instr) : Bool :=
  match i with
  | .mma _ => (sources i).any RegUse.past
  | .mmloop _ => (g.loopUses i).any RegUse.past
  | _ => false

/-- The checks of an instruction at its issue, in their order: the word's own checks (R52 steps 2 and
3), privilege (step 4), reserved matrix combinations (step 5) and register blocks that do not exist (R160), its
register lines (R35), their poison (R409), and the scoreboard. The last two are judged whether or not Active() is empty,
of which R14 says nothing (DESIGN CHOICE, log entry 86). -/
def gate (i : Instr) (h : Hdr) (s : State) : Gate :=
  let gid := s.cur.gid
  let pix := s.cur.path
  let g := s.grp gid
  let act := g.active pix h
  let trap := fun (c : Cause) => Gate.stop (s.precise gid pix { cause := c, lmask := act })
  match check i with
  | some c => trap c
  | none =>
    if privInstr i && !(s.ctxOf g.pasid).priv then trap .privileged
    else if illegalMma i then trap .illegalMma
    else if act ≠ 0 && g.blockPast i then trap .illegalOperand
    else
      match s.missingLines i with
      | m :: _ => .stop ((s.updGrp gid (fun g => { g with missing := some m })).heldFor gid pix 13)
      | [] =>
        match findBy (fun (r : Operand × Operand) => g.poisonLines.contains (poisonKey r.2)) (g.readRegs i h) with
        | some r => .stop (s.precise gid pix { cause := .poison, faddr := (opSpec r.2).setWidth 64, lmask := act })
        | none => scoreGate i h s

/-- A path's record after it has issued an instruction (R45, R402). -/
def Path.issuedOne (p : Path) (clk stall : Nat) : Path :=
  { p with issued := p.issued + 1, last := clk + 1, earliest := clk + 1 + stall, exempt := false, reason := 0, holdSince := none }

/-- The group moved behind its peers in age order by YIELD (R46, R332). -/
def State.yieldTo (s : State) (gid : Nat) (y : Bool) : State :=
  if y then { (s.updGrp gid (fun g => { g with age := s.nextPlace })) with nextPlace := s.nextPlace + 1 }
  else s

/-- The group with an issue of a path at a clk counted (R339). -/
def Group.counted (g : Group) (pix clk : Nat) : Group :=
  { g with
    issues := g.issues + 1, issuedClk := clk + 1,
    issuedPaths := (if g.issuedClk = clk + 1 then g.issuedPaths else 0) ||| pathBits [pix] }

/-- The group with an issue of a path at a clk counted, and an explicit write to ASTAT kept apart from what ASTAT was
before that clk (R114). `old` is the group before the instruction. -/
def Group.issuedAt (g old : Group) (pix clk : Nat) : Group :=
  { g.counted pix clk with regs := g.regs.stamped old.regs clk }

/-- The end of an instruction that continues sequentially: the path's record, the scoreboard, the loop
test, and any arrival at a join. The test reads the loop state as the instruction leaves it, also where it writes
that state itself (log entry 85). -/
def advance (i : Instr) (h : Hdr) (c : Operand) (e : Env) (before s : State) : State :=
  let gid := s.cur.gid
  let g0 := before.grp gid
  let clk := (s.dieOf g0.die).clk
  (s.updGrp gid (fun g =>
    let p := g.path e.pix
    let (npc, lp) := g.seqNext p.pc p.lp p.mask
    let g1 := g.updPath e.pix (fun p => { p.issuedOne clk h.stall.toNat with pc := npc, lp := lp })
    let g2 := if e.act = 0 then g1 else g1.track g0 e.pix clk i h c
    (g2.issuedAt g0 e.pix clk).settle)).yieldTo gid h.yield

/-- Whether no comparator matches the instruction that follows this one (R425). -/
def exempts (i : Instr) : Bool :=
  match i with
  | .rte _ => true
  | _ => false

/-- A path that a split has made, under the STALL of the instruction that made it (R45): it has issued nothing itself. -/
def Path.madeAt (p : Path) (clk stall : Nat) : Path :=
  { p.issuedOne clk stall with last := 0 }

/-- The end of an instruction that has set the path table: its STALL holds for the path and for every
path that it made (R45). -/
def jumped (i : Instr) (h : Hdr) (c : Operand) (e : Env) (before s : State) : State :=
  let gid := s.cur.gid
  let g0 := before.grp gid
  let clk := (s.dieOf g0.die).clk
  (s.updGrp gid (fun g =>
    let g1 := pathIxs.foldl (fun (g : Group) k =>
      if !(g.path k).live then g
      else if k = e.pix then
        g.updPath k (fun p => { p.issuedOne clk h.stall.toNat with exempt := exempts i && !p.stepping })
      else if !(g0.path k).live then
        g.updPath k (fun p => { p.madeAt clk h.stall.toNat with exempt := exempts i })
      else g) g
    let g2 := if e.act = 0 then g1 else g1.track g0 e.pix clk i h c
    (g2.issuedAt g0 e.pix clk).settle)).yieldTo gid h.yield

/-- The state of an instruction that its own effect holds: one that reads a clock reads it when it issues, so a read
whose instruction is then held is no event yet (R271, R276, R278). -/
def heldClocks (i : Instr) (body : Env → State → Res) (e : Env) (s2 : State) : State :=
  let gid := s2.cur.gid
  if !(readsSr i 0x18 || readsSr i 0x19) || ((s2.grp gid).path e.pix).wait.isSome then s2
  else
    match body e e.s with
    | .hold s3 => s3
    | _ =>
      e.s.grainHeldFor gid e.pix 2

/-- The issue of an instruction by the current path: the checks, then its own effect, then where the
path goes. `c` is operand C, which names the Q entry of DUP 10. -/
def issueC (i : Instr) (h : Hdr) (c : Operand) (body : Env → State → Res) (s : State) :
    Host.Outcome State Fault Refusal :=
  match gate i h s with
  | .stop s' => .next s'
  | .pass s' e =>
    match body e s' with
    | .adv s2 => .next (advance i h c e s' s2)
    | .jump s2 => .next (jumped i h c e s' s2)
    | .hold s2 => .next (heldClocks i body e s2)
    | .trap t => .next ((s.noteFault (s.grp s.cur.gid) t.faddr.toNat t.cause).precise s.cur.gid s.cur.path t)

/-- The issue of an instruction without operand C. -/
def issue (i : Instr) (h : Hdr) (body : Env → State → Res) (s : State) : Host.Outcome State Fault Refusal :=
  issueC i h unused body s

/-! ### Results (R47, R77, R111, R112) -/

/-- The events of the active lanes together (R112). -/
def eventsOf (act : Mask) (f : Nat → Events) : Events :=
  (lanesOf act).foldl (fun a l => a ||| f l) 0

/-- A fixed-latency result written by the current path to its destination and its duplicate. A value
that ASTAT does not take traps (R111). It is written in the clk of the issue: an explicit write of ASTAT acts then (R114),
and a sibling path of higher index that reads a uniform register in that clk reads it (R136; DESIGN CHOICE, log entry
86). -/
def writeRes (e : Env) (wide : Bool) (h : Hdr) (d c : Operand) (f : Nat → DWord) (s : State) : Res :=
  if e.act ≠ 0 && srValueBad d (f (lowest e.act)) then .trap { cause := .illegalField, lmask := e.act }
  else .adv (s.updGrp s.cur.gid (fun g => g.writeDup e.pix e.act wide h d c f))

/-- A fixed-latency result with events: an enabled event traps, with no effect, in the lanes that raised
the cause of lowest number; otherwise the destination is written, and the flags are set at the end of the clk in which
the instruction finishes (R112, R114). -/
def arithRes (e : Env) (wide : Bool) (h : Hdr) (d c : Operand) (f : Nat → DWord) (ev : Nat → Events)
    (s : State) : Res :=
  let all := eventsOf e.act ev
  match trapOf e.g.regs.astat all with
  | some (cause, bit) =>
    .trap { cause := cause, lmask := maskOf (fun l => e.act.getLsbD l && ev l &&& bit != 0) }
  | none =>
    if e.act ≠ 0 && srValueBad d (f (lowest e.act)) then .trap { cause := .illegalField, lmask := e.act }
    else .adv (s.updGrp s.cur.gid (fun g => (g.writeDup e.pix e.act wide h d c f).raise e.fin all))

end Sys2Proof.Machine
end

