-- ==== Sys2Proof/Machine/Choose.lean ====
section
/-! DEFINITION. What precedes an instruction's issue: time passes (R341), the path's debug stops, held
faults and comparators are taken (R400, R423 to R425), and its bytes are fetched and decoded (R38,
R52). -/

namespace Sys2Proof.Machine

/-- Time before a step: every die's clk and RTIME pass by free amounts (R341, R342; log entry 2). -/
def State.passTime (s : State) : State :=
  let gap := fun d => Config.clkGap (8 * s.tick + d)
  let s1 := { s with tick := s.tick + 1, rtime := s.rtime + gap 4 }
  (((s1.passClk 0 (gap 0)).passClk 1 (gap 1)).passClk 2 (gap 2)).passClk 3 (gap 3)

/-- Whether a path may issue in this step: its group is resident and its context switched in, and the
path is live, running, and neither stopped nor waiting for a register line (R329). -/
def State.mayIssue (s : State) (w : Who) : Bool :=
  let g := s.grp w.gid
  let p := g.path w.path
  let c := s.ctxOf g.pasid
  g.place.isSome && p.live && p.stat == PStat.run && !p.stopped && g.missing.isNone &&
  c.on.contains g.die && !c.stopping.contains g.die && !g.stopReq && !c.teardown

/-- The bytes of a path's next instruction that its core's fetch buffers hold, or the number of the
first packet that they do not (R38). -/
def State.fetched (s : State) (g : Group) (pl : Place) (pc : Nat) : Except Nat (List Byte) :=
  let packet := fun n => findBy (fun (k : Packet) =>
    k.die == pl.die && k.core == pl.core && k.pasid == g.pasid && k.gen == (s.ctxOf g.pasid).gen && k.packet == n) s.packets
  let first := pc / 16
  let last := (pc + 11) / 16
  match packet first with
  | none => .error first
  | some k =>
    let head := (k.bytes.drop (pc % 16)).take 12
    if last = first then .ok head
    else
      match packet last with
      | none => .error last
      | some k2 => .ok (head ++ k2.bytes.take (12 - head.length))

/-- The comparator that matches a path's next instruction (R425). -/
def comparator (c : Ctx) (p : Path) : Option Nat :=
  if p.exempt then none
  else
    ((c.bpc.zip (upFrom 0 c.bpc.length)).find?
      (fun x => x.1.getLsbD 63 && x.1.setWidth 57 == p.pc)).map (fun x => x.2)

/-- The current path made to wait until its earliest clk (R45): time passes until then. -/
def State.waitEarliest (s : State) (g : Group) (p : Path) : State :=
  s.passClk g.die (p.earliest - (s.dieOf g.die).clk)

/-- The order of issues within one clk of a die: core, partition, slot, then path (R77, R97, R315, R327). -/
def issueKey (pl : Place) (pix : Nat) : Nat := ((pl.core * 8 + pl.part) * 16 + pl.slot) * 8 + pix

/-- The current path made to issue after what has issued before it: the issues of one clk of a die stand in the order
of their keys, and one that would come out of it takes the next clk. -/
def State.inTurn (s : State) (pl : Place) (pix : Nat) : State :=
  let d := s.dieOf pl.die
  if d.issueClk = d.clk + 1 && decide (issueKey pl pix ≤ d.issueKey) then s.passClk pl.die 1 else s

/-- What stands before a path's instruction at its issue. -/
inductive Front where
  | done (s : State)                 -- the path took a stop, a trap or a fault, or waits
  | run (i : Instr) (s : State)      -- the decoded instruction issues in this state
  deriving DecidableEq, Repr

/-- The decoded instruction of the current path, or the trap of its word (R52). -/
def front3 (s : State) (g : Group) (p : Path) (bytes : List Byte) : Front :=
  let w := word96Of bytes
  match decode w with
  | .error c =>
    .done (s.precise s.cur.gid s.cur.path { cause := c, lmask := g.active s.cur.path (hdrOf w) })
  | .ok i =>
    if p.haltPend && p.frame.inH && (match i with | .rte _ => true | _ => false) then
      .done (s.updGrp s.cur.gid (fun g => g.nest s.cur.path .debugHalt p.pc))
    else .run i s

/-- The fetch of the current path's instruction (R38, R366). -/
def front2 (s : State) (g : Group) (p : Path) (pl : Place) : Front :=
  match s.fetched g pl p.pc.toNat with
  | .error _ => .done (s.heldFor s.cur.gid s.cur.path 12)
  | .ok bytes => front3 ((s.waitEarliest g p).inTurn pl s.cur.path) g p bytes

/-- What a path meets before its next instruction, in the order of R405 and R425: a held fault, a debug
halt, the end of a step, a comparator; then its fetch. -/
def front (s : State) (w : Who) : Front :=
  let s := { s with cur := w }
  let g := s.grp w.gid
  let p := g.path w.path
  if !s.mayIssue w then .done s
  else
    match g.dueFault w.path with
    | some h => .done (s.imprecise w.gid w.path h)
    | none =>
      let lm := g.enabled w.path
      if p.haltPend && !p.frame.inH then .done (s.precise w.gid w.path { cause := .debugHalt, lmask := lm })
      else if p.stepping && !p.exempt then .done (s.precise w.gid w.path { cause := .singleStep, lmask := lm })
      else
        match comparator (s.ctxOf g.pasid) p with
        | some k =>
          .done (s.precise w.gid w.path { cause := .breakpoint, lmask := lm, info := BitVec.ofNat 32 (0x100 + k) })
        | none =>
          match g.place with
          | some pl => front2 s g p pl
          | none => .done s

/-! ### Drain words (R187, R188) -/

/-- The engine of a partition. -/
def State.engine (s : State) (e : EngRef) : Option Engine :=
  (findBy (fun (x : EngRef × Engine) => x.1 == e) s.engines).map (fun x => x.2)

/-- The state with an engine changed. -/
def State.updEngine (s : State) (e : EngRef) (f : Engine → Engine) : State :=
  { s with engines := updBy (fun (x : EngRef × Engine) => x.1 == e) (fun x => (x.1, f x.2)) s.engines }

/-- Word `k` of a group's program slot `p`; word 64 stands for `dend` (R179, R187). -/
def Group.drainWord (g : Group) (p k : Nat) : Word := if 64 ≤ k then 0 else spGet 0 g.drains (64 * p + k)

/-- The drain instruction that an engine runs next, in a state in which it is the current engine. -/
def drainFront (s : State) (e : EngRef) : Option (Instr × State) :=
  match s.engine e with
  | none => none
  | some en =>
    if !en.active then none
    else (decodeDrain ((s.grp en.gid).drainWord en.p en.dpc)).map (fun i => (i, { s with eng := e }))

/-! ### A word placed for the next step -/

/-- A launch of one group per block, for a placed instruction. -/
def placedLaunch : Launch := { Launch.blank with lchid := 1, n := 1, total := 1, next := 1, hdr := { KHeader.blank with vregs := 512, sregs := 1024, drains := 16, tiles := 8, scratch := 327680 } }

/-- A group that starts at address 0 on die 0, core 0, partition 0, slot 0. -/
def placedGroup (gid : Nat) : Group :=
  { Group.blank with
    gid := gid, lchid := 1, place := some { die := 0, core := 0, part := 0, slot := 0 }, ended := false,
    paths := { Path.free with live := true, mask := 0xFFFFFFFF, slices := 0xFF } :: List.replicate 7 Path.free }

/-- A context that is switched in on die 0. -/
def placedCtx : Ctx := { Ctx.blank with on := [0] }

/-- A block of one group with its scratchpad allocation. -/
def placedBlock : Block :=
  { die := 0, lchid := 1, ix := 0, stat := .resident, ordinal := 0, gone := [],
    allocs := [{ role := 0, core := 0, base := 0, bytes := [], poison := [], saved := none, freed := false }] }

/-- The state with a group, its launch, its block and its context placed on die 0. -/
def State.placeGroup (s : State) : State :=
  { s with
    groups := placedGroup s.nextId :: s.groups, launches := placedLaunch :: s.launches,
    blocks := placedBlock :: s.blocks, ctxs := placedCtx :: s.ctxs, nextId := s.nextId + 1 }

/-- A 96-bit word at address 0 in the fetch buffers of a placed group, whose path issues next. -/
def State.placeWord (s : State) (w : Nat) : State :=
  let gid := s.nextId
  { s.placeGroup with
    packets := { die := 0, core := 0, pasid := 0, gen := 0, packet := 0, bytes := leBytes 16 (w % 2 ^ 96) } :: s.packets,
    agenda := [.issue { gid := gid, path := 0 }] }

/-- A drain word at word 0 of slot 0 of a placed group, whose drain's first row runs it next. -/
def State.placeDrain (s : State) (w : Nat) : State :=
  let gid := s.nextId
  let e : EngRef := { die := 0, core := 0, part := 0 }
  let en : Engine :=
    { gid := gid, op := 0, t := 0, p := 0, row := 0, dpc := 0, active := true, d := [],
      args := [0, 0, 0, 0, 0, 0, 0, 0], rm := 0, tile := List.replicate 1024 0, acc := [], flags := 0,
      ni := false, finished := false }
  let s1 := s.placeGroup
  { s1 with
    groups := updBy (fun g => g.gid == gid) (fun g => { g with drains := spSet 0 g.drains 0 (BitVec.ofNat 32 w) }) s1.groups,
    engines := (e, en) :: s1.engines, agenda := [.drainWord e] }

/-- A queue command that the headstock has read and starts next: its context and its queue are placed with it. -/
def State.placeCommand (s : State) (w : Nat) : State :=
  let q : QRef := { pasid := 0, q := 0 }
  match decodeCommand q (BitVec.ofNat 512 w) with
  | some i =>
    { s with
      ctxs := placedCtx :: s.ctxs,
      queues := { ref := q, die := 0, waiting := [i], bad := none, started := [], view := [] } :: s.queues, agenda := [.event i] }
  | none => s

end Sys2Proof.Machine
end

