-- ==== Sys2Proof/Machine/Control.lean ====
section
/-! DEFINITION. Family 0x0, control (R86 to R97). -/

namespace Sys2Proof.Machine

/-- The shape of a meaning. -/
abbrev Meaning := State → Host.Outcome State Fault Refusal

/-- An instruction with no effect beyond its hints. -/
def noEffect (_e : Env) (s : State) : Res := .adv s

/-- `nop` (R96). -/
def execNop (w : XN) : Meaning := issue (.nop w) w.h noEffect

/-- An address with a signed byte offset added, bits [63:57] cleared (R87). -/
def offsetOf (pc : Addr) (k : BitVec 32) : Addr := pc + k.signExtend 57

/-- Whether an address is a multiple of 12 (R38). -/
def is12 (a : Addr) : Bool := a.toNat % 12 == 0

/-- A direct transfer of the lanes in Active() to `t` (R87); a misaligned target traps whatever the
guard, as soon as a lane is taken. -/
def braTo (e : Env) (t : Addr) (s : State) : Res :=
  let active := e.g.enabled e.pix
  if e.act ≠ 0 && !is12 t then .trap { cause := .memAlign, faddr := t.setWidth 64, lmask := e.act }
  else
    let pc := e.path.pc
    .jump (s.updGrp s.cur.gid (fun g =>
      g.transfer e.pix pc active
        [{ pc := pc + 12, lanes := active &&& ~~~e.act, seq := true }, { pc := t, lanes := e.act, seq := false }]))

/-- `bra` (R87). With no active lane at all the path moves to its fall-through address. -/
def execBra (w : XK) : Meaning :=
  issue (.bra w) w.h (fun e s =>
    if e.act = 0 then .adv s else braTo e (offsetOf e.path.pc w.k) s)

/-- Numbers without repeats, in ascending order. -/
def insertNat (a : Nat) : List Nat → List Nat
  | [] => [a]
  | x :: r => if a < x then a :: x :: r else if a = x then x :: r else x :: insertNat a r

/-- The distinct destinations of an indirect transfer in address order (R88): each active lane's own
target, and PC + 12 for the lanes that the guard leaves out. Active lanes whose own target is PC + 12 share that
destination with them, and continue sequentially as they do (log entry 85). -/
def brxDests (pc : Addr) (active act : Mask) (target : Nat → Addr) : List Dest :=
  let out := active &&& ~~~act
  let all := (lanesOf act).foldl (fun l x => insertNat (target x).toNat l)
    (if out = 0 then [] else [(pc + 12).toNat])
  all.map (fun a =>
    let here := maskOf (fun l => act.getLsbD l && (target l).toNat == a)
    let seq := out ≠ 0 && a == (pc + 12).toNat
    { pc := BitVec.ofNat 57 a, lanes := if seq then here ||| out else here, seq := seq })

/-- The lanes whose target is no multiple of 12. -/
def misTargets (act : Mask) (target : Nat → Addr) : Mask :=
  maskOf (fun l => act.getLsbD l && !is12 (target l))

/-- An indirect transfer of the lanes in Active() to their own targets (R88). -/
def brxTo (e : Env) (target : Nat → Addr) (s : State) : Res :=
  let active := e.g.enabled e.pix
  let bad := misTargets e.act target
  if bad ≠ 0 then .trap { cause := .memAlign, faddr := (target (lowest bad)).setWidth 64, lmask := bad }
  else
    let pc := e.path.pc
    .jump (s.updGrp s.cur.gid (fun g => g.transfer e.pix pc active (brxDests pc active e.act target)))

/-- The target that a pair gives each lane: bits [56:0] (R88). -/
def targetOf (e : Env) (a : Operand) (l : Nat) : Addr := (e.read true a l).setWidth 57

/-- The indirect transfer to what an operand names: a scalar pair gives one target, and the path then moves as `bra`
moves it (R88). -/
def xferTo (e : Env) (a : Operand) (s : State) : Res :=
  match a with
  | .v _ => brxTo e (targetOf e a) s
  | _ => braTo e (targetOf e a (lowest e.act)) s

/-- `brx` (R88). -/
def execBrx (w : XN) : Meaning :=
  issue (.brx w) w.h (fun e s => if e.act = 0 then .adv s else xferTo e w.a s)

/-- The link pair written with PC + 12 (R89). -/
def writeLink (e : Env) (d : Operand) (s : State) : State :=
  s.updGrp s.cur.gid (fun g => g.write e.pix e.act true d (fun _ => (e.path.pc + 12).setWidth 64))

/-- `call` (R89). -/
def execCall (w : XK) : Meaning :=
  issue (.call w) w.h (fun e s =>
    if e.act = 0 then .adv s else braTo e (offsetOf e.path.pc w.k) (writeLink e w.d s))

/-- `callx` (R89): the targets are read before the link is written. -/
def execCallx (w : XN) : Meaning :=
  issue (.callx w) w.h (fun e s =>
    if e.act = 0 then .adv s else xferTo e w.a (writeLink e w.d s))

/-- `ret` (R88). -/
def execRet (w : XN) : Meaning :=
  issue (.ret w) w.h (fun e s => if e.act = 0 then .adv s else xferTo e w.a s)

/-- The loop state set, and the path sent to its first governed instruction, or past the loop when the
count is 0 (R90). -/
def loopTo (e : Env) (k : BitVec 32) (count : Word) (pred : BitVec 3) (s : State) : Res :=
  if e.act = 0 then .adv s
  else
    let pc := e.path.pc
    let lp : LoopSt := { loopc := count, loops := pc + 12, loope := offsetOf pc k, loopp := pred }
    .jump (s.updGrp s.cur.gid (fun g => g.updPath e.pix (fun p =>
      { p with lp := lp, pc := if count = 0 then lp.loope + 12 else lp.loops })))

/-- `loop` (R90). -/
def execLoop (w : XK) : Meaning :=
  issue (.loop w) w.h (fun e s => loopTo e w.k (e.uni w.a) 7 s)

/-- `loopx` (R90). -/
def execLoopx (w : XK) : Meaning :=
  issue (.loopx w) w.h (fun e s =>
    loopTo e w.k (e.uni w.a) (match w.b with | .p n => n | _ => 7) s)

/-- The lowest region index that is free, of 16. -/
def Group.freeRegion (g : Group) : Option Nat :=
  ((upFrom 0 16).filter (fun i => !g.regions.any (fun r => r.ix == i))).head?

/-- `join` (R93): a region with the lanes of Active(), opened by this path. -/
def execJoin (w : XK) : Meaning :=
  issue (.join w) w.h (fun e s =>
    if e.act = 0 then .adv s
    else
      match (s.grp s.cur.gid).freeRegion with
      | none => .trap { cause := .illegalField, lmask := e.act }
      | some i =>
        .adv (s.updGrp s.cur.gid (fun g =>
          { g with regions := { ix := i, pc := offsetOf e.path.pc w.k, lanes := e.act, came := 0, opener := some e.pix } :: g.regions })))

/-- Whether the exit of these lanes leaves the path with none, a deferral entry included. -/
def Group.lastLanes (g : Group) (pix : Nat) (act : Mask) : Bool :=
  (g.path pix).mask &&& ~~~act == 0 && (takeDeferral pix (fun _ => true) g.deferrals).isNone

/-- The record that makes an exit in replay a fault: the next of the path's issuer before END, up to the record that
places the next group where this one is (R279 case 3, R277). -/
def exitDiverges (e : Env) (s : State) : Option Nat :=
  let g := s.grp s.cur.gid
  let c := s.ctxOf g.pasid
  if grainOn s g && c.mode == 2 && g.lastLanes e.pix e.act then
    match nextOfPath s c g (g.issuer e.pix) with
    | .record _ r => some r
    | _ => none
  else none

/-- The record found by case 3 of R279: the exit as TYPE 0xFF. -/
def exitFound (s : State) (g : Group) (pix : Nat) : BitVec 256 :=
  foundBits s g { typ := 0xFF, flags := 0, issuer := g.issuer pix, line := 0, version := 0, payload := 0 }

/-- The lanes of Active() ended (R94): the path goes on at PC + 12 with its remaining lanes, or with a
deferral entry, or ends. -/
def exitRes (e : Env) (s : State) : Res :=
  let left := (e.g.path e.pix).mask &&& ~~~e.act
  match exitDiverges e s with
  | some r =>
    .trap { cause := .replayDiverge, lmask := e.act, exprec := BitVec.ofNat 256 r,
            fndrec := exitFound s e.g e.pix }
  | none =>
    let s1 := s.updGrp s.cur.gid (fun g => g.exitLanes e.pix e.act)
    if left ≠ 0 then .adv s1 else .jump s1

/-- `exit` (R94). -/
def execExit (w : XN) : Meaning :=
  issue (.exit w) w.h (fun e s => if e.act = 0 then .adv s else exitRes e s)

/-- `yield` (R95): the group goes behind its peers. That the partition passes it over for 8 clk is
timing. -/
def execYield (w : XN) : Meaning :=
  issue (.yield w) w.h (fun e s => .adv (s.yieldTo s.cur.gid (e.act != 0)))

/-- `sleep` (R95): the path does not issue until CLK reaches its issue clk plus n. -/
def execSleep (w : XK) : Meaning :=
  issue (.sleep w) w.h (fun e s =>
    if e.act = 0 || w.k = 0 then .adv s
    else
      .adv (s.updGrp s.cur.gid (fun g => g.updPath e.pix (fun p =>
        { p with stat := .sleeping ((s.dieOf g.die).clk + w.k.toNat) }))))

/-- `brk` (R96). -/
def execBrk (w : XK) : Meaning :=
  issue (.brk w) w.h (fun e s =>
    if e.act = 0 then .adv s
    else .trap { cause := .breakpoint, lmask := e.act, info := w.k, next := true })

/-- SLEEP_EXPIRY (R95): a sleeping path wakes once its die's CLK has reached its deadline, while its
context is switched in. -/
def execSleepExpiry (w : Who) (s : State) : Host.Outcome State Fault Refusal :=
  let g := s.grp w.gid
  match (g.path w.path).stat with
  | .sleeping d =>
    if d ≤ (s.dieOf g.die).clk && (s.ctxOf g.pasid).on.contains g.die then
      .next (s.updGrp w.gid (fun g => (g.updPath w.path (fun p => { p with stat := .run })).settle))
    else .next s
  | _ => .next s

end Sys2Proof.Machine
end

