-- ==== Sys2Proof/Machine/Integer.lean ====
section
/-! DEFINITION. Family 0x1, integer arithmetic (R119 to R123). -/

namespace Sys2Proof.Machine

/-- A source read in an integer format (R100, R120). -/
def Env.int (e : Env) (f : BitVec 4) (o : Operand) (l : Nat) : Int :=
  intOf f.toNat (e.read (wideFmt f) o l).toNat

/-- A source's pattern read as a natural number of the format's width. -/
def Env.nat (e : Env) (f : BitVec 4) (o : Operand) (l : Nat) : Nat :=
  (e.read (wideFmt f) o l).toNat % 2 ^ fmtBits f

/-- The OV event of an exact result outside a format (R121). -/
def ovOf (f : BitVec 4) (y : Int) : Events := if outside f.toNat y then evOV else 0

/-- An exact result that wraps or saturates into DF and raises OV where it lies outside (R121). -/
def wrapRes (w : XF) (y : Env → Nat → Int) (e : Env) (s : State) : Res :=
  arithRes e (wideFmt w.df) w.h w.d w.c (fun l => extend w.df.toNat (intBits w.df.toNat w.sat (y e l)))
    (fun l => ovOf w.df (y e l)) s

/-- A result in DF that raises no event. -/
def plainRes (w : XF) (y : Env → Nat → Int) (e : Env) (s : State) : Res :=
  writeRes e (wideFmt w.df) w.h w.d w.c (fun l => extend w.df.toNat (intBits w.df.toNat false (y e l))) s

/-- `add` (R122). -/
def execAdd (w : XF) : Meaning :=
  issueC (.add w) w.h w.c (wrapRes w (fun e l => e.int w.df w.a l + e.int w.df w.b l))

/-- The carry bit of a lane. -/
def Env.carry (e : Env) (o : Operand) (l : Nat) : Nat := if e.rd o l = 0 then 0 else 1

/-- A result and a carry (R122): the destination, then the carry, which stands where both are one predicate. -/
def carryRes (w : XF) (y : Env → Nat → Int) (out : Int → Bool) (e : Env) (s : State) : Res :=
  let d := fun l => extend w.df.toNat (intBits w.df.toNat false (y e l))
  let cy := fun l => if out (y e l) then (1 : DWord) else 0
  if e.act ≠ 0 && srValueBad w.d (d (lowest e.act)) then .trap { cause := .illegalField, lmask := e.act }
  else
    .adv (s.updGrp s.cur.gid (fun g =>
      (g.writeDup e.pix e.act (wideFmt w.df) w.h w.d unused d).write e.pix e.act false w.c cy))

/-- `addc` (R122). -/
def execAddc (w : XF) : Meaning :=
  issueC (.addc w) w.h w.c
    (carryRes w (fun e l => (e.nat w.df w.a l + e.nat w.df w.b l + e.carry w.c l : Nat))
      (fun y => decide ((2 ^ fmtBits w.df : Nat) ≤ y)))

/-- `sub` (R122). -/
def execSub (w : XF) : Meaning :=
  issueC (.sub w) w.h w.c (wrapRes w (fun e l => e.int w.df w.a l - e.int w.df w.b l))

/-- `subb` (R122). -/
def execSubb (w : XF) : Meaning :=
  issueC (.subb w) w.h w.c
    (carryRes w (fun e l => (e.nat w.df w.a l : Int) - e.nat w.df w.b l - e.carry w.c l)
      (fun y => decide (y < 0)))

/-- `neg` (R122). -/
def execNeg (w : XF) : Meaning := issueC (.neg w) w.h w.c (wrapRes w (fun e l => -e.int w.df w.a l))

/-- `abs` (R122). -/
def execAbs (w : XF) : Meaning :=
  issueC (.abs w) w.h w.c (wrapRes w (fun e l => (e.int w.df w.a l).natAbs))

/-- `mul` (R122). -/
def execMul (w : XF) : Meaning :=
  issueC (.mul w) w.h w.c (wrapRes w (fun e l => e.int w.df w.a l * e.int w.df w.b l))

/-- ⌊a·b / 2^w⌋ (R122). -/
def highPart (e : Env) (w : XF) (l : Nat) : Int :=
  (e.int w.df w.a l * e.int w.df w.b l) / ((2 ^ fmtBits w.df : Nat) : Int)

/-- `mulhi` (R122). -/
def execMulhi (w : XF) : Meaning := issueC (.mulhi w) w.h w.c (plainRes w (fun e l => highPart e w l))

/-- `mulw` (R122): sources read in SF. -/
def execMulw (w : XF) : Meaning :=
  issueC (.mulw w) w.h w.c (plainRes w (fun e l => e.int w.sf w.a l * e.int w.sf w.b l))

/-- `mad` (R122). -/
def execMad (w : XF) : Meaning :=
  issueC (.mad w) w.h w.c
    (wrapRes w (fun e l => e.int w.df w.a l * e.int w.df w.b l + e.int w.df w.c l))

/-- `madhi` (R122). -/
def execMadhi (w : XF) : Meaning :=
  issueC (.madhi w) w.h w.c (plainRes w (fun e l => highPart e w l + e.int w.df w.c l))

/-- Quotient, remainder and events of `div` and `rem` (R123). -/
def divide (f : BitVec 4) (a b : Int) : Int × Int × Events :=
  if b = 0 then (-1, a, evDZ)
  else if f.toNat < 4 && a = intLo f.toNat && b = -1 then (intLo f.toNat, 0, evOV)
  else (Int.tdiv a b, Int.tmod a b, 0)

/-- `div` and `rem` share their events (R123). -/
def divRes (w : XF) (pick : Int × Int × Events → Int) (e : Env) (s : State) : Res :=
  let r := fun l => divide w.df (e.int w.df w.a l) (e.int w.df w.b l)
  arithRes e (wideFmt w.df) w.h w.d w.c
    (fun l => extend w.df.toNat (intBits w.df.toNat false (pick (r l)))) (fun l => (r l).2.2) s

/-- `div` (R123). -/
def execDiv (w : XF) : Meaning := issueC (.div w) w.h w.c (divRes w (fun r => r.1))

/-- `rem` (R123). -/
def execRem (w : XF) : Meaning := issueC (.rem w) w.h w.c (divRes w (fun r => r.2.1))

/-- `min` (R122). -/
def execMin (w : XF) : Meaning :=
  issueC (.min w) w.h w.c (plainRes w (fun e l => Min.min (e.int w.df w.a l) (e.int w.df w.b l)))

/-- `max` (R122). -/
def execMax (w : XF) : Meaning :=
  issueC (.max w) w.h w.c (plainRes w (fun e l => Max.max (e.int w.df w.a l) (e.int w.df w.b l)))

/-- `sad` (R122). -/
def execSad (w : XF) : Meaning :=
  issueC (.sad w) w.h w.c
    (wrapRes w (fun e l => ((e.int w.df w.a l - e.int w.df w.b l).natAbs : Int) + e.int w.df w.c l))

/-- Σ a_i·b_i over `n` fields of a register, read in SF (R122). -/
def dotFields (f : Nat) (a b : Nat) : Nat → Int
  | 0 => 0
  | n + 1 =>
    let w := fmtBits (BitVec.ofNat 4 f)
    intOf f (a / 2 ^ (w * n)) * intOf f (b / 2 ^ (w * n)) + dotFields f a b n

/-- The dot product of `n` fields plus C. -/
def dotLane (w : XF) (n : Nat) (e : Env) (l : Nat) : Int :=
  dotFields w.sf.toNat (e.rd w.a l).toNat (e.rd w.b l).toNat n + e.int w.df w.c l

/-- `dp4` (R122). -/
def execDp4 (w : XF) : Meaning := issueC (.dp4 w) w.h w.c (wrapRes w (dotLane w 4))

/-- `dp2` (R122). -/
def execDp2 (w : XF) : Meaning := issueC (.dp2 w) w.h w.c (wrapRes w (dotLane w 2))

end Sys2Proof.Machine
end

