-- ==== Sys2Proof/Machine/Move.lean ====
section
/-! DEFINITION. Family 0x3, compare, select and move (R126 to R128). -/

namespace Sys2Proof.Machine

/-- The comparisons of `cmp` by SUB (R126). -/
def cmpHolds (sub : Nat) (a b : Int) : Bool :=
  match sub with
  | 0 => decide (a = b)
  | 1 => decide (a ≠ b)
  | 2 => decide (a < b)
  | 3 => decide (a ≤ b)
  | 4 => decide (a > b)
  | _ => decide (a ≥ b)

/-- A truth value as a result. -/
def boolRes (b : Bool) : DWord := if b then 1 else 0

/-- `cmp` (R126). -/
def execCmp (w : XF) : Meaning :=
  issueC (.cmp w) w.h w.c (fun e s =>
    writeRes e false w.h w.d w.c
      (fun l => boolRes (cmpHolds w.sub.toNat (e.int w.sf w.a l) (e.int w.sf w.b l))) s)

/-- `sel` (R127). -/
def execSel (w : XF) : Meaning :=
  issueC (.sel w) w.h w.c (fun e s =>
    let wd := wideFmt w.df
    writeRes e wd w.h w.d w.c (fun l => if e.rd w.c l ≠ 0 then e.read wd w.a l else e.read wd w.b l) s)

/-- `mov` (R128). -/
def execMov (w : XN) : Meaning :=
  issue (.mov w) w.h (fun e s => writeRes e false w.h w.d unused (fun l => e.read false w.a l) s)

/-- `movi` (R128). -/
def execMovi (w : XK) : Meaning :=
  issue (.movi w) w.h (fun e s => writeRes e false w.h w.d unused (fun _ => w.k.setWidth 64) s)

/-- `movs` (R128): one lane's value, whether or not that lane is active. -/
def execMovs (w : XN) : Meaning :=
  issue (.movs w) w.h (fun e s =>
    writeRes e false w.h w.d unused (fun _ => e.read false w.a ((e.uni w.b).toNat % 32)) s)

/-- `movv` (R128): one lane of D, if it is active. What `DUP = 01` copies is the model's choice (DESIGN CHOICE,
log 85): the named lane of `X[XP]` alone, and nothing where that lane is inactive. -/
def execMovv (w : XN) : Meaning :=
  issue (.movv w) w.h (fun e s =>
    let n := (e.uni w.b).toNat % 32
    .adv (s.updGrp s.cur.gid (fun g =>
      g.writeDup e.pix (e.act &&& laneBit n) false w.h w.d unused (fun _ => (e.uni w.a).setWidth 64))))

/-- `mvsp` (R128). -/
def execMvsp (w : XN) : Meaning :=
  issue (.mvsp w) w.h (fun e s => writeRes e true w.h w.d unused (fun l => e.read true w.a l) s)

/-- `stsp` (R128). -/
def execStsp (w : XN) : Meaning :=
  issue (.stsp w) w.h (fun e s => writeRes e true w.h w.d unused (fun l => e.read true w.a l) s)

/-- The bit of a predicate in a lane. -/
def Env.bit (e : Env) (o : Operand) (l : Nat) : Bool := e.rd o l != 0

/-- `pand` (R128). -/
def execPand (w : XN) : Meaning :=
  issue (.pand w) w.h (fun e s => writeRes e false w.h w.d unused (fun l => boolRes (e.bit w.a l && e.bit w.b l)) s)
/-- `por` (R128). -/
def execPor (w : XN) : Meaning :=
  issue (.por w) w.h (fun e s => writeRes e false w.h w.d unused (fun l => boolRes (e.bit w.a l || e.bit w.b l)) s)
/-- `pxor` (R128). -/
def execPxor (w : XN) : Meaning :=
  issue (.pxor w) w.h (fun e s =>
    writeRes e false w.h w.d unused (fun l => boolRes (xor (e.bit w.a l) (e.bit w.b l))) s)
/-- `pnot` (R128). -/
def execPnot (w : XN) : Meaning :=
  issue (.pnot w) w.h (fun e s => writeRes e false w.h w.d unused (fun l => boolRes (!e.bit w.a l)) s)

/-- `pmov` (R128): predicate to predicate, the mask of a predicate to S, or the bits of S to a
predicate. -/
def execPmov (w : XN) : Meaning :=
  issue (.pmov w) w.h (fun e s =>
    match w.d, w.a with
    | .s _, a =>
      writeRes e false w.h w.d unused (fun _ => (maskOf (fun l => e.act.getLsbD l && e.bit a l)).setWidth 64) s
    | _, .s n => writeRes e false w.h w.d unused (fun l => boolRes ((e.rd (.s n) l).getLsbD l)) s
    | _, a => writeRes e false w.h w.d unused (fun l => boolRes (e.bit a l)) s)

end Sys2Proof.Machine
end

