-- ==== Sys2Proof/Machine/Lane.lean ====
section
/-! DEFINITION. Family 0x4, lane exchange (R129 to R136). -/

namespace Sys2Proof.Machine

/-- Whether the group's launch runs in compatibility mode (R26). -/
def Env.compat (e : Env) : Bool := e.launch.hdr.compat

/-- The lane whose value lane `l` reads for source index `s` (R129): `s` itself when it is in Active(),
and `l` otherwise. -/
def Env.from (e : Env) (l : Nat) (s : Option Nat) : Nat :=
  match s with
  | some k => if e.act.getLsbD k then k else l
  | none => l

/-- The lane that an index names for lane `l`: mod 32, or mod 16 in the reading lane's half (R129). -/
def Env.named (e : Env) (l ix : Nat) : Nat := if e.compat then 16 * (l / 16) + ix % 16 else ix % 32

/-- A mask as this family writes it (R130): in compatibility mode the bits of the issuing half. -/
def Env.mask (e : Env) (m : Mask) : DWord :=
  if e.compat then ((m >>> (16 * (lowest e.act / 16))) &&& 0xFFFF).setWidth 64 else m.setWidth 64

/-- The source index of `shfl` (R131): SUB 0 idx, 1 up, 2 down, 3 xor; none where it is out of range. -/
def Env.shflIx (e : Env) (sub l b : Nat) : Option Nat :=
  let lo := if e.compat then 16 * (l / 16) else 0
  let hi := if e.compat then lo + 15 else 31
  match sub with
  | 0 => some (e.named l b)
  | 1 => if b ≤ l && decide (lo ≤ l - b) then some (l - b) else none
  | 2 => if l + b ≤ hi then some (l + b) else none
  | _ => some (e.named l (Nat.xor l (b % 32)))

/-- `shfl` (R131). -/
def execShfl (w : XF) : Meaning :=
  issueC (.shfl w) w.h w.c (fun e s =>
    writeRes e false w.h w.d w.c
      (fun l => e.read false w.a (e.from l (e.shflIx w.sub.toNat l (e.rd w.b l).toNat))) s)

/-- The lanes of Active() whose value is not zero. -/
def Env.nonzero (e : Env) (o : Operand) : Mask := maskOf (fun l => e.act.getLsbD l && e.rd o l != 0)

/-- The result of `vote` (R132): SUB 0 any, 1 all, 2 uni, 3 ballot. -/
def Env.voteOf (e : Env) (sub : Nat) (o : Operand) : DWord :=
  let m := e.nonzero o
  match sub with
  | 0 => boolRes (m != 0)
  | 1 => boolRes (m == e.act)
  | 2 => boolRes (m == e.act || m == 0)
  | _ => e.mask m

/-- `vote` (R132). -/
def execVote (w : XF) : Meaning :=
  issueC (.vote w) w.h w.c (fun e s =>
    writeRes e false w.h w.d w.c (fun _ => e.voteOf w.sub.toNat w.a) s)

/-- A bitwise operation on two integers of a format, by their patterns. -/
def intBitwise (f : BitVec 4) (op : Nat → Nat → Nat) (a b : Int) : Int :=
  intOf f.toNat (op (wrapN (fmtBits f) a) (wrapN (fmtBits f) b))

/-- The combining operation of `redux` and `scan` (R133). -/
def combine (f : BitVec 4) (sub : Nat) (a b : Int) : Int :=
  match sub with
  | 0 => a + b
  | 1 => Min.min a b
  | 2 => Max.max a b
  | 3 => intBitwise f Nat.land a b
  | 4 => intBitwise f Nat.lor a b
  | _ => intBitwise f Nat.xor a b

/-- The combination of the values of a list of lanes, in its order; the list of an active lane is never
empty. -/
def Env.combined (e : Env) (w : XF) : List Nat → Int
  | [] => 0
  | l :: r => r.foldl (fun a k => combine w.df w.sub.toNat a (e.int w.df w.a k)) (e.int w.df w.a l)

/-- `redux` (R133). -/
def execRedux (w : XF) : Meaning :=
  issueC (.redux w) w.h w.c (wrapRes w (fun e _ => e.combined w (lanesOf e.act)))

/-- `scan` (R133). -/
def execScan (w : XF) : Meaning :=
  issueC (.scan w) w.h w.c
    (wrapRes w (fun e l => e.combined w ((lanesOf e.act).filter (fun k => decide (k ≤ l)))))

/-- `bcast` (R134). -/
def execBcast (w : XN) : Meaning :=
  issue (.bcast w) w.h (fun e s =>
    writeRes e false w.h w.d unused
      (fun l => e.read false w.a (e.from l (some (e.named l (e.uni w.b).toNat)))) s)

/-- The lanes of Active() that hold the pattern of lane `l` (R135). -/
def Env.peers (e : Env) (w : XF) (l : Nat) : Mask :=
  maskOf (fun k => e.act.getLsbD k && e.read (wideFmt w.df) w.a k == e.read (wideFmt w.df) w.a l)

/-- `match` (R135): SUB 0 any, 1 all. -/
def execMatchLanes (w : XF) : Meaning :=
  issueC (.matchLanes w) w.h w.c (fun e s =>
    writeRes e false w.h w.d w.c
      (fun l =>
        if w.sub = 0 then e.mask (e.peers w l)
        else if e.peers w (lowest e.act) = e.act then e.mask e.act else 0) s)

end Sys2Proof.Machine
end

