-- ==== Sys2Proof/Machine/Real.lean ====
section
/-! DEFINITION. Roots, quotients and the special functions as exact values before rounding (R144 to
R148). An irrational value is held as a significand of at least 100 bits and the fact that the value
lies strictly above it by less than one unit: a fixed-point evaluation with 320 fraction bits, less a
slack that exceeds its error (log entry 13). -/

namespace Sys2Proof.Machine

/-- Fraction bits of the fixed-point numbers. -/
def fixBits : Nat := 320

/-- 1 in fixed point. -/
def fixOne : Nat := 2 ^ fixBits

/-- A product in fixed point, rounded down. -/
def fixMul (a b : Nat) : Nat := a * b / fixOne

/-- A quotient in fixed point, rounded down. -/
def fixDiv (a b : Nat) : Nat := a * fixOne / b

/-- ⌊√n⌋ from bit `b` downwards. -/
def isqrtFrom (n : Nat) : Nat → Nat → Nat
  | 0, r => r
  | b + 1, r =>
    let t := r + 2 ^ b
    isqrtFrom n b (if t * t ≤ n then t else r)

/-- ⌊√n⌋. -/
def isqrt (n : Nat) : Nat := isqrtFrom n (Nat.log2 n / 2 + 1) 0

/-- Σ z^(2k+1)/(2k+1) over `n` terms: the inverse tangent of `z`, with alternating signs, or the inverse
hyperbolic tangent. `p` is the current power. -/
def atanSum (alt : Bool) (z2 : Int) : Nat → Int → Nat → Int
  | 0, _, _ => 0
  | n + 1, p, k =>
    p / ((2 * k + 1 : Nat) : Int) +
      (if alt then -(atanSum alt z2 n (p * z2 / (fixOne : Nat)) (k + 1))
       else atanSum alt z2 n (p * z2 / (fixOne : Nat)) (k + 1))

/-- The inverse tangent of 1/n in fixed point. -/
def atanInv (alt : Bool) (n terms : Nat) : Nat :=
  let z : Int := (fixOne / n : Nat)
  (atanSum alt (z * z / (fixOne : Nat)) terms z 0).toNat

/-- π in fixed point (Machin's formula). -/
def fixPi : Nat := 4 * (4 * atanInv true 5 75 - atanInv true 239 25)

/-- ln 2 in fixed point: twice the inverse hyperbolic tangent of 1/3. -/
def fixLn2 : Nat := 2 * atanInv false 3 110

/-- Σ ±t^k / ((first + 1)(first + 2) …) two factors a term, over `n` terms: the even and odd series of
the trigonometric and hyperbolic functions, from a current term. -/
def evenSum (alt : Bool) (t : Nat) : Nat → Nat → Nat → Int
  | 0, _, _ => 0
  | n + 1, term, k =>
    let next := fixMul term t / ((k + 1) * (k + 2))
    (term : Int) + (if alt then -(evenSum alt t n next (k + 2)) else evenSum alt t n next (k + 2))

/-- Σ r^k / k! over `n` terms, from a current term. -/
def expSum (r : Int) : Nat → Int → Nat → Int
  | 0, _, _ => 0
  | n + 1, term, k => term + expSum r n (term * r / (((k + 1) * fixOne : Nat) : Int)) (k + 1)

/-- A positive irrational value whose fixed-point approximation is `v`·2^e, with a relative error below
2^-250: its significand and exponent just below it. -/
def justBelow (s : Bool) (v : Nat) (e : Int) : FNum :=
  let low := v - v / 2 ^ 250 - 1
  let drop := Nat.log2 low - 127
  .fin s (low / 2 ^ drop) (e + (drop : Int)) true

/-- A dyadic m·2^e in fixed point, rounded down. -/
def fixOf (m : Nat) (e : Int) : Nat :=
  if 0 ≤ e + (fixBits : Int) then m * 2 ^ (e + (fixBits : Int)).toNat
  else m / 2 ^ (-(e + (fixBits : Int))).toNat

/-- √(m·2^e), exactly or just below. -/
def rootOf (m : Nat) (e : Int) : FNum :=
  let odd := e % 2 != 0
  let n := (if odd then 2 * m else m) * 2 ^ 320
  let r := isqrt n
  .fin false r ((if odd then e - 1 else e) / 2 - 160) (decide (r * r ≠ n))

/-- The quotient of two finite nonzero magnitudes, exactly or just below. -/
def quotOf (s : Bool) (m : Nat) (e : Int) (n : Nat) (f : Int) : FNum :=
  let k : Nat := 320
  let q := m * 2 ^ k / n
  .fin s q (e - f - (k : Int)) (decide (q * n ≠ m * 2 ^ k))

/-- 1/√(m·2^e), exactly or just below. -/
def invRootOf (m : Nat) (e : Int) : FNum :=
  let odd := e % 2 != 0
  let d := if odd then 2 * m else m
  let n := 2 ^ 640 / d
  let r := isqrt n
  .fin false r (-((if odd then e - 1 else e) / 2) - 320) (decide (r * r * d ≠ 2 ^ 640))

/-! ### sin(π·x) and cos(π·x) (R146) -/

/-- sin(π·n·2^e) for 0 < n·2^e ≤ 1/4. -/
def sinCore (s : Bool) (n : Nat) (e : Int) : FNum :=
  let x := fixMul fixPi (fixOf n e)
  let series := (evenSum true (fixMul x x) 40 fixOne 1).toNat
  justBelow s (n * fixMul fixPi series) (e - (fixBits : Int))

/-- cos(π·n·2^e) for 0 < n·2^e ≤ 1/4. -/
def cosCore (s : Bool) (n : Nat) (e : Int) : FNum :=
  let x := fixMul fixPi (fixOf n e)
  justBelow s (evenSum true (fixMul x x) 40 fixOne 0).toNat (-(fixBits : Int))

/-- sin(π·r/d) for 0 < r < d/2, d a power of two 2^-e. -/
def sinHalf (s : Bool) (r d : Nat) (e : Int) : FNum :=
  if 4 * r ≤ d then sinCore s r e else cosCore s (d - 2 * r) (e - 1)

/-- cos(π·r/d) for 0 < r < d/2. -/
def cosHalf (s : Bool) (r d : Nat) (e : Int) : FNum :=
  if 4 * r ≤ d then cosCore s r e else sinCore s (d - 2 * r) (e - 1)

/-- sin(π·x) (R146). -/
def sinPi (x : FNum) : FNum × Events :=
  match x with
  | .nan g => (.nan g, x.snv)
  | .inf _ => (.nan false, evNV)
  | .zero s => (.zero s, 0)
  | .fin s m e _ =>
    if 0 ≤ e then (.zero s, 0)
    else
      let d := 2 ^ (-e).toNat
      let r := m % (2 * d)
      let flip := decide (d ≤ r)
      let r := if flip then r - d else r
      if r = 0 then (.zero s, 0)
      else
        let r := if d < 2 * r then d - r else r
        if 2 * r = d then (.fin (xor s flip) 1 0 false, 0) else (sinHalf (xor s flip) r d e, 0)

/-- cos(π·x) (R146). -/
def cosPi (x : FNum) : FNum × Events :=
  match x with
  | .nan g => (.nan g, x.snv)
  | .inf _ => (.nan false, evNV)
  | .zero _ => (.fin false 1 0 false, 0)
  | .fin _ m e _ =>
    let odd := if 0 < e then false else decide (m / 2 ^ (-e).toNat % 2 = 1)
    if 0 ≤ e then (.fin odd 1 0 false, 0)
    else
      let d := 2 ^ (-e).toNat
      let r := m % (2 * d)
      let r := if d < r then 2 * d - r else r
      if r = 0 then (.fin false 1 0 false, 0)
      else if r = d then (.fin true 1 0 false, 0)
      else if 2 * r = d then (.zero false, 0)
      else if d < 2 * r then (cosHalf true (d - r) d e, 0)
      else (cosHalf false r d e, 0)

/-! ### The bounded functions (R147, R148) -/

/-- 2^(±m·2^e) for a finite nonzero argument below 128. -/
def exp2Of (s : Bool) (m : Nat) (e : Int) : FNum :=
  if (Nat.log2 m : Int) + e ≥ 10 then .fin false 1 (-2000) true
  else
    let x : Int := (if s then -1 else 1) * (fixOf m e : Nat)
    let n := x / (fixOne : Nat)
    let f := x % (fixOne : Nat)
    if f = 0 then .fin false 1 n false
    else
      let r := f * (fixLn2 : Nat) / (fixOne : Nat)
      justBelow false (expSum r 75 (fixOne : Nat) 0).toNat (n - (fixBits : Int))

/-- log₂(m·2^e) for a positive argument. -/
def log2Of (m : Nat) (e : Int) : FNum :=
  let k := Nat.log2 m
  let n : Int := (k : Int) + e
  if m = 2 ^ k then FNum.ofInt n 0 false
  else
    let one := 2 ^ k
    let z : Int := ((m - one) * fixOne / (m + one) : Nat)
    let ln : Int := 2 * atanSum false (z * z / (fixOne : Nat)) 110 z 0
    let v : Int := n * (fixOne : Nat) + ln * (fixOne : Nat) / (fixLn2 : Nat)
    justBelow (decide (v < 0)) v.natAbs (-(fixBits : Int))

/-- tanh(m·2^e) for a positive argument. -/
def tanhOf (s : Bool) (m : Nat) (e : Int) : FNum :=
  let mag : Int := (Nat.log2 m : Int) + e
  if mag < 0 then
    let x := fixOf m e
    let t := fixMul x x
    let sh := (evenSum false t 40 fixOne 1).toNat
    let ch := (evenSum false t 40 fixOne 0).toNat
    justBelow s (m * fixDiv sh ch) (e - (fixBits : Int))
  else
    let w : Nat :=
      if mag ≥ 7 then 1
      else
        let r : Int := -((fixOf m (e - 7) : Nat) : Int)
        iter (fun a => fixMul a a) 8 (expSum r 75 (fixOne : Nat) 0).toNat
    justBelow s (fixDiv (fixOne - w) (fixOne + w)) (-(fixBits : Int))

/-- Trunc1 (R147): RoundTo(FP32, y, RTZ), with ∞ for a magnitude above MaxFinite. -/
def trunc1 (y : FNum) : FNum × Events :=
  match y with
  | .fin s _ _ _ =>
    if numCmp (y.withSign false) (maxFinite f32 false) == .gt then (.inf s, evOF ||| evNX) else roundTo f32 y 1
  | _ => (y, 0)

/-- Chop2 (R147): a multiple of 2q towards zero. -/
def chop2 (y : FNum) : FNum × Events :=
  match y with
  | .fin s m e st =>
    let ee := max ((Nat.log2 m : Int) + e) f32.emin
    let (n, inexact) := roundMul 1 s m e st (ee - 22)
    (if n = 0 then .zero s else .fin s n (ee - 22) false,
      (if inexact then evNX else 0) |||
        (if inexact && decide ((if n = 0 then (-1000 : Int) else (Nat.log2 n : Int) + (ee - 22)) < f32.emin)
          then evUF else 0))
  | _ => (y, 0)

/-- `rcp` (R147, R148). -/
def rcpOf (x : FNum) : FNum × Events :=
  match x with
  | .nan g => (.nan g, x.snv)
  | .inf s => (.zero s, 0)
  | .zero s => (.inf s, evFDZ)
  | .fin s m e _ => trunc1 (quotOf s 1 0 m e)

/-- `rsq` (R147, R148). -/
def rsqOf (x : FNum) : FNum × Events :=
  match x with
  | .nan g => (.nan g, x.snv)
  | .zero s => (.inf s, evFDZ)
  | .inf false => (.zero false, 0)
  | .inf true => (.nan false, evNV)
  | .fin true _ _ _ => (.nan false, evNV)
  | .fin false m e _ => trunc1 (invRootOf m e)

/-- `ex2` (R147, R148). -/
def ex2Of (x : FNum) : FNum × Events :=
  match x with
  | .nan g => (.nan g, x.snv)
  | .inf s => (if s then .zero false else .inf false, 0)
  | .zero _ => (.fin false 1 0 false, 0)
  | .fin s m e _ =>
    if !s && numCmp x (.fin false 1 7 false) != .lt then (.inf false, evOF ||| evNX) else chop2 (exp2Of s m e)

/-- `lg2` (R147, R148). -/
def lg2Of (x : FNum) : FNum × Events :=
  match x with
  | .nan g => (.nan g, x.snv)
  | .zero _ => (.inf true, evFDZ)
  | .inf false => (.inf false, 0)
  | .inf true => (.nan false, evNV)
  | .fin true _ _ _ => (.nan false, evNV)
  | .fin false m e _ => chop2 (log2Of m e)

/-- `tanh` (R147, R148). -/
def tanhVal (x : FNum) : FNum × Events :=
  match x with
  | .nan g => (.nan g, x.snv)
  | .inf s => (.fin s 1 0 false, 0)
  | .zero s => (.zero s, 0)
  | .fin s m e _ => chop2 (tanhOf s m e)

/-- `sqrt` before its rounding (R145). -/
def sqrtOf (x : FNum) : FNum × Events :=
  match x with
  | .nan g => (.nan g, x.snv)
  | .zero s => (.zero s, 0)
  | .inf false => (.inf false, 0)
  | .inf true => (.nan false, evNV)
  | .fin true _ _ _ => (.nan false, evNV)
  | .fin false m e _ => (rootOf m e, 0)

/-- `fdiv` before its rounding (R145). -/
def fdivOf (x y : FNum) : FNum × Events :=
  let ev := x.snv ||| y.snv
  let s := xor x.neg y.neg
  match x, y with
  | .nan _, _ => (.nan false, ev)
  | _, .nan _ => (.nan false, ev)
  | .inf _, .inf _ => (.nan false, evNV)
  | .zero _, .zero _ => (.nan false, evNV)
  | .inf _, _ => (.inf s, 0)
  | _, .inf _ => (.zero s, 0)
  | .zero _, _ => (.zero s, 0)
  | .fin _ _ _ _, .zero _ => (.inf s, evFDZ)
  | .fin _ m e _, .fin _ n f _ => (quotOf s m e n f, 0)

/-- `frnd` (R143): to an integer, which keeps the sign of its operand. -/
def integral (mode : Nat) (x : FNum) : FNum × Events :=
  match x with
  | .fin s m e _ =>
    let (n, _) := roundMul mode s m e false 0
    (if n = 0 then .zero s else .fin s n 0 false, 0)
  | _ => (x, x.snv)

/-- `fscale` before its rounding (R143). Beyond 5,000 in magnitude every scale gives the same rounded
result. -/
def scaled (x : FNum) (n : Int) : FNum × Events :=
  match x with
  | .fin s m e st => (.fin s m (e + max (-5000) (min 5000 n)) st, 0)
  | _ => (x, x.snv)

end Sys2Proof.Machine
end

