-- ==== Sys2Proof/Machine/Float.lean ====
section
/-! DEFINITION. Family 0x5, floating arithmetic (R137 to R143), and family 0x6, special functions (R144
to R148). -/

namespace Sys2Proof.Machine

/-- A source read in a floating format (R138): an immediate is the exact value of its integer (R43). -/
def Env.num (e : Env) (f : BitVec 4) (o : Operand) (l : Nat) : FNum :=
  match o with
  | .imm k => FNum.ofInt k.toInt 0 false
  | _ => fDecode (ffmt f.toNat) ((e.read (wideFmt f) o l).toNat % 2 ^ fmtBits f)

/-- The rounding mode of an instruction (R106, R115). -/
def Env.mode (e : Env) (rnd : BitVec 3) : Nat := rmode e.g.regs.astat rnd

/-- A result per lane in DF, with its events: the bits, then what raised them. -/
def floatRes (w : XF) (f : Nat → Nat × Events) (e : Env) (s : State) : Res :=
  arithRes e (wideFmt w.df) w.h w.d w.c (fun l => extend w.df.toNat (f l).1) (fun l => (f l).2) s

/-- An exact value with its events, rounded to DF and saturated (R106, R110, R139). -/
def rounded (w : XF) (e : Env) (x : FNum × Events) : Nat × Events :=
  let (r, ev) := fResult (ffmt w.df.toNat) (e.mode w.rnd) w.sat x.1
  (r, ev ||| x.2)

/-- A value that FP32 holds, saturated and encoded, with its events (R147). -/
def bounded (w : XF) (x : FNum × Events) : Nat × Events :=
  (fEncode f32 (if w.sat then satF f32 x.1 else x.1), x.2)

/-! ### Family 0x5 -/

/-- `fadd` (R139). -/
def execFadd (w : XF) : Meaning :=
  issueC (.fadd w) w.h w.c (fun e s =>
    floatRes w (fun l => rounded w e (numAdd (e.mode w.rnd) (e.num w.df w.a l) (e.num w.df w.b l))) e s)

/-- `fsub` (R139). -/
def execFsub (w : XF) : Meaning :=
  issueC (.fsub w) w.h w.c (fun e s =>
    floatRes w
      (fun l => rounded w e (numAdd (e.mode w.rnd) (e.num w.df w.a l) (numNeg (e.num w.df w.b l)))) e s)

/-- `fmul` (R139). -/
def execFmul (w : XF) : Meaning :=
  issueC (.fmul w) w.h w.c (fun e s =>
    floatRes w (fun l => rounded w e (numMul (e.num w.df w.a l) (e.num w.df w.b l))) e s)

/-- a·b + c with the product never rounded (R139). -/
def fusedMulAdd (mode : Nat) (a b c : FNum) : FNum × Events :=
  let (p, ev) := numMul a b
  let (r, ev2) := numAdd mode p c
  (r, ev ||| ev2)

/-- `fma` (R139). -/
def execFma (w : XF) : Meaning :=
  issueC (.fma w) w.h w.c (fun e s =>
    floatRes w
      (fun l => rounded w e
        (fusedMulAdd (e.mode w.rnd) (e.num w.df w.a l) (e.num w.df w.b l) (e.num w.df w.c l))) e s)

/-- Whether `x` orders below `y`, −0 below +0 (R140). -/
def numBelow (x y : FNum) : Bool :=
  match numCmp x y with
  | .lt => true
  | .gt => false
  | .eq => x.neg && !y.neg

/-- A selected operand as written: its own bits (R140). For an immediate that DF does not hold the manual
states no bits; they are a free value of the immediate (R4; log entry 14). -/
def keptBits (w : XF) (e : Env) (o : Operand) (l : Nat) : Nat :=
  match o with
  | .imm k =>
    let x := FNum.ofInt k.toInt 0 false
    let F := ffmt w.df.toNat
    if (roundTo F x 0).2 = 0 then fEncode F x
    else Config.immBits w.df k.toInt % 2 ^ F.width
  | _ => (e.read (wideFmt w.df) o l).toNat % 2 ^ fmtBits w.df

/-- The selections of R140: the lesser or the greater; with one NaN the other operand, or with `nan` the
canonical NaN. -/
def selectOf (w : XF) (greater nan : Bool) (e : Env) (l : Nat) : Nat × Events :=
  let a := e.num w.df w.a l
  let b := e.num w.df w.b l
  let q := qnan (ffmt w.df.toNat)
  (if a.isNan && (b.isNan || nan) then q
   else if b.isNan && nan then q
   else if a.isNan then keptBits w e w.b l
   else if b.isNan then keptBits w e w.a l
   else if numBelow a b != greater then keptBits w e w.a l
   else keptBits w e w.b l,
   a.snv ||| b.snv)

/-- `fmin` (R140). -/
def execFmin (w : XF) : Meaning :=
  issueC (.fmin w) w.h w.c (fun e s => floatRes w (selectOf w false false e) e s)
/-- `fmax` (R140). -/
def execFmax (w : XF) : Meaning :=
  issueC (.fmax w) w.h w.c (fun e s => floatRes w (selectOf w true false e) e s)
/-- `fminn` (R140). -/
def execFminn (w : XF) : Meaning :=
  issueC (.fminn w) w.h w.c (fun e s => floatRes w (selectOf w false true e) e s)
/-- `fmaxn` (R140). -/
def execFmaxn (w : XF) : Meaning :=
  issueC (.fmaxn w) w.h w.c (fun e s => floatRes w (selectOf w true true e) e s)

/-- The comparisons of `fcmp` by SUB, with their events (R141). -/
def fcmpOf (sub : Nat) (x y : FNum) : Bool × Events :=
  let nan := x.isNan || y.isNan
  let snv := x.snv ||| y.snv
  let any := if nan then evNV else 0
  let c := numCmp x y
  match sub with
  | 0 => (!nan && c == .eq, snv)
  | 1 => (nan || c != .eq, snv)
  | 2 => (!nan && c == .lt, any)
  | 3 => (!nan && c != .gt, any)
  | 4 => (!nan && c == .gt, any)
  | 5 => (!nan && c != .lt, any)
  | 6 => (nan, snv)
  | _ => (!nan, snv)

/-- `fcmp` (R141). -/
def execFcmp (w : XF) : Meaning :=
  issueC (.fcmp w) w.h w.c (fun e s =>
    let r := fun l => fcmpOf w.sub.toNat (e.num w.sf w.a l) (e.num w.sf w.b l)
    arithRes e false w.h w.d w.c (fun l => boolRes (r l).1) (fun l => (r l).2) s)

/-- The class bit of a value of a format (R142); an immediate is never subnormal. -/
def classBit (F : FFmt) (imm : Bool) (x : FNum) : Nat :=
  match x with
  | .nan g => if g then 0 else 1
  | .inf s => if s then 2 else 9
  | .zero s => if s then 5 else 6
  | .fin s m e _ =>
    let sub := !imm && decide (m < 2 ^ F.f) && decide (e = F.emin - (F.f : Int))
    if s then (if sub then 4 else 3) else (if sub then 7 else 8)

/-- Whether an operand is an immediate. -/
def isImm : Operand → Bool
  | .imm _ => true
  | _ => false

/-- `fclass` (R142). -/
def execFclass (w : XF) : Meaning :=
  issueC (.fclass w) w.h w.c (fun e s =>
    writeRes e false w.h w.d w.c
      (fun l => BitVec.ofNat 64 (2 ^ classBit (ffmt w.sf.toNat) (isImm w.a) (e.num w.sf w.a l))) s)

/-- `fscale` (R143). -/
def execFscale (w : XF) : Meaning :=
  issueC (.fscale w) w.h w.c (fun e s =>
    floatRes w (fun l => rounded w e (scaled (e.num w.df w.a l) (e.rd w.b l).toInt)) e s)

/-- `frnd` of a lane (R143): NX is never set. -/
def frndOf (w : XF) (e : Env) (l : Nat) : Nat × Events :=
  let x := integral (e.mode w.rnd) (e.num w.df w.a l)
  let F := ffmt w.df.toNat
  if (roundTo F x.1 0).2 = 0 then (fEncode F (if w.sat then satF F x.1 else x.1), x.2)
  else (Config.immBits w.df (match w.a with
    | .imm k => k.toInt
    | _ => 0) % 2 ^ F.width, x.2)

/-- `frnd` (R143). An immediate that DF does not hold gives a free value (log entry 14). -/
def execFrnd (w : XF) : Meaning :=
  issueC (.frnd w) w.h w.c (fun e s => floatRes w (frndOf w e) e s)

/-! ### Family 0x6 -/

/-- `rcp` (R147). -/
def execRcp (w : XF) : Meaning :=
  issueC (.rcp w) w.h w.c (fun e s => floatRes w (fun l => bounded w (rcpOf (e.num w.df w.a l))) e s)
/-- `rsq` (R147). -/
def execRsq (w : XF) : Meaning :=
  issueC (.rsq w) w.h w.c (fun e s => floatRes w (fun l => bounded w (rsqOf (e.num w.df w.a l))) e s)
/-- `sqrt` (R145). -/
def execSqrt (w : XF) : Meaning :=
  issueC (.sqrt w) w.h w.c (fun e s => floatRes w (fun l => rounded w e (sqrtOf (e.num w.df w.a l))) e s)
/-- `fdiv` (R145). -/
def execFdiv (w : XF) : Meaning :=
  issueC (.fdiv w) w.h w.c (fun e s =>
    floatRes w (fun l => rounded w e (fdivOf (e.num w.df w.a l) (e.num w.df w.b l))) e s)
/-- `ex2` (R147). -/
def execEx2 (w : XF) : Meaning :=
  issueC (.ex2 w) w.h w.c (fun e s => floatRes w (fun l => bounded w (ex2Of (e.num w.df w.a l))) e s)
/-- `lg2` (R147). -/
def execLg2 (w : XF) : Meaning :=
  issueC (.lg2 w) w.h w.c (fun e s => floatRes w (fun l => bounded w (lg2Of (e.num w.df w.a l))) e s)
/-- `sinpi` (R146). -/
def execSinpi (w : XF) : Meaning :=
  issueC (.sinpi w) w.h w.c (fun e s => floatRes w (fun l => rounded w e (sinPi (e.num w.df w.a l))) e s)
/-- `cospi` (R146). -/
def execCospi (w : XF) : Meaning :=
  issueC (.cospi w) w.h w.c (fun e s => floatRes w (fun l => rounded w e (cosPi (e.num w.df w.a l))) e s)
/-- `tanh` (R147). -/
def execTanh (w : XF) : Meaning :=
  issueC (.tanh w) w.h w.c (fun e s => floatRes w (fun l => bounded w (tanhVal (e.num w.df w.a l))) e s)

/-- A state in which the current path's group has a second register written: it is written last, so where it is the
register that DUP = 01 names, the cosine stands there (R146; DESIGN CHOICE, log entry 86). -/
def secondDest (e : Env) (d : Operand) (f : Nat → DWord) (r : Res) (s : State) : Res :=
  match r with
  | .adv s2 => .adv (s2.updGrp s.cur.gid (fun g => g.write e.pix e.act false d f))
  | r => r

/-- `sincospi` (R146): the sine to D and the cosine to C, with the events of both. -/
def execSincospi (w : XF) : Meaning :=
  issueC (.sincospi w) w.h unused (fun e s =>
    let sn := fun l => rounded w e (sinPi (e.num w.df w.a l))
    let cs := fun l => rounded w e (cosPi (e.num w.df w.a l))
    secondDest e w.c (fun l => BitVec.ofNat 64 (cs l).1)
      (floatRes w (fun l => ((sn l).1, (sn l).2 ||| (cs l).2)) e s) s)

end Sys2Proof.Machine
end

