-- ==== Sys2Proof/Machine/Convert.lean ====
section
/-! DEFINITION. Family 0x7, conversions and random numbers (R149 to R154). -/

namespace Sys2Proof.Machine

/-- A source of format `sf` converted to `df` (R116, R117); an immediate in a floating position enters as
its exact integer (R43). -/
def convLane (e : Env) (sf df : BitVec 4) (rnd : BitVec 3) (sat : Bool) (o : Operand) (l : Nat) :
    Nat × Events :=
  let mode := e.mode rnd
  match o with
  | .imm k =>
    if sf.toNat < 8 then convert sf.toNat df.toNat mode sat (e.read (wideFmt sf) o l).toNat
    else
      let v := FNum.ofInt k.toInt 0 false
      if df.toNat < 8 then fToInt df.toNat mode sat v else fResult (ffmt df.toNat) mode sat v
  | _ => convert sf.toNat df.toNat mode sat ((e.read (wideFmt sf) o l).toNat % 2 ^ fmtBits sf)

/-- `cvt` (R149). -/
def execCvt (w : XF) : Meaning :=
  issueC (.cvt w) w.h w.c (fun e s =>
    floatRes w (fun l => convLane e w.sf w.df w.rnd w.sat w.a l) e s)

/-- The packed word of `cvtpk` (R150): two halves, or two bytes in the half that SUB names over the old
value of d. -/
def packOf (df : BitVec 4) (sub : BitVec 8) (old a b : Nat) : Nat :=
  if fmtBits df = 16 then a % 2 ^ 16 + 2 ^ 16 * (b % 2 ^ 16)
  else
    let two := a % 2 ^ 8 + 2 ^ 8 * (b % 2 ^ 8)
    if sub = 0 then old / 2 ^ 16 * 2 ^ 16 + two else old % 2 ^ 16 + 2 ^ 16 * two

/-- `cvtpk` (R150). -/
def execCvtpk (w : XF) : Meaning :=
  issueC (.cvtpk w) w.h w.c (fun e s =>
    let a := fun l => convLane e w.sf w.df w.rnd w.sat w.a l
    let b := fun l => convLane e w.sf w.df w.rnd w.sat w.b l
    arithRes e false w.h w.d w.c
      (fun l => BitVec.ofNat 64 (packOf w.df w.sub (e.rd w.d l).toNat (a l).1 (b l).1))
      (fun l => (a l).2 ||| (b l).2) s)

/-- Entry `k` of a codebook in eight S registers from `base`, as a lane reads it (R151). -/
def Env.cbEntry (e : Env) (base : Operand) (k l : Nat) : Nat :=
  match base with
  | .s n => (e.rdS (n.toNat + k / 2) l).toNat / 2 ^ (16 * (k % 2)) % 2 ^ 16
  | _ => 0

/-- `cvtcb` (R151). -/
def execCvtcb (w : XF) : Meaning :=
  issueC (.cvtcb w) w.h w.c (fun e s =>
    floatRes w
      (fun l =>
        let code := (e.rd w.a l).toNat / 16 ^ w.sub.toNat % 16
        convert 11 w.df.toNat (e.mode w.rnd) w.sat (e.cbEntry w.b code l)) e s)

/-! ### Random numbers -/

/-- One round of Philox4x32 (R152): the counter, then the key. -/
def philoxRound (c : Nat × Nat × Nat × Nat) (k0 k1 : Nat) : Nat × Nat × Nat × Nat :=
  let (c0, c1, c2, c3) := c
  let p := 0xD2511F53 * c0
  let t := 0xCD9E8D57 * c2
  (Nat.xor (Nat.xor (t / 2 ^ 32) c1) k0, t % 2 ^ 32, Nat.xor (Nat.xor (p / 2 ^ 32) c3) k1, p % 2 ^ 32)

/-- `n` rounds, the key advancing between them. -/
def philox : Nat → Nat × Nat × Nat × Nat → Nat → Nat → Nat × Nat × Nat × Nat
  | 0, c, _, _ => c
  | n + 1, c, k0, k1 =>
    philox n (philoxRound c k0 k1) ((k0 + 0x9E3779B9) % 2 ^ 32) ((k1 + 0xBB67AE85) % 2 ^ 32)

/-- The four words of a lane (R152). -/
def rngLane (a c key : Nat) (l : Nat) : Nat × Nat × Nat × Nat :=
  philox 10 (a, c, l, 0) (key % 2 ^ 32) (key / 2 ^ 32)

/-- A register file's number `k` further on. -/
def opPlus (o : Operand) (k : Nat) : Operand :=
  match o with
  | .v n => .v (n + BitVec.ofNat 10 k)
  | .s n => .s (n + BitVec.ofNat 10 k)
  | .q n => .q (n + BitVec.ofNat 5 k)
  | .x n => .x (n + BitVec.ofNat 2 k)
  | o => o

/-- `rng` (R152): two pairs of words to four registers. -/
def execRng (w : XF) : Meaning :=
  issueC (.rng w) w.h unused (fun e s =>
    let r := fun l => rngLane (e.rd w.a l).toNat (e.rd w.c l).toNat (e.uni64 w.b).toNat l
    .adv (s.updGrp s.cur.gid (fun g =>
      (g.write e.pix e.act true w.d
          (fun l => pairOf (BitVec.ofNat 32 (r l).1) (BitVec.ofNat 32 (r l).2.1))).write
        e.pix e.act true (opPlus w.d 2)
          (fun l => pairOf (BitVec.ofNat 32 (r l).2.2.1) (BitVec.ofNat 32 (r l).2.2.2)))))

/-- Whether a destination takes one value for its path: an S or a special register (R77, R81). -/
def uniformDest (d : Operand) : Bool :=
  match d with
  | .s _ => true
  | .sr _ => true
  | _ => false

/-- The lanes for which `trng` draws (R153): every active lane, or one for a uniform destination. -/
def drawLanes (act : Mask) (d : Operand) : List Nat :=
  if uniformDest d then (lanesOf act).take 1 else lanesOf act

/-- The event of one draw of `trng` (R271), with its lane, or 0 for a uniform destination. -/
def drawEvent (e : Env) (uniform : Bool) (s : State) (l : Nat) : GEvent :=
  { typ := 0x0D, flags := if uniform then 0 else l, issuer := e.g.issuer e.pix, line := 0, version := 0,
    payload := (Config.entropy s.tick l).toNat }

/-- The values that `trng` draws for a list of lanes, each recorded where the events are logged (R153,
R271). -/
def drawAll (e : Env) (uniform : Bool) : List Nat → State → List (Nat × Word) → GrainRes × List (Nat × Word)
  | [], s, vs => (.run s none, vs)
  | l :: r, s, vs =>
    match grainEvent s e.g (drawEvent e uniform s l) none with
    | .run s' _ => drawAll e uniform r s' ((l, Config.entropy s.tick l) :: vs)
    | x => (x, [])

/-- The values of `trng`: drawn, or in replay those of the path's next records, each in the lane that its
record names (R271, R278). -/
def drawn (e : Env) (uniform : Bool) (ls : List Nat) (s : State) : GrainRes × List (Nat × Word) :=
  if grainOn s e.g && (s.ctxOf e.g.pasid).mode = 2 then
    let rs := grainTakeLanes s e.g [] ls.length (ls.map (drawEvent e uniform s))
    match rs.fault with
    | some (c, x, f) => (.trap c x f, [])
    | none =>
      if rs.got.length < ls.length then (.hold s, [])
      else
        (.run (rs.got.foldl (fun (t : State) r => takeRecord t e.g.pasid r.2.1) s) none,
          rs.got.map (fun (r : Nat × Nat × Nat) => (if uniform then ls.headD 0 else r.1, BitVec.ofNat 32 (recPayload r.2.2))))
  else drawAll e uniform ls s []

/-- `trng` (R153). -/
def execTrng (w : XN) : Meaning :=
  issue (.trng w) w.h (fun e s =>
    match drawn e (uniformDest w.d) (drawLanes e.act w.d) s with
    | (.hold _, _) => .hold (s.grainHeldFor s.cur.gid e.pix (drawLanes e.act w.d).length)
    | (.trap c x f, _) => .trap { cause := c, lmask := e.act, exprec := x, fndrec := f }
    | (.run s1 _, vs) =>
      writeRes e false w.h w.d unused
        (fun l => match findBy (fun (v : Nat × Word) => v.1 == l) vs with
          | some v => v.2.setWidth 64
          | none => 0) s1)

/-- What `sample.cat` gathers over its lanes: the total so far, the SW event, and each prefix with its
weight, last lane first (R154). -/
structure CatSum where
  total : FNum
  sw : Bool
  prefixes : List (FNum × FNum)
  deriving DecidableEq, Repr

/-- One more lane of `sample.cat`. -/
def CatSum.add (c : CatSum) (w : FNum) : CatSum :=
  let bad := w.isNan || (w.neg && match w with
    | .zero _ => false
    | _ => true)
  let w := if bad then .zero false else match w with
    | .zero _ => .zero false
    | w => w
  let t := (roundTo f32 (numAdd 0 c.total w).1 0).1
  { total := t, sw := c.sw || bad, prefixes := (t, w) :: c.prefixes }

/-- The greatest index whose weight is positive. -/
def lastPositive : List (FNum × FNum) → Nat → Nat
  | [], _ => 0
  | (_, w) :: r, i => if numCmp w (.zero false) == .gt then i else lastPositive r (i - 1)

/-- The least index that satisfies `f`, of a list numbered from `i`. -/
def leastIx {α : Type} (f : α → Bool) : List α → Nat → Option Nat
  | [], _ => none
  | x :: r, i => if f x then some i else leastIx f r (i + 1)

/-- The index that `sample.cat` draws, and whether it raises SW (R154). -/
def sampleOf (weights : List FNum) (b : Word) : Nat × Bool :=
  let n := weights.length
  let c := weights.foldl CatSum.add { total := .zero false, sw := false, prefixes := [] }
  let pre := c.prefixes.reverse
  match c.total with
  | .zero _ => (n, true)
  | .inf _ => ((leastIx (fun (p : FNum × FNum) => p.1 == FNum.inf false) pre 0).getD n, true)
  | t =>
    let u := (roundTo f32 (numMul (FNum.ofInt (b.toNat / 256 : Nat) (-24) false) t).1 0).1
    ((leastIx (fun (p : FNum × FNum) => numCmp p.1 u == .gt) pre 0).getD (lastPositive c.prefixes (n - 1)), c.sw)

/-- `sample.cat` (R154). -/
def execSampleCat (w : XF) : Meaning :=
  issueC (.sampleCat w) w.h w.c (fun e s =>
    let ls := if e.compat then upFrom (16 * (lowest e.act / 16)) 16 else lanes
    let r := sampleOf (ls.map (fun l => if e.act.getLsbD l then e.num 9 w.a l else .zero false)) (e.uni w.b)
    arithRes e false w.h w.d w.c (fun _ => BitVec.ofNat 64 r.1) (fun _ => if r.2 then evSW else 0) s)

end Sys2Proof.Machine
end

