-- ==== Sys2Proof/Machine/Governor.lean ====
section
/-! DEFINITION. The governor of STAGED launches (R31, R326, R327): the stage table, the crossings of an
occupancy word, and the move that a crossing makes. -/

namespace Sys2Proof.Machine

/-- The stage of a group, a pending assignment included. -/
def Group.stageNow (g : Group) : BitVec 4 := g.regs.pendStage.getD g.regs.stage

/-- Whether a launch is governed by the stage table at an address. -/
def Launch.usesTable (l : Launch) (die pasid table : Nat) : Bool :=
  l.hdr.staged && l.stages != 0 && l.stages == table && l.die == die && l.pasid == pasid

/-- The groups of a die that a stage table governs. -/
def State.tableGroups (s : State) (die pasid table : Nat) : List Group :=
  s.groups.filter (fun g => !g.ended && g.die == die && g.pasid == pasid &&
    (s.launchOf die g.lchid).usesTable die pasid table)

/-- GROUPS of a stage: the groups assigned to it, pending assignments included (R326). -/
def State.stageCount (s : State) (die pasid table st : Nat) : Nat :=
  ((s.tableGroups die pasid table).filter (fun g => g.stageNow.toNat == st)).length

/-- The stage tables of a context, by die. -/
def State.tables (s : State) : List (Nat × Nat × Nat) :=
  (s.launches.filter (fun l => l.hdr.staged && l.stages != 0)).foldl
    (fun ts l => if ts.contains (l.die, l.pasid, l.stages) then ts else ts ++ [(l.die, l.pasid, l.stages)]) []

/-- An entry of a stage table (R326). -/
structure StageEntry where
  occ : Nat
  hi : Nat
  lo : Nat
  min : Nat
  unit : Bool
  deriving DecidableEq, Repr, Inhabited

/-- An entry from its 32 bytes. -/
def stageEntryOf (x : Nat) : StageEntry :=
  { occ := nbits x 31 0, hi := nbits x 63 32, lo := nbits x 95 64, min := nbits x 111 96, unit := nbit x 160 }

/-- The entries of a stage table as the headstock reads them. -/
def readTable (s : State) (die pasid table : Nat) : State × Option (List StageEntry) :=
  match headRead s die pasid table 512 with
  | (s1, .ok bs) => (s1, some ((upFrom 0 16).map (fun k => stageEntryOf (ofLe ((bs.drop (32 * k)).take 32)))))
  | (s1, .error _) => (s1, none)

/-- The order in which groups of one dispatch are taken: core, partition and slot (R327). -/
def Group.spotKey (g : Group) : Nat :=
  match g.place.orElse (fun _ => g.reserved) with
  | some pl => (pl.core * 8 + pl.part) * 16 + pl.slot
  | none => 2 ^ 20

/-- The group of a list whose latest placement is the most recent; of those of one clk, the one with the lowest core,
partition and slot (R327). -/
def latestGroup (gs : List Group) : Option Group :=
  gs.foldl (fun b g => match b with
    | none => some g
    | some h =>
      if h.dispatched < g.dispatched || (h.dispatched = g.dispatched && decide (g.spotKey < h.spotKey)) then some g
      else some h) none

/-- The core of a group. -/
def Group.coreOf (g : Group) : Option Nat := g.place.map (fun p => p.core)

/-- A group assigned to a stage in a clk: an assignment back to the current stage clears the pending one (R327). -/
def Group.assign (g : Group) (clk st : Nat) : Group :=
  let v := BitVec.ofNat 4 st
  { g with regs := { g.regs with pendStage := if v = g.regs.stage then none else some v, pendClk := clk + 1 } }

/-- Up to `n` groups of stage `d` moved to stage `to`, most recently dispatched first; `core` keeps the moves
to the groups of one core. -/
def moveGroups (die pasid table d onto : Nat) (core : Option (Option Nat)) : Nat → State → State
  | 0, s => s
  | n + 1, s =>
    let gs := (s.tableGroups die pasid table).filter (fun g => g.stageNow.toNat == d &&
      (match core with
        | some c => g.coreOf == c
        | none => true))
    match latestGroup gs with
    | none => s
    | some g => moveGroups die pasid table d onto core n (s.updGrp g.gid (fun g => g.assign (s.dieOf die).clk onto))

/-- The one move of a pair of stages (R327). -/
def governorMove (s : State) (die pasid table : Nat) (es : List StageEntry) (d onto : Nat) : State :=
  let gs := (s.tableGroups die pasid table).filter (fun g => g.stageNow.toNat == d)
  let spare := s.stageCount die pasid table d - (getAt default es d).min
  if (getAt default es onto).unit then
    match latestGroup gs with
    | some g => moveGroups die pasid table d onto (some g.coreOf) spare s
    | none => s
  else moveGroups die pasid table d onto none (min 1 spare) s

/-- The crossings of one stage table by an atomic that took OCC of stage `k` from `old` to `new` (R327). -/
def governTable (s : State) (die pasid table k old new : Nat) : State :=
  match readTable s die pasid table with
  | (s1, none) => s1
  | (s1, some es) =>
    let e := getAt default es k
    let spares := fun (d : Nat) =>
      let x := getAt default es d
      decide (x.occ < x.lo) && decide (x.min < s1.stageCount die pasid table d)
    if old ≤ e.hi && decide (e.hi < new) then
      match findBy (fun d => d != k && spares d) (upFrom 0 16) with
      | some d => governorMove s1 die pasid table es d k
      | none => s1
    else if e.lo ≤ old && decide (new < e.lo) && decide (e.min < s1.stageCount die pasid table k) then
      match findBy (fun t => t != k && (let x := getAt default es t; decide (x.hi < x.occ))) (upFrom 0 16) with
      | some t => governorMove s1 die pasid table es k t
      | none => s1
    else s1

/-- Whether a stage table of a context holds the occupancy word at an address. -/
def holdsOcc (pasid addr : Nat) (t : Nat × Nat × Nat) : Bool :=
  t.2.1 == pasid && decide (t.2.2 ≤ addr) && decide (addr < t.2.2 + 512) && (addr - t.2.2) % 32 == 0

/-- Whether the governor must still wait for the translation of a stage table that holds an occupancy word (R352). -/
def State.governWaits (s : State) (pasid addr : Nat) : State × Bool :=
  s.tables.foldl (fun (r : State × Bool) t =>
    if holdsOcc pasid addr t then
      match headRead r.1 t.1 pasid t.2.2 512 with
      | (s1, .error none) => (s1, true)
      | (s1, _) => (s1, r.2)
    else r) (s, false)

/-- The governor's part of a performed `atom` or `red` at a GLOBAL address of a context (R327). -/
def State.govern (s : State) (pasid addr old new : Nat) : State :=
  s.tables.foldl (fun s t =>
    let (die, _, table) := t
    if holdsOcc pasid addr t then
      governTable s die pasid table ((addr - table) / 32) (old % 2 ^ 32) (new % 2 ^ 32)
    else s) s

/-- GROUPS written in every stage table whose counts differ from an earlier state's (R326). -/
def writeCounts (before s : State) : State :=
  s.tables.foldl (fun s t =>
    let (die, pasid, table) := t
    (upFrom 0 16).foldl (fun s st =>
      let n := s.stageCount die pasid table st
      if before.stageCount die pasid table st = n then s
      else s.headPost (.bytes die pasid (table + 32 * st + 16) (leBytes 4 n))) s) s

end Sys2Proof.Machine
end

