-- ==== Sys2Proof/Machine/Access.lean ====
section
/-! DEFINITION. Memory operations in flight: where an element lies, when it may be performed (R201 to
R204, R219, R222), what performing it does (R207, R209, R210, R243, R244), and the completion of its
operation (R50, R113, R200). -/

namespace Sys2Proof.Machine

/-! ### Bytes of elements -/

/-- The number in the `n` bytes of a place. -/
def State.readTarget (s : State) (g : Group) (t : Target) (n : Nat) : Nat :=
  match t with
  | .at_ p _ => ofLe (s.rdLoc p n)
  | .obj as => ofLe (as.map (spGet memDefault s.mem))
  | .scr role o => ofLe (s.rdScr g.die g.lchid g.block role o n)

/-- Whether a read of the place consumes poison (R409). -/
def State.targetPoison (s : State) (g : Group) (t : Target) (n : Nat) : Bool :=
  match t with
  | .at_ p _ => s.poisonedAt p n
  | .obj as => as.any (fun a => poisoned s.poison a 1)
  | .scr role o => s.scrPoisoned g.die g.lchid g.block role o n

/-- The state with the `n` bytes of a place written. -/
def State.writeTarget (s : State) (g : Group) (t : Target) (n v : Nat) : State :=
  match t with
  | .at_ p _ => s.wrLoc p (leBytes n v)
  | .obj as => s.wrScattered as (leBytes n v)
  | .scr role o => s.wrScr g.die g.lchid g.block role o (leBytes n v)

/-- The numbers by which the consistency model knows the `n` bytes of a place. -/
def Target.cells (t : Target) (g : Group) (n : Nat) : List Nat :=
  match t with
  | .at_ p _ => upFrom p.cell n
  | .obj as => as
  | .scr role o => upFrom (scrCell g.die g.lchid g.block role o) n

/-- A nibble of a byte (R104). -/
def nibbleOf (b : Nat) (hi : Bool) : Nat := if hi then b / 16 % 16 else b % 16

/-- A byte with one nibble replaced (R203). -/
def withNibble (b v : Nat) (hi : Bool) : Nat := if hi then b % 16 + 16 * (v % 16) else b / 16 * 16 + v % 16

/-- Bytes of an element in memory; a CB4 element names one byte. -/
def elemBytes (mf : BitVec 4) : Nat := if mf = 14 then 1 else fmtBytes mf

/-! ### Order within a path (R204, R222) -/

/-- The space and width of an operation's elements: 0 GLOBAL, 1 scratchpads, 2 OBJ. -/
def kindSpan (k : OpKind) : Option (Nat × Nat) :=
  let cls : Space → Nat := fun sp => match sp with
    | .gbl => 0
    | .obj => 2
    | _ => 1
  match k with
  | .load sp _ mf _ _ _ _ _ => some (cls sp, elemBytes mf)
  | .store sp mf _ _ => some (cls sp, elemBytes mf)
  | .atomic _ mf _ => some (0, fmtBytes mf)
  | .cas mf _ => some (0, fmtBytes mf)
  | .peer _ => some (1, 4)
  | _ => none

/-- Whether an element is touched in memory at all: an element outside its tensor is not (R213). -/
def touches (k : OpKind) (e : Elem) : Bool :=
  match k with
  | .load .. => e.val2 == 0
  | _ => true

/-- Whether two ranges of bytes meet. -/
def meet (a n b m : Nat) : Bool := decide (a < b + m) && decide (b < a + n)

/-- Whether elements of two operations share a byte of one space (R204): two nibbles of one byte do. -/
def overlaps (p : OpKind) (x : Elem) (o : OpKind) (e : Elem) : Bool :=
  match kindSpan p, kindSpan o with
  | some (c, n), some (d, m) =>
    c == d && touches p x && touches o e && meet x.addr n e.addr m
  | _, _ => false

/-- Whether an operation of a group has not been performed. -/
def Group.pending (g : Group) (id : Nat) : Bool := g.ops.any (fun o => o.id == id && !o.done)

/-- Whether an operation is a peer store. -/
def Op.isPeer (o : Op) : Bool :=
  match o.kind with
  | .peer _ => true
  | _ => false

/-- Whether an element must wait for an earlier access of its path. A peer word does not: it is performed when it arrives,
after the accesses that it follows (R217, R218). -/
def Group.blocked (g : Group) (o : Op) (e : Elem) : Bool :=
  o.deps.any g.pending ||
  g.ops.any (fun p => o.olds.contains p.id && !p.done && p.todo.any (fun x => overlaps p.kind x o.kind e))

/-! ### Words in flight (R219) -/

/-- The elements of peer stores in flight in the scratchpads of a block. -/
def State.peersOf (s : State) (die lchid block : Nat) : List (Op × Elem) :=
  (s.groups.filter (fun g => g.die == die && g.lchid == lchid && g.block == block)).flatMap
    (fun g => g.ops.flatMap (fun o =>
      match o.kind with
      | .peer _ => o.todo.map (fun e => (o, e))
      | _ => []))

/-- The peer words in flight that a scratchpad read meets, those of operations in `own` apart. -/
def State.inFlight (s : State) (g : Group) (own : List Nat) (addr n : Nat) : List Elem :=
  ((s.peersOf g.die g.lchid g.block).filter
    (fun x => !own.contains x.1.id && meet x.2.addr 4 addr n)).map (fun x => x.2)

/-- The peer words in flight that a scratchpad load of an operation meets: those that its own path has issued before or
after it keep R204's order with it (R219). -/
def State.flightsFor (s : State) (g : Group) (o : Op) (addr n : Nat) : List Elem :=
  ((s.peersOf g.die g.lchid g.block).filter
    (fun x => !o.olds.contains x.1.id && !x.1.olds.contains o.id && meet x.2.addr 4 addr n)).map (fun x => x.2)

/-- Byte `k` of a value in `n` bytes from `addr` as a reader in mode OFF sees it: the old byte or that of
a word in flight (R219). -/
def mixByte (tick addr : Nat) (es : List Elem) (old : Nat) (k : Nat) : Nat :=
  match findBy (fun (e : Elem) => decide (e.addr ≤ addr + k) && decide (addr + k < e.addr + 4)) es with
  | some e =>
    if Config.freeBit tick (300000 + (addr + k) % 2 ^ 22) then e.val.toNat / 256 ^ (addr + k - e.addr) % 256
    else old / 256 ^ k % 256
  | none => old / 256 ^ k % 256

/-- `n` bytes mixed. -/
def mixBytes (tick addr : Nat) (es : List Elem) (old : Nat) : Nat → Nat
  | 0 => 0
  | k + 1 => mixBytes tick addr es old k + 256 ^ k * mixByte tick addr es old k

/-! ### Performing an element -/

/-- What performing an element comes to: performed, with a value for its lane's destination and its
events; a fault; or not yet. -/
inductive Perf where
  | done (s : State) (v : Option DWord) (ev : Events)
  | bad (s : State) (c : Cause)
  | wait (s : State)
  deriving DecidableEq, Repr

/-- A loaded element in its register format (R105, R116, R246). -/
def loadValue (mf rf : BitVec 4) (rnd : BitVec 3) (sat acq : Bool) (x : Nat) : DWord × Events :=
  if mf = 14 then (BitVec.ofNat 64 x, 0)
  else if acq then (extend mf.toNat x, 0)
  else
    let (r, ev) := convert mf.toNat rf.toNat rnd.toNat sat x
    (extend rf.toNat r, ev)

/-- Whether an operation's launch reads words in flight under ENFORCE (R219). -/
def State.enforced (s : State) (g : Group) : Bool := (s.launchOf g.die g.lchid).sbmode == 2

/-- The stamps of the newest writes of the bytes of a place. -/
def State.stampsAt (s : State) (g : Group) (t : Target) (n : Nat) : List Nat := (t.cells g n).map (fun k => (s.newest k).1)

/-- A load's bytes at a place, with the stamps of the writes that they come from (R226, R230): any that the rules allow, as
a number. A scratchpad gives what stands there: its accesses are performed at CLUSTER scope, in which every reader of it
lies (R201). -/
def State.loadFrom (s : State) (g : Group) (o : Op) (e : Elem) (t : Target) (n : Nat) : Nat × List Nat :=
  let pick := fun (floor : Nat) =>
    let ps := s.pickBytes o.view floor e.lane (t.cells g n)
    (ofLe (ps.map (fun x => x.2)), ps.map (fun x => x.1))
  match t with
  | .at_ _ _ => pick (s.mappedAt g.die g.tlbCore (s.tlbFor g o.ahead e.addr) g.pasid e.addr)
  | .obj _ => pick 0
  | .scr _ _ => (s.readTarget g t n, s.stampsAt g t n)

/-- Whether an access of a hop scope is performed with its own order at its home (R239): it lies in this module, or its
hop scope reaches the module. -/
def State.portReaches (s : State) (t : Target) (scope : BitVec 3) (sk : Bool) : Bool :=
  match t with
  | .at_ (.remote a) _ => !sk || decide (s.distance (nbits a 55 48) ≤ scope.toNat)
  | _ => true

/-- An operation as its place performs it: relaxed at a remote home that its hop scope does not reach (R239). -/
def Op.atHome (o : Op) (s : State) (t : Target) : Op := if s.portReaches t o.scope o.sk then o else { o with ord := 0 }

/-- What an acquire of an operation's path learns from the releases that it has read (R223, R228). -/
def State.learnt (s : State) (g : Group) (o : Op) (ms : List Msg) : View :=
  let a := g.agent o.path
  if ordAcq o.ord then
    viewJoin (acquired a o.scope o.sk ms) (if o.ord = 4 then s.scView a o.scope o.sk else [])
  else []

/-- A read performed: what it adds to what happens before the accesses that follow it (R224). The releases that it has read
are kept for a later acquire fence (R223). -/
def State.hasRead (s : State) (g : Group) (o : Op) (t : Target) (n : Nat) (stamps : List Nat) : State :=
  let ms := s.msgsOf stamps
  s.updGrp g.gid (fun x => x.learn o.id (viewOf (t.cells g n) stamps) (s.learnt g (o.atHome s t) ms) ms)

/-- What a write of an operation hands on: itself as a release, with what it `wrote`, and the release fences before it
(R223). -/
def Group.handsOn (g : Group) (o : Op) (wrote : View) : List Msg :=
  let a := g.agent o.path
  (if ordRel o.ord then [{ who := a, scope := o.scope, sk := o.sk, view := viewJoin (viewJoin o.view o.own) wrote }] else []) ++
    o.fences.map (fun f => { who := a, scope := f.scope, sk := f.sk, view := f.view })

/-- An operation's place among the sequentially consistent ones (R228), with what it has read and written. -/
def State.hasSc (s : State) (g : Group) (o : Op) (wrote : View) : State :=
  if o.ord = 4 then
    { s with sc := { who := g.agent o.path, scope := o.scope, sk := o.sk, view := viewJoin (viewJoin o.view o.own) wrote } :: s.sc }
  else s

/-- A write performed to memory: what it hands on, after `chain`, that of the release sequence which it continues (R229),
and its place among the sequentially consistent operations (R228). -/
def State.hasWritten (s : State) (g : Group) (o : Op) (t : Target) (n : Nat) (chain : List Msg) : State :=
  let wrote := viewOf (t.cells g n) (List.replicate n s.stamp)
  let o1 := o.atHome s t
  ((s.releasing (chain ++ g.handsOn o1 wrote)).hasSc g o1 wrote).updGrp g.gid (fun x => x.learn o.id wrote [] [])

/-- A failed comparison (R244): it has read, and takes its place among the sequentially consistent operations (R228). -/
def State.hasCompared (s : State) (g : Group) (o : Op) (t : Target) : State := s.hasSc g (o.atHome s t) []

/-- The state in which a load has found its page absent, if it is, which a probed load reports in its predicate (R207): the
page is not present in the context's page tables. The answer to an ATS request that said so is used up (R359). An object's
absence and an unreachable module still fault (R368, R395). -/
def State.absent (s : State) (g : Group) (ahead : Bool) (sp : Space) (addr : Nat) (need : Need) : Option State :=
  match sp with
  | .gbl =>
    match s.translate g.die g.tlbCore (s.tlbFor g ahead addr) g.pasid addr need with
    | (s1, .fault .memNotPresent) => some s1
    | _ => none
  | _ => none

/-- A load element that is read from memory (R209, R219, R226). -/
def readElem (s : State) (g : Group) (o : Op) (e : Elem) (sp : Space) (mf rf : BitVec 4) (rnd : BitVec 3)
    (sat acq : Bool) (es : List Elem) : Perf :=
  let n := elemBytes mf
  match s.targetIn g (s.tlbFor g o.ahead e.addr) sp e.addr n needR with
  | (s1, .error none) => .wait s1
  | (s1, .error (some c)) => .bad s1 c
  | (s1, .ok t) =>
    if s1.targetPoison g t n then .bad s1 .poison
    else
      let r := s1.loadFrom g o e t n
      let x := mixBytes s.tick e.addr es r.1 n
      let x := match e.nib with
        | some hi => nibbleOf x hi
        | none => x
      let (v, ev) := loadValue mf rf rnd sat acq x
      .done (s1.hasRead g o t n r.2) (some v) ev

/-- A load element performed (R207, R209, R219, R226). -/
def performLoad (s : State) (g : Group) (o : Op) (e : Elem) (sp : Space) (mf rf : BitVec 4)
    (rnd : BitVec 3) (sat : Bool) (probe acq : Bool) : Perf :=
  if e.val2 = 1 then .done s (some 0) 0
  else
    let es := if sp == .scr || sp == .cls then s.flightsFor g o e.addr (elemBytes mf) else []
    if es ≠ [] && s.enforced g then .wait s
    else
      match (if probe then s.absent g o.ahead sp e.addr needR else none) with
      | some s1 => .done s1 (some 0) 0
      | none => readElem s g o e sp mf rf rnd sat acq es

/-- Whether the attributes of a page allow an atomic (R354, R356): in host memory only `atom.add`, `atom.exch` and
`cas`, of integers; `reads` is false for a `red`. -/
def atomicOk (attr : BitVec 9) (op : Option AtomOp) (mf : BitVec 4) (reads : Bool) : Bool :=
  attrPbmt attr == 0 &&
  (attrKind attr != 2 || (reads &&
    match op with
    | none => true
    | some .exch => true
    | some .add => decide (mf.toNat < 8)
    | some _ => false))

/-- What an atomic needs of its page: R and W where it returns what it read, W for a `red` (R357). -/
def atomNeed (reads : Bool) : Need := if reads then needRW else needW

/-- The tag of a line set by a `syncinit` of an address (R250). -/
def State.setTag (s : State) (g : Group) (line addr : Nat) : State :=
  let t : Tag :=
    { ctx := g.pasid, die := g.die, cls := (s.launchOf g.die g.lchid).cls, lch := g.lchid, vpn := addr / 4096 }
  { s with tags := spSet none s.tags line (some t) }

/-- The line whose version a wait's record names, if it has one (R271, R278). -/
def Wait.recordLine (x : Wait) : Option Nat :=
  match x.kind with
  | .word _ _ _ => some x.addr
  | .bar .gbl _ _ => some x.addr
  | .sem n _ => some (2 ^ 63 + n)
  | _ => none

/-- Whether a wait in replay looks at a line. -/
def State.waitsAt (s : State) (g : Group) (x : Wait) (line : Nat) : Bool :=
  match x.kind with
  | .sem n _ => semLine n == line
  | _ =>
    match (s.target g .gbl x.addr 1 { r := false, w := false, x := false }).2 with
    | .ok (.at_ p _) => p.line == line
    | _ => false

/-- The state in which the held waits whose record's version a line has now have met it: the condition of R278 is judged
while it holds (R279). -/
def State.judged (s : State) (pasid line : Nat) : State :=
  let c := s.ctxOf pasid
  let meets := fun (g : Group) (i : Nat) (x : Wait) =>
    !x.met && s.waitsAt g x line &&
    match nextOfPath s c g (g.issuer i) with
    | .record _ r => x.recordLine == some (nbits r 151 88) && recVersion r == s.version pasid line
    | _ => false
  { s with groups := s.groups.map (fun g =>
      if g.pasid != pasid || !grainOn s g then g
      else
        { g with paths := (g.paths.zip (upFrom 0 8)).map (fun (y : Path × Nat) =>
            match y.1.stat, y.1.wait with
            | .replayHold, some x =>
              if x.recordLine.isSome && meets g y.2 x then { y.1 with wait := some { x with met := true }, holdSince := none } else y.1
            | _, _ => y.1) }) }

/-- A logged event performed at a line: its record while recording, its record consumed in replay, and the line's
version advanced by a write (R273, R278). `own` is the operation whose event it is, if it is one's. -/
def logAt (s : State) (g : Group) (own : Option Nat) (ev : GEvent) (line : Nat) (ver : Option (Nat × Nat)) (writes : Bool) :
    State :=
  let e := { ev with version := s.version g.pasid line }
  let s1 := match ver with
    | some v => takeRecord s g.pasid v.1
    | none => grainRecord s g.pasid
        (if own.isSome then { ev := e, line := some line, own := own, olds := [] }
         else s.lateRec (s.grp g.gid) e (some line))
  if writes then (if (s.ctxOf g.pasid).mode = 2 then s1.judged g.pasid line else s1).bumpVersion g.pasid line else s1

/-- Whether the records of a path's earlier operations are in the ring, and those that an operation's record at a line
follows: sequence order agrees with the path's program order and with the line's version order (R274). -/
def State.inOrder (s : State) (g : Group) (o : Op) (line : Nat) : Bool :=
  !g.ops.any (fun p => o.olds.contains p.id && s.mayLog g p) &&
  !(s.ctxOf g.pasid).late.any (fun q => (q.ev.issuer == o.issuer && !q.olds.contains o.id) || q.line == some line)

/-- Whether a path holds for an operation in replay. -/
def Group.holdsOp (g : Group) (id : Nat) : Bool :=
  g.paths.any (fun p => (p.wait.map (fun (x : Wait) => x.kind)) == some (WaitKind.op id))

/-- Whether a logged event of an operation may be performed now: while recording the ring has room and the
path's earlier events are recorded, and in replay the line's version is the recorded one (R274, R276,
R278). -/
def logReady (s : State) (g : Group) (o : Op) (line : Nat) (ver : Option (Nat × Nat)) : Bool :=
  let c := s.ctxOf g.pasid
  if c.mode = 2 then
    match ver with
    | some v => s.version g.pasid line == v.2
    | none => !g.holdsOp o.id
  else grainTakes s g.pasid && (c.mode != 1 || s.inOrder g o line)

/-- The report of a write from a die that a reserved field refuses (R12). -/
def reservedReport (die o v : Nat) : Report :=
  { code := 0x08, die := die, queue := 0, rptr := 0, lchid := 0, d0 := o, d1 := v % 2 ^ 64 }

/-- A write of a grain ring's control registers from a die (R266): a refused one changes nothing and is reported as a
host-side write to a reserved field (R12). -/
def State.ringStore (s : State) (die id o n v : Nat) : State :=
  (ringTake s id o n v).getD (logModule s (reservedReport die o v))

/-- A write of a shavings ring's control registers (R338). -/
def State.shavingsStore (s : State) (die id o n v : Nat) : State :=
  (shavingsWrite s id o n v).getD (logModule s (reservedReport die o v))

/-- Whether a byte of a context image's header is read only (R412). -/
def imageRo (o : Nat) : Bool :=
  (decide (24 ≤ o) && decide (o < 32)) || (decide (36 ≤ o) && decide (o < 40)) || (decide (192 ≤ o) && decide (o < 216)) ||
  (decide (224 ≤ o) && decide (o < 232)) || (decide (256 ≤ o) && decide (o < 4096))

/-- Whether an object is a context image (R367). -/
def State.isImage (s : State) (id : Nat) : Bool := nbits (s.objEntry id) 119 112 == 5

/-- The `n` bytes that a store of a program leaves at an offset of a context image: a read-only byte of its header keeps its
value, as under a host-side write (R12, R412; log entry 86). -/
def imageKeeps (o old new : Nat) : Nat → Nat
  | 0 => 0
  | k + 1 => imageKeeps o old new k + 256 ^ k * ((if imageRo (o + k) then old else new) / 256 ^ k % 256)

/-- What a store element leaves in the bytes that it names: its value, or for a nibble the byte `old` with it (R203,
R210). -/
def Elem.storedIn (e : Elem) (old : Nat) : Nat :=
  match e.nib with
  | some hi => withNibble old e.val.toNat hi
  | none => e.val.toNat

/-- The state in which one half of a place's first byte is as poisoned as it was before: a nibble's store has not covered it
(R409). -/
def State.halfLeft (before s : State) (g : Group) (t : Target) (hi : Bool) : State :=
  match t with
  | .at_ p _ => { s with poison := halfKept before.poison s.poison p.polled hi }
  | .obj as => { s with poison := halfKept before.poison s.poison (as.headD 0) hi }
  | .scr role o =>
    match before.alloc g.die g.lchid g.block role with
    | some old => s.updAlloc g.die g.lchid g.block role (fun a => { a with poison := halfKept old.poison a.poison o hi })
    | none => s

/-- The state with a store element's bytes, or its nibble, written at a place. -/
def State.storeTo (s : State) (g : Group) (t : Target) (n : Nat) (e : Elem) : State :=
  let s1 := s.writeTarget g t n (e.storedIn (s.readTarget g t 1))
  match e.nib with
  | some hi => s.halfLeft s1 g t (!hi)
  | none => s1

/-- The state in which a store uses the leaf of an address that has been translated (R358). -/
def State.used (s : State) (g : Group) (addr : Nat) (need : Need) : State := (s.target g .gbl addr 1 need).1

/-- A store element performed (R203, R210, R250): `tag` marks `syncinit`, and `fill` marks both of the
instructions that act on a line as an event of the grain ring. -/
def performStore (s : State) (g : Group) (o : Op) (e : Elem) (sp : Space) (mf : BitVec 4)
    (tag fill : Bool) : Perf :=
  let n := elemBytes mf
  match s.targetIn g (s.tlbFor g o.ahead e.addr) sp e.addr n (if fill then needW.asks else needW) with
  | (s1, .error none) => .wait s1
  | (s1, .error (some c)) => .bad s1 c
  | (s1, .ok t) =>
    match t with
    | .at_ p attr =>
      if (tag && (!attrSync attr || attrKind attr != 0 || attrPbmt attr != 0)) ||
         (fill && (attrPbmt attr != 0 || attrKind attr == 2)) then .bad s1 .memProtection
      else if fill && logged s1 g attr && !logReady s1 g o p.line e.ver then .wait (grainStalls s1 g.pasid)
      else
        let s2 := ((if fill then s1.used g e.addr needW else s1).storeTo g t n e).hasWritten g o t n []
        let s3 := if tag then s2.setTag g p.line e.addr else s2
        let ev : GEvent :=
          { typ := 4, flags := 0, issuer := o.issuer, line := e.addr, version := 0, payload := e.val.toNat }
        .done (if fill && logged s1 g attr then logAt s3 g (some o.id) ev p.line e.ver true else s3) none 0
    | .obj as =>
      let id := e.addr / 2 ^ 40
      let ofs := e.addr % 2 ^ 40
      if s1.isRing id && decide (ofs < 256) then .done (s1.ringStore g.die id ofs n (e.storedIn (s1.readTarget g (.obj as) 1))) none 0
      else if s1.isShavings id && decide (ofs < 64) then
        .done (s1.shavingsStore g.die id ofs n (e.storedIn (s1.readTarget g (.obj as) 1))) none 0
      else if s1.isImage id && decide (ofs < 4096) then
        let v := imageKeeps ofs (s1.readTarget g (.obj as) n) (e.storedIn (s1.readTarget g (.obj as) 1)) n
        .done ((s1.writeTarget g (.obj as) n v).hasWritten g o (.obj as) n []) none 0
      else .done ((s1.storeTo g t n e).hasWritten g o t n []) none 0
    | t => .done ((s1.storeTo g t n e).hasWritten g o t n []) none 0

/-- The new value of an atomic operation (R242, R243), with its events. -/
def atomNew (op : AtomOp) (mf : BitVec 4) (old : Nat) (e : Elem) : Nat × Events :=
  let f := mf.toNat
  let w := fmtBits mf
  let v := e.val.toNat % 2 ^ w
  let a := intOf f old
  let b := intOf f v
  match op with
  | .add =>
    if f < 8 then ((old + v) % 2 ^ w, 0)
    else
      let y := if e.val2 = 1 then FNum.ofInt e.val.toInt 0 false else fDecode (ffmt f) v
      let (x, ev) := numAdd 0 (fDecode (ffmt f) old) y
      let (r, ev2) := fResult (ffmt f) 0 false x
      (r, ev ||| ev2)
  | .sub => (wrapN w (a - b), 0)
  | .min => (if a ≤ b then old else v, 0)
  | .max => (if a ≤ b then v else old, 0)
  | .and => (Nat.land old v, 0)
  | .or => (Nat.lor old v, 0)
  | .xor => (Nat.xor old v, 0)
  | .exch => (v, 0)
  | .incw => (if v ≤ old then 0 else old + 1, 0)
  | .decw => (if old = 0 || decide (v < old) then v else old - 1, 0)

/-- An atomic element performed at its merge point: `f` gives what it writes from the old value (none for
a failed comparison), with its events (R229, R243 to R245); `reads` is false for a `red`. Its write continues the
release sequence of the write that it read. The governor then looks at an occupancy word (R327). -/
def performAtomic (s : State) (g : Group) (o : Op) (e : Elem) (op : Option AtomOp) (mf : BitVec 4) (reads : Bool)
    (f : Nat → Option Nat × Events) : Perf :=
  let n := fmtBytes mf
  match s.target g .gbl e.addr n (atomNeed reads).asks with
  | (s1, .error none) => .wait s1
  | (s1, .error (some c)) => .bad s1 c
  | (s1, .ok t) =>
    match t with
    | .at_ p attr =>
      if !atomicOk attr op mf reads then .bad s1 .memProtection
      else if s1.targetPoison g t n then .bad s1 .poison
      else if logged s1 g attr && !logReady s1 g o p.line e.ver then .wait (grainStalls s1 g.pasid)
      else if op.isSome && (s1.governWaits g.pasid e.addr).2 then .wait (s1.governWaits g.pasid e.addr).1
      else
        let old := s1.readTarget g t n
        let (new, ev) := f old
        let s0 := s1.hasRead g o t n (s1.stampsAt g t n)
        let s2 := match new with
          | some v => ((s0.used g e.addr (atomNeed reads)).writeTarget g t n v).hasWritten (s0.grp g.gid) ((s0.grp g.gid).opOr o) t n (s1.msgsOf (s1.stampsAt g t n))
          | none => s0.hasCompared (s0.grp g.gid) ((s0.grp g.gid).opOr o) t
        let rec_ : GEvent :=
          { typ := 1, flags := e.lane + (if new.isNone then 32 else 0), issuer := o.issuer,
            line := e.addr, version := 0, payload := old }
        let s3 := if logged s1 g attr then logAt s2 g (some o.id) rec_ p.line e.ver new.isSome else s2
        let s4 := match op, new with
          | some _, some v => s3.govern g.pasid e.addr old v
          | _, _ => s3
        .done s4 (some (extend mf.toNat old)) ev
    | _ => .bad s1 .memProtection

/-- A semaphore word (R259). -/
def State.sem (s : State) (n : Nat) : Word := spGet 0 s.sems n

/-- The state with a semaphore word changed, its waits woken (R260). -/
def State.setSem (s : State) (n : Nat) (v : Word) : State :=
  { s with
    sems := spSet 0 s.sems n v,
    rest := updBy (fun e => e.key == RestKey.sem n) (fun e => { e with woken := true }) s.rest }

/-- A semaphore's event as the grain ring records it: LINE is 2^63 + number (R271). -/
def semEvent (issuer typ flags n payload : Nat) : GEvent :=
  { typ := typ, flags := flags, issuer := issuer, line := 2 ^ 63 + n, version := 0, payload := payload }

/-- A `semop` performed (R260); a nonzero amount tags the word with its launch (R296). -/
def performSem (s : State) (g : Group) (o : Op) (e : Elem) (n : Nat) (amount : Word) : Perf :=
  if grainOn s g && !logReady s g o (semLine n) e.ver then .wait (grainStalls s g.pasid)
  else
    let old := s.sem n
    let ms := s.objSays (semKey n)
    let s0 := s.updGrp g.gid (fun x => x.learn o.id [] (s.learnt g o ms) ms)
    let s1 := (s0.objTell (semKey n) ((s0.grp g.gid).handsOn ((s0.grp g.gid).opOr o) [])).setSem n (old + amount)
    let t : Tag := { ctx := g.pasid, die := g.die, cls := (s.launchOf g.die g.lchid).cls, lch := g.lchid }
    let s2 := if amount = 0 then s1 else { s1 with semTags := spSet none s1.semTags n (some t) }
    .done (if grainOn s g then logAt s2 g (some o.id) (semEvent o.issuer 2 0 n old.toNat) (semLine n) e.ver true else s2)
      (some (old.setWidth 64)) 0

/-- Whether a page is present and readable for a `probe` of a lane (R215). -/
def performProbe (s : State) (g : Group) (e : Elem) : Perf :=
  match s.translate g.die g.tlbCore 1 g.pasid e.addr needR with
  | (s1, .wait) => .wait s1
  | (s1, .fault _) => .done s1 (some 0) 0
  | (s1, .ok _) => .done s1 (some 1) 0

/-- Whether an atomic of a kind returns what it read: a `red` does not (R243). -/
def OpKind.returns : OpKind → Bool
  | .atomic _ _ dst => dst.isSome
  | _ => true

/-- An element of an operation performed, by the operation's kind. -/
def performElem (s : State) (g : Group) (o : Op) (e : Elem) : Perf :=
  match o.kind with
  | .load sp _ mf rf rnd sat probe acq => performLoad s g o e sp mf rf rnd sat probe.isSome acq
  | .store sp mf tag fill => performStore s g o e sp mf tag fill
  | .atomic op mf _ =>
    performAtomic s g o e (some op) mf o.kind.returns (fun old =>
      let (v, ev) := atomNew op mf old e
      (some v, ev))
  | .cas mf _ =>
    performAtomic s g o e none mf true (fun old =>
      (if old = e.val.toNat % 2 ^ fmtBits mf then some (e.val2.toNat % 2 ^ fmtBits mf) else none, 0))
  | .probe _ => performProbe s g e
  | .sem n amount _ => performSem s g o e n amount
  | .peer _ =>
    let t : Target := .scr (e.addr / 2 ^ 20) (e.addr % 2 ^ 20)
    .done ((s.writeTarget g t 4 e.val.toNat).hasWritten g o t 4 []) none 0
  | _ => .done s none 0

/-- The bit of a probe predicate of a lane (R207): 1 where the page was absent. A page that is present
may hold any value, so absence is asked of the translation. -/
def probeBit (s : State) (g : Group) (o : Op) (e : Elem) : DWord :=
  match o.kind with
  | .load sp _ _ _ _ _ _ _ => if e.val2 ≠ 1 && (s.absent g o.ahead sp e.addr needR).isSome then 1 else 0
  | _ => 0

/-- Whether a destination is uniform: written once for its path (R77). -/
def uniformReg : Operand → Bool
  | .s _ => true
  | .sr _ => true
  | _ => false

/-- Whether a register is one that every path of the group writes alike: S, ASTAT or TRAPVEC (R77, R81). -/
def sharedReg : Operand → Bool
  | .s _ => true
  | .sr n => n == 0x11 || n == 0x30
  | _ => false

/-- Whether a path of a higher index has written a uniform register at a completion in the same clk: its value stands
(R77). -/
def Group.outranked (g : Group) (clk pix : Nat) (d : Operand) : Bool :=
  sharedReg d && g.lateS.any (fun x => x.1 == d && x.2.1 == clk + 1 && decide (pix < x.2.2))

/-- The group with a late write of a uniform register noted (R77); those of earlier clk are forgotten. -/
def Group.noteLate (g : Group) (clk pix : Nat) (d : Operand) : Group :=
  if sharedReg d then { g with lateS := (d, clk + 1, pix) :: g.lateS.filter (fun x => x.2.1 == clk + 1) } else g

/-- A value that an operation writes to a destination at a clk, after its instruction has issued: an explicit
write to ASTAT takes its place in the clk (R114), and a value that ASTAT does not take changes no bit of it (R111; log
entry 85). -/
def Group.writeLate (g : Group) (clk pix : Nat) (act : Mask) (wide : Bool) (d : Operand) (v : DWord) : Group :=
  if srValueBad d v || g.outranked clk pix d then g
  else
    let g0 := { g.noteLate clk pix d with regs := g.regs.settled clk }
    let g1 := g0.write pix act wide d (fun _ => v)
    { g1 with regs := g1.regs.stamped g0.regs clk, dirty := (lineOf d).toList ++ g1.dirty.filter (fun l => some l != lineOf d) }

/-- The register that an operation's results are written to. -/
def OpKind.dest (k : OpKind) : Option Operand :=
  match k with
  | .load _ dst .. => some dst
  | .atomic _ _ dst => dst
  | .cas _ dst => some dst
  | .probe n => some (.p n)
  | .sem _ _ dst => some dst
  | _ => none

/-- Whether an operation that its group's restart has left behind comes too late for a lane of its destination: one of its
counter that was issued since has written it (R432; log entry 69). -/
def Group.superseded (g : Group) (o : Op) (l : Nat) : Bool :=
  o.stale && g.ops.any (fun x => !x.stale && x.ctr == o.ctr && decide (o.id < x.id) && x.kind.dest == o.kind.dest &&
    x.act.getLsbD l && !x.todo.any (fun e => e.lane == l) && !x.bad.any (fun b => b.1 == l))

/-- The group with a performed element's value in its lane's destination and predicate (R209, R243). -/
def Group.landed (g : Group) (clk : Nat) (o : Op) (e : Elem) (v bit : DWord) : Group :=
  let m := laneBit e.lane
  if g.superseded o e.lane then g
  else
    match o.kind with
    | .load _ dst _ rf _ _ probe _ =>
      let g1 := g.writeLate clk o.path m (wideFmt rf) dst v
      match probe with
      | some n => g1.writeLate clk o.path m false (.p n) bit
      | none => g1
    | .atomic _ mf (some dst) => g.writeLate clk o.path m (wideFmt mf) dst v
    | .cas mf dst => g.writeLate clk o.path m (wideFmt mf) dst v
    | .probe n => g.writeLate clk o.path m false (.p n) v
    | .sem _ _ dst => g.writeLate clk o.path o.act false dst v
    | _ => g

/-- The state with one lane's element of an operation performed, if it may be (R201 to R204, R222). A group
that has ended takes no value (R85). -/
def State.performLane (s : State) (gid id : Nat) (l : Nat) : State :=
  let g := s.grp gid
  match g.op id with
  | none => s
  | some o =>
    match findBy (fun (e : Elem) => e.lane == l) o.todo with
    | none => s
    | some e =>
      if !o.isPeer && g.blocked o e then s
      else
        let drop := fun (o : Op) => { o with todo := o.todo.filter (fun x => x.lane != l) }
        match performElem s g o e with
        | .wait s1 => s1
        | .bad s1 c =>
          let f := fun (x : Op) => { drop x with bad := (l, c, e.addr) :: x.bad }
          s1.updGrp gid (fun g => { g with ops := updBy (fun x => x.id == id) f g.ops })
        | .done s1 v ev =>
          let f := fun (x : Op) => { drop x with ev := x.ev ||| ev }
          s1.updGrp gid (fun g =>
            let g1 := { g with ops := updBy (fun x => x.id == id) f g.ops }
            match v with
            | some v => if g.ended then g1 else g1.landed (s.dieOf g.die).clk o e v (probeBit s g o e)
            | none => g1)

/-! ### Completion (R50, R200, R403) -/

/-- The fault that an operation raises for the lanes that met one: their causes may differ, and which of
them the one fault of the operation carries is a free choice (log entry 15). -/
def Op.fault (o : Op) (tick : Nat) : Option HeldFault :=
  match o.bad with
  | [] => none
  | b =>
    let c := (getAt (0, Cause.memProtection, 0) b (Config.pick tick % b.length)).2.1
    let same := b.filter (fun x => x.2.1 == c)
    let m := maskOf (fun l => same.any (fun x => x.1 == l))
    let addr := match findBy (fun (x : Nat × Cause × Nat) => x.1 == lowest m) same with
      | some x => x.2.2
      | none => 0
    some { op := o.id, path := o.path, cause := c, fpc := o.pc, faddr := BitVec.ofNat 64 addr, lmask := m,
           issuedAt := o.issuedAt }

/-- The state with an operation complete once every element of it is performed: its events go to ASTAT,
its fault is raised, and it decrements its counter in order. -/
def State.finishOp (s : State) (gid id : Nat) : State :=
  match (s.grp gid).op id with
  | none => s
  | some o =>
    if o.done || !o.todo.isEmpty then s
    else
      let clk := (s.dieOf (s.grp gid).die).clk
      let s1 := s.updGrp gid (fun g =>
        ((g.raise clk o.ev).addView o.ctr.code o.id o.own).updOp id (fun o => { o with done := true }))
      let s1 := if o.kind.loggable then grainFlush s1 (s.grp gid).pasid else s1
      match o.fault s.tick with
      | some h => s1.raiseFault gid h
      | none => s1

/-- The state with the named lanes of an operation performed. -/
def State.performOp (s : State) (gid id : Nat) (m : Mask) : State :=
  ((lanesOf m).foldl (fun s l => s.performLane gid id l) s).finishOp gid id

/-- The elements of an operation that an event names, if the operation is one of the event's own. -/
def completeIf (ok : Op → Bool) (gid id : Nat) (m : Mask) (s : State) : Host.Outcome State Fault Refusal :=
  match (s.grp gid).op id with
  | some o => if ok o then .next (s.performOp gid id m) else .next s
  | none => .next s

/-- Whether an operation performs elements of memory or a semaphore word. -/
def Op.isMem (o : Op) : Bool :=
  match o.kind with
  | .load .. => true
  | .store .. => true
  | .atomic .. => true
  | .cas .. => true
  | .probe _ => true
  | .sem .. => true
  | _ => false

/-- LOAD_COMPLETE (R209). -/
def execLoadComplete (gid op : Nat) (lanes : BitVec 32) : Meaning :=
  completeIf (fun o => o.isMem && o.ctr == .ld) gid op lanes

/-- SCRATCHPAD_ACCESS_COMPLETE (R205). -/
def execScratchpadAccessComplete (gid op : Nat) (lanes : BitVec 32) : Meaning :=
  completeIf (fun o => o.isMem && o.ctr == .sp) gid op lanes

end Sys2Proof.Machine
end

