-- ==== Sys2Proof/Machine/LoadStore.lean ====
section
/-! DEFINITION. Family 0x8, memory access (R198 to R219): addresses and the checks at issue, loads and
stores, tensor shape records, prefetch, probe and page request, and peer stores. -/

namespace Sys2Proof.Machine

/-! ### Addresses (R199, R200) -/

/-- An address as R199 forms it for a lane: the byte, and the nibble of a CB4 element. For OBJ it holds the
identity in bits [63:40]; for scratchpads it is the 32-bit address as written. -/
def Env.addr (e : Env) (sp : Space) (cb4 : Bool) (a b : Operand) (l : Nat) : Nat × Option Bool :=
  let off := (e.rd b l).toInt
  let form := fun (bits base : Nat) =>
    if cb4 then
      let n := wrapN (bits + 1) (2 * (base : Int) + off)
      (n / 2, some (n % 2 == 1))
    else (wrapN bits ((base : Int) + off), none)
  match sp with
  | .gbl => form 57 ((e.read true a l).toNat % 2 ^ 57)
  | .obj =>
    let w := (e.read true a l).toNat
    let (o, nib) := form 40 (w % 2 ^ 40)
    (w / 2 ^ 40 * 2 ^ 40 + o, nib)
  | _ => form 32 (e.rd a l).toNat

/-- The groups of the issuing group's block: fewer in the last block of a `spawnx` child (R314). -/
def Env.blockGroups (e : Env) : Nat :=
  let (x, y, z) := e.launch.grid
  match e.launch.lastGroups with
  | some k => if e.g.block + 1 = x * y * z then k else e.launch.hdr.groups
  | none => e.launch.hdr.groups

/-- The scratchpad address of `n` bytes as 2^20 · role + offset, or none where R200 raises MEM_BOUNDS. -/
def Env.scrAddr (e : Env) (sp : Space) (raw n : Nat) : Option Nat :=
  let role := if sp == .scr then e.g.role else raw / 2 ^ 20
  let o := raw % 2 ^ 20
  if raw / 2 ^ 22 ≠ 0 || (sp == .scr && raw / 2 ^ 20 != 0) then none
  else if e.launch.hdr.roles ≤ role || !roleHolds e.launch.hdr e.blockGroups role then none
  else if e.launch.hdr.scratch < o + n then none
  else some (role * 2 ^ 20 + o)

/-- Whether a space is a scratchpad. -/
def Space.isScr (sp : Space) : Bool := sp == .scr || sp == .cls

/-- An element's address as R199 forms it, before the checks. -/
structure RawElem where
  lane : Nat
  raw : Nat
  nib : Option Bool
  deriving DecidableEq, Repr

/-- The trap of the lanes that fail a check, with the address of the lowest (R200). -/
def lanesTrap (c : Cause) (bad : List RawElem) : Trap :=
  { cause := c, faddr := BitVec.ofNat 64 ((bad.head?.map (fun r => r.raw)).getD 0),
    lmask := maskOf (fun l => bad.any (fun r => r.lane == l)) }

/-- The checks of R200 on the elements of one instruction, lowest lane first: the trap, or each element's
address. -/
def Env.checked (e : Env) (sp : Space) (n : Nat) (rs : List RawElem) : Except Trap (List (RawElem × Nat)) :=
  match rs.filter (fun r => r.nib.isNone && r.raw % n != 0) with
  | m :: r => .error (lanesTrap .memAlign (m :: r))
  | [] =>
    if !sp.isScr then .ok (rs.map (fun r => (r, r.raw)))
    else
      match rs.filter (fun r => (e.scrAddr sp r.raw n).isNone) with
      | m :: r => .error (lanesTrap .memBounds (m :: r))
      | [] => .ok (rs.map (fun r => (r, (e.scrAddr sp r.raw n).getD 0)))

/-- The lanes that perform an instruction: the lowest alone for a scalar destination (R209, R241), a special register
among them, which is written once (R77, R81). -/
def Env.lanesFor (e : Env) (d : Operand) : List Nat :=
  if uniformReg d then (lanesOf e.act).take 1 else lanesOf e.act

/-! ### Issue of a memory operation -/

/-- Whether an access of the path must wait for an `ldacq` of it to complete (R246). -/
def Group.acquiring (g : Group) (pix : Nat) : Bool :=
  (g.before pix).any (fun o => match o.kind with
    | .load _ _ _ _ _ _ _ acq => acq
    | _ => false)

/-- What holds a memory instruction before its own checks: a counter at 63 (R50), or an `ldacq` of the path
that has not completed (R246). -/
def memHold (e : Env) (c : Ctr) (s : State) : Option State :=
  let g := s.grp s.cur.gid
  if 63 ≤ g.ctr c then some (s.heldFor s.cur.gid e.pix c.reason)
  else if e.act ≠ 0 && g.acquiring e.pix then some (s.heldFor s.cur.gid e.pix 3)
  else none

/-- A memory operation posted with its elements; one with none is complete in its turn (R50). -/
def post (e : Env) (c : Ctr) (todo : List Elem) (scope : BitVec 3) (sk : Bool) (ord : BitVec 3)
    (writes : Bool) (k : OpKind) (s : State) : State :=
  s.addOp s.cur.gid e.pix c e.act todo ((s.grp s.cur.gid).depsOf e.pix ord writes) scope sk ord todo.isEmpty k

/-- The counter of an access by its space (R69). -/
def spaceCtr (sp : Space) (load : Bool) : Ctr := if sp.isScr then .sp else if load then .ld else .st

/-- The rounding mode of an instruction as its operation keeps it. -/
def Env.rndOf (e : Env) (r : BitVec 3) : BitVec 3 := BitVec.ofNat 3 (e.mode r)

/-- The words in flight that a scratchpad read meets at its issue in mode TRAP (R219). -/
def Env.flightTrap (e : Env) (s : State) (sp : Space) (n : Nat) (rs : List (RawElem × Nat)) : List RawElem :=
  if !sp.isScr || e.launch.sbmode != 1 then []
  else
    let own := ((s.grp s.cur.gid).before e.pix).map (fun o => o.id)
    (rs.filter (fun r => !(s.inFlight e.g own r.2 n).isEmpty)).map (fun r => r.1)

/-- The issue of loads of elements that passed their checks. -/
def postLoad (e : Env) (sp : Space) (d : Operand) (mf rf : BitVec 4) (rnd : BitVec 3) (sat : Bool)
    (probe : Option (BitVec 3)) (acq : Bool) (scope : BitVec 3) (sk : Bool) (rs : List (RawElem × Nat))
    (outside : List Nat) (s : State) : Res :=
  match e.flightTrap s sp (elemBytes mf) rs with
  | m :: r => .trap (lanesTrap .scoreboardUndersized (m :: r))
  | [] =>
    let todo := rs.map (fun r =>
        ({ lane := r.1.lane, addr := r.2, nib := r.1.nib, val := 0, val2 := 0, ver := none } : Elem)) ++
      outside.map (fun l => { lane := l, addr := 0, nib := none, val := 0, val2 := 1, ver := none })
    .adv (post e (spaceCtr sp true) todo scope sk (if acq then 1 else 0) false
      (.load sp d mf rf (e.rndOf rnd) sat probe acq) s)

/-- The probe predicate of a load (R207). -/
def probeOf (w : XA) : Option (BitVec 3) :=
  if w.prb then (match w.c with
    | .p n => some n
    | _ => none)
  else none

/-- The elements that lanes name in A and B. -/
def Env.raws (e : Env) (sp : Space) (mf : BitVec 4) (a b : Operand) (ls : List Nat) : List RawElem :=
  ls.map (fun l =>
    let (x, nib) := e.addr sp (mf == 14) a b l
    { lane := l, raw := x, nib := nib })

/-- A load of a space (R209). -/
def loadRes (sp : Space) (w : XA) (mf rf : BitVec 4) (acq : Bool) (e : Env) (s : State) : Res :=
  match memHold e (spaceCtr sp true) s with
  | some s1 => .hold s1
  | none =>
    match e.checked sp (elemBytes mf) (e.raws sp mf w.a w.b (e.lanesFor w.d)) with
    | .error t => .trap t
    | .ok rs => postLoad e sp w.d mf rf w.rnd w.sat (probeOf w) acq w.scope w.sk rs [] s

/-- The value that a store writes for a lane, with its events (R105, R116, R210). -/
def Env.stored (e : Env) (mf rf : BitVec 4) (rnd : BitVec 3) (sat : Bool) (d : Operand) (l : Nat) :
    DWord × Events :=
  let x := (e.read (wideFmt rf) d l).toNat % 2 ^ fmtBits rf
  if mf = 14 then
    (BitVec.ofNat 64 (if sat then (max 0 (min 15 (intOf rf.toNat x))).toNat else x % 16), 0)
  else
    let (r, ev) := convert rf.toNat mf.toNat (e.mode rnd) sat x
    (BitVec.ofNat 64 r, ev)

/-- The issue of stores of elements that passed their checks: the values are read and converted now, and
their events set flags at issue (R210). -/
def postStore (e : Env) (sp : Space) (d : Operand) (mf rf : BitVec 4) (rnd : BitVec 3) (sat : Bool)
    (scope : BitVec 3) (sk : Bool) (rs : List (RawElem × Nat)) (s : State) : Res :=
  let v := e.stored mf rf rnd sat d
  let todo := rs.map (fun r =>
    ({ lane := r.1.lane, addr := r.2, nib := r.1.nib, val := (v r.1.lane).1, val2 := 0, ver := none } : Elem))
  let ev := rs.foldl (fun a r => a ||| (v r.1.lane).2) 0
  .adv ((post e (spaceCtr sp false) todo scope sk 0 true (.store sp mf false false) s).updGrp s.cur.gid
    (fun g => g.raise (s.dieOf e.g.die).clk ev))

/-- A store of a space (R210). -/
def storeRes (sp : Space) (w : XA) (e : Env) (s : State) : Res :=
  match memHold e (spaceCtr sp false) s with
  | some s1 => .hold s1
  | none =>
    match e.checked sp (elemBytes w.mf) (e.raws sp w.mf w.a w.b (lanesOf e.act)) with
    | .error t => .trap t
    | .ok rs => postStore e sp w.d w.mf w.rf w.rnd w.sat w.scope w.sk rs s

/-- `ld.gbl` (R209). -/
def execLdGbl (w : XA) : Meaning := issueC (.ldGbl w) w.h w.c (loadRes .gbl w w.mf w.rf false)
/-- `ld.scr` (R209). -/
def execLdScr (w : XA) : Meaning := issueC (.ldScr w) w.h w.c (loadRes .scr w w.mf w.rf false)
/-- `ld.cls` (R209). -/
def execLdCls (w : XA) : Meaning := issueC (.ldCls w) w.h w.c (loadRes .cls w w.mf w.rf false)
/-- `ld.obj` (R209). -/
def execLdObj (w : XA) : Meaning := issueC (.ldObj w) w.h w.c (loadRes .obj w w.mf w.rf false)
/-- `st.gbl` (R210). -/
def execStGbl (w : XA) : Meaning := issueC (.stGbl w) w.h w.c (storeRes .gbl w)
/-- `st.scr` (R210). -/
def execStScr (w : XA) : Meaning := issueC (.stScr w) w.h w.c (storeRes .scr w)
/-- `st.cls` (R210). -/
def execStCls (w : XA) : Meaning := issueC (.stCls w) w.h w.c (storeRes .cls w)
/-- `st.obj` (R210). -/
def execStObj (w : XA) : Meaning := issueC (.stObj w) w.h w.c (storeRes .obj w)

/-! ### Scratchpad reads at issue (R162, R212) -/

/-- A byte of a scratchpad as an instruction that reads it at issue may see it: its value, or that of a
store of the block that is not yet performed (R162, R212). `k` numbers the choice. -/
def State.issueByte (s : State) (g : Group) (addr k : Nat) : Byte :=
  let b0 := spGet memDefault
    (match s.alloc g.die g.lchid g.block (addr / 2 ^ 20) with
      | some a => a.bytes
      | none => []) (addr % 2 ^ 20)
  let peers := s.groups.filter (fun x => x.die == g.die && x.lchid == g.lchid && x.block == g.block)
  let stores := peers.flatMap (fun x => x.ops.flatMap (fun o =>
    match o.kind with
    | .store sp mf _ _ => if sp.isScr then o.todo.map (fun e => (e, elemBytes mf)) else []
    | .peer _ => o.todo.map (fun e => (e, 4))
    | _ => []))
  let pick := fun (b : Byte) (x : (Elem × Nat) × Nat) =>
    let e := x.1.1
    if decide (e.addr ≤ addr) && decide (addr < e.addr + x.1.2) && Config.freeBit s.tick (400000 + 1000 * k + x.2) then
      match e.nib with
      | some hi => BitVec.ofNat 8 (withNibble b.toNat e.val.toNat hi)
      | none => BitVec.ofNat 8 (e.val.toNat / 256 ^ (addr - e.addr))
    else b
  (stores.zip (upFrom 0 stores.length)).foldl pick b0

/-- The number in `n` bytes of a scratchpad, read at issue. -/
def State.issueBytes (s : State) (g : Group) (addr : Nat) : Nat → Nat
  | 0 => 0
  | n + 1 => s.issueBytes g addr n + 256 ^ n * (s.issueByte g (addr + n) n).toNat

/-- What words in flight make of a scratchpad read at issue (R219): nothing in mode OFF; a trap in TRAP;
and a hold in ENFORCE, or where the path's own `peerst` is in flight to it. -/
inductive Flight where
  | go
  | hold
  | trap
  deriving DecidableEq, Repr

/-- The words in flight that a read of `n` bytes by a path meets, in the mode of its launch (R219). -/
def State.flight (s : State) (gid pix addr n : Nat) : Flight :=
  let g := s.grp gid
  let mode := (s.launchOf g.die g.lchid).sbmode
  let own := (g.before pix).map (fun o => o.id)
  let others := !(s.inFlight g own addr n).isEmpty
  if !(s.inFlight g [] addr n).isEmpty && !others then .hold
  else if others && mode == 1 then .trap
  else if others && mode == 2 then .hold
  else .go

/-- The words in flight that a read of `n` bytes at issue meets (R219). -/
def Env.flight (e : Env) (s : State) (addr n : Nat) : Flight := s.flight s.cur.gid e.pix addr n

/-! ### Tensor shape records (R211 to R214) -/

/-- Extents or strides of dimensions from a record: `n` fields of `bits` from bit `lo`. -/
def fieldsAt (x lo bits : Nat) (n : Nat) : List Nat := (upFrom 0 n).map (fun k => x / 2 ^ (lo + bits * k) % 2 ^ bits)

/-- A tensor shape record from its 64 bytes (R211). Dimension 0 has a stride of one element. -/
def tsrOf (x : Nat) : Tsr :=
  { base := nbits x 61 0, space := BitVec.ofNat 2 (nbits x 63 62), fmt := BitVec.ofNat 4 (nbits x 67 64),
    ndim := nbits x 79 72, clip := nbits x 87 80, rot := nbits x 91 88, ext := fieldsAt x 96 16 9,
    str := 1 :: fieldsAt x 256 32 8 }

/-- Whether the fields that R211 requires to be zero are zero. -/
def tsrZeros (x : Nat) (t : Tsr) : Bool :=
  nbits x 71 68 == 0 && nbits x 95 92 == 0 && nbits x 255 240 == 0 &&
  (if t.space = 0 then t.base / 2 ^ 57 == 0 else t.base / 2 ^ 22 == 0) &&
  ((t.ext.zip t.str).zip (upFrom 0 9)).all
    (fun z => decide (z.2 < t.ndim) || (z.1.1 == 0 && (z.1.2 == 0 || z.2 == 0)))

/-- Whether a rotation code fits a role's scratchpad bytes (R206). -/
def rotFits (h : KHeader) (rot : Nat) : Bool := rot == 0 || h.scratch % 2 ^ (rot + 4) == 0

/-- Step 1 of R212 that holds for a record on its own; `xkick` uses it too (R262). -/
def tsrLegal (x : Nat) (t : Tsr) : Bool :=
  t.space != 3 && decide (1 ≤ t.ndim) && decide (t.ndim ≤ 9) && t.fmt != 15 && decide (t.clip ≤ 1) &&
  decide (t.rot ≤ 6) && (t.rot == 0 || t.space != 0) && tsrZeros x t

/-- The checks of R212 on a record, for an instruction of `nc` coordinates and register format `rf`. -/
def tsrTrap (h : KHeader) (x : Nat) (t : Tsr) (nc : Nat) (rf : BitVec 4) (act : Mask) : Option Trap :=
  if !tsrLegal x t || (t.fmt == 14 && decide (8 ≤ rf.toNat)) || decide (t.ndim < nc) then
    some { cause := .illegalOperand, lmask := act }
  else if t.base % elemBytes t.fmt ≠ 0 then
    some { cause := .memAlign, faddr := BitVec.ofNat 64 t.base, lmask := act }
  else if !rotFits h t.rot then some { cause := .memBounds, faddr := BitVec.ofNat 64 t.base, lmask := act }
  else none

/-- The space of a record's base. -/
def tsrSpace (t : Tsr) : Space :=
  match t.space.toNat with
  | 0 => .gbl
  | 1 => .scr
  | 2 => .cls
  | _ => .obj

/-- The coordinates of a lane (R213). -/
def Env.coords (e : Env) (w : XA) (t : Tsr) (l : Nat) : List Int :=
  let shift := match w.a with
    | .s n => (e.g.rdS (n.toNat + 1)).toInt
    | _ => 0
  (upFrom 0 t.ndim).map (fun k =>
    if k < w.mf.toNat then (e.rd (opPlus w.b k) l).toInt + (if k = 0 then shift else 0) else 0)

/-- Whether coordinates lie inside their extents. -/
def insideOf : List Int → List Nat → Bool
  | c :: cs, x :: xs => decide (0 ≤ c) && decide (c < x) && insideOf cs xs
  | _, _ => true

/-- Coordinates clamped to their extents. -/
def clampTo : List Int → List Nat → List Int
  | c :: cs, x :: xs => min (max c 0) ((x : Int) - 1) :: clampTo cs xs
  | cs, _ => cs

/-- Σ c[k]·STR[k], with the stride of dimension 0 one element. -/
def elemIndex : List Int → List Nat → Int
  | c :: cs, x :: xs => c * x + elemIndex cs xs
  | _, _ => 0

/-- The address of element `i` of a record in row `y`, as R199 wraps it and R206 rotates it. -/
def tsrAddr (t : Tsr) (i y : Int) : Nat × Option Bool :=
  let bits := if t.space = 0 then 57 else 32
  let rot := fun (a : Nat) => if t.space = 0 then a else rotate t.rot y.toNat a
  if t.fmt = 14 then
    let n := wrapN (bits + 1) (2 * (t.base : Int) + i)
    (rot (n / 2), some (n % 2 == 1))
  else (rot (wrapN bits ((t.base : Int) + i * (fmtBytes t.fmt : Nat))), none)

/-- The element of a lane, or none where its coordinates are not inside (R213). Clamping applies to loads
only. -/
def Env.tensorElem (e : Env) (w : XA) (t : Tsr) (load : Bool) (l : Nat) : Option RawElem :=
  let c := e.coords w t l
  let ext := t.ext.take t.ndim
  let ok := insideOf c ext
  let clamp := load && t.clip == 1 && ext.all (fun x => decide (0 < x))
  if !ok && !clamp then none
  else
    let c := if ok then c else clampTo c ext
    let (a, nib) := tsrAddr t (elemIndex c t.str) (getAt 0 c 1)
    some { lane := l, raw := a, nib := nib }

/-- The record that a tensor instruction names, as it reads it at issue; a trap, or a hold. -/
inductive TsrRead where
  | ok (t : Tsr)
  | trap (t : Trap)
  | poison
  | hold
  deriving DecidableEq, Repr

/-- The read and the checks of the record in SCRATCH at an offset (R212, R214). -/
def Env.readTsr (e : Env) (s : State) (o nc : Nat) (rf : BitVec 4) : TsrRead :=
  if o % 64 ≠ 0 then .trap { cause := .memAlign, faddr := BitVec.ofNat 64 o, lmask := e.act }
  else if e.launch.hdr.scratch ≤ o then .trap { cause := .memBounds, faddr := BitVec.ofNat 64 o, lmask := e.act }
  else
    let a := e.g.role * 2 ^ 20 + o
    match e.flight s a 64 with
    | .hold => .hold
    | .trap => .trap { cause := .scoreboardUndersized, faddr := BitVec.ofNat 64 o, lmask := e.act }
    | .go =>
      if s.scrPoisoned e.g.die e.g.lchid e.g.block e.g.role o 64 then .poison
      else
      let x := s.issueBytes e.g a 64
      match tsrTrap e.launch.hdr x (tsrOf x) nc rf e.act with
      | some t => .trap t
      | none => .ok (tsrOf x)

/-- An operation that read a poisoned record at its issue (R409): it performs nothing and raises POISON
imprecisely for its active lanes, with the record's address. -/
def postPoison (e : Env) (c : Ctr) (o : Nat) (k : OpKind) (s : State) : State :=
  let id := s.nextId
  let s1 := s.addOp s.cur.gid e.pix c e.act [] [] 0 false 0 false k
  let bad := (lanesOf e.act).map (fun l => (l, Cause.poison, o))
  (s1.updGrp s.cur.gid (fun g =>
    { g with ops := updBy (fun x => x.id == id) (fun x => { x with bad := bad }) g.ops })).finishOp s.cur.gid id

/-- The scratchpad offset of the record that A names. -/
def Env.tsrOffset (e : Env) (a : Operand) : Nat := (e.uni a).toNat

/-- The elements of a tensor instruction and the lanes that are not inside. -/
def Env.tensorElems (e : Env) (w : XA) (t : Tsr) (load : Bool) (ls : List Nat) : List RawElem × List Nat :=
  (ls.filterMap (e.tensorElem w t load), ls.filter (fun l => (e.tensorElem w t load l).isNone))

/-- A posted operation of an identity marked as one whose pages may be translated ahead (R360). -/
def Res.ahead (r : Res) (gid id : Nat) : Res :=
  match r with
  | .adv s =>
    .adv (s.updGrp gid (fun g => { g with ops := updBy (fun o => o.id == id) (fun o => { o with ahead := true }) g.ops }))
  | r => r

/-- The trap of a hop scope on a scratchpad access of a tensor instruction, once its record has been checked (R201, R214;
log entry 85). -/
def hopTrap (sp : Space) (sk : Bool) (act : Mask) : Option Trap :=
  if sk && sp.isScr then some { cause := .illegalField, lmask := act } else none

/-- `ldt` (R213, R214). -/
def ldtRes (w : XA) (e : Env) (s : State) : Res :=
  if e.act = 0 then
    match memHold e .ld s with
    | some s1 => .hold s1
    | none => postLoad e .gbl w.d 6 w.rf w.rnd w.sat (probeOf w) false w.scope w.sk [] [] s
  else
    match e.readTsr s (e.tsrOffset w.a) w.mf.toNat w.rf with
    | .hold => .hold (s.heldFor s.cur.gid e.pix 5)
    | .trap t => .trap t
    | .poison =>
      match memHold e .ld s with
      | some s1 => .hold s1
      | none =>
        .adv (postPoison e .ld (e.tsrOffset w.a) (.load .gbl w.d 6 w.rf 0 false (probeOf w) false) s)
    | .ok t =>
      let sp := tsrSpace t
      match hopTrap sp w.sk e.act, memHold e (spaceCtr sp true) s with
      | some t, _ => .trap t
      | none, some s1 => .hold s1
      | none, none =>
        let (rs, out) := e.tensorElems w t true (e.lanesFor w.d)
        match (if sp.isScr then e.checked sp (elemBytes t.fmt) rs else .ok (rs.map (fun r => (r, r.raw)))) with
        | .error tr => .trap tr
        | .ok rs => (postLoad e sp w.d t.fmt w.rf w.rnd w.sat (probeOf w) false w.scope w.sk rs out s).ahead s.cur.gid s.nextId

/-- `ldt` (R213, R214). -/
def execLdt (w : XA) : Meaning := issueC (.ldt w) w.h w.c (ldtRes w)

/-- `stt` (R213, R214): a store with a coordinate outside is dropped. -/
def sttRes (w : XA) (e : Env) (s : State) : Res :=
  if e.act = 0 then
    match memHold e .st s with
    | some s1 => .hold s1
    | none => postStore e .gbl w.d 6 w.rf w.rnd w.sat w.scope w.sk [] s
  else
    match e.readTsr s (e.tsrOffset w.a) w.mf.toNat w.rf with
    | .hold => .hold (s.heldFor s.cur.gid e.pix 5)
    | .trap t => .trap t
    | .poison =>
      match memHold e .st s with
      | some s1 => .hold s1
      | none => .adv (postPoison e .st (e.tsrOffset w.a) (.store .gbl 6 false false) s)
    | .ok t =>
      let sp := tsrSpace t
      match hopTrap sp w.sk e.act, memHold e (spaceCtr sp false) s with
      | some t, _ => .trap t
      | none, some s1 => .hold s1
      | none, none =>
        let (rs, _) := e.tensorElems w t false (lanesOf e.act)
        match (if sp.isScr then e.checked sp (elemBytes t.fmt) rs else .ok (rs.map (fun r => (r, r.raw)))) with
        | .error tr => .trap tr
        | .ok rs => (postStore e sp w.d t.fmt w.rf w.rnd w.sat w.scope w.sk rs s).ahead s.cur.gid s.nextId

/-- `stt` (R213, R214). -/
def execStt (w : XA) : Meaning := issueC (.stt w) w.h w.c (sttRes w)

/-! ### Prefetch, probe, page request (R215, R216) -/

/-- `prf` (R215): no effect on any state that a program can read. -/
def execPrf (w : XN) : Meaning := issue (.prf w) w.h noEffect

/-- `probe` (R215). -/
def probeRes (w : XN) (e : Env) (s : State) : Res :=
  match memHold e .ld s with
  | some s1 => .hold s1
  | none =>
    let todo := (lanesOf e.act).map (fun l =>
      ({ lane := l, addr := (e.addr .gbl false w.a w.b l).1, nib := none, val := 0, val2 := 0, ver := none } : Elem))
    .adv (post e .ld todo 0 false 0 false (.probe (match w.d with
      | .p n => n
      | _ => 7)) s)

/-- `probe` (R215). -/
def execProbe (w : XN) : Meaning := issue (.probe w) w.h (probeRes w)

/-- A page request added to those outstanding, unless the page already has one (R216). -/
def addRequest (r : Nat × Nat) (l : List (Nat × Nat)) : List (Nat × Nat) := if l.contains r then l else l ++ [r]

/-- `pgreq` (R216): posted to the die's 256, or held while they are full. Where its lanes name several pages and only some
of them find room, it posts none and holds (DESIGN CHOICE, log entry 86). -/
def pgreqRes (w : XN) (e : Env) (s : State) : Res :=
  let pages := (lanesOf e.act).map (fun l => (e.g.pasid, (e.addr .gbl false w.a w.b l).1 / 4096))
  let all := pages.foldl (fun l r => addRequest r l) (s.dieOf e.g.die).pgreqs
  if Config.pageRequests < all.length then .hold (s.heldFor s.cur.gid e.pix 23)
  else .adv (s.updDie e.g.die (fun d => { d with pgreqs := all }))

/-- `pgreq` (R216). -/
def execPgreq (w : XN) : Meaning := issue (.pgreq w) w.h (pgreqRes w)

/-! ### Peer stores (R217 to R219, R335) -/

/-- The peer-store time between two roles (R335). -/
def peerTime (from_ onto : Nat) : Nat :=
  if from_ = onto then 6 else if from_ + onto = 3 then 18 else 14

/-- The bank of a scratchpad byte and its 16-byte row: the core that holds it, and the byte's place in that
core (R34, R205). -/
def State.bankRow (s : State) (g : Group) (addr : Nat) : Nat × Nat × Nat :=
  match s.alloc g.die g.lchid g.block (addr / 2 ^ 20) with
  | some a =>
    let row := (1024 * a.base + addr % 2 ^ 20) / 16
    (a.core, row % 64, row)
  | none => (headCore, addr / 16 % 64, addr / 16)

/-- The rank of a lane's row among those that the instruction writes into its bank, in ascending order of
their lowest lane (R218). -/
def rankOf (row : Nat × Nat × Nat) : List (Nat × Nat × Nat) → Nat
  | [] => 0
  | r :: rest =>
    if r = row then 0
    else (if r.1 = row.1 && r.2.1 = row.2.1 then 1 else 0) + rankOf row rest

/-- Numbers without repeats, in the order of their first occurrence. -/
def distinct {α : Type} [DecidableEq α] : List α → List α
  | [] => []
  | x :: r => x :: (distinct r).filter (fun y => y ≠ x)

/-- The arrival clk of each lane's row, by lane (R218). -/
def arrivals (clk : Nat) (time : Nat → Nat) (rows : List (Nat × (Nat × Nat × Nat))) : List (Nat × Nat) :=
  let order := distinct (rows.map (fun r => r.2))
  rows.map (fun r => (r.1, clk + time r.1 + rankOf r.2 order))

/-- The reserved arrivals of the die: core, bank and clk (R218). -/
def State.reserved (s : State) (die : Nat) : List (Nat × Nat × Nat) :=
  (s.groups.filter (fun g => g.die == die)).flatMap (fun g => g.ops.flatMap (fun o =>
    match o.kind with
    | .peer arr => o.todo.filterMap (fun e =>
        (findBy (fun (a : Nat × Nat) => a.1 == e.lane) arr).map (fun a =>
          let (c, b, _) := s.bankRow g e.addr
          (c, b, a.2)))
    | _ => []))

/-- `peerst` (R217, R218): held until every arrival clk can be reserved. Its words arrive at their clk, so it does not
issue before the accesses in flight that R222 orders ahead of it are performed (DESIGN CHOICE, log entry 86). -/
def peerRes (w : XA) (e : Env) (s : State) : Res :=
  match memHold e .sp s with
  | some s1 => .hold s1
  | none =>
    if e.act ≠ 0 && ((s.grp s.cur.gid).depsOf e.pix 0 true) ≠ [] then .hold (s.heldFor s.cur.gid e.pix 5)
    else
    match e.checked .cls 4 (e.raws .cls 6 w.a w.b (lanesOf e.act)) with
    | .error t => .trap t
    | .ok rs =>
      let rows := rs.map (fun r => (r.1.lane, s.bankRow e.g r.2))
      let role := fun l => match findBy (fun (r : RawElem × Nat) => r.1.lane == l) rs with
        | some r => r.2 / 2 ^ 20
        | none => 0
      let arr := arrivals (s.dieOf e.g.die).clk (fun l => peerTime e.g.role (role l)) rows
      let want := (rows.zip arr).map (fun x => (x.1.2.1, x.1.2.2.1, x.2.2))
      if want.any (fun x => (s.reserved e.g.die).contains x) then .hold (s.heldFor s.cur.gid e.pix 17)
      else
        let todo := rs.map (fun r =>
          ({ lane := r.1.lane, addr := r.2, nib := none, val := e.read false w.d r.1.lane, val2 := 0, ver := none } : Elem))
        .adv (post e .sp todo w.scope false 0 true (.peer arr) s)

/-- `peerst` (R217). -/
def execPeerst (w : XA) : Meaning := issueC (.peerst w) w.h w.c (peerRes w)

/-- PEERST_ARRIVAL (R218): the rows of the named lanes whose arrival clk has come. -/
def peerArrive (gid op : Nat) (m : Mask) (s : State) : State :=
  let g := s.grp gid
  match g.op op with
  | some o =>
    match o.kind with
    | .peer arr =>
      s.performOp gid op (maskOf (fun l => m.getLsbD l &&
        arr.any (fun a => a.1 == l && decide (a.2 ≤ (s.dieOf g.die).clk))))
    | _ => s
  | none => s

/-- PEERST_ARRIVAL (R218). -/
def execPeerstArrival (gid op : Nat) (lanes : BitVec 32) (s : State) : Host.Outcome State Fault Refusal :=
  .next (peerArrive gid op lanes s)

/-- The earliest arrival that is due in the module: its clk, group and operation, and the lane. -/
def State.dueArrival (s : State) : Option (Nat × Nat × Nat × Nat) :=
  (s.groups.flatMap (fun g => g.ops.flatMap (fun o =>
    match o.kind with
    | .peer arr =>
      o.todo.filterMap (fun e =>
        match findBy (fun (a : Nat × Nat) => a.1 == e.lane) arr with
        | some a => if a.2 ≤ (s.dieOf g.die).clk then some (a.2, g.gid, o.id, e.lane) else none
        | none => none)
    | _ => []))).foldl
    (fun b x => match b with
      | none => some x
      | some y => if x.1 < y.1 then some x else some y) none

/-- The state in which the older accesses of a path that overlap a word which arrives are performed before it, as R204 orders
them: the word itself waits for nothing (R217, R218). -/
def State.clearFor (s : State) (gid op l : Nat) : State :=
  let g := s.grp gid
  match g.op op with
  | none => s
  | some o =>
    (g.ops.filter (fun p => o.olds.contains p.id && !p.done && !p.isPeer &&
        o.todo.any (fun e => e.lane == l && p.todo.any (fun x => overlaps p.kind x o.kind e)))).foldl
      (fun s p => s.performOp gid p.id p.act) s

/-- The due arrivals of the module performed in the order of their clks (R217: a word never waits). -/
def arriveN : Nat → State → State
  | 0, s => s
  | n + 1, s =>
    match s.dueArrival with
    | some (_, gid, op, l) => arriveN n ((s.clearFor gid op l).performOp gid op (laneBit l))
    | none => s

/-- The state with every due arrival performed. -/
def State.arriveDue (s : State) : State :=
  arriveN ((s.groups.map (fun g => (g.ops.map (fun o => o.todo.length)).sum)).sum) s

end Sys2Proof.Machine
end

