-- ==== Sys2Proof/Machine/Atomic.lean ====
section
/-! DEFINITION. Family 0x9, atomics, acquires and releases (R241 to R246). -/

namespace Sys2Proof.Machine

/-! ### Waits in progress -/

/-- A new wait of an instruction. -/
def Env.wait (e : Env) (s : State) (h : Hdr) (k : WaitKind) (addr : Nat) (dst : Operand) (scope : BitVec 3)
    (t : Nat) (checked : Bool) : Wait :=
  { kind := k, addr := addr, dst := dst, act := e.act, scope := scope, sk := false,
    deadline := if t = 0 then none else some ((s.dieOf e.g.die).clk + t), timeout := t, checked := checked,
    hdr := h, spot := none, met := false }

/-- The state with a path waiting in a status. -/
def State.waiting (s : State) (w : Who) (x : Wait) (st : PStat) (reason : BitVec 5) : State :=
  s.updGrp w.gid (fun g => g.updPath w.path (fun p => { p with stat := st, wait := some x, reason := reason }))

/-- The state in which a path that replays a logged operation, the youngest one, holds for it: it issues
nothing until the operation is performed (R278). -/
def holdForOp (e : Env) (h : Hdr) (s : State) : State :=
  let x := e.wait s h (.op (s.nextId - 1)) 0 unused 0 0 false
  (s.waiting { gid := s.cur.gid, path := e.pix } x .replayHold 19).grainHeld s.cur.gid e.pix

/-! ### Atomics -/

/-- An atomic's element as the grain ring would record it (R271), or none where it would not: its page lets it, and it
would not fault (R272). No answer at all where its translation waits (R352). -/
def atomEvent (s : State) (g : Group) (issuer : Nat) (op : Option AtomOp) (mf : BitVec 4) (reads : Bool) (x : Elem) :
    Option (Option GEvent) :=
  match (s.target g .gbl x.addr (fmtBytes mf) (atomNeed reads).asks).2 with
  | .ok (.at_ p attr) =>
    let t : Target := .at_ p attr
    let old := s.readTarget g t (fmtBytes mf)
    let fails := op.isNone && old != x.val.toNat % 2 ^ fmtBits mf
    some (if logged s g attr && atomicOk attr op mf reads && !s.targetPoison g t (fmtBytes mf) then
        some { typ := 1, flags := x.lane + (if fails then 32 else 0), issuer := issuer, line := x.addr,
               version := s.version g.pasid p.line, payload := old }
      else none)
  | .error none => none
  | _ => some none

/-- What the grain ring makes of an operation at its issue: in replay its lanes find their records, which give
the versions at which they are performed; while recording a full ring holds it (R276 to R279). -/
inductive RingGate where
  | go (s : State) (es : List Elem) (held : Bool)
  | hold (s : State)
  | trap (t : Trap)
  deriving DecidableEq, Repr

/-- Elements with the versions at which their records have them performed. An operation of one element takes the record
whatever its lane. -/
def withRecs (es : List Elem) (vs : List (Nat × Nat × Nat)) : List Elem :=
  es.map (fun x =>
    if x.ver.isSome then x
    else
      let mine := findBy (fun (v : Nat × Nat × Nat) => decide (es.length = 1) || v.1 == x.lane) vs
      { x with ver := mine.map (fun v => (v.2.1, recVersion v.2.2)) })

/-- The ring's part of the issue of an operation whose elements `es` log the events `evs`: while recording it waits for the
slots that it needs, and in replay it goes on with the records that are there (R276 to R279). -/
def ringGate (e : Env) (s : State) (es : List Elem) (evs : List GEvent) : RingGate :=
  let g := s.grp s.cur.gid
  match evs with
  | [] => .go s es false
  | _ =>
    if (s.ctxOf g.pasid).mode = 2 then
      let rs := grainTakeLanes s g [] evs.length evs
      match rs.fault with
      | some (cause, x, f) => .trap { cause := cause, lmask := e.act, exprec := x, fndrec := f }
      | none => if rs.got.isEmpty then .hold (s.grainHeld s.cur.gid e.pix) else .go s (withRecs es rs.got) true
    else if grainFits s g.pasid evs.length then .go s es false
    else .hold (s.grainHeldFor s.cur.gid e.pix evs.length)

/-- The ring's part of the issue of an atomic: in replay its translations come first (R277). -/
def atomGate (e : Env) (s : State) (op : Option AtomOp) (mf : BitVec 4) (reads : Bool) (es : List Elem) : RingGate :=
  let g := s.grp s.cur.gid
  if !grainOn s g then .go s es false
  else
    let evs := es.map (atomEvent s g (g.issuer e.pix) op mf reads)
    if (s.ctxOf g.pasid).mode = 2 && evs.any (fun x => x.isNone) then
      .hold ((es.foldl (fun (s : State) x => (s.target g .gbl x.addr (fmtBytes mf) (atomNeed reads).asks).1) s).heldFor s.cur.gid e.pix 23)
    else ringGate e s es (evs.filterMap (fun x => x.getD none))

/-- The lanes of the path's next instruction whose events were performed before a replay fault stopped it: it issues again
for the others (R279). -/
def Path.redone (p : Path) : Mask :=
  match p.redo with
  | some (pc, m) => if pc = p.pc then m else 0
  | none => 0

/-- The state in which the instruction at a path's PC has issued whole. -/
def State.startsOver (s : State) (gid pix : Nat) : State :=
  s.updGrp gid (fun g => g.updPath pix (fun p => if p.redone = 0 then p else { p with redo := none }))

/-- The issue of an atomic: its address checks, the grain ring, then its operation. `val` gives a lane's
operands. -/
def atomRes (h : Hdr) (c : Ctr) (mf : BitVec 4) (a b : Operand) (ls : Env → List Nat) (op : Option AtomOp)
    (val : Env → Nat → DWord × DWord) (scope : BitVec 3) (sk : Bool) (ord : BitVec 3) (k : OpKind)
    (e : Env) (s : State) : Res :=
  match memHold e c s with
  | some s1 => .hold s1
  | none =>
    match e.checked .gbl (fmtBytes mf) (e.raws .gbl mf a b (ls e)) with
    | .error t => .trap t
    | .ok rs =>
      let es := (rs.filter (fun r => !(e.path.redone).getLsbD r.1.lane)).map (fun r =>
        let v := val e r.1.lane
        ({ lane := r.1.lane, addr := r.2, nib := none, val := v.1, val2 := v.2, ver := none } : Elem))
      match atomGate e s op mf k.returns es with
      | .hold s1 => .hold s1
      | .trap t => .trap t
      | .go s1 es false => .adv (post e c es scope sk ord true k (s1.startsOver s.cur.gid e.pix))
      | .go s1 es true => .hold (holdForOp e h (post e c es scope sk ord true k (s1.startsOver s.cur.gid e.pix)))

/-- An operand of an atomic as its element holds it: an immediate in a floating position stays the exact
integer (R43). -/
def atomVal (mf : BitVec 4) (o : Operand) (e : Env) (l : Nat) : DWord × DWord :=
  match o with
  | .imm k => if mf.toNat < 8 then (e.read (wideFmt mf) o l, 0) else (k.signExtend 64, 1)
  | _ => (e.read (wideFmt mf) o l, 0)

/-- `atom` (R243). -/
def atomOf (op : AtomOp) (w : XA) : Env → State → Res :=
  atomRes w.h .at w.mf w.a w.b (fun e => e.lanesFor w.d) (some op) (atomVal w.mf w.c) w.scope w.sk w.ord
    (.atomic op w.mf (some w.d))

/-- `red` (R243): the value is D, and nothing is returned. -/
def redOf (op : AtomOp) (w : XA) : Env → State → Res :=
  atomRes w.h .st w.mf w.a w.b (fun e => lanesOf e.act) (some op) (atomVal w.mf w.d) w.scope w.sk w.ord
    (.atomic op w.mf none)

/-- `atom.add` (R243). -/
def execAtomAdd (w : XA) : Meaning := issueC (.atomAdd w) w.h w.c (atomOf .add w)
/-- `atom.sub` (R243). -/
def execAtomSub (w : XA) : Meaning := issueC (.atomSub w) w.h w.c (atomOf .sub w)
/-- `atom.min` (R243). -/
def execAtomMin (w : XA) : Meaning := issueC (.atomMin w) w.h w.c (atomOf .min w)
/-- `atom.max` (R243). -/
def execAtomMax (w : XA) : Meaning := issueC (.atomMax w) w.h w.c (atomOf .max w)
/-- `atom.and` (R243). -/
def execAtomAnd (w : XA) : Meaning := issueC (.atomAnd w) w.h w.c (atomOf .and w)
/-- `atom.or` (R243). -/
def execAtomOr (w : XA) : Meaning := issueC (.atomOr w) w.h w.c (atomOf .or w)
/-- `atom.xor` (R243). -/
def execAtomXor (w : XA) : Meaning := issueC (.atomXor w) w.h w.c (atomOf .xor w)
/-- `atom.exch` (R243). -/
def execAtomExch (w : XA) : Meaning := issueC (.atomExch w) w.h w.c (atomOf .exch w)
/-- `atom.incw` (R243). -/
def execAtomIncw (w : XA) : Meaning := issueC (.atomIncw w) w.h w.c (atomOf .incw w)
/-- `atom.decw` (R243). -/
def execAtomDecw (w : XA) : Meaning := issueC (.atomDecw w) w.h w.c (atomOf .decw w)
/-- `red.add` (R243). -/
def execRedAdd (w : XA) : Meaning := issueC (.redAdd w) w.h w.c (redOf .add w)
/-- `red.sub` (R243). -/
def execRedSub (w : XA) : Meaning := issueC (.redSub w) w.h w.c (redOf .sub w)
/-- `red.min` (R243). -/
def execRedMin (w : XA) : Meaning := issueC (.redMin w) w.h w.c (redOf .min w)
/-- `red.max` (R243). -/
def execRedMax (w : XA) : Meaning := issueC (.redMax w) w.h w.c (redOf .max w)
/-- `red.and` (R243). -/
def execRedAnd (w : XA) : Meaning := issueC (.redAnd w) w.h w.c (redOf .and w)
/-- `red.or` (R243). -/
def execRedOr (w : XA) : Meaning := issueC (.redOr w) w.h w.c (redOf .or w)
/-- `red.xor` (R243). -/
def execRedXor (w : XA) : Meaning := issueC (.redXor w) w.h w.c (redOf .xor w)
/-- `red.incw` (R243). -/
def execRedIncw (w : XA) : Meaning := issueC (.redIncw w) w.h w.c (redOf .incw w)
/-- `red.decw` (R243). -/
def execRedDecw (w : XA) : Meaning := issueC (.redDecw w) w.h w.c (redOf .decw w)

/-- `cas` (R244): no offset. -/
def execCas (w : XA) : Meaning :=
  issueC (.cas w) w.h w.c
    (atomRes w.h .at w.mf w.a (.imm 0) (fun e => e.lanesFor w.d) none
      (fun e l => (e.read (wideFmt w.mf) w.b l, e.read (wideFmt w.mf) w.c l)) w.scope w.sk w.ord
      (.cas w.mf w.d))

/-- `ldacq` (R246): a load without conversion that is an acquire. -/
def execLdacq (w : XA) : Meaning := issueC (.ldacq w) w.h w.c (loadRes .gbl w w.mf w.mf true)

/-- The value that `strel` stores for a lane, without conversion; an immediate in a floating format is the exact integer,
rounded to it once, to nearest even (R43; log entry 86). -/
def strelVal (mf : BitVec 4) (o : Operand) (e : Env) (l : Nat) : DWord :=
  match o with
  | .imm k =>
    if mf.toNat < 8 then e.read (wideFmt mf) o l
    else BitVec.ofNat 64 (convert 3 mf.toNat 0 false (k.signExtend 64).toNat).1
  | _ => e.read (wideFmt mf) o l

/-- The issue of `strel` (R246): a store without conversion that is a release. -/
def strelRes (w : XA) (e : Env) (s : State) : Res :=
  match memHold e .st s with
  | some s1 => .hold s1
  | none =>
    match e.checked .gbl (fmtBytes w.mf) (e.raws .gbl w.mf w.a w.b (lanesOf e.act)) with
    | .error t => .trap t
    | .ok rs =>
      let todo := rs.map (fun r =>
        ({ lane := r.1.lane, addr := r.2, nib := none, val := strelVal w.mf w.d e r.1.lane, val2 := 0,
           ver := none } : Elem))
      .adv (post e .st todo w.scope w.sk 2 true (.store .gbl w.mf false false) s)

/-- `strel` (R246). -/
def execStrel (w : XA) : Meaning := issueC (.strel w) w.h w.c (strelRes w)

/-- ATOMIC_COMPLETE (R243). -/
def execAtomicComplete (gid op : Nat) (lanes : BitVec 32) : Meaning :=
  completeIf (fun o => o.isMem && o.ctr == .at) gid op lanes

end Sys2Proof.Machine
end

