-- ==== Sys2Proof/Machine/Pool.lean ====
section
/-! DEFINITION. Task pools as the headstock serves them (R316 to R320): the descriptor's fields, how a task's
ranges resolve, the rename ring, acceptance, and what a finished task releases. -/

namespace Sys2Proof.Machine

/-! ### The descriptor (R316) -/

/-- Whether `n` bytes of a context's GLOBAL memory hold poison. -/
def headPoison (s : State) (die pasid a n : Nat) : Bool :=
  match (s.translate die headCore 1 pasid (a % 2 ^ 57) needR).2 with
  | .ok x => s.poisonedAt x.loc n
  | _ => false

/-- The pool of an address. -/
def State.poolOf (s : State) (pasid addr : Nat) : Option Pool :=
  findBy (fun p => p.pasid == pasid && p.addr == addr) s.pools

/-- A pool with no task, from the first 64 bytes of its descriptor. -/
def poolFrom (pasid addr x : Nat) : Pool :=
  { pasid := pasid, addr := addr, die := none, tbase := nbits x 191 128, tcount := nbits x 223 192,
    rbase := nbits x 319 256, rgran := nbits x 351 320, nextid := nbits x 95 64, done := nbits x 127 96,
    closed := nbits x 63 32, rhead := nbits x 447 384, rtail := nbits x 511 448, tasks := [],
    versions := [], waiters := [], seen := [] }

/-- The pool of an address as its headstock holds it. While no task is in flight the descriptor is the
program's: its fields are read, and counts that the program has rewritten begin a new pool (R316). -/
def State.poolNow (s : State) (pasid addr x : Nat) : Pool :=
  let m := poolFrom pasid addr x
  match s.poolOf pasid addr with
  | none => m
  | some p =>
    if !p.tasks.isEmpty then p
    else if (p.nextid, p.done, p.rhead, p.rtail) = (m.nextid, m.done, m.rhead, m.rtail) then
      { p with tbase := m.tbase, tcount := m.tcount, rbase := m.rbase, rgran := m.rgran, closed := m.closed }
    else { m with waiters := p.waiters }

/-- Whether a task is ready: nothing holds it (R318), and its record has been written (R322). -/
def Task.ready (t : Task) : Bool := t.recorded && t.hold.isEmpty && t.holdHome.isEmpty

/-- HEAD: tasks ready and not taken. -/
def Pool.head (p : Pool) : Nat := (p.tasks.filter (fun t => t.ready && !t.taken)).length

/-- A field of a pool written where it has changed (R316), once its page is translated (R352). A page that faults keeps
its bytes. -/
def poolField (p : Pool) (ofs n old new : Nat) (s : State) : State :=
  if old = new then s else s.headPost (.bytes (p.die.getD 0) p.pasid (p.addr + ofs) (leBytes n new))

/-- The state with a pool in place of its older form, and the fields that changed written. -/
def State.setPool (s : State) (old new : Pool) : State :=
  let rest := s.pools.filter (fun p => !(p.pasid == new.pasid && p.addr == new.addr))
  let s1 := { s with pools := new :: rest }
  poolField new 56 8 old.rtail new.rtail
    (poolField new 48 8 old.rhead new.rhead
      (poolField new 12 4 old.done new.done
        (poolField new 8 4 old.nextid new.nextid
          (poolField new 4 4 old.closed new.closed
            (poolField new 0 4 old.head new.head s1)))))

/-! ### Ranges and versions (R317 to R319) -/

/-- A range from its word. -/
def rangeOf (x : Nat) : GRange := { base := nbits x 48 0, len := nbits x 63 49 }

/-- Whether two ranges share a granule. -/
def GRange.overlaps (a b : GRange) : Bool := decide (a.base < b.base + b.len) && decide (b.base < a.base + a.len)

/-- The used ranges of a list with their locations. -/
def usedRanges (rs : List GRange) (ls : List Loc) : List (GRange × Loc) := (rs.zip ls).filter (fun x => x.1.len != 0)

/-- The live renamed versions of a pool. -/
def Pool.live (p : Pool) : List Version := p.versions.filter (fun v => !v.freed)

/-- A version that a read may resolve to: its writer, its range, its location, and whether its writer is in
flight. -/
structure VersionRef where
  writer : Nat
  range : GRange
  loc : Loc
  inFlight : Bool
  deriving DecidableEq, Repr

/-- The older versions of a pool: of the write ranges of tasks in flight, and the live renamed versions. -/
def Pool.refs (p : Pool) : List VersionRef :=
  p.tasks.flatMap (fun t => (usedRanges t.wr t.wrLoc).map (fun x =>
    { writer := t.id, range := x.1, loc := x.2, inFlight := true })) ++
  (p.live.filter (fun v => !p.tasks.any (fun t => t.id == v.writer))).map (fun v =>
    { writer := v.writer, range := v.range, loc := .buf v.start, inFlight := false })

/-- The youngest of some versions. -/
def youngest (vs : List VersionRef) : Option VersionRef :=
  vs.foldl (fun b v => match b with
    | none => some v
    | some w => if w.writer < v.writer then some v else some w) none

/-- What a range resolves to: its location, the tasks it is held for, and the buffers that must be copied
home first. -/
structure Resolved where
  loc : Loc
  hold : List Nat
  home : List Nat
  deriving DecidableEq, Repr

/-- The resolution of a read range (R318). -/
def Pool.resolveRead (p : Pool) (r : GRange) : Resolved :=
  match youngest (p.refs.filter (fun v => r.len != 0 && v.range.overlaps r)) with
  | none => { loc := .home, hold := [], home := [] }
  | some v =>
    let hold := if v.inFlight then [v.writer] else []
    if v.range = r then { loc := v.loc, hold := hold, home := [] }
    else
      { loc := .home, hold := hold, home := match v.loc with
        | .buf k => [k]
        | .home => [] }

/-- The granules that a buffer of `k` granules skips at the end of the ring (R319). -/
def Pool.skip (p : Pool) (k : Nat) : Nat :=
  let left := p.rgran - p.rhead % p.rgran
  if left < k then left else 0

/-- The resolution of a write range (R318); the pool's RHEAD stands at the buffer's first granule. -/
def Pool.resolveWrite (p : Pool) (w : GRange) : Resolved × Bool :=
  let tasks := p.tasks.filter (fun t => (t.rd ++ t.wr).any (fun r => r.len != 0 && w.len != 0 && r.overlaps w))
  let ranges := p.tasks.flatMap (fun t => (t.rd ++ t.wr).filter (fun r => r.len != 0 && w.len != 0 && r.overlaps w))
  let vs := p.live.filter (fun v => w.len != 0 && v.range.overlaps w)
  if ranges.isEmpty && vs.isEmpty then ({ loc := .home, hold := [], home := [] }, false)
  else if ranges.all (fun r => r == w) && vs.all (fun v => v.range == w) && p.rgran != 0 && decide (w.len ≤ p.rgran) then
    ({ loc := .buf (p.rhead + p.skip w.len), hold := [], home := [] }, true)
  else ({ loc := .home, hold := tasks.map (fun t => t.id), home := vs.map (fun v => v.start) }, false)

/-- Whether a task reads from a buffer. -/
def Task.readsFrom (t : Task) (start : Nat) : Bool := t.rdLoc.contains (.buf start)

/-- A renamed version that a younger matching version replaces and that no task in flight reads is freed
(R318). -/
def Pool.freeOld (p : Pool) : Pool :=
  let younger := fun (v : Version) =>
    p.refs.any (fun r => r.range == v.range && decide (v.writer < r.writer))
  { p with versions := p.versions.map (fun v =>
      if younger v && !p.tasks.any (fun t => t.readsFrom v.start) then { v with freed := true } else v) }

/-- RTAIL past the freed buffers that follow it (R319). -/
def tailOver : Nat → Nat → List Version → Nat × List Version
  | rtail, _, [] => (rtail, [])
  | rtail, rhead, v :: r => if v.freed then tailOver (v.start + v.range.len) rhead r else (rtail, v :: r)

/-- A pool with what it can release released: replaced versions, ring space, and holds on buffers that are
free. -/
def Pool.tidy (p : Pool) : Pool :=
  let p := p.freeOld
  let (t, vs) := tailOver p.rtail p.rhead p.versions
  let p := { p with rtail := t, versions := vs }
  { p with tasks := p.tasks.map (fun x =>
      { x with holdHome := x.holdHome.filter (fun k => p.live.any (fun v => v.start == k)) }) }

/-- A pool without a task: its holds are released, as its `taskdone` does (R322, R324), and the tasks that it held
follow what `v` says (R237). -/
def Pool.release (p : Pool) (id : Nat) (v : View) : Pool :=
  ({ p with
    seen := viewJoin p.seen v,
    tasks := (p.tasks.filter (fun t => t.id != id)).map (fun t =>
      if t.hold.contains id then { t with hold := t.hold.filter (fun k => k != id), view := viewJoin t.view v }
      else t) } : Pool).tidy

/-- A pool in which the record of a task has been written. -/
def Pool.record (p : Pool) (id : Nat) : Pool :=
  { p with tasks := updBy (fun t => t.id == id) (fun t => { t with recorded := true }) p.tasks }

/-! ### Acceptance (R320, R322) -/

/-- The word of a descriptor at a byte. -/
def descNum (x ofs n : Nat) : Nat := nbits x (8 * ofs + 8 * n - 1) (8 * ofs)

/-- The read ranges of a descriptor. -/
def descReads (x : Nat) : List GRange := [40, 48, 56, 64].map (fun o => rangeOf (descNum x o 8))
/-- The write ranges of a descriptor. -/
def descWrites (x : Nat) : List GRange := [72, 80].map (fun o => rangeOf (descNum x o 8))

/-- Whether a descriptor is illegal in itself (R317, R322). -/
def descIllegal (x : Nat) : Bool :=
  let ws := descWrites x
  let used := fun (r : GRange) => r.len != 0
  descNum x 88 40 != 0 || descNum x 0 8 % 12 != 0 ||
  ((descReads x ++ ws).filter used).any (fun r => decide (2 ^ 49 < r.base + r.len)) ||
  (match ws with
    | [a, b] => used a && used b && a.overlaps b
    | _ => false)

/-- Whether a pool's descriptor or state refuses a task (R316, R322). -/
def poolIllegal (x : Nat) (p : Pool) (die : Nat) : Bool :=
  nbits x 255 224 != 0 || nbits x 383 352 != 0 || p.tcount == 0 || p.closed != 0 ||
  (p.die.isSome && p.die != some die)

/-- Tasks in flight on a die. -/
def State.inFlightTasks (s : State) (die : Nat) : Nat :=
  ((s.pools.filter (fun p => p.die == some die)).map (fun p => p.tasks.length)).sum

/-- The lowest slot of a pool that no task in flight holds. -/
def Pool.freeSlot (p : Pool) : Option Nat :=
  let used := p.tasks.map (fun t => t.slot)
  findBy (fun k => !used.contains k) (upFrom 0 (min p.tcount (used.length + 1)))

/-- Buffers for the write ranges of a task, in order: the pool, the resolutions, and whether all fit. -/
def renameAll (id : Nat) : List GRange → Pool → List Resolved × Pool × Bool
  | [], p => ([], p, true)
  | w :: r, p =>
    match p.resolveWrite w with
    | (z, false) =>
      let (zs, p1, ok) := renameAll id r p
      (z :: zs, p1, ok)
    | (z, true) =>
      let start := p.rhead + p.skip w.len
      let p1 := { p with
        rhead := start + w.len,
        versions := p.versions ++ [{ writer := id, range := w, start := start, freed := false }] }
      let (zs, p2, ok) := renameAll id r p1
      (z :: zs, p2, ok && decide (start + w.len ≤ p.rtail + p.rgran))

/-- The acceptance of a descriptor into a pool: the pool with the task in it, or none while a slot, the
table or the ring has no room for it. -/
def Pool.accept (p : Pool) (x : Nat) : Option (Pool × Nat) :=
  match p.freeSlot with
  | none => none
  | some slot =>
    let id := p.nextid + 1
    let rds := (descReads x).map p.resolveRead
    let (wrs, p1, ok) := renameAll id (descWrites x) p
    if !ok then none
    else
      let all := rds ++ wrs
      let t : Task :=
        { id := id, slot := slot, entry := descNum x 0 8,
          args := (upFrom 0 8).map (fun k => BitVec.ofNat 32 (descNum x (8 + 4 * k) 4)),
          rd := descReads x, wr := descWrites x, rdLoc := rds.map (fun z => z.loc),
          wrLoc := wrs.map (fun z => z.loc), hold := distinct (all.flatMap (fun z => z.hold)),
          holdHome := distinct (all.flatMap (fun z => z.home)), taken := false, recorded := false,
          view := [] }
      some (({ p1 with tasks := p1.tasks ++ [t], nextid := id } : Pool).tidy, id)

/-- The record of a task (R322): the descriptor as posted, and its identity. -/
def Task.record (t : Task) : List Byte :=
  let range := fun (r : GRange) => leBytes 8 (r.base + r.len * 2 ^ 49)
  leBytes 8 t.entry ++ t.args.flatMap (fun a => leBytes 4 a.toNat) ++ t.rd.flatMap range ++ t.wr.flatMap range ++
    leBytes 4 t.id ++ List.replicate 36 0

/-- The byte address of a resolved range, bits [56:0] (R323): 0 for an unused one. -/
def Pool.addrOf (p : Pool) (r : GRange) (l : Loc) : Nat :=
  if r.len = 0 then 0
  else
    match l with
    | .home => 256 * r.base
    | .buf k => (p.rbase + 256 * (k % p.rgran)) % 2 ^ 57

/-- The addresses that a task's ranges resolved to. -/
def Pool.addrs (p : Pool) (t : Task) : List Nat :=
  (t.rd.zip t.rdLoc ++ t.wr.zip t.wrLoc).map (fun x => p.addrOf x.1 x.2)

/-- The ready task of lowest identity that no group has taken. -/
def Pool.nextTask (p : Pool) : Option Task :=
  (p.tasks.filter (fun t => t.ready && !t.taken)).foldl
    (fun (b : Option Task) t => match b with
      | none => some t
      | some u => if t.id < u.id then some t else some u) none

end Sys2Proof.Machine
end

