-- ==== Sys2Proof/Machine/Sync.lean ====
section
/-! DEFINITION. Family 0xA, fences, counter waits, sync lines, word waits, barrier objects and
semaphores (R247 to R260), and the checked waits and the rest table that they use (R291 to R305). -/

namespace Sys2Proof.Machine

/-! ### Fences and counter waits (R247, R248) -/

/-- Whether an operation is a load or an atomic, for a fence of acquire order (R222). -/
def Op.reads (o : Op) : Bool :=
  match o.kind with
  | .load .. => true
  | .atomic .. => true
  | .cas .. => true
  | .sem .. => true
  | _ => false

/-- A release fence issued by a path: its later stores and atomics follow its earlier accesses, and hand on what
precedes it (R223, R247). -/
def Group.fenceRel (g : Group) (pix : Nat) (scope : BitVec 3) (sk : Bool) : Group :=
  let f : RelFence :=
    { scope := scope, sk := sk, view := (g.path pix).view,
      olds := ((g.before pix).filter (fun o => o.isAccess)).map (fun o => o.id) }
  { g.updPath pix (fun p => { p with fences := f :: p.fences }) with
    ops := g.ops.map (fun o => if o.past.getLsbD pix && !o.done then { o with rel := o.rel ||| pathBits [pix] } else o) }

/-- An acquire fence issued by a path: what its reads heard counts as acquired (R223), and a seq_cst fence follows the
sequentially consistent operations before it and takes its place after them (R228). -/
def State.fenceAcq (s : State) (gid pix : Nat) (ord scope : BitVec 3) (sk : Bool) : State :=
  let g := s.grp gid
  let a := g.agent pix
  let got := viewJoin (acquired a scope sk (g.path pix).heard) (if ord = 4 then s.scView a scope sk else [])
  let s1 := s.updGrp gid (fun g => g.updPath pix (fun p => p.hears got))
  if ord = 4 then
    { s1 with sc := { who := a, scope := scope, sk := sk, view := ((s1.grp gid).path pix).view } :: s1.sc }
  else s1

/-- `fence` (R247): acquire order holds until the path's loads and atomics have completed; release order
makes its later stores and atomics follow every earlier access; seq_cst holds until all are done. -/
def fenceRes (w : XA) (e : Env) (s : State) : Res :=
  if e.act = 0 || w.ord = 0 then .adv s
  else
    let acc := ((s.grp s.cur.gid).before e.pix).filter (fun o => o.isAccess)
    if ordAcq w.ord && acc.any (fun o => o.reads) then .hold (s.heldFor s.cur.gid e.pix 3)
    else if w.ord = 4 && !acc.isEmpty then .hold (s.heldFor s.cur.gid e.pix 4)
    else
      let s1 := if ordAcq w.ord then s.fenceAcq s.cur.gid e.pix w.ord w.scope w.sk else s
      .adv (if ordRel w.ord then s1.updGrp s.cur.gid (fun g => g.fenceRel e.pix w.scope w.sk) else s1)

/-- `fence` (R247). -/
def execFence (w : XA) : Meaning := issueC (.fence w) w.h w.c (fenceRes w)

/-- The counter of a CTR code (R44). -/
def ctrOf (c : BitVec 3) : Ctr :=
  match c.toNat with
  | 0 => .ld
  | 1 => .st
  | 2 => .sp
  | 3 => .cp
  | 4 => .mx
  | _ => .at

/-- `waitc` (R248): what the covered operations wrote and read then precedes the path's later accesses (R222, R233). -/
def execWaitc (w : XW) : Meaning :=
  issueC (.waitc w) w.h w.c (fun e s =>
    if e.act = 0 then .adv s
    else if w.n.toNat < (s.grp s.cur.gid).ctr (ctrOf w.ctr) then
      .hold (s.heldFor s.cur.gid e.pix (ctrOf w.ctr).reason)
    else
      .adv (s.updGrp s.cur.gid (fun g =>
        g.updPath e.pix (fun p => p.hears (g.viewOfCtr (ctrOf w.ctr) w.n.toNat)))))

/-! ### `fill` and `syncinit` (R249, R250) -/

/-- The event of a store of a sync word, or none where the store would fault or its page is not logged (R272); no answer
at all where its translation waits. -/
def fillEvent (s : State) (g : Group) (pix addr n v : Nat) (tag : Bool) : Option (Option GEvent) :=
  match (s.target g .gbl addr n needW.asks).2 with
  | .ok (.at_ p attr) =>
    some (if logged s g attr && attrPbmt attr == 0 && attrKind attr != 2 && (!tag || (attrSync attr && attrKind attr == 0)) then
        some { typ := 4, flags := 0, issuer := g.issuer pix, line := addr, version := s.version g.pasid p.line, payload := v }
      else none)
  | .error none => none
  | _ => some none

/-- The issue of `fill` and `syncinit`: one word for the path; in replay it finds its record now. -/
def fillRes (w : XA) (tag : Bool) (e : Env) (s : State) : Res :=
  match memHold e .st s with
  | some s1 => .hold s1
  | none =>
    let k : OpKind := .store .gbl w.mf tag true
    let ord : BitVec 3 := if tag then 0 else 2
    if e.act = 0 then .adv (post e .st [] w.scope w.sk ord true k s)
    else
      match e.checked .gbl (fmtBytes w.mf) (e.raws .gbl w.mf w.a w.b [lowest e.act]) with
      | .error t => .trap { t with lmask := e.act }
      | .ok rs =>
        let addr := (rs.head?.map (fun r => r.2)).getD 0
        let v := if wideFmt w.mf then e.uni64 w.d else (e.uni w.d).setWidth 64
        let x : Elem := { lane := lowest e.act, addr := addr, nib := none, val := v, val2 := 0, ver := none }
        let g := s.grp s.cur.gid
        if !grainOn s g then .adv (post e .st [x] w.scope w.sk ord true k s)
        else
          match fillEvent s g e.pix addr (fmtBytes w.mf) v.toNat tag with
          | none =>
            if (s.ctxOf g.pasid).mode = 2 then
              .hold ((s.target g .gbl addr (fmtBytes w.mf) needW.asks).1.heldFor s.cur.gid e.pix 23)
            else .adv (post e .st [x] w.scope w.sk ord true k s)
          | some ev =>
            match ringGate e s [x] ev.toList with
            | .hold s1 => .hold s1
            | .trap t => .trap t
            | .go s1 es false => .adv (post e .st es w.scope w.sk ord true k s1)
            | .go s1 es true => .hold (holdForOp e w.h (post e .st es w.scope w.sk ord true k s1))

/-- `fill` (R250). -/
def execFill (w : XA) : Meaning := issueC (.fill w) w.h w.c (fillRes w false)
/-- `syncinit` (R250). -/
def execSyncinit (w : XA) : Meaning := issueC (.syncinit w) w.h w.c (fillRes w true)

/-! ### The rest table (R252, R305) -/

/-- The state with a path in the rest table under a key; beyond the die's entries it is on the context's
overflow list. `woken` is set where the key's writes are not seen by the table. -/
def State.rested (s : State) (w : Who) (key : RestKey) (woken : Bool) : State :=
  let die := (s.grp w.gid).die
  let others := s.rest.filter (fun e => e.who != w)
  let n := (others.filter (fun e => e.die == die && !e.overflow)).length
  { s with rest := others ++
      [{ die := die, who := w, key := key, woken := woken, overflow := decide (Config.restEntries ≤ n) }] }

/-- The state with a path taken out of the rest table. -/
def State.unrested (s : State) (w : Who) : State := { s with rest := s.rest.filter (fun e => e.who != w) }

/-! ### Targets and the check (R295 to R298) -/

/-- The class and the live launch, if any, that a tag resolves to (R297). -/
def tagTarget (s : State) (t : Option Tag) : BitVec 2 × Option Launch :=
  match t with
  | none => (0, none)
  | some t =>
    match findBy (fun (l : Launch) => l.pasid == t.ctx && l.die == t.die && l.lchid == t.lch) s.launches with
    | some l => (l.cls, some l)
    | none => (0, none)

/-- What the check of a wait comes to (R298). -/
inductive Check where
  | pass
  | inversion
  | promote (l : Launch)
  deriving DecidableEq, Repr

/-- The check of R298 for a waiter of class `cw` and context `ctx`. -/
def checkWait (cw : BitVec 2) (ctx : Nat) (t : BitVec 2 × Option Launch) : Check :=
  if cw.toNat ≤ t.1.toNat then .pass
  else
    match t.2 with
    | some l => if l.pasid = ctx then .promote l else .inversion
    | none => .inversion

/-! ### Barrier objects (R253 to R258) -/

/-- Groups of a group's block that are not discarded (R253, R314). -/
def State.blockSize (s : State) (g : Group) : Nat :=
  let l := s.launchOf g.die g.lchid
  let (x, y, z) := l.grid
  match l.lastGroups with
  | some k => if g.block + 1 = x * y * z then k else l.hdr.groups
  | none => l.hdr.groups

/-- The participants of a group's block (R253). -/
def State.participants (s : State) (g : Group) : Nat :=
  s.blockSize g * (if (s.launchOf g.die g.lchid).hdr.compat then 2 else 1)

/-- EXPECT. -/
def barExpect (x : Nat) : Nat := nbits x 15 0
/-- ARRIVED. -/
def barArrived (x : Nat) : Nat := nbits x 31 16
/-- BYTES, as its 32 bits. -/
def barBytes (x : Nat) : Nat := nbits x 63 32
/-- PHASE. -/
def barPhase (x : Nat) : Nat := nbits x 95 64
/-- CLS. -/
def barCls (x : Nat) : BitVec 2 := BitVec.ofNat 2 (nbits x 97 96)

/-- An object of its fields. -/
def barObj (cls : BitVec 2) (phase bytes arrived expect : Nat) : Nat :=
  expect % 2 ^ 16 + 2 ^ 16 * (arrived % 2 ^ 16) + 2 ^ 32 * (bytes % 2 ^ 32) + 2 ^ 64 * (phase % 2 ^ 32) +
    2 ^ 96 * cls.toNat

/-- An object with ARRIVED and BYTES changed; the phase completes where ARRIVED is then E and BYTES 0
(R256). -/
def barUpdate (x e arrived bytes : Nat) : Nat :=
  if arrived = e && bytes % 2 ^ 32 = 0 then barObj (barCls x) (barPhase x + 1) 0 0 (barExpect x)
  else barObj (barCls x) (barPhase x) bytes arrived (barExpect x)

/-- The effective count of an object (R253). -/
def State.barCount (s : State) (g : Group) (x : Nat) : Nat :=
  if barExpect x = 0 then s.participants g else barExpect x

/-- Where a barrier object lies, or what keeps an instruction from it: a fault that is precise, as R254 makes those of a
GLOBAL object; the POISON of a scratchpad object, which is imprecise (R398, R409); or a wait for a translation or for a
word in flight, with its stall reason (R219). -/
inductive BarPlace where
  | ok (t : Target)
  | precise (c : Cause)
  | poison
  | wait (reason : BitVec 5)
  deriving DecidableEq, Repr

/-- The place of a barrier object for a path. -/
def State.barTarget (s : State) (gid pix : Nat) (sp : Space) (addr : Nat) (need : Need) : State × BarPlace :=
  let g := s.grp gid
  match s.target g sp addr 16 need with
  | (s1, .ok (.at_ p attr)) =>
    if attrPbmt attr != 0 || attrKind attr == 2 then (s1, .precise .memProtection)
    else if s1.targetPoison g (.at_ p attr) 16 then (s1, .precise .poison)
    else (s1, .ok (.at_ p attr))
  | (s1, .ok t) =>
    match s1.flight gid pix addr 16 with
    | .trap => (s1, .precise .scoreboardUndersized)
    | .hold => (s1, .wait 5)
    | .go => if s1.targetPoison g t 16 then (s1, .poison) else (s1, .ok t)
  | (s1, .error (some c)) => (s1, .precise c)
  | (s1, .error none) => (s1, .wait 23)

/-- The 16 bytes of a barrier object as a path reads them: in a scratchpad, of a word of another path in flight each byte
old or new (R219). -/
def State.barRead (s : State) (gid pix : Nat) (t : Target) : Nat :=
  let g := s.grp gid
  match t with
  | .scr role o =>
    let a := role * 2 ^ 20 + o
    mixBytes s.tick a (s.inFlight g ((g.before pix).map (fun o => o.id)) a 16) (s.readTarget g t 16) 16
  | t => s.readTarget g t 16

/-- An object's address as operand A names it: GLOBAL from a pair, else 32 bits. -/
def Env.barRaw (e : Env) (w : XW) : Nat :=
  if w.n = 2 then (e.uni64 w.a).toNat % 2 ^ 57 else (e.uni w.a).toNat

/-- The space that N names (R254). -/
def barSpace (n : BitVec 6) : Space :=
  match n.toNat with
  | 0 => .scr
  | 1 => .cls
  | _ => .gbl

/-- The address of a barrier object, checked under R200 as 16 bytes. -/
def Env.barAddr (e : Env) (w : XW) : Except Trap Nat :=
  match e.checked (barSpace w.n) 16 [{ lane := lowest e.act, raw := e.barRaw w, nib := none }] with
  | .error t => .error { t with lmask := e.act }
  | .ok rs => .ok ((rs.head?.map (fun r => r.2)).getD 0)

/-- The update of a GLOBAL object as the grain ring records it (R271). -/
def barEvent (g : Group) (pix addr old : Nat) : GEvent :=
  { typ := 1, flags := 0, issuer := g.issuer pix, line := addr, version := 0, payload := old % 2 ^ 64 }

/-- The number by which the consistency model knows the object at a target. -/
def Target.objNo (t : Target) (g : Group) : Nat :=
  match t with
  | .at_ (.mem a) _ => a
  | .at_ (.host a) _ => 2 ^ 62 + a
  | .at_ (.remote a) _ => 2 ^ 61 + a
  | .scr role o => 2 ^ 64 * (1 + ((g.die * 2 ^ 32 + g.lchid) * 2 ^ 32 + g.block) * 16 + role) + o
  | .obj _ => 0

/-- The page attributes and line of a target, for logging; scratchpad objects are never logged (R272). -/
def Target.log (t : Target) : Option (BitVec 9 × Nat) :=
  match t with
  | .at_ p attr => some (attr, p.line)
  | _ => none

/-- What the grain ring makes of an event that acts now at a line: the state after its record is written
or consumed, or a hold, or a trap (R274, R276 to R279). -/
def lineEvent (s : State) (g : Group) (t : Target) (ev : GEvent) (writes : Bool) : GrainRes :=
  match t.log with
  | none => .run s none
  | some (attr, line) =>
    let c := s.ctxOf g.pasid
    let ev := { ev with version := s.version g.pasid line }
    if !logged s g attr then .run s none
    else if c.mode = 2 then
      match nextFor s g ev (fun r => grainMatch r ev) with
      | .hold => .hold s
      | .fault c x f => .trap c x f
      | .take ix r =>
        if recVersion r = ev.version then .run (logAt s g none ev line (some (ix, ev.version)) writes) none else .hold s
    else if !grainRoom s g.pasid || s.crossed g.pasid (s.lateRec g ev (some line)) then .hold s
    else .run (logAt s g none ev line none writes) none

/-- The trap of a grain-ring fault. -/
def ringTrap (act : Mask) (c : Cause) (x f : BitVec 256) : Trap := { cause := c, lmask := act, exprec := x, fndrec := f }

/-- One update of a barrier object by a path, done at once: `f` gives the new object from the old, or a
cause. The old object is answered. -/
inductive BarRes where
  | ok (s : State) (old : Nat)
  | trap (t : Trap)
  | poison (s : State)       -- an imprecise fault of the instruction at the object's address
  | hold (s : State)
  deriving DecidableEq, Repr

/-- An object's new value written, with the releases that the update makes (R258): those of a phase that it completes are
kept for the waits of that phase. -/
def State.barWrite (s : State) (g : Group) (t : Target) (old new : Nat) (ms : List Msg) : State :=
  let k := t.objNo g
  let s1 := (s.writeTarget g t 16 new).objTell (barKey k none) ms
  if barPhase new = barPhase old then s1 else s1.barDone k (barPhase old)

/-- The state in which an update that a path has just made at a place precedes its later accesses (R204, R255). -/
def State.barSeen (s : State) (gid pix : Nat) (t : Target) : State :=
  let v := viewOf (t.cells (s.grp gid) 16) (List.replicate 16 s.stamp)
  s.updGrp gid (fun g => g.updPath pix (fun p => p.hears v))

/-- The update of R253 and R254 at an address, with the releases `ms` that it makes. -/
def State.barDo (s : State) (gid pix : Nat) (act : Mask) (sp : Space) (addr : Nat) (ms : List Msg)
    (f : Group → Nat → Except Cause Nat) : BarRes :=
  let g := s.grp gid
  let held := fun (s : State) => BarRes.hold ((s.heldFor gid pix 9).grainHeld gid pix)
  match s.barTarget gid pix sp addr needRW.asks with
  | (s1, .wait r) => .hold (s1.heldFor gid pix r)
  | (_, .precise c) => .trap { cause := c, faddr := BitVec.ofNat 64 addr, lmask := act }
  | (s1, .poison) => .poison s1
  | (s1, .ok t) =>
    let x := s1.barRead gid pix t
    if x / 2 ^ 98 ≠ 0 then .trap { cause := .illegalOperand, lmask := act }
    else
      match f g x with
      | .error c => .trap { cause := c, faddr := if c = Cause.progressInversion then BitVec.ofNat 64 addr else 0, lmask := act }
      | .ok y =>
        match lineEvent s1 g t (barEvent g pix addr x) true with
        | .hold s2 => held s2
        | .trap c a b => .trap (ringTrap act c a b)
        | .run s2 _ =>
          let s3 := match t with
            | .at_ _ _ => s2.used g addr needRW
            | _ => s2
          .ok ((s3.barWrite g t x y ms).barSeen gid pix t) x

/-! ### Waits in progress -/

/-- The evaluation of a wait. -/
inductive WaitEval where
  | complete (s : State) (v : Option DWord)
  | ended (s : State)                      -- complete, with the path already set
  | fault (s : State) (c : Cause)          -- imprecise, at the wait's address
  | trap (t : Trap)
  | stay (s : State) (reason : Option (BitVec 5))  -- held without parking; none: by its own reason
  | ring (s : State)                       -- held by the grain ring
  | park (s : State) (key : RestKey) (woken : Bool) (target : BitVec 2 × Option Launch) (spot : Option (Nat × Bool))
      (met : Bool)
  deriving DecidableEq, Repr

/-- Whether a wait's deadline has passed on its group's die. -/
def Wait.due (w : Wait) (clk : Nat) : Bool :=
  match w.deadline with
  | some d => decide (d ≤ clk)
  | none => false

/-- What becomes of the end of a logged wait (R271, R274, R276 to R279): it completes in the state that `fin` gives where
its test passes, and in the one that `out` gives where it has timed out, and else it parks with `park`; both are given
its record's number in replay. `ok` accepts the records that it may take. In replay a checked wait whose record is not there
and that meets an inversion raises it, since it logs nothing (R272). -/
def endLogged (s : State) (g : Group) (clk line : Nat) (w : Wait) (pass : Bool) (ev : GEvent) (ok : Nat → Bool)
    (fin out : Option (Nat × Nat) → WaitEval) (park : Bool → WaitEval) : WaitEval :=
  let c := s.ctxOf g.pasid
  let timed := !pass && w.due clk
  let inverted := fun (x : WaitEval) => !pass && !timed && w.checked &&
    match x with
    | .park _ _ _ t _ _ => checkWait (s.launchOf g.die g.lchid).cls g.pasid t == .inversion
    | _ => false
  if c.mode = 2 then
    match nextFor s g { ev with version := s.version g.pasid line } ok with
    | .hold => .ring s
    | .fault c x f => if inverted (park false) then park false else .trap (ringTrap w.act c x f)
    | .take ix r =>
      if !w.met && s.version g.pasid line != recVersion r then .ring s
      else if nbit r 14 then out (some (ix, recVersion r))
      else if pass then fin (some (ix, recVersion r))
      else park true
  else if !pass && !timed then park false
  else if !grainRoom s g.pasid then .ring s
  else if c.mode = 1 && s.crossed g.pasid (s.lateRec g ev (some line)) then .stay s none
  else if pass then fin none
  else out none

/-- Whether the end of a wait at a target is logged (R272). -/
def Target.loggedFor (t : Target) (s : State) (g : Group) : Bool :=
  match t.log with
  | some (attr, _) => logged s g attr
  | none => false

/-- The evaluation of a wait whose test is `pass` on a value read, at a line (R251, R278, R295): `hears` is the state in
which the path has acquired what it read. -/
def evalLine (s : State) (g : Group) (pix clk : Nat) (w : Wait) (t : Target) (v : Option DWord) (payload : Nat)
    (pass : Bool) (key : RestKey) (woken : Bool) (target : BitVec 2 × Option Launch) (hears : State → State) : WaitEval :=
  let spot := t.log.map (fun x => (x.2, attrSync x.1))
  let park := fun (met : Bool) => WaitEval.park s key woken target spot met
  if !t.loggedFor s g then (if pass || w.due clk then .complete (hears s) v else park false)
  else
    let line := (t.log.map (fun x => x.2)).getD 0
    let ev := fun (timed : Bool) =>
      ({ typ := 3, flags := if timed then 64 else 0, issuer := g.issuer pix, line := w.addr, version := 0,
         payload := payload } : GEvent)
    let done := fun (timed : Bool) (ver : Option (Nat × Nat)) =>
      WaitEval.complete (hears (logAt s g none (ev timed) line ver false)) v
    endLogged s g clk line w pass (ev (!pass)) (fun r => grainMatch r (ev false)) (done false) (done true) park

/-- The key of a target in the rest table. Writes to a scratchpad do not pass through the table, so a wait
there reads its object again at every wake. -/
def Target.key (t : Target) (addr : Nat) : RestKey × Bool :=
  match t with
  | .at_ p _ => (.line p.line, false)
  | _ => (.line (2 ^ 63 + addr), true)

/-- The state in which a path has acquired the word that its wait read at a target (R223, R251). -/
def State.waitHears (s : State) (gid pix : Nat) (w : Wait) (t : Target) (n : Nat) : State :=
  let g := s.grp gid
  let stamps := s.stampsAt g t n
  let ms := s.msgsOf stamps
  let got := viewJoin (viewOf (t.cells g n) stamps)
    (if s.portReaches t w.scope w.sk then acquired (g.agent pix) w.scope w.sk ms else [])
  s.updGrp gid (fun g => g.updPath pix (fun p => { p.hears got with heard := ms ++ p.heard }))

/-- The state in which a path has acquired what the releases of a key hand on (R258, R260). -/
def State.keyHears (s : State) (gid pix : Nat) (w : Wait) (key : Nat) : State :=
  let got := acquired ((s.grp gid).agent pix) w.scope w.sk (s.objSays key)
  s.updGrp gid (fun g => g.updPath pix (fun p => p.hears got))

/-- A word wait evaluated (R251). -/
def evalWord (s : State) (g : Group) (pix clk : Nat) (w : Wait) (ne : Bool) (cmp : BitVec 64) (wide : Bool) :
    WaitEval :=
  let n := if wide then 8 else 4
  match s.target g .gbl w.addr n needR with
  | (s1, .error none) => .stay s1 (some 23)
  | (s1, .error (some c)) => .fault s1 c
  | (s1, .ok t) =>
    match t with
    | .at_ p attr =>
      if attrPbmt attr != 0 || attrKind attr == 2 then .fault s1 .memProtection
      else if s1.targetPoison g t n then .fault s1 .poison
      else
        let x := s1.readTarget g t n
        let pass := if ne then x != cmp.toNat % 256 ^ n else x != 0
        let tag := if attrSync attr then spGet none s1.tags p.line else none
        evalLine s1 g pix clk w t (some (BitVec.ofNat 64 x)) x pass (.line p.line) false (tagTarget s1 tag)
          (fun s => s.waitHears g.gid pix w t n)
    | _ => .fault s1 .memProtection

/-- A wait on a barrier phase evaluated (R257): complete once (PHASE − phase) mod 2^32 lies in 1 to 2^31. -/
def evalBar (s : State) (g : Group) (pix clk : Nat) (w : Wait) (sp : Space) (phase : BitVec 32) : WaitEval :=
  match s.barTarget g.gid pix sp w.addr needR with
  | (s1, .wait r) => .stay s1 (some r)
  | (_, .precise c) => .trap { cause := c, faddr := BitVec.ofNat 64 w.addr, lmask := w.act }
  | (s1, .poison) => .fault s1 .poison
  | (s1, .ok t) =>
    let x := s1.barRead g.gid pix t
    if x / 2 ^ 98 ≠ 0 then .trap { cause := .illegalOperand, lmask := w.act }
    else
      let d := (BitVec.ofNat 32 (barPhase x) - phase).toNat
      let (key, woken) := t.key w.addr
      evalLine s1 g pix clk w t none (barPhase x) (decide (1 ≤ d) && decide (d ≤ 2 ^ 31)) key woken (barCls x, none)
        (fun s => s.keyHears g.gid pix w (barKey (t.objNo g) (some phase.toNat)))

/-- A semaphore wait evaluated (R260): it subtracts from a word that is at least its need. -/
def evalSem (s : State) (g : Group) (pix clk : Nat) (w : Wait) (n need : Nat) : WaitEval :=
  let old := s.sem n
  let pass := decide ((need : Int) ≤ old.toInt)
  let issuer := g.issuer pix
  let take := fun (s : State) => WaitEval.complete ((s.keyHears g.gid pix w (semKey n)).setSem n (old - BitVec.ofNat 32 need)) (some 1)
  let park := fun (met : Bool) => WaitEval.park s (.sem n) false (tagTarget s (spGet none s.semTags n)) none met
  if !grainOn s g then (if pass then take s else if w.due clk then .complete s (some 0) else park false)
  else
    let ev := if pass then semEvent issuer 2 0 n old.toNat else semEvent issuer 3 64 n 0
    endLogged s g clk (semLine n) w pass ev
      (fun r => (r % 256 == 2 || r % 256 == 3) && nbits r 151 88 == 2 ^ 63 + n)
      (fun ver => take (logAt s g none (semEvent issuer 2 0 n old.toNat) (semLine n) ver true))
      (fun ver => .complete (logAt s g none (semEvent issuer 3 64 n 0) (semLine n) ver false) (some 0)) park

/-- The group in which a path's older unfinished writes of some registers are behind its write of them now: a later reader
meets that one (R49, R69). -/
def Group.untrack (g : Group) (pix : Nat) (rs : List Operand) : Group :=
  { g with sb := g.sb.filter (fun e => !(e.path == pix && rs.contains e.reg)) }

/-- A scalar register of a group written. -/
def Group.setS (g : Group) (n : Nat) (v : Word) : Group := { g with s := spSet 0 g.s n v }

/-- The registers that a group receives with a task (R323). -/
def Group.takeTask (g : Group) (p : Pool) (t : Task) : Group :=
  let g1 := (t.args.zip (upFrom 0 8)).foldl (fun (g : Group) x => g.setS x.2 x.1) g
  let g2 := ((p.addrs t).zip (upFrom 0 6)).foldl
    (fun (g : Group) x =>
      (g.setS (8 + 2 * x.2) (BitVec.ofNat 32 x.1)).setS (9 + 2 * x.2) (BitVec.ofNat 32 (x.1 / 2 ^ 32))) g1
  { g2.setS 20 (BitVec.ofNat 32 t.id) with task := some (p.addr, t.id) }

/-- Whether a path waits at a pool. -/
def State.waitsFor (s : State) (w : Who) (addr : Nat) : Bool :=
  match ((s.grp w.gid).path w.path).wait with
  | some x => x.kind == WaitKind.task && x.addr == addr
  | none => false

/-- The other paths that wait at a pool, in the order they parked. -/
def State.ahead (s : State) (p : Pool) (w : Who) : List Who :=
  (p.waiters.takeWhile (fun o => o != w)).filter (fun o => s.waitsFor o p.addr)

/-- The state in which a path has taken a task of a pool, and follows the work that the task was held for (R237,
R323). -/
def State.giveTask (s : State) (w : Who) (x : Wait) (p : Pool) (t : Task) : State :=
  let clk := (s.dieOf (s.grp w.gid).die).clk
  let p1 : Pool :=
    { p with tasks := updBy (fun u => u.id == t.id) (fun u => { u with taken := true }) p.tasks,
             waiters := p.waiters.filter (fun o => o != w) }
  (((s.setPool p p1).unrested w).updGrp w.gid (fun g =>
    (((g.takeTask p t).untrack w.path (regsOf (.s 0, 21))).updPath w.path (fun q =>
      { (q.issuedOne clk x.hdr.stall.toNat).hears t.view with
        pc := BitVec.ofNat 57 t.entry, stat := .run, wait := none })).counted w.path clk |>.settle)).yieldTo w.gid x.hdr.yield

/-- The task of a pool that a `taskget` in replay receives: the one that its record names, once the die's count of tasks
is the recorded one (R278). -/
def replayTask (s : State) (g : Group) (w : Who) (x : Wait) (p : Pool) (first : Task) : WaitEval :=
  let n := ordinalOf (s.ctxOf g.pasid) g.die 9
  let line := (s.launchOf g.die g.lchid).recName
  let ev : GEvent := { typ := 9, flags := 0, issuer := g.issuer w.path, line := line, version := n, payload := first.id }
  match nextFor s g ev (fun r => grainMatch r ev) with
  | .hold => .ring s
  | .fault c a b => .trap (ringTrap x.act c a b)
  | .take ix r =>
    if recVersion r ≠ n then .ring s
    else
      match findBy (fun (t : Task) => t.ready && !t.taken && t.id == recPayload r) p.tasks with
      | none => .ring s
      | some t =>
        .ended (((takeRecord s g.pasid ix).updCtx g.pasid (fun c => c.bumpOrd g.die 9)).giveTask w x p t)

/-- A `taskget` evaluated at its pool's HEAD (R323). -/
def evalTask (s : State) (g : Group) (w : Who) (x : Wait) : WaitEval :=
  match s.target g .gbl x.addr 4 needR with
  | (s1, .error none) => .stay s1 (some 23)
  | (s1, .error (some c)) => .fault s1 c
  | (s1, .ok t) =>
    match t with
    | .at_ q attr =>
      if attrPbmt attr != 0 || attrKind attr == 2 then .fault s1 .memProtection
      else if s1.targetPoison g t 64 then .fault s1 .poison
      else
        let p := s1.poolNow g.pasid x.addr (ofLe (s1.rdLoc q 64))
        let p1 := if p.waiters.contains w then p else { p with waiters := p.waiters ++ [w] }
        let tag := if attrSync attr then spGet none s1.tags q.line else none
        let park := fun (woken : Bool) =>
          WaitEval.park (s1.setPool p p1) (.line q.line) woken (tagTarget s1 tag) (some (q.line, attrSync attr)) false
        match p.nextTask with
        | some t =>
          if grainOn s1 g && (s1.ctxOf g.pasid).mode == 2 then replayTask s1 g w x p t
          else if !(s1.ahead p w).isEmpty then park true
          else
            match ordEvent s1 g w.path 9 g.lchid t.id with
            | .hold s2 => .ring s2
            | .trap c a b => .trap (ringTrap x.act c a b)
            | .run s2 _ => .ended (s2.giveTask w x p t)
        | none =>
          if p.closed != 0 && p.tasks.all (fun t => t.taken) then .complete s1 (some 0) else park false
    | _ => .fault s1 .memProtection

/-- The evaluation of a path's wait. An arrival ends with its group's, a posted task with its acceptance,
and a promotion with its headstock's answer. -/
def State.evalWait (s : State) (w : Who) (x : Wait) : WaitEval :=
  let g := s.grp w.gid
  let clk := (s.dieOf g.die).clk
  match x.kind with
  | .word ne cmp wide => evalWord s g w.path clk x ne cmp wide
  | .sem n need => evalSem s g w.path clk x n need
  | .bar sp phase _ => evalBar s g w.path clk x sp phase
  | .arriving _ _ => .stay s none
  | .task => evalTask s g w x
  | .accept _ _ => .stay s none
  | .promote => .stay s none
  | .op id => if g.pending id then .ring s else .complete s none

/-- The result of an instruction that held its path, with its copy (R47). -/
def Group.writeEnd (g : Group) (clk pix : Nat) (act : Mask) (wide : Bool) (h : Hdr) (d : Operand) (v : DWord) : Group :=
  let rs := regsOf (use1 wide d) ++ (if h.dup = 1 then [Operand.x g.regs.xp] else [])
  let g0 := { (g.untrack pix rs).noteLate clk pix d with regs := g.regs.settled clk }
  let dup := g0.writeDup pix act wide h d unused (fun _ => v)
  let g1 := if g.outranked clk pix d then { dup with s := g0.s, regs := { g0.regs with xp := dup.regs.xp } } else dup
  { g1 with regs := g1.regs.stamped g0.regs clk }

/-- The end of a path's wait: D is written in its lanes, and the path goes on with the stall of its
instruction (R45, R251). -/
def State.endWait (s : State) (w : Who) (x : Wait) (wide : Bool) (v : Option DWord) : State :=
  let clk := (s.dieOf (s.grp w.gid).die).clk
  ((s.unrested w).updGrp w.gid (fun g =>
    let g1 := match v with
      | some v => g.writeEnd clk w.path x.act wide x.hdr x.dst v
      | none => g
    let p := g1.path w.path
    let (npc, lp) := g1.seqNext p.pc p.lp p.mask
    ((g1.updPath w.path (fun p =>
      { p.issuedOne clk x.hdr.stall.toNat with pc := npc, lp := lp, stat := .run, wait := none })).counted w.path clk).settle)).yieldTo
    w.gid x.hdr.yield

/-- The stall reason of a wait (R251, R257, R260, R340). -/
def Wait.reason (x : Wait) : BitVec 5 :=
  match x.kind with
  | .word true _ _ => 10
  | .word false _ _ => 11
  | .sem _ _ => 10
  | .bar _ _ _ => 9
  | .arriving _ _ => 9
  | .task => 25
  | .accept _ _ => 25
  | .promote => 24
  | .op _ => 19

/-- The address that a wait's fault carries (R304). -/
def Wait.faddr (x : Wait) : BitVec 64 :=
  match x.kind with
  | .sem n _ => BitVec.ofNat 64 (2 ^ 63 + n)
  | _ => BitVec.ofNat 64 x.addr

/-- An imprecise fault of a wait (R251, R402): the wait counts as not issued. In a handler the fault is
held and the wait ends without a result. -/
def State.waitFault (s : State) (w : Who) (x : Wait) (c : Cause) : State :=
  let g := s.grp w.gid
  let p := g.path w.path
  let h : HeldFault :=
    { op := s.nextId, path := w.path, cause := c, fpc := p.pc, faddr := x.faddr, lmask := x.act,
      issuedAt := p.issued }
  let s1 := ({ s with nextId := s.nextId + 1 }.unrested w).raiseFault w.gid h
  if p.frame.inH then s1.endWait w x false none
  else s1.updGrp w.gid (fun g => g.updPath w.path (fun p => { p with stat := .run, wait := none }))

/-- A promotion request of a wait (R298, R303). -/
def State.requestPromotion (s : State) (w : Who) (l : Launch) : State :=
  let g := s.grp w.gid
  let c := (s.launchOf g.die g.lchid).cls
  s.updDie g.die (fun d => { d with promo := d.promo ++ [{ who := w, target := l.lchid, tdie := l.die, cls := c, clk := d.clk, plan := none, evs := [] }] })

/-- Whether a wait writes a 64-bit result. -/
def Wait.wide (x : Wait) : Bool :=
  match x.kind with
  | .word _ _ w => w
  | _ => false

/-- A path's wait carried as far as it goes: it completes, faults, is held, or is about to park and is checked (R251,
R295, R298). -/
def State.carryWait (s : State) (w : Who) (x : Wait) : State :=
  let g := s.grp w.gid
  match s.evalWait w x with
  | .complete s1 v =>
    if v.any (srValueBad x.dst) then s.precise w.gid w.path { cause := .illegalField, lmask := x.act }
    else s1.endWait w x x.wide v
  | .ended s1 => s1
  | .fault s1 c => s1.waitFault w x c
  | .trap t => s.precise w.gid w.path t
  | .stay s1 r =>
    match x.kind with
    | .arriving _ _ => s1.waiting w x .parked x.reason
    | .accept _ _ => s1.waiting w x .accepting x.reason
    | .promote => s1.waiting w x .promoting x.reason
    | _ => s1.waiting w x .replayHold (r.getD x.reason)
  | .ring s1 => (s1.waiting w x .replayHold x.reason).grainHeld w.gid w.path
  | .park s1 key woken target spot met =>
    let x := { x with spot := spot, met := met }
    let rest := (s1.rested w key woken).waiting w x .parked x.reason
    let parked := if met then rest.updGrp w.gid (fun g => g.updPath w.path (fun p => { p with holdSince := none })) else rest
    if !x.checked then parked
    else
      match checkWait (s1.launchOf g.die g.lchid).cls g.pasid target with
      | .pass => parked
      | .inversion =>
        s1.precise w.gid w.path { cause := .progressInversion, faddr := x.faddr, lmask := x.act }
      | .promote l => ((s1.rested w key woken).waiting w x .promoting 24).requestPromotion w l

/-- The start of a wait (R251, R277). -/
def startWait (e : Env) (s : State) (x : Wait) : Res :=
  .hold (s.carryWait { gid := s.cur.gid, path := e.pix } x)

/-- Whether a timed wait is checked (R251, R295). -/
def timeoutChecked (t : Nat) : Bool := t == 0 || decide (2 ^ 20 < t)

/-- `waitw` and `waitf` (R251). -/
def waitRes (w : XA) (ne : Bool) (e : Env) (s : State) : Res :=
  if e.act = 0 then .adv s
  else
    let wide := wideFmt w.mf
    let n := fmtBytes w.mf
    let addr := (e.uni64 w.a).toNat % 2 ^ 57
    if addr % n ≠ 0 then .trap { cause := .memAlign, faddr := BitVec.ofNat 64 addr, lmask := e.act }
    else
      let cmp := if wide then e.uni64 w.b else (e.uni w.b).setWidth 64
      let t := (e.uni w.c).toNat
      startWait e s { e.wait s w.h (.word ne cmp wide) addr w.d w.scope t (timeoutChecked t) with sk := w.sk }

/-- `waitw` (R251). -/
def execWaitw (w : XA) : Meaning := issueC (.waitw w) w.h w.c (waitRes w true)
/-- `waitf` (R251). -/
def execWaitf (w : XA) : Meaning := issueC (.waitf w) w.h w.c (waitRes w false)

/-! ### Arrivals (R256) -/

/-- The participant of a path: its half in compatibility mode. -/
def State.halfOf (s : State) (g : Group) (pix : Nat) : Nat :=
  if (s.launchOf g.die g.lchid).hdr.compat then lowest (g.path pix).mask / 16 else 0

/-- Whether every live path of a participant has recorded its arrival; paths that have arrived at a join
are left out (R256). -/
def State.allArrived (s : State) (g : Group) (a : BarArrival) : Bool :=
  g.live.all (fun i =>
    s.halfOf g i != a.half || a.paths.contains i ||
    (match (g.path i).stat with
      | .arrived _ => true
      | _ => false))

/-- Whether the accesses of the recorded paths are performed, as the arrival's release asks (R225,
R258). -/
def Group.releasable (g : Group) (a : BarArrival) : Bool :=
  a.paths.all (fun i => !(g.before i).any (fun o => o.isAccess))

/-- The update of an arrival: ARRIVED grows by 1 (R256). -/
def arriveOnce (s : State) (g : Group) (x : Nat) : Except Cause Nat :=
  let e := s.barCount g x
  if e ≤ barArrived x then .error .illegalOperand else .ok (barUpdate x e (barArrived x + 1) (barBytes x))

/-- The recorded paths whose `bar` on a GLOBAL object is checked before its arrival (R295). -/
def Group.checkedBars (g : Group) (a : BarArrival) : List Nat :=
  a.paths.filter (fun i => match ((g.path i).wait).map (fun (x : Wait) => x.kind) with
    | some (WaitKind.arriving .gbl false) => true
    | _ => false)

/-- What an arrival hands on: each of its paths is a release at its instruction's scope (R258). -/
def Group.arrivalMsgs (g : Group) (a : BarArrival) : List Msg :=
  a.paths.map (fun i =>
    { who := g.agent i, scope := (((g.path i).wait).map (fun x => x.scope)).getD 0, sk := false, view := (g.path i).view })

/-- The state after the recorded paths learn that their participant has arrived: `bar` waits for the phase
`ph`, and `bararv` ends. A halted path keeps its wait for later (R423). -/
def arrivedPaths (gid : Nat) (ph : BitVec 32) : List Nat → State → State
  | [], s => s
  | i :: r, s =>
    let w : Who := { gid := gid, path := i }
    match ((s.grp gid).path i).wait with
    | some x =>
      let keep := fun (k : WaitKind) =>
        s.updGrp gid (fun g => g.updPath i (fun p => { p with wait := some { x with kind := k } }))
      let halted := ((s.grp gid).path i).stopped
      match x.kind with
      | .arriving sp false =>
        arrivedPaths gid ph r (if halted then keep (.bar sp ph false) else s.carryWait w { x with kind := .bar sp ph false, checked := false })
      | .arriving _ true =>
        arrivedPaths gid ph r (if halted then keep (.op 0) else s.endWait w x false none)
      | _ => arrivedPaths gid ph r s
    | none => arrivedPaths gid ph r s

/-- A participant's arrival, if it is complete and may be performed: a `bar` on a GLOBAL object is checked first (R295),
and the update is made and faults in a path that recorded it; a grain ring may hold it. -/
def State.tryArrive (s : State) (gid : Nat) (a : BarArrival) : State :=
  let g := s.grp gid
  if !s.allArrived g a || !g.releasable a then s
  else
    let checked := (g.checkedBars a).head?
    let pix := checked.getD (a.paths.headD 0)
    let act := (((g.path pix).wait).map (fun x => x.act)).getD 0
    let cls := (s.launchOf g.die g.lchid).cls
    let f := fun (g : Group) (x : Nat) =>
      if checked.isSome && checkWait cls g.pasid (barCls x, none) != .pass then .error .progressInversion
      else arriveOnce s g x
    match s.barDo gid pix act a.sp a.addr (g.arrivalMsgs a) f with
    | .hold s1 => s1
    | .trap t => (s.updGrp gid (fun g => g.takeBack pix)).precise gid pix t
    | .poison s1 =>
      match (g.path pix).wait with
      | some x => (s1.updGrp gid (fun g => g.takeBack pix)).waitFault { gid := gid, path := pix } x .poison
      | none => s1
    | .ok s1 old =>
      let s2 := s1.updGrp gid (fun g =>
        { g.updPath pix (fun p => { p with holdSince := none }) with arrival := g.arrival.filter (fun x => x != a) })
      arrivedPaths gid (BitVec.ofNat 32 (barPhase old)) a.paths.reverse s2

/-- The arrivals of a group that can be made now. -/
def State.settleBars (s : State) (gid : Nat) : State :=
  (s.grp gid).arrival.foldl (fun s a => s.tryArrive gid a) s

/-- The arrivals of every group that can be made now: a path that exits, arrives at a join, or has its
accesses performed may have been the last thing that an arrival waited for. -/
def State.settleAllBars (s : State) : State :=
  (s.groups.filter (fun g => !g.arrival.isEmpty)).foldl (fun s g => s.settleBars g.gid) s

/-- The recording of a path's arrival (R256). A group has recorded arrivals at one object at most. -/
def State.recordArrival (s : State) (w : Who) (sp : Space) (addr : Nat) : Option State :=
  let g := s.grp w.gid
  let half := s.halfOf g w.path
  if g.arrival.any (fun a => a.addr != addr || (a.sp == .gbl) != (sp == .gbl)) then none
  else if g.arrival.any (fun a => a.half == half) then
    some (s.updGrp w.gid (fun g =>
      { g with arrival := updBy (fun x => x.half == half) (fun x => { x with paths := w.path :: x.paths }) g.arrival }))
  else
    some (s.updGrp w.gid (fun g =>
      { g with arrival := { half := half, sp := sp, addr := addr, paths := [w.path] } :: g.arrival }))

/-- A path's arrival recorded, and its participant's made if it is complete. -/
def arriveNow (e : Env) (w : XW) (addr : Nat) (token : Bool) (s : State) : Res :=
  let who : Who := { gid := s.cur.gid, path := e.pix }
  let sp := barSpace w.n
  match s.recordArrival who sp addr with
  | none => .trap { cause := .illegalOperand, lmask := e.act }
  | some s1 =>
    let x := e.wait s w.h (.arriving sp token) addr unused w.scope 0 (sp == .gbl && !token)
    .hold ((s1.waiting who x .parked 9).settleBars s.cur.gid)

/-- `bar` (R256, R257): its object is checked when its arrival is made. -/
def barRes (w : XW) (e : Env) (s : State) : Res :=
  if e.act = 0 then .adv s
  else
    match e.barAddr w with
    | .error t => .trap t
    | .ok addr => arriveNow e w addr false s

/-- `bar` (R257). -/
def execBar (w : XW) : Meaning := issueC (.bar w) w.h w.c (barRes w)

/-- The POISON of a scratchpad object that an instruction meets at its issue (R409), imprecise: the fault is raised for the
instruction, which counts as not issued (R402); in a handler the fault is held and the instruction ends without an
effect. -/
def barPoison (e : Env) (addr : Nat) (s : State) : Res :=
  let p := (s.grp s.cur.gid).path e.pix
  let s1 := { s with nextId := s.nextId + 1 }.raiseFault s.cur.gid
    { op := s.nextId, path := e.pix, cause := .poison, fpc := p.pc, faddr := BitVec.ofNat 64 addr, lmask := e.act,
      issuedAt := p.issued }
  if p.frame.inH then .adv s1 else .hold s1

/-- Whether a path's arrival at an object, recorded now, is made at once (R256). -/
def State.arrivesNow (s : State) (w : Who) (sp : Space) (addr : Nat) : Bool :=
  match s.recordArrival w sp addr with
  | some s1 =>
    let g := s1.grp w.gid
    g.arrival.any (fun a => a.paths.contains w.path && s1.allArrived g a && g.releasable a)
  | none => false

/-- What `bararv` makes of an object before its arrival: BYTES grows by `n` (R256). A value that D does not take, and an
arrival made at once that would find ARRIVED ≥ E, trap with no change to the object (R111, R254). -/
def bararvObj (s : State) (now : Bool) (d : Operand) (n : Nat) (g : Group) (x : Nat) : Except Cause Nat :=
  let y := barUpdate x (s.barCount g x) (barArrived x) (barBytes x + n)
  if srValueBad d (BitVec.ofNat 64 (barPhase x)) then .error .illegalField
  else if now && decide (s.barCount g y ≤ barArrived y) then .error .illegalOperand
  else .ok y

/-- `bararv` (R256): BYTES grows by B at once, and D takes the PHASE. -/
def bararvRes (w : XW) (e : Env) (s : State) : Res :=
  if e.act = 0 then .adv s
  else
    match e.barAddr w with
    | .error t => .trap t
    | .ok addr =>
      let sp := barSpace w.n
      let who : Who := { gid := s.cur.gid, path := e.pix }
      if (s.recordArrival who sp addr).isNone then .trap { cause := .illegalOperand, lmask := e.act }
      else
        match s.barDo s.cur.gid e.pix e.act sp addr []
            (bararvObj s (s.arrivesNow who sp addr) w.d (e.uni w.b).toNat) with
        | .hold s1 => .hold s1
        | .trap t => .trap t
        | .poison s1 => barPoison e addr s1
        | .ok s1 old =>
          arriveNow e w addr true
            (s1.updGrp s.cur.gid (fun g =>
              g.writeEnd (s.dieOf g.die).clk e.pix e.act false w.h w.d (BitVec.ofNat 64 (barPhase old))))

/-- `bararv` (R256). -/
def execBararv (w : XW) : Meaning := issueC (.bararv w) w.h w.c (bararvRes w)

/-- `barwt` (R257). -/
def barwtRes (w : XW) (e : Env) (s : State) : Res :=
  if e.act = 0 then .adv s
  else
    match e.barAddr w with
    | .error t => .trap t
    | .ok addr =>
      let sp := barSpace w.n
      startWait e s (e.wait s w.h (.bar sp (e.uni w.b) true) addr unused w.scope 0 (sp == .gbl))

/-- `barwt` (R257). -/
def execBarwt (w : XW) : Meaning := issueC (.barwt w) w.h w.c (barwtRes w)

/-- The state in which the object at an address has begun anew: its releases are forgotten (R255). -/
def State.barRenew (s : State) (gid pix : Nat) (sp : Space) (addr : Nat) : State :=
  match (s.barTarget gid pix sp addr needRW.asks).2 with
  | .ok t => s.barFresh (t.objNo (s.grp gid))
  | _ => s

/-- `barinit` (R255). An EXPECT of 0 or above 65,535 is outside its limits (R254). -/
def barinitRes (w : XW) (e : Env) (s : State) : Res :=
  if e.act = 0 then .adv s
  else
    let n := (e.uni w.b).toNat
    if n = 0 || decide (65535 < n) then .trap { cause := .illegalOperand, lmask := e.act }
    else
      match e.barAddr w with
      | .error t => .trap t
      | .ok addr =>
        match s.barDo s.cur.gid e.pix e.act (barSpace w.n) addr []
            (fun _ _ => .ok (barObj e.launch.cls 0 0 0 n)) with
        | .hold s1 => .hold s1
        | .trap t => .trap t
        | .poison s1 => barPoison e addr s1
        | .ok s1 _ => .adv (s1.barRenew s.cur.gid e.pix (barSpace w.n) addr)

/-- `barinit` (R255). -/
def execBarinit (w : XW) : Meaning := issueC (.barinit w) w.h w.c (barinitRes w)

/-! ### Semaphores (R259, R260) -/

/-- The trap of a semaphore number (R259). -/
def semTrap (l : Launch) (n : Nat) (act : Mask) : Option Trap :=
  if 1023 < n then some { cause := .illegalOperand, lmask := act }
  else if n < l.semBase || decide (l.semBase + l.semCnt ≤ n) then
    some { cause := .memProtection, faddr := BitVec.ofNat 64 (2 ^ 63 + n), lmask := act }
  else none

/-- `semop` (R260): an acq_rel atomic on a semaphore word; in replay it takes its record now. -/
def semopRes (w : XW) (e : Env) (s : State) : Res :=
  match memHold e .at s with
  | some s1 => .hold s1
  | none =>
    let n := (e.uni w.a).toNat
    let k : OpKind := .sem n (e.uni w.b) w.d
    if e.act = 0 then .adv (post e .at [] w.scope false 3 true k s)
    else
      match semTrap e.launch n e.act with
      | some t => .trap t
      | none =>
        let g := s.grp s.cur.gid
        let x : Elem := { lane := lowest e.act, addr := n, nib := none, val := 0, val2 := 0, ver := none }
        let ev := { semEvent (g.issuer e.pix) 2 0 n (s.sem n).toNat with version := s.version g.pasid (semLine n) }
        match ringGate e s [x] (if grainOn s g then [ev] else []) with
        | .hold s1 => .hold s1
        | .trap t => .trap t
        | .go s1 es false => .adv (post e .at es w.scope false 3 true k s1)
        | .go s1 es true => .hold (holdForOp e w.h (post e .at es w.scope false 3 true k s1))

/-- `semop` (R260). -/
def execSemop (w : XW) : Meaning := issueC (.semop w) w.h w.c (semopRes w)

/-- `semwait` (R260). -/
def semwaitRes (w : XW) (e : Env) (s : State) : Res :=
  if e.act = 0 then .adv s
  else
    let n := (e.uni w.a).toNat
    let need := (e.uni w.b).toInt
    if 1023 < n || need < 1 then .trap { cause := .illegalOperand, lmask := e.act }
    else
      match semTrap e.launch n e.act with
      | some t => .trap t
      | none =>
        let t := (e.uni w.c).toNat
        startWait e s (e.wait s w.h (.sem n need.toNat) n w.d w.scope t (timeoutChecked t))

/-- `semwait` (R260). -/
def execSemwait (w : XW) : Meaning := issueC (.semwait w) w.h w.c (semwaitRes w)

/-! ### Events of waits -/

/-- REST_TABLE_WAKE (R252): a woken entry reads its word again, and parks again where it must. -/
def execRestTableWake (w : Who) (s : State) : Host.Outcome State Fault Refusal :=
  let g := s.grp w.gid
  let p := g.path w.path
  match p.stat, p.wait with
  | .parked, some x =>
    if s.rest.any (fun e => e.who == w && e.woken) && g.place.isSome && (s.ctxOf g.pasid).on.contains g.die then
      .next ((s.unrested w).carryWait w x)
    else .next s
  | _, _ => .next s

/-- WAIT_TIMEOUT (R251): a wait whose deadline has passed reads its word once more and completes. -/
def execWaitTimeout (w : Who) (s : State) : Host.Outcome State Fault Refusal :=
  let g := s.grp w.gid
  let p := g.path w.path
  match p.stat, p.wait with
  | .parked, some x =>
    if x.due (s.dieOf g.die).clk && g.place.isSome && (s.ctxOf g.pasid).on.contains g.die then
      .next ((s.unrested w).carryWait w x)
    else .next s
  | _, _ => .next s

/-- The version of the line that a record names, as the event's group reaches it, or the count of its type (R279). -/
def State.nowOf (s : State) (g : Group) (r : Nat) : Nat :=
  let line := nbits r 151 88
  if ordType (r % 256) then ordinalOf (s.ctxOf g.pasid) g.die (r % 256)
  else if line / 2 ^ 63 = 1 then s.version g.pasid (semLine (line % 1024))
  else
    match (s.target g .gbl (line % 2 ^ 57) 1 { r := false, w := false, x := false }).2 with
    | .ok (.at_ p _) => s.version g.pasid p.line
    | _ => 0

/-- Whether a record's condition of R278 is one of a version or a count, and is not met now. -/
def State.unmet (s : State) (g : Group) (r : Nat) : Bool :=
  (ordType (r % 256) || decide (1 ≤ r % 256 && r % 256 ≤ 4)) && recVersion r != s.nowOf g r

/-- The record for which a path is held in replay with its condition unmet: none where nothing holds it, `some none`
where its record is still to come (R278, R279 case 4). -/
def State.heldRecord (s : State) (g : Group) (pix : Nat) : Option (Option Nat) :=
  let c := s.ctxOf g.pasid
  let judge := fun (r : Nat) => if s.unmet g r then some (some r) else none
  match ((g.path pix).wait).map (fun (x : Wait) => x.kind) with
  | some (WaitKind.op id) =>
    (g.op id).bind (fun o =>
      match findBy (fun (e : Elem) => e.ver.any (fun v => s.unmet g (recordAtIx s c v.1))) o.todo with
      | some e => some (e.ver.map (fun v => recordAtIx s c v.1))
      | none => if !o.todo.isEmpty && o.todo.all (fun e => e.ver.isNone) then some none else none)
  | _ =>
    match nextOfPath s c g (g.issuer pix) with
    | .none => some none
    | .record _ r => judge r
    | _ => none

/-- The record of an event held in replay, and the record with its line's current version, or with the
current count of its type (R279 case 4). For an event that waits for a record the manual states neither, and
both are free values (log entry 14). -/
def heldBits (s : State) (g : Group) (r : Option Nat) : BitVec 256 × BitVec 256 :=
  match r with
  | some r => (BitVec.ofNat 256 r, BitVec.ofNat 256 (r - 2 ^ 152 * recVersion r + 2 ^ 152 * s.nowOf g r))
  | none => (Config.freeWord s.tick 500000, Config.freeWord s.tick 500001)

/-- The lanes of an operation whose elements have been performed without a fault. -/
def Op.doneLanes (o : Op) : Mask :=
  let whole := match o.kind with
    | .atomic _ _ (some d) => uniformReg d
    | .atomic _ _ none => false
    | .cas _ d => uniformReg d
    | _ => true
  if whole then 0
  else o.act &&& ~~~maskOf (fun l => o.todo.any (fun e => e.lane == l) || o.bad.any (fun b => b.1 == l))

/-- The state without the operation that a path holds for, or the arrival that it has recorded. The lanes of the operation
that have been performed are not performed again when its instruction issues again (R279). -/
def dropHeld (w : Who) (x : Option Wait) (s : State) : State :=
  match x with
  | some y =>
    match y.kind with
    | .op id => s.updGrp w.gid (fun g =>
        let m := ((g.op id).map (fun o => o.doneLanes)).getD 0
        { g.updPath w.path (fun p => { p with redo := if m = 0 then p.redo else some (p.pc, m) }) with
          ops := g.ops.filter (fun o => o.id != id) })
    | .arriving _ _ => s.updGrp w.gid (fun g => g.takeBack w.path)
    | _ => s
  | none => s

/-- The operation that a path holds for in replay, with the records that have come for its other lanes, or the fault that
one of them raises (R277, R279). -/
def State.rematch (s : State) (gid id : Nat) : State × Option (Cause × BitVec 256 × BitVec 256) :=
  let g := s.grp gid
  match g.op id with
  | none => (s, none)
  | some o =>
    let left := o.todo.filter (fun e => e.ver.isNone)
    let evs := match o.kind with
      | .atomic op mf _ => left.filterMap (fun x => (atomEvent s g o.issuer (some op) mf o.kind.returns x).getD none)
      | .cas mf _ => left.filterMap (fun x => (atomEvent s g o.issuer none mf true x).getD none)
      | _ => []
    let skip := o.todo.filterMap (fun e => e.ver.map (fun v => v.1))
    let rs := grainTakeLanes s g skip evs.length evs
    let f := fun (x : Op) => { x with todo := withRecs x.todo rs.got }
    (s.updGrp gid (fun g => { g with ops := updBy (fun (x : Op) => x.id == id) f g.ops }), rs.fault)

/-- The state after a replay's operation has gone on as far as its records and its lines' versions let it (R278), or its
fault (R279). -/
def State.performHeld (s : State) (w : Who) (x : Wait) (id : Nat) : State :=
  match s.rematch w.gid id with
  | (s1, none) => (s1.performOp w.gid id 0xFFFFFFFF).carryWait w x
  | (s1, some (c, a, b)) =>
    (dropHeld w (some x) s1).precise w.gid w.path { cause := c, lmask := x.act, exprec := a, fndrec := b }

/-- REPLAY_HOLD_RELEASE (R278): a held wait looks at its line again, and a held operation whose version
has come is performed. An event held before it has taken its record is performed by its next issue. -/
def execReplayHoldRelease (w : Who) (s : State) : Host.Outcome State Fault Refusal :=
  let g := s.grp w.gid
  let p := g.path w.path
  match p.stat, p.wait with
  | .replayHold, some x =>
    if g.place.isNone || !(s.ctxOf g.pasid).on.contains g.die then .next s
    else
      match x.kind with
      | .op id => .next (s.performHeld w x id)
      | _ => .next (s.carryWait w x)
  | _, _ => .next s

/-- Whether a path is in a state in which a replay may hold it: before an issue, in a hold, or with a recorded arrival
that is not made. -/
def Path.mayHold (p : Path) : Bool :=
  p.stat == .run || p.stat == .replayHold ||
  (p.stat == .parked && match p.wait.map (fun (x : Wait) => x.kind) with
    | some (WaitKind.arriving _ _) => true
    | _ => false)

/-- REPLAY_HOLD_TIMEOUT (R279 case 4): an event held for HOLDLIM × 1,024 clk of its context's running time, whose
condition is still unmet, raises REPLAY_DIVERGE. Its record is not consumed. -/
def execReplayHoldTimeout (w : Who) (s : State) : Host.Outcome State Fault Refusal :=
  let g := s.grp w.gid
  let p := g.path w.path
  let c := s.ctxOf g.pasid
  match p.holdSince, s.heldRecord g w.path with
  | some t, some r =>
    let lim := grainHoldLim s c * 1024
    if lim ≠ 0 && g.place.isSome && decide (t + lim ≤ spGet 0 c.runClk g.die) && p.mayHold then
      let (x, f) := heldBits s g r
      let act := match p.wait with
        | some y => y.act
        | none => g.enabled w.path
      .next ((dropHeld w p.wait s).precise w.gid w.path
        { cause := .replayDiverge, lmask := act, exprec := x, fndrec := f })
    else .next s
  | _, _ => .next s

end Sys2Proof.Machine
end

