-- ==== Sys2Proof/Machine/Matrix.lean ====
section
/-! DEFINITION. The matrix unit (R156 to R178): the checks and operands of its instructions, the order in
which it performs them, its sums of products, and `rstlbl`. Drains have a file of their own. -/

namespace Sys2Proof.Machine

/-! ### Operands (R160 to R163) -/

/-- All 32 lanes of `n` registers from a V register, as read at issue: word k of lane l at 32·k + l. -/
def Env.block (e : Env) (v n : Nat) : List Word :=
  (upFrom v n).flatMap (fun k => lanes.map (fun l => e.g.rdV k l))

/-- A scratchpad descriptor from its two words (R160). -/
def descOf (w0 w1 : Word) : MatSrc :=
  .desc (nbits w0.toNat 21 20) (nbits w0.toNat 19 0) (nbits w1.toNat 15 0) (nbits w1.toNat 31 16)
    (nbits w0.toNat 25 22) []

/-- The last byte that a descriptor reads, less the rows' own bytes, as R161 counts it. -/
def descSpan (src : MatSrc) (steps : Nat) : Nat :=
  match src with
  | .desc _ ofs rp tp _ _ => ofs + (steps - 1) * tp + 31 * rp
  | .regs _ => 0

/-- The trap of a descriptor (R161, R206): `last` is the last byte read, or none where no bound applies;
`pitch` says whether the pitches are judged. -/
def descTrap (e : Env) (w0 w1 : Word) (pitch : Bool) (last : Option Nat) : Option Trap :=
  let h := e.launch.hdr
  let t := fun (c : Cause) => some ({ cause := c, faddr := w0.setWidth 64, lmask := e.act } : Trap)
  let role := nbits w0.toNat 21 20
  let rot := nbits w0.toNat 25 22
  if nbits w0.toNat 31 26 ≠ 0 then t .illegalOperand
  else if nbits w0.toNat 19 0 % 16 ≠ 0 ||
      (pitch && (nbits w1.toNat 15 0 % 16 != 0 || nbits w1.toNat 31 16 % 16 != 0)) then t .memAlign
  else if h.roles ≤ role || !roleHolds h e.blockGroups role then t .memBounds
  else if (match last with
      | some x => decide (h.scratch ≤ x)
      | none => false) then t .memBounds
  else if 7 ≤ rot then t .illegalOperand
  else if !rotFits h rot then t .memBounds
  else none

/-- The address of byte `b` of row `i` in step `st` of a descriptor, as 2^20 · role + offset (R160, R206). -/
def descByte (role ofs rp tp rot st i b : Nat) : Nat :=
  role * 2 ^ 20 + rotate rot i (ofs + st * tp + i * rp + b)

/-- The addresses that a descriptor reads in `steps` steps of 32 rows of `bytes`. -/
def descAddrs (role ofs rp tp rot bytes steps : Nat) : List Nat :=
  (upFrom 0 (if tp = 0 then min 1 steps else steps)).flatMap (fun st =>
    lanes.flatMap (fun i => (upFrom 0 bytes).map (fun b => descByte role ofs rp tp rot st i b)))

/-- The scratchpad addresses that an operand reads in `steps` steps of 32 rows of `bytes`. -/
def MatSrc.addrs (src : MatSrc) (bytes steps : Nat) : List Nat :=
  match src with
  | .regs _ => []
  | .desc role ofs rp tp rot _ => descAddrs role ofs rp tp rot bytes steps

/-- The trap of an operation whose scratchpad bytes meet a word in flight at its issue in mode TRAP (R219). -/
def Env.flightOf (e : Env) (as : List Nat) : Option Trap :=
  (findBy (fun a => e.flight e.s a 1 == .trap) as).map (fun a =>
    { cause := .scoreboardUndersized, faddr := BitVec.ofNat 64 a, lmask := e.act })

/-- A matrix operand of `bytes` per row or column for `steps` steps, with its checks (R160, R161, R169). -/
def Env.matOp (e : Env) (o : Operand) (bytes steps : Nat) : Except Trap MatSrc :=
  match o with
  | .v n =>
    if 1024 < n.toNat + steps * (bytes / 4) then .error { cause := .illegalOperand, lmask := e.act }
    else .ok (.regs (e.block n.toNat (steps * (bytes / 4))))
  | .s n =>
    let w0 := e.g.rdS n.toNat
    let w1 := e.g.rdS (n.toNat + 1)
    let d := descOf w0 w1
    match descTrap e w0 w1 true (if steps = 0 then none else some (descSpan d steps + bytes - 1)),
        e.flightOf (d.addrs bytes steps) with
    | some t, _ => .error t
    | none, some t => .error t
    | none, none => .ok d
  | _ => .error { cause := .illegalOperand, lmask := e.act }

/-- A scratchpad byte as an engine reads it for an operation, with its poison, or none while it must wait: the word that
its path's own `peerst` has in flight (`olds`), and in mode ENFORCE any word in flight. Of another word in flight it reads
the old or the new byte (R219). -/
def State.scrByte (s : State) (g : Group) (olds : List Nat) (a : Nat) : Option EarlyByte :=
  let t : Target := .scr (a / 2 ^ 20) (a % 2 ^ 20)
  let es := s.inFlight g olds a 1
  if (s.inFlight g [] a 1).length ≠ es.length || (es ≠ [] && s.enforced g) then none
  else
    some { addr := a, val := BitVec.ofNat 8 (mixByte s.tick a es (s.readTarget g t 1) 0), bad := s.targetPoison g t 1 }

/-- A byte as its operation has it: the byte that it read ahead, or else the byte of now (R162). -/
def State.gotByte (s : State) (g : Group) (olds : List Nat) (got : List EarlyByte) (a : Nat) : EarlyByte :=
  match findBy (fun (x : EarlyByte) => x.addr == a) got with
  | some x => x
  | none => (s.scrByte g olds a).getD default

/-- Whether an engine can now read every byte of a list that it has not read yet (R219). -/
def State.canRead (s : State) (g : Group) (olds : List Nat) (got : List EarlyByte) (as : List Nat) : Bool :=
  as.all (fun a => got.any (fun x => x.addr == a) || (s.scrByte g olds a).isSome)

/-- The bytes that an operand has read. -/
def MatSrc.got : MatSrc → List EarlyByte
  | .regs _ => []
  | .desc _ _ _ _ _ got => got

/-- Byte `b` of row `i` in step `st` of an operand whose rows hold `bytes`. -/
def State.matByte (s : State) (g : Group) (olds : List Nat) (src : MatSrc) (bytes st i b : Nat) : Nat :=
  match src with
  | .regs ws => (getAt 0 ws (32 * (st * (bytes / 4) + b / 4) + i)).toNat / 256 ^ (b % 4) % 256
  | .desc role ofs rp tp rot got => (s.gotByte g olds got (descByte role ofs rp tp rot st i b)).val.toNat

/-- Whether an operand holds a poisoned byte (R409). -/
def State.matPoison (s : State) (g : Group) (olds : List Nat) (src : MatSrc) (bytes steps : Nat) : Bool :=
  (src.addrs bytes steps).any (fun a => (s.gotByte g olds src.got a).bad)

/-! ### Products and sums (R164 to R166) -/

/-- A product with its events. -/
abbrev Prod := FNum × Events

/-- Element `k` of a row of bytes in an operand format: its code (R159). -/
def matCode (f : BitVec 4) (rd : Nat → Nat) (k : Nat) : Nat :=
  match f.toNat with
  | 11 => rd (2 * k) + 256 * rd (2 * k + 1)
  | 14 => nibbleOf (rd (k / 2)) (k % 2 == 1)
  | _ => rd k

/-- The value of a code: its format's, or the BF16 entry of a codebook slot (R164). -/
def codeValue (slots : Sparse (BitVec 16)) (f : BitVec 4) (slot code : Nat) : FNum :=
  if f = 14 then fDecode (ffmt 11) (spGet 0 slots (16 * slot + code)).toNat else fDecode (ffmt f.toNat) code

/-- The product of two codes: exact, or the table entry of two CB4 codes (R164). -/
def productOf (slots : Sparse (BitVec 16)) (af bf : BitVec 4) (sa sb a b : Nat) : Prod :=
  let p := numMul (codeValue slots af sa a) (codeValue slots bf sb b)
  if af = 14 && bf = 14 then
    let (r, ev) := roundTo f32 p.1 0
    (r, ev ||| p.2)
  else p

/-- The significand of a product in units of 2^q, truncated in magnitude, and whether a bit was lost. -/
def truncAt (q : Int) (x : FNum) : Int × Bool :=
  match x with
  | .fin s m e _ =>
    let n := if e ≥ q then m * 2 ^ (e - q).toNat else m / 2 ^ (q - e).toNat
    (if s then -(n : Int) else (n : Int), decide (e < q) && decide (m % 2 ^ (q - e).toNat ≠ 0))
  | _ => (0, false)

/-- floor(log2) of a finite nonzero value. -/
def floorLog : FNum → Int
  | .fin _ m e _ => (Nat.log2 m : Int) + e
  | _ => 0

/-- The finite nonzero members of a list of products. -/
def finiteOf (ps : List FNum) : List FNum :=
  ps.filter (fun x => match x with
    | .fin _ _ _ _ => true
    | _ => false)

/-- GroupSum (R165), as an FP32 value with its events. -/
def groupSum (ps : List FNum) : Prod :=
  let pos := ps.contains (.inf false)
  let neg := ps.contains (.inf true)
  if ps.any FNum.isNan || (pos && neg) then (.nan false, if pos && neg then evNV else 0)
  else if pos then (.inf false, 0)
  else if neg then (.inf true, 0)
  else
    match finiteOf ps with
    | [] => (.zero (ps.all (fun x => x == .zero true)), 0)
    | f :: fs =>
      let q := fs.foldl (fun m x => max m (floorLog x)) (floorLog f) - 30
      let ts := (f :: fs).map (truncAt q)
      let t := (ts.map (fun x => x.1)).sum
      let lost : Events := if ts.any (fun x => x.2) then evNX else 0
      if t = 0 then (.zero false, lost)
      else
        let (r, ev) := roundTo f32 (FNum.ofInt t q false) 0
        (r, ev ||| lost)

/-- A sum of FP32 bits and an FP32 value, exactly as `fadd.f32.rne` (R139, R165). -/
def addF32 (acc : Nat) (x : FNum) : Nat × Events :=
  let (y, ev) := numAdd 0 (fDecode f32 acc) x
  let (r, ev2) := fResult f32 0 false y
  (r, ev ||| ev2)

/-- One element's update by a step: `ps` holds each product with its logical k (R165). -/
def stepElem (k : Nat) (ps : List (Nat × Prod)) (acc : Nat) : Nat × Events :=
  (upFrom 0 (k / 16)).foldl
    (fun (a : Nat × Events) gr =>
      let mine := ps.filter (fun p => p.1 / 16 == gr)
      let (x, ev) := groupSum (mine.map (fun p => p.2.1))
      let (r, ev2) := addF32 a.1 x
      (r, mine.foldl (fun v p => v ||| p.2.2) (a.2 ||| ev ||| ev2)))
    (acc, 0)

/-- The stored elements of row `i` of A with their logical k (R163): dense, or two of each group of four by
the metadata words of the step. -/
def storedElems (k : Nat) (sp24 : Bool) (meta_ : Nat → Nat) : List (Nat × Nat) :=
  if sp24 then
    (upFrom 0 (k / 2)).map (fun x =>
      let g := x / 2
      let nib := meta_ (g / 8) / 16 ^ (g % 8) % 16
      (x, 4 * g + (if x % 2 = 0 then nib % 4 else nib / 4)))
  else (upFrom 0 k).map (fun x => (x, x))

/-- A tile's element. -/
def Group.tile (g : Group) (t i j : Nat) : Word := spGet 0 g.tiles (1024 * t + 32 * i + j)

/-- A tile with every element given by `f`. -/
def fillTile (t : Nat) (f : Nat → Nat → Word) (m : Sparse Word) : Sparse Word :=
  lanes.foldl (fun m i => lanes.foldl (fun m j => spSet 0 m (1024 * t + 32 * i + j) (f i j)) m) m

/-- The operands of a step. -/
structure StepArgs where
  k : Nat
  ab : Nat
  bb : Nat
  m : Nat
  a : MatSrc
  b : MatSrc
  mt : List Word
  af : BitVec 4
  bf : BitVec 4
  sp24 : Bool
  sa : Nat
  sb : Nat
  olds : List Nat           -- earlier accesses of its path in flight at its issue (R219)
  deriving DecidableEq, Repr

/-- Row `i` of A in step `st`: each stored element's logical k and code. -/
def StepArgs.rowA (p : StepArgs) (s : State) (g : Group) (st i : Nat) : List (Nat × Nat) :=
  (storedElems p.k p.sp24 (fun w => (getAt 0 p.mt (32 * (st * p.m + w) + i)).toNat)).map
    (fun x => (x.2, matCode p.af (fun b => s.matByte g p.olds p.a p.ab st i b) x.1))

/-- Column `j` of B in step `st`: its codes by logical k. -/
def StepArgs.colB (p : StepArgs) (s : State) (g : Group) (st j : Nat) : List Nat :=
  (upFrom 0 p.k).map (matCode p.bf (fun b => s.matByte g p.olds p.b p.bb st j b))

/-- The results of one step on a tile given as a function, row by row, with the events. -/
def StepArgs.run (p : StepArgs) (s : State) (g : Group) (st : Nat) (acc : Nat → Nat → Nat) :
    List Nat × Events :=
  let cols := lanes.map (p.colB s g st)
  let rows := lanes.map (p.rowA s g st)
  let rs := (lanes.zip rows).flatMap (fun r =>
    (lanes.zip cols).map (fun c =>
      stepElem p.k (r.2.map (fun x => (x.1, productOf g.slots p.af p.bf p.sa p.sb x.2 (getAt 0 c.2 x.1))))
        (acc r.1 c.1)))
  (rs.map (fun x => x.1), rs.foldl (fun v x => v ||| x.2) 0)

/-- The steps `st` and those after it, `n` of them. -/
def StepArgs.steps (p : StepArgs) (s : State) (g : Group) : Nat → Nat → List Nat → Events → List Nat × Events
  | 0, _, acc, ev => (acc, ev)
  | n + 1, st, acc, ev =>
    let (r, ev2) := p.run s g st (fun i j => getAt 0 acc (32 * i + j))
    p.steps s g n (st + 1) r (ev ||| ev2)

/-! ### Issue -/

/-- The precise ILLEGAL_OPERAND of R157: a group without tiles, or a tile that it does not hold. -/
def tileTrap (e : Env) (ts : List Nat) : Option Trap :=
  let n := e.launch.hdr.tiles
  if n = 0 || ts.any (fun t => decide (n ≤ t)) then some { cause := .illegalOperand, lmask := e.act } else none

/-- A matrix operation posted (R158): it is ordered as a load of its path (R232), and with an empty
Active() it is complete at once in its turn. -/
def postMatrix (e : Env) (m : MatOp) (s : State) : Res :=
  if 63 ≤ (s.grp s.cur.gid).ctr .mx then .hold (s.heldFor s.cur.gid e.pix Ctr.mx.reason)
  else
    .adv (s.addOp s.cur.gid e.pix .mx e.act [] ((s.grp s.cur.gid).depsOf e.pix 0 false) 0 false 0
      (e.act == 0) (.matrix (if e.act = 0 then .none else m)))

/-- The issue of a matrix instruction: its tiles, then its own operands where it acts. With an empty Active() its tiles are
checked and its register blocks, descriptors and program slot are not: R52 and R158 leave that open (DESIGN CHOICE, log
entry 86). -/
def matrixRes (ts : List Nat) (f : Env → Except Trap MatOp) (e : Env) (s : State) : Res :=
  match tileTrap e ts with
  | some t => .trap t
  | none =>
    if e.act = 0 then postMatrix e .none s
    else
      match f e with
      | .error t => .trap t
      | .ok m => postMatrix e m s

/-- Whether a register block of `n` registers runs past v1023 (R160). -/
def blockOver (o : Operand) (n : Nat) : Bool :=
  match o with
  | .v k => decide (1024 < k.toNat + n)
  | _ => false

/-- The steps of `mma` and `mmloop` (R159, R163, R168, R169): every register block is judged before the
descriptors are. -/
def mmaOp (w : XT) (steps : Nat) (e : Env) : Except Trap MatOp :=
  match mmaShape w.af w.bf w.spr with
  | none => .error { cause := .illegalMma, lmask := e.act }
  | some (_, ab, bb, m) =>
    if blockOver w.a (steps * (ab / 4)) || blockOver w.b (steps * (bb / 4)) || blockOver w.c (steps * m) then
      .error { cause := .illegalOperand, lmask := e.act }
    else
      match e.matOp w.a ab steps, e.matOp w.b bb steps with
      | .error t, _ => .error t
      | _, .error t => .error t
      | .ok a, .ok b =>
        let mb := match w.c with
          | .v n => n.toNat
          | _ => 0
        .ok (.mma w.td.toNat steps a b (e.block mb (steps * m)) w.af w.bf (w.spr == 1) (w.sub.getLsbD 0)
          (nbits w.sub.toNat 6 4) (nbits w.sub.toNat 3 1))

/-- `mma` and `mmloop`. -/
def mmaRes (w : XT) (steps : Env → Nat) (e : Env) (s : State) : Res :=
  matrixRes [w.td.toNat] (fun e => mmaOp w (steps e) e) e s

/-- `mma` (R168). -/
def execMma (w : XT) : Meaning := issueC (.mma w) w.h w.c (mmaRes w (fun _ => 1))

/-- The step count of `mmloop` (R169). -/
def loopCount (w : XT) (e : Env) : Nat :=
  match w.d with
  | .s n => (e.g.rdS n.toNat).toNat
  | .imm k => k.toNat
  | _ => 0

/-- `mmloop` (R169). -/
def execMmloop (w : XT) : Meaning := issueC (.mmloop w) w.h w.c (mmaRes w (loopCount w))

/-- `tzero` (R170). -/
def execTzero (w : XT) : Meaning :=
  issueC (.tzero w) w.h w.c (matrixRes [w.td.toNat] (fun _ => .ok (.tzero w.td.toNat)))

/-- The index of a V register. -/
def vIndex : Operand → Nat
  | .v n => n.toNat
  | _ => 0

/-- `tmov.get` (R171). -/
def execTmovGet (w : XT) : Meaning :=
  issueC (.tmovGet w) w.h w.c (matrixRes [w.td.toNat] (fun e => .ok (.get w.td.toNat (vIndex w.d) e.act [])))

/-- `tmov.put` (R171). -/
def execTmovPut (w : XT) : Meaning :=
  issueC (.tmovPut w) w.h w.c
    (matrixRes [w.td.toNat] (fun e => .ok (.put w.td.toNat e.act (e.block (vIndex w.a) 32))))

/-- `tmov.drain` (R171): the arguments, RESTART and ASTAT.RM are read at issue. -/
def execTmovDrain (w : XT) : Meaning :=
  issueC (.tmovDrain w) w.h w.c
    (matrixRes [w.td.toNat] (fun e =>
      let p := (e.uni w.a).toNat
      if e.launch.hdr.drains ≤ p then .error { cause := .illegalOperand, lmask := e.act }
      else
        .ok (.drain w.td.toNat p ((upFrom 0 8).map (fun k => e.uni (opPlus w.b k)))
          (BitVec.ofNat 3 (e.mode 5)) e.g.regs.restart)))

/-- `tsacc` (R172). -/
def execTsacc (w : XT) : Meaning :=
  issueC (.tsacc w) w.h w.c
    (matrixRes [w.td.toNat, w.sub.toNat % 8] (fun e =>
      .ok (.tsacc w.td.toNat (w.sub.toNat % 8) (lanes.map (e.rd w.a)) (lanes.map (e.rd w.b)))))

/-- The scratchpad addresses that a `cbld` reads. -/
def cbldAddrs (src : MatSrc) : List Nat :=
  match src with
  | .regs _ => []
  | .desc role ofs _ _ rot _ => (upFrom 0 32).map (descByte role ofs 0 0 rot 0 0)

/-- `cbld` (R173). -/
def execCbld (w : XT) : Meaning :=
  issueC (.cbld w) w.h w.c
    (matrixRes [] (fun e =>
      match w.a with
      | .s n =>
        let w0 := e.g.rdS n.toNat
        let w1 := e.g.rdS (n.toNat + 1)
        let d := descOf w0 w1
        match descTrap e w0 w1 false (some (nbits w0.toNat 19 0 + 31)), e.flightOf (cbldAddrs d) with
        | some t, _ => .error t
        | none, some t => .error t
        | none, none => .ok (.cbld w.td.toNat d)
      | o => .ok (.cbld w.td.toNat (.regs (e.block (vIndex o) 1)))))

/-- `drainld` (R180). -/
def execDrainld (w : XK) : Meaning :=
  issue (.drainld w) w.h (fun e s =>
    let p := nbits w.k.toNat 3 0
    if e.launch.hdr.drains ≤ p then .trap { cause := .illegalOperand, lmask := e.act }
    else
      matrixRes [] (fun e =>
        let a := (e.uni64 w.a).toNat % 2 ^ 57
        if a % 4 ≠ 0 then .error { cause := .memAlign, faddr := BitVec.ofNat 64 a, lmask := e.act }
        else .ok (.drainld p (nbits w.k.toNat 10 4) a [])) e s)

/-- `rstlbl` (R174). -/
def execRstlbl (w : XK) : Meaning :=
  issue (.rstlbl w) w.h (fun e s =>
    if !e.launch.hdr.recomputable then .trap { cause := .illegalOperand, lmask := e.act }
    else if e.act = 0 then .adv s
    else
      let v : Addr := if w.k = 0 then 0 else (e.g.path e.pix).pc + w.k.signExtend 57
      .adv (s.updGrp s.cur.gid (fun g => { g with regs := { g.regs with restart := v } })))

/-! ### Performing (R158, R178) -/

/-- The matrix operations of a group in issue order. -/
def Group.matrixOps (g : Group) : List (Op × MatOp) :=
  g.ops.filterMap (fun o => match o.kind with
    | .matrix m => if o.done then none else some (o, m)
    | _ => none)

/-- Whether a drain has read every element of its tile: its last row has started (R188). -/
def State.drainRead (s : State) (g : Group) (id : Nat) : Bool :=
  g.stopped.isNone &&
  s.engines.any (fun x => x.2.gid == g.gid && x.2.op == id && (x.2.finished || (x.2.row == 31 && x.2.active)))

/-- The first operations of a list past the drains that have read their tiles. -/
def afterDrains (read : Nat → Bool) : List (Op × MatOp) → List (Op × MatOp)
  | [] => []
  | (o, .drain t p a r x) :: rest => if read o.id then afterDrains read rest else (o, .drain t p a r x) :: rest
  | l => l

/-- The matrix operation of a group that its unit performs next. A `drainld` waits for every older drain,
which runs its own program to its end (R180). -/
def State.nextMatrix (s : State) (g : Group) : Option (Op × MatOp) :=
  match (afterDrains (s.drainRead g) g.matrixOps).head? with
  | some (o, .drainld p n addr got) =>
    if (g.matrixOps.head?.map (fun x => x.1.id)) == some o.id then some (o, .drainld p n addr got) else none
  | x => x

/-- A tile marked as poisoned, or as clear once every element has been written anew. -/
def Group.setTilePoison (g : Group) (t : Nat) (bad : Bool) : Group :=
  { g with poisonTiles := if bad then t :: g.poisonTiles.filter (· != t) else g.poisonTiles.filter (· != t) }

/-- One element of `tmov.get` in its register (R171). -/
def Group.landElem (g : Group) (t v k : Nat) : Group :=
  { g with v := spSet 0 g.v (32 * (v + k / 32) + k % 32) (g.tile t (k / 32) (k % 32)) }

/-- The elements that a `tmov.get` writes. -/
def getElems (act : Mask) : List Nat :=
  (upFrom 0 1024).filter (fun k => act.getLsbD (k % 32))

/-- The steps of an `mma` performed on a tile, with their events and poison. -/
def doMma (s : State) (g : Group) (t steps : Nat) (zero : Bool) (p : StepArgs) : Group × Events :=
  if steps = 0 then (g, 0)
  else
    let acc := (upFrom 0 1024).map (fun k => if zero then 0 else (g.tile t (k / 32) (k % 32)).toNat)
    let (r, ev) := p.steps s g steps 0 acc 0
    let bad := (!zero && g.poisonTiles.contains t) || s.matPoison g p.olds p.a p.ab steps || s.matPoison g p.olds p.b p.bb steps
    ({ g with tiles := fillTile t (fun i j => BitVec.ofNat 32 (getAt 0 r (32 * i + j))) g.tiles }.setTilePoison t bad,
     ev)

/-- `tsacc` of an element (R172). -/
def tsaccElem (r c a b : Word) : Nat × Events :=
  let (p0, e0) := numMul (fDecode f32 r.toNat) (fDecode f32 c.toNat)
  let (p, e1) := fResult f32 0 false p0
  let (x, e2) := fusedMulAdd 0 (fDecode f32 p) (fDecode f32 b.toNat) (fDecode f32 a.toNat)
  let (y, e3) := fResult f32 0 false x
  (y, e0 ||| e1 ||| e2 ||| e3)

/-- `tsacc` performed. -/
def doTsacc (g : Group) (t ts : Nat) (rows cols : List Word) : Group × Events :=
  let rs := (upFrom 0 1024).map (fun k =>
    tsaccElem (getAt 0 rows (k / 32)) (getAt 0 cols (k % 32)) (g.tile t (k / 32) (k % 32)) (g.tile ts (k / 32) (k % 32)))
  ({ g with tiles := fillTile t (fun i j => BitVec.ofNat 32 (getAt (0, 0) rs (32 * i + j)).1) g.tiles }.setTilePoison t
      (g.poisonTiles.contains t || g.poisonTiles.contains ts),
   rs.foldl (fun v x => v ||| x.2) 0)

/-- The entries of a codebook slot loaded (R173). A poisoned byte makes no entry poisoned: the manual
names no poison of slots. -/
def doCbld (s : State) (g : Group) (olds : List Nat) (slot : Nat) (src : MatSrc) : Group :=
  let entry := fun k =>
    match src with
    | .regs ws => (getAt 0 ws (k / 2)).toNat / 2 ^ (16 * (k % 2)) % 2 ^ 16
    | .desc role ofs _ _ rot got =>
      let rd := fun b => (s.gotByte g olds got (descByte role ofs 0 0 rot 0 0 b)).val.toNat
      rd (2 * k) + 256 * rd (2 * k + 1)
  { g with slots := (upFrom 0 16).foldl (fun m k => spSet 0 m (16 * slot + k) (BitVec.ofNat 16 (entry k))) g.slots }

/-- A drain slot with words from `ws`, the others zero (R180). -/
def fillSlot (p : Nat) (ws : List Word) (m : Sparse Word) : Sparse Word :=
  (upFrom 0 64).foldl (fun m k => spSet 0 m (64 * p + k) (getAt 0 ws k)) m

/-- What an engine's read for an operation must heed: what precedes the operation, and in a drain the drain's own accesses
to the same byte, which are performed in order (R189, R232). -/
def Op.sees (o : Op) : View :=
  match o.kind with
  | .matrix (.drain _ _ _ _ _) => viewJoin o.view o.own
  | _ => o.view

/-- Byte number `k` of memory as an engine reads it for an operation, and the stamp of its write: one that the rules let it
read, freely chosen (R226, R232). Of a scratchpad it reads what stood there at some moment since the operation's issue.
`n` numbers the read in its step. -/
def State.engineByte (s : State) (g : Group) (o : Op) (va : Nat) (t : Target) (n : Nat) : Nat × Nat :=
  let floor := match t with
    | .at_ _ _ => s.mappedAt g.die g.tlbCore (s.tlbOf g o va) g.pasid va
    | .obj _ => 0
    | .scr _ _ => o.since
  let p := s.pickByte o.sees floor (2 ^ 20 * (o.id + 1) + n) ((t.cells g 1).headD 0)
  (p.2.toNat, p.1)

/-- The bytes of a `drainld`, and what it has read (R232): each one that was read ahead, or else a byte of now, or a
fault at an address. -/
def drainBytes (g : Group) (o : Op) (got : List EarlyByte) :
    Nat → Nat → State → State × Except (Option (Cause × Nat)) (List Byte × View)
  | 0, _, s => (s, .ok ([], []))
  | n + 1, a, s =>
    match s.target g .gbl (a % 2 ^ 57) 1 needR with
    | (s1, .error none) => (s1, .error none)
    | (s1, .error (some c)) => (s1, .error (some (c, a % 2 ^ 57)))
    | (s1, .ok t) =>
      let r := s1.engineByte g o (a % 2 ^ 57) t (n + 1)
      let (b, seen) := match findBy (fun (x : EarlyByte) => x.addr == a) got with
        | some x => (x, ([] : View))
        | none => ({ addr := a, val := BitVec.ofNat 8 r.1, bad := s1.targetPoison g t 1 }, viewOf (t.cells g 1) [r.2])
      if b.bad then (s1, .error (some (.poison, a % 2 ^ 57)))
      else
        match drainBytes g o got n (a + 1) s1 with
        | (s2, .ok (bs, v)) => (s2, .ok (b.val :: bs, viewJoin v seen))
        | r => r

/-- Words of four bytes. -/
def wordsOf : Nat → List Byte → List Word
  | 0, _ => []
  | n + 1, bs => BitVec.ofNat 32 (ofLe (bs.take 4)) :: wordsOf n (bs.drop 4)

/-- A matrix operation complete: its events are ORed into ASTAT, what it has read enters its counter's view (R233), and it
leaves MX in its turn (R166). -/
def State.matrixDone (s : State) (gid : Nat) (o : Op) (ev : Events) : State :=
  s.updGrp gid (fun g =>
    ((g.raise (s.dieOf g.die).clk ev).addView o.ctr.code o.id (g.opOr o).own).updOp o.id (fun o => { o with done := true }))

/-- A matrix operation complete with an imprecise fault (R180, R409). -/
def State.matrixFault (s : State) (gid : Nat) (o : Op) (c : Cause) (addr : Nat) : State :=
  (s.matrixDone gid o 0).raiseFault gid
    { op := o.id, path := o.path, cause := c, fpc := o.pc, faddr := BitVec.ofNat 64 addr, lmask := o.act,
      issuedAt := o.issuedAt }

/-- What the matrix unit's use of a context's drain-program memory meets (R179, R368; log entry 83). -/
def State.drainMemory (s : State) (g : Group) (r w : Bool) : Option Cause :=
  match s.objAddr (s.ctxOf g.pasid).drainmem 0 r w with
  | .ok _ => none
  | .error c => some c

/-- A matrix operation performed to its end. Drains are the drain engine's. -/
def performMatrix (s : State) (gid : Nat) (o : Op) (m : MatOp) : State :=
  let g := s.grp gid
  let put := fun (r : Group × Events) => (s.updGrp gid (fun _ => r.1)).matrixDone gid o r.2
  match m with
  | .cbld slot src => if s.canRead g o.olds src.got (cbldAddrs src) then put (doCbld s g o.olds slot src, 0) else s
  | .mma t steps a b mt af bf sp24 zero sa sb =>
    match mmaShape af bf (if sp24 then 1 else 0) with
    | some (k, ab, bb, m) =>
      if s.canRead g o.olds a.got (a.addrs ab steps) && s.canRead g o.olds b.got (b.addrs bb steps) then
        put (doMma s g t steps zero
          { k := k, ab := ab, bb := bb, m := m, a := a, b := b, mt := mt, af := af, bf := bf, sp24 := sp24,
            sa := sa, sb := sb, olds := o.olds })
      else s
    | Option.none => put (g, 0)
  | .tzero t => put ({ g with tiles := fillTile t (fun _ _ => 0) g.tiles }.setTilePoison t false, 0)
  | .get t v act landed =>
    if g.poisonTiles.contains t then s.matrixFault gid o .poison 0
    else put (((getElems act).filter (fun k => !landed.contains k)).foldl (fun g k => g.landElem t v k) g, 0)
  | .put t act ws =>
    let f := fun i j => if act.getLsbD j then getAt 0 ws (32 * i + j) else g.tile t i j
    put ({ g with tiles := fillTile t f g.tiles }.setTilePoison t (act != 0xFFFFFFFF && g.poisonTiles.contains t), 0)
  | .tsacc t ts rows cols => put (doTsacc g t ts rows cols)
  | .drain _ _ _ _ _ => s
  | .drainld p n addr got =>
    match s.drainMemory g false true, drainBytes g o got (4 * n) addr s with
    | some c, (s1, _) =>
      (s1.updGrp gid (fun g => { g with drains := fillSlot p [] g.drains })).matrixFault gid o c
        (2 ^ 40 * (s.ctxOf g.pasid).drainmem)
    | none, (s1, .ok (bs, v)) =>
      (s1.updGrp gid (fun g =>
        { g with
          drains := fillSlot p (wordsOf n bs) g.drains,
          ops := updBy (fun x => x.id == o.id) (fun x => { x with own := viewJoin x.own v }) g.ops })).matrixDone gid o 0
    | none, (s1, .error none) => s1
    | none, (s1, .error (some (c, a))) =>
      (s1.updGrp gid (fun g => { g with drains := fillSlot p [] g.drains })).matrixFault gid o c a
  | .none => s.matrixDone gid o 0

/-- MATRIX_OP_COMPLETE (R158, R168): the group's oldest matrix operation is performed. -/
def execMatrixOpComplete (gid : Nat) (s : State) : Host.Outcome State Fault Refusal :=
  let g := s.grp gid
  match s.nextMatrix g with
  | some (o, m) => if o.deps.any g.pending then .next s else .next (performMatrix s gid o m)
  | none => .next s

/-! ### Work between issue and completion (R162, R171, R180) -/

/-- Which of an operation's free bits stands for a byte or an element. -/
def earlyBit (tick id a : Nat) : Bool := Config.freeBit tick ((id + 1) * 2 ^ 60 + a)

/-- The bytes of a list that an engine reads in this step, freely chosen of those unread, before those it has read. -/
def aheadBytes (s : State) (g : Group) (o : Op) (tag : Nat) (as : List Nat) (got : List EarlyByte) : List EarlyByte :=
  as.foldl (fun got a =>
    if earlyBit s.tick (o.id + tag) a && !got.any (fun x => x.addr == a) then
      match s.scrByte g o.olds a with
      | some x => x :: got
      | none => got
    else got) got

/-- A descriptor with the bytes that its engine reads in this step. -/
def MatSrc.ahead (src : MatSrc) (s : State) (g : Group) (o : Op) (tag : Nat) (as : List Nat) : MatSrc :=
  match src with
  | .regs ws => .regs ws
  | .desc role ofs rp tp rot got => .desc role ofs rp tp rot (aheadBytes s g o tag as got)

/-- The bytes of memory that a `drainld` reads in this step, and what it has read (R232). -/
def drainAhead (s : State) (g : Group) (o : Op) (addr n : Nat) (got : List EarlyByte) : List EarlyByte × View :=
  (upFrom addr (4 * n)).foldl (fun (r : List EarlyByte × View) a =>
    if earlyBit s.tick o.id a && !r.1.any (fun x => x.addr == a) then
      match (s.target g .gbl (a % 2 ^ 57) 1 needR).2 with
      | .ok t =>
        let b := s.engineByte g o (a % 2 ^ 57) t (a - addr + 1)
        ({ addr := a, val := BitVec.ofNat 8 b.1, bad := s.targetPoison g t 1 } :: r.1, viewJoin r.2 (viewOf (t.cells g 1) [b.2]))
      | .error _ => r
    else r) (got, [])

/-- A matrix operation after the reads of one step, and what it has read of module memory. -/
def MatOp.ahead (m : MatOp) (s : State) (g : Group) (o : Op) : MatOp × View :=
  match m with
  | .cbld slot src => (.cbld slot (src.ahead s g o 0 (cbldAddrs src)), [])
  | .mma t steps a b mt af bf sp24 zero sa sb =>
    match mmaShape af bf (if sp24 then 1 else 0) with
    | some (_, ab, bb, _) =>
      (.mma t steps (a.ahead s g o 0 (a.addrs ab steps)) (b.ahead s g o (2 ^ 40) (b.addrs bb steps)) mt af bf sp24 zero sa sb,
        [])
    | Option.none => (m, [])
  | .drainld p n addr got => let (got, v) := drainAhead s g o addr n got; (.drainld p n addr got, v)
  | x => (x, [])

/-- The operations of a group after the reads of one step. -/
def aheadOps (s : State) (g : Group) (ops : List Op) : List Op :=
  ops.map (fun o => match o.kind with
    | .matrix m =>
      if o.done || o.deps.any g.pending then o
      else
        let (m, v) := m.ahead s g o
        { o with kind := .matrix m, own := viewJoin o.own v }
    | _ => o)

/-- The elements of the group's oldest `tmov.get` that land in this step (R171). -/
def landAhead (s : State) (g : Group) : Group :=
  match s.nextMatrix g with
  | some (o, .get t v act landed) =>
    if g.poisonTiles.contains t || o.deps.any g.pending then g
    else
      let now := (getElems act).filter (fun k => !landed.contains k && earlyBit s.tick o.id k)
      { now.foldl (fun g k => g.landElem t v k) g with
        ops := updBy (fun x => x.id == o.id)
          (fun x => { x with kind := .matrix (.get t v act (now ++ landed)) }) g.ops }
  | _ => g

/-- Whether a group has matrix operations in flight. -/
def Group.inMatrix (g : Group) : Bool := !g.matrixOps.isEmpty

/-- The state after the engine work of one step: bytes that operations in flight read, and elements of
`tmov.get` that land. -/
def State.matrixAhead (s : State) : State :=
  { s with groups := s.groups.map (fun g =>
      if g.inMatrix then
        let g1 := landAhead s g
        { g1 with ops := aheadOps s g1 g1.ops }
      else g) }

end Sys2Proof.Machine
end

