-- ==== Sys2Proof/Machine/Copy.lean ====
section
/-! DEFINITION. The tensor copy engine (R261 to R265): `xkick`, the copies that it posts, element by
element, and their completion by a count-down or a signal word. -/

namespace Sys2Proof.Machine

/-! ### The request (R261) -/

/-- Signed 32-bit fields from bit `lo`. -/
def signedAt (x lo n : Nat) : List Int := (fieldsAt x lo 32 n).map (fun v => toSigned 32 v)

/-- Whether the fields of dimensions at or beyond `n` are zero. -/
def zeroFrom (n : Nat) (l : List Nat) : Bool := (l.drop n).all (fun v => v == 0)

/-- The fields of a request that R261 requires to be zero. -/
def requestZeros (x : Nat) : Bool :=
  let n := nbits x 71 64
  nbits x 95 84 == 0 && nbits x 191 185 == 0 && nbits x 415 400 == 0 && nbits x 1023 992 == 0 &&
  zeroFrom n (fieldsAt x 256 16 9) && zeroFrom n (fieldsAt x 416 32 9) && zeroFrom n (fieldsAt x 704 32 9)

/-- A request from its 128 bytes and the two records that it names. -/
def requestOf (x : Nat) (src dst : Tsr) : CopyReq :=
  { src := src, dst := dst, ndim := nbits x 71 64, mode := nbits x 79 72, scope := BitVec.ofNat 3 (nbits x 82 80),
    sk := nbit x 83, barobj := nbits x 127 96, sigaddr := nbits x 184 128, sigval := BitVec.ofNat 64 (nbits x 255 192),
    box := (fieldsAt x 256 16 9).take (nbits x 71 64), sorg := signedAt x 416 9, dorg := signedAt x 704 9 }

/-- A read of `n` bytes of the group's own scratchpad at issue: its number, or none where it does not lie in
the role's bytes. -/
def Env.scrRead (e : Env) (s : State) (o n : Nat) : Option Nat :=
  if e.launch.hdr.scratch < o + n then none else some (s.issueBytes e.g (e.g.role * 2 ^ 20 + o) n)

/-- What words in flight or poison make of a read at issue, as for the record of `ldt` (R212, R219). -/
inductive Ready where
  | go
  | hold
  | trap (t : Trap)
  | poison (o : Nat)
  deriving DecidableEq, Repr

/-- The readiness of `n` bytes of the group's own scratchpad. -/
def Env.ready (e : Env) (s : State) (o n : Nat) : Ready :=
  if e.launch.hdr.scratch < o + n then .go
  else
    match e.flight s (e.g.role * 2 ^ 20 + o) n with
    | .hold => .hold
    | .trap => .trap { cause := .scoreboardUndersized, faddr := BitVec.ofNat 64 o, lmask := e.act }
    | .go => if s.scrPoisoned e.g.die e.g.lchid e.g.block e.g.role o n then .poison o else .go

/-- The first of several reads that is not ready. -/
def firstUnready : List Ready → Ready
  | [] => .go
  | .go :: r => firstUnready r
  | x :: _ => x

/-- Whether a request is illegal (R262 step 1), as far as what it names can be read. -/
def requestIllegal (x : Nat) (xs xd : Option Nat) : Bool :=
  let n := nbits x 71 64
  let mode := nbits x 79 72
  let ill := fun (y : Option Nat) => match y with
    | some v => !tsrLegal v (tsrOf v) || decide ((tsrOf v).ndim < n)
    | none => false
  let fmt := fun (y : Option Nat) => y.map (fun v => (tsrOf v).fmt)
  ill xs || ill xd || n == 0 || decide (9 < n) || decide (2 < mode) ||
  (match fmt xs, fmt xd with
    | some f, some f' => f != f'
    | _, _ => false) ||
  (mode == 1 && (fmt xs == some 14 || fmt xd == some 14)) ||
  (nbits x 82 80 == 7 && !nbit x 83) || !requestZeros x

/-- The first misaligned address of a request (R262 step 2). -/
def requestMisaligned (a x : Nat) (xs xd : Option Nat) : Option Nat :=
  let mode := nbits x 79 72
  let base := fun (y : Option Nat) => match y with
    | some v => if (tsrOf v).base % elemBytes (tsrOf v).fmt ≠ 0 then [(tsrOf v).base] else []
    | none => []
  ((if a % 128 ≠ 0 then [a] else []) ++ (if nbits x 31 0 % 64 ≠ 0 then [nbits x 31 0] else []) ++
   (if nbits x 63 32 % 64 ≠ 0 then [nbits x 63 32] else []) ++
   (if mode = 2 && nbits x 184 128 % 8 ≠ 0 then [nbits x 184 128] else []) ++
   (if mode = 1 && nbits x 127 96 % 16 ≠ 0 then [nbits x 127 96] else []) ++ base xs ++ base xd).head?

/-- The first address of a request that lies outside its scratchpad (R262 step 3). -/
def requestOutside (e : Env) (x : Nat) (xs xd : Option Nat) : Option Nat :=
  let rot := fun (y : Option Nat) => match y with
    | some v => if rotFits e.launch.hdr (tsrOf v).rot then [] else [(tsrOf v).base]
    | none => []
  ((if xs.isNone then [nbits x 31 0] else []) ++ (if xd.isNone then [nbits x 63 32] else []) ++
   (if (e.scrAddr .cls (nbits x 127 96) 16).isNone then [nbits x 127 96] else []) ++ rot xs ++ rot xd).head?

/-- The trap of a request (R262); `x` is none where the request itself lies outside the scratchpad. -/
def requestTrap (e : Env) (a : Nat) (x xs xd : Option Nat) : Option Trap :=
  let t := fun (c : Cause) (f : Nat) => some ({ cause := c, faddr := BitVec.ofNat 64 f, lmask := e.act } : Trap)
  match x with
  | none => if a % 128 ≠ 0 then t .memAlign a else t .memBounds a
  | some x =>
    if requestIllegal x xs xd then t .illegalOperand 0
    else
      match requestMisaligned a x xs xd with
      | some f => t .memAlign f
      | none =>
        match requestOutside e x xs xd with
        | some f => t .memBounds f
        | none => none

/-! ### Elements (R263) -/

/-- Elements of a box. -/
def boxSize (box : List Nat) : Nat := box.foldl (fun n b => n * b) 1

/-- The coordinates of element `n` of a box. -/
def boxCoords : List Nat → Nat → List Nat
  | [], _ => []
  | b :: r, n => n % b :: boxCoords r (n / b)

/-- Coordinates moved by an origin. -/
def shifted : List Nat → List Int → List Int
  | x :: xs, o :: os => ((x : Int) + o) :: shifted xs os
  | xs, [] => xs.map Int.ofNat
  | [], _ => []

/-- Coordinates of a copy in a record that has more dimensions: the others are 0. -/
def padTo (n : Nat) (c : List Int) : List Int := (upFrom 0 n).map (fun k => getAt 0 c k)

/-- The address of an element in a record, with its nibble; none where it is not inside. `clamp` applies the
record's CLIP. -/
def tsrElem (t : Tsr) (clamp : Bool) (c : List Int) : Option (Nat × Option Bool) :=
  let ext := t.ext.take t.ndim
  let c := padTo t.ndim c
  let ok := insideOf c ext
  if !ok && !(clamp && t.clip == 1 && ext.all (fun x => decide (0 < x))) then none
  else
    let c := if ok then c else clampTo c ext
    some (tsrAddr t (elemIndex c t.str) (getAt 0 c 1))

/-- The first word in flight that a copy's source elements name, which is what a read of them meets in mode TRAP (R219). A
word that goes in flight after the issue is read old or new, since the trap is precise (R398; log entry 60). -/
def Env.copyFlight (e : Env) (s : State) (r : CopyReq) : Option Nat :=
  let sp := tsrSpace r.src
  let n := elemBytes r.src.fmt
  if !sp.isScr || e.launch.sbmode != 1 || (s.peersOf e.g.die e.g.lchid e.g.block).isEmpty then none
  else
    findBy (fun (a : Nat) => match e.scrAddr sp a n with
      | some o => e.flight s o n == .trap
      | none => false)
      ((upFrom 0 (boxSize r.box)).filterMap (fun k => (tsrElem r.src true (shifted (boxCoords r.box k) r.sorg)).map (fun y => y.1)))

/-- `xkick` (R261, R262). -/
def xkickRes (w : XN) (e : Env) (s : State) : Res :=
  let g := s.grp s.cur.gid
  if 63 ≤ g.ctr .cp then .hold (s.heldFor s.cur.gid e.pix Ctr.cp.reason)
  else if e.act = 0 then .adv (s.addOp s.cur.gid e.pix .cp e.act [] [] 0 false 0 true (.matrix .none))
  else
    let a := (e.uni w.a).toNat
    let x := e.scrRead s a 128
    let at_ := fun (lo : Nat) => x.bind (fun v => e.scrRead s (nbits v (lo + 31) lo) 64)
    let places := match x with
      | some v => [(a, 128), (nbits v 31 0, 64), (nbits v 63 32, 64)]
      | none => []
    match firstUnready (places.map (fun p => e.ready s p.1 p.2)) with
    | .hold => .hold (s.heldFor s.cur.gid e.pix 5)
    | .trap t => .trap t
    | .poison o => .adv (postPoison e .cp o (.matrix .none) s)
    | .go =>
      match requestTrap e a x (at_ 0) (at_ 32) with
      | some t => .trap t
      | none =>
        match x, at_ 0, at_ 32 with
        | some v, some xs, some xd =>
          let r := requestOf v (tsrOf xs) (tsrOf xd)
          match e.copyFlight s r with
          | some f => .trap { cause := .scoreboardUndersized, faddr := BitVec.ofNat 64 f, lmask := e.act }
          | none => .adv (s.addOp s.cur.gid e.pix .cp e.act [] (g.depsOf e.pix 0 false) 0 false 0 false (.copy r []))
        | _, _, _ => .trap { cause := .memBounds, lmask := e.act }

/-- `xkick` (R261). -/
def execXkick (w : XN) : Meaning := issue (.xkick w) w.h (xkickRes w)

/-- The environment in which an engine checks a group's scratchpad addresses. -/
def engineEnv (s : State) (g : Group) : Env :=
  { s := s, g := g, pix := 0, act := 0, clk := 0, rtime := 0, mix := [], fin := 0 }

/-- The place of an element of a copy: a fault, or (none) a wait for a translation. Its pages are translated ahead
(R360). -/
def State.copyTarget (s : State) (g : Group) (t : Tsr) (addr : Nat) (need : Need) :
    State × Except (Option Cause) Target :=
  let sp := tsrSpace t
  let n := elemBytes t.fmt
  if sp.isScr then
    match (engineEnv s g).scrAddr sp addr n with
    | some a => s.targetIn g 2 sp a n need
    | none => (s, .error (some .memBounds))
  else s.targetIn g 2 sp addr n need

/-- The state with the line of a place poisoned anew (R409). -/
def State.poisonPlace (s : State) (g : Group) (t : Target) : State :=
  match t with
  | .at_ p _ => { s with poison := poisonLine s.poison p.polled }
  | .obj as => { s with poison := as.foldl poisonLine s.poison }
  | .scr role o => s.updAlloc g.die g.lchid g.block role (fun a => { a with poison := poisonLine a.poison o })

/-- A scratchpad byte as an engine reads it for an operation, number `n` of its reads in the step, with the stamp of its
write: what stood there at some moment since the operation's issue (R189, R232), or of a word in flight the new byte; none
while a word in flight makes it wait (R219). -/
def State.engineScr (s : State) (g : Group) (o : Op) (a n : Nat) : Option (Nat × Nat) :=
  let t : Target := .scr (a / 2 ^ 20) (a % 2 ^ 20)
  (s.scrByte g o.olds a).map (fun x =>
    if !(s.inFlight g o.olds a 1).isEmpty && earlyBit s.tick (o.id + 2 ^ 40) n then (x.val.toNat, (s.stampsAt g t 1).headD 0)
    else s.engineByte g o a t n)

/-- What the TCE reads of a source element of `n` bytes (R232), each byte on its own: the bytes as a number, whether one was
poisoned, and what it has read. None waits for a word in flight. -/
def State.copySource (s : State) (g : Group) (o : Op) (va : Nat) (t : Target) (n : Nat) : Option (Nat × Bool × View) :=
  let one := fun (k : Nat) => match t with
    | .scr role ofs => s.engineScr g o (role * 2 ^ 20 + ofs + k) k
    | .obj as => some (s.engineByte g o va (.obj ((as.drop k).take 1)) k)
    | .at_ p attr => some (s.engineByte g { o with ahead := true } (va + k) (.at_ (p.plus k) attr) k)
  let bs := (upFrom 0 n).filterMap one
  if bs.length = n then
    some (ofLe (bs.map (fun x => BitVec.ofNat 8 x.1)), s.targetPoison g t n, viewOf (t.cells g n) (bs.map (fun x => x.2)))
  else none

/-- The element of the source: its value, whether it was poisoned, and what has been read. -/
def copyRead (s : State) (g : Group) (o : Op) (r : CopyReq) (x : List Nat) :
    State × Except (Option (Cause × Nat)) (Nat × Bool × View) :=
  match tsrElem r.src true (shifted x r.sorg) with
  | none => (s, .ok (0, false, []))
  | some (a, nib) =>
    match s.copyTarget g r.src a needR with
    | (s1, .error none) => (s1, .error none)
    | (s1, .error (some c)) => (s1, .error (some (c, a)))
    | (s1, .ok t) =>
      match s1.copySource g o a t (elemBytes r.src.fmt) with
      | none => (s1, .error none)
      | some (v, bad, seen) =>
        (s1, .ok ((match nib with
          | some hi => nibbleOf v hi
          | none => v), bad, seen))

/-- What the engine's write at a place adds to what its operation has written. -/
def State.wroteAt (s : State) (g : Group) (t : Target) (n : Nat) : View := viewOf (t.cells g n) (List.replicate n s.stamp)

/-- The element of the destination written, or dropped where it is not inside, and what has been written. -/
def copyWrite (s : State) (g : Group) (r : CopyReq) (x : List Nat) (v : Nat) (bad : Bool) :
    State × Except (Option (Cause × Nat)) View :=
  match tsrElem r.dst false (shifted x r.dorg) with
  | none => (s, .ok [])
  | some (a, nib) =>
    match s.copyTarget g r.dst a needW with
    | (s1, .error none) => (s1, .error none)
    | (s1, .error (some c)) => (s1, .error (some (c, a)))
    | (s1, .ok t) =>
      let n := elemBytes r.dst.fmt
      let s2 := match nib with
        | some hi => s1.writeTarget g t 1 (withNibble (s1.readTarget g t 1) v hi)
        | none => s1.writeTarget g t n v
      (if bad then s2.poisonPlace g t else s2, .ok (s2.wroteAt g t n))

/-- A count-down of `n` bytes on a copy's barrier object (R256, R263), a release of every element that the copy has
counted. It reaches every wait of the phase whose scope holds the paths of the kicking group (R258, R264; log
entry 60). -/
def countDown (s : State) (g : Group) (o : Op) (raw n : Nat) : State :=
  match (engineEnv s g).scrAddr .cls raw 16 with
  | none => s
  | some a =>
    let t : Target := .scr (a / 2 ^ 20) (a % 2 ^ 20)
    let x := s.readTarget g t 16
    s.barWrite g t x (barUpdate x (s.barCount g x) (barArrived x) (barBytes x + 2 ^ 32 - n % 2 ^ 32))
      [{ who := g.agent 8, scope := 6, sk := false, view := viewJoin o.view o.own }]

/-- The state in which an operation has written and read more (R233). -/
def State.addOwn (s : State) (gid id : Nat) (v : View) : State :=
  if v = [] then s
  else s.updGrp gid (fun g =>
    { g with ops := updBy (fun x => x.id == id) (fun x => { x with own := viewJoin x.own v }) g.ops })

/-- A copy's operation complete, with what it has read and written in its counter's view (R233). -/
def State.copyDone (s : State) (gid : Nat) (o : Op) : State :=
  s.updGrp gid (fun g => (g.addView o.ctr.code o.id (g.opOr o).own).updOp o.id (fun o => { o with done := true }))

/-- The state with a copy ended by a fault (R265). -/
def copyFault (s : State) (gid : Nat) (o : Op) (c : Cause) (addr : Nat) : State :=
  (s.copyDone gid o).raiseFault gid
    { op := o.id, path := o.path, cause := c, fpc := o.pc, faddr := BitVec.ofNat 64 addr, lmask := o.act,
      issuedAt := o.issuedAt }

/-- One element of a copy performed (R263). -/
def copyElem (gid id n : Nat) (s : State) : State :=
  let g := s.grp gid
  match g.op id with
  | none => s
  | some o =>
    match o.kind with
    | .copy r done =>
      if o.done || o.deps.any g.pending || done.contains n || decide (boxSize r.box ≤ n) then s
      else
        let x := boxCoords r.box n
        match copyRead s g o r x with
        | (s1, .error none) => s1
        | (s1, .error (some (c, a))) => copyFault s1 gid o c a
        | (s1, .ok (v, bad, seen)) =>
          match copyWrite s1 g r x v bad with
          | (s2, .error none) => s2
          | (s2, .error (some (c, a))) => copyFault s2 gid o c a
          | (s2, .ok wrote) =>
            let o1 := { o with kind := .copy r (n :: done), own := viewJoin (viewJoin o.own seen) wrote }
            let s3 := s2.updGrp gid (fun g => { g with ops := updBy (fun x => x.id == id) (fun _ => o1) g.ops })
            if r.mode = 1 then countDown s3 g o1 r.barobj (elemBytes r.src.fmt) else s3
    | _ => s

/-- TCE_COPY (R263): the named elements of a copy, in the order of the list. -/
def execTceCopy (gid op : Nat) (elems : List Nat) (s : State) : Host.Outcome State Fault Refusal :=
  .next (elems.foldl (fun s n => copyElem gid op n s) s)

/-- A copy's signal word written, as a release of its payload where its scope reaches the word's home (R234, R239); the write
is part of the copy's work (R233). -/
def copySignal (s : State) (g : Group) (o : Op) (t : Target) (r : CopyReq) : State :=
  let s1 := s.writeTarget g t 8 r.sigval.toNat
  let wrote := s1.wroteAt g t 8
  let m : Msg := { who := g.engineAgent, scope := r.scope, sk := r.sk, view := viewJoin (viewJoin o.view o.own) wrote }
  (s1.releasing (if s.portReaches t r.scope r.sk then [m] else [])).addOwn g.gid o.id wrote

/-- TCE_COPY_COMPLETE (R263): once every element is performed or dropped, the signal word is written as a release (R234),
and the operation is complete. -/
def execTceCopyComplete (gid op : Nat) (s : State) : Host.Outcome State Fault Refusal :=
  let g := s.grp gid
  match g.op op with
  | none => .next s
  | some o =>
    match o.kind with
    | .copy r done =>
      if o.done || o.deps.any g.pending || decide (done.length < boxSize r.box) then .next s
      else if r.mode = 2 then
        match s.targetIn g 2 .gbl r.sigaddr 8 needW with
        | (s1, .error none) => .next s1
        | (s1, .error (some c)) => .next (copyFault s1 gid o c r.sigaddr)
        | (s1, .ok t) =>
          .next ((copySignal s1 g o t r).copyDone gid o)
      else .next (s.copyDone gid o)
    | _ => .next s

end Sys2Proof.Machine
end

