-- ==== Sys2Proof/Machine/Header.lean ====
section
/-! DEFINITION. Kernel headers and their checks (R27, R33, R62, R63, R308, R419, R433), and the records of
launches: their creation, their spawn-tree counters and their completion (R29, R309, R310). -/

namespace Sys2Proof.Machine

/-! ### The header (R62) -/

/-- Field of `n` bytes at byte `b` of a header. -/
def hdrField (x b n : Nat) : Nat := nbits x (8 * b + 8 * n - 1) (8 * b)

/-- The fields of a header. -/
def headerOf (x : Nat) : KHeader :=
  let f := hdrField x 5 1
  { compat := nbit f 0, recomputable := nbit f 1, staged := nbit f 2, taskworker := nbit f 3, nolog := nbit f 4,
    cls := BitVec.ofNat 2 (hdrField x 6 1), lattab := hdrField x 7 1, vregs := hdrField x 8 2,
    sregs := hdrField x 10 2, scratch := hdrField x 12 4, tiles := hdrField x 16 1, drains := hdrField x 17 1,
    roles := hdrField x 18 1, sbreq := BitVec.ofNat 2 (hdrField x 19 1), groups := hdrField x 20 1,
    entry := hdrField x 24 8, draintime := hdrField x 32 8 }

/-- A failed check: what names it, and the value found (R433). -/
structure HdrFail where
  check : Nat
  value : Nat
  deriving DecidableEq, Repr

/-- The fields that lie outside their values (R62), as offset, bytes, and whether the value is allowed. -/
def headerFields : List (Nat × Nat × (Nat → Bool)) :=
  [(0, 4, fun v => v == 0x534D4B48), (4, 1, fun v => v == 2), (5, 1, fun v => decide (v < 32)),
   (6, 1, fun v => decide (v < 3)), (8, 2, fun v => v % 2 == 0 && decide (v ≤ 512)),
   (10, 2, fun v => decide (v ≤ 1024)), (12, 4, fun v => v % 16 == 0 && decide (v ≤ 327680)),
   (16, 1, fun v => decide (v ≤ 8)), (17, 1, fun v => decide (v ≤ 16)),
   (18, 1, fun v => decide (1 ≤ v) && decide (v ≤ 4)), (19, 1, fun v => decide (v ≤ 2)),
   (20, 1, fun v => decide (1 ≤ v) && decide (v ≤ 96))]

/-- The checks of R63 in its order: the fields, the zero bytes, the entry address, which is the 57-bit address at which a
group starts (log entry 85). -/
def headerCheck (x addr : Nat) : Option HdrFail :=
  let fields := headerFields.filterMap (fun f =>
    let v := hdrField x f.1 f.2.1
    if f.2.2 v then none else some { check := f.1, value := v })
  let zeros := (upFrom 21 3 ++ upFrom 40 24).filterMap (fun b =>
    let v := hdrField x b 1
    if v = 0 then none else some { check := b, value := v })
  let entry := hdrField x 24 8
  match fields ++ zeros with
  | f :: _ => some f
  | [] => if (addr + entry) % 2 ^ 57 % 12 ≠ 0 then some { check := 24, value := entry } else none

/-- The checks of R308's table. -/
def gridCheck (h : KHeader) (x y z : Nat) : Option HdrFail :=
  let n := x * y * z
  if 2 ^ 32 - 1 < n then some { check := 0x100, value := n % 2 ^ 64 }
  else if h.cls = 2 && decide (4608 < n * h.groups) then some { check := 0x101, value := n * h.groups }
  else none

/-- The first nonzero must-be-zero byte of a stage table (R326), from its 512 bytes. -/
def stageTableCheck (t : List Byte) : Option HdrFail :=
  ((upFrom 0 512).filterMap (fun k =>
    let b := (getAt (0 : Byte) t k).toNat
    let r := k % 32
    let v := if r = 14 || r = 15 || decide (21 ≤ r) then b else if r = 20 then b / 2 else 0
    if v = 0 then none
    else some ({ check := 0x102, value := 32 * (k / 32) + (if r < 16 then 14 else 20) } : HdrFail))).head?

/-- The check of R419. -/
def drainCheck (h : KHeader) (draint : Nat) : Option HdrFail :=
  if draint < h.draintime then some { check := 32, value := h.draintime } else none

/-- The first of several checks that fails. -/
def firstFail : List (Option HdrFail) → Option HdrFail
  | [] => none
  | some f :: _ => some f
  | none :: r => firstFail r

/-- The effective scoreboard mode of a launch (R48). -/
def effectiveMode (h : KHeader) (floor : Nat) : BitVec 2 :=
  if h.lattab ≠ Config.latencyTable then 2 else BitVec.ofNat 2 (max h.sbreq.toNat floor)

/-! ### Launch records (R29, R309, R310) -/

/-- The next LCHID of a die: its counter, past values that live launches hold. -/
def State.freeLch (s : State) (die : Nat) : Nat → Nat → Nat
  | 0, k => k
  | n + 1, k =>
    if s.launches.any (fun l => l.die == die && l.lchid == k) then
      s.freeLch die n (if k = 2 ^ 32 - 1 then 1 else k + 1)
    else k

/-- The LCHID that the next launch of a die receives. -/
def State.nextLch (s : State) (die : Nat) : Nat := s.freeLch die s.launches.length (s.dieOf die).lchNext

/-- The state with a launch created on its die (R310). -/
def State.createLaunch (s : State) (l : Launch) : State :=
  let k := s.nextLch l.die
  let s1 := s.updDie l.die (fun d => { d with lchNext := if k = 2 ^ 32 - 1 then 1 else k + 1 })
  { s1 with launches := s1.launches ++ [{ l with lchid := k, order := s.nextId }], nextId := s.nextId + 1 }

/-- The state with the command of a root launch complete. -/
def State.commandDone (s : State) (pasid queue lchid : Nat) : State :=
  { s with queues := s.queues.map (fun q =>
      if q.ref.pasid = pasid && q.ref.q = queue then
        { q with started := q.started.filter (fun c => c.lchid != lchid || lchid == 0) }
      else q) }

/-- The state with a finished launch complete, and with it its ancestors that then owe nothing (R29,
R310). The fuel is the number of launches. -/
def State.settleLaunch : Nat → Nat → Nat → State → State
  | 0, _, _, s => s
  | n + 1, die, lchid, s =>
    match findBy (fun (l : Launch) => l.die == die && l.lchid == lchid) s.launches with
    | none => s
    | some l =>
      if l.n ≠ 0 then s
      else
        let s1 := { s with launches := s.launches.filter (fun x => !(x.die == die && x.lchid == lchid)) }
        match l.parent with
        | some p => State.settleLaunch n die p (s1.updLaunch die p (fun x => { x with n := x.n - 1 }))
        | none => s1.commandDone l.pasid l.queue lchid

/-- The state after what a launch owes has gone down by one (R310). -/
def State.lessLaunch (s : State) (die lchid : Nat) : State :=
  State.settleLaunch s.launches.length die lchid (s.updLaunch die lchid (fun l => { l with n := l.n - 1 }))

/-- The queue of a launch's root (R403, R426). -/
def reportRoot (s : State) (l : Launch) (code lchid d0 d1 : Nat) : State :=
  reportQueue s l.die l.pasid
    { code := code, die := l.die, queue := l.queue, rptr := l.cmd, lchid := lchid, d0 := d0, d1 := d1 }

end Sys2Proof.Machine
end

