-- ==== Sys2Proof/Machine/Place.lean ====
section
/-! DEFINITION. Placement of groups (R27, R28, R32 to R34, R156, R292, R293, R411): the room that a record,
a partition, a core and the context image offer, the placing of a group of a new block or of one that was
out, and the headstock's records of it (R271, R277). -/

namespace Sys2Proof.Machine

/-! ### Room -/

/-- The record that a group holds or that is kept for it. -/
def Group.spot (g : Group) : Option Place :=
  match g.place with
  | some p => some p
  | none => g.reserved

/-- The groups whose records lie in a partition. -/
def State.partGroups (s : State) (die core part : Nat) : List Group :=
  s.groups.filter (fun g => match g.spot with
    | some p => p.die == die && p.core == core && p.part == part
    | none => false)

/-- Register-cache lines of a footprint (R33). -/
def KHeader.lines (h : KHeader) : Nat := h.vregs / 2 + (h.sregs + 63) / 64

/-- 1 KiB units of a role's allocation (R34). -/
def KHeader.units (h : KHeader) : Nat := (h.scratch + 1023) / 1024

/-- The header of a group's launch. -/
def State.hdrOf (s : State) (g : Group) : KHeader := (s.launchOf g.die g.lchid).hdr

/-- Whether a record, and room for a footprint and tiles, are free at a place (R32, R33, R156). `reserve`
lets the group take a record of the promotion reserve. -/
def State.hasRoom (s : State) (h : KHeader) (pl : Place) (reserve : Bool) : Bool :=
  let gs := s.partGroups pl.die pl.core pl.part
  decide (pl.core < Config.coresPerDie) && decide (pl.part < Config.partsPerCore) &&
  decide (pl.slot < Config.slotsPerPart) && !gs.any (fun g => g.spot == some pl) &&
  (reserve || decide ((gs.filter (fun g => !g.byPromo)).length < 12)) &&
  decide ((gs.map (fun g => (s.hdrOf g).lines)).sum + h.lines ≤ Config.pinLines) &&
  decide ((gs.map (fun g => (s.hdrOf g).tiles)).sum + h.tiles ≤ 8)

/-- Whether an allocation occupies units of its core. -/
def Alloc.held (a : Alloc) : Bool := a.saved.isNone && !a.freed

/-- The runs of units that allocations occupy on a core: base and length. -/
def State.runs (s : State) (die core : Nat) : List (Nat × Nat) :=
  (s.blocks.filter (fun b => b.die == die)).flatMap (fun b =>
    (b.allocs.filter (fun a => a.held && a.core == core)).map (fun a =>
      (a.base, (s.launchOf b.die b.lchid).hdr.units)))

/-- The lowest base of a free run of units on a core (R34). -/
def State.freeRun (s : State) (die core units : Nat) : Option Nat :=
  let rs := s.runs die core
  findBy (fun b => rs.all (fun r => decide (r.1 + r.2 ≤ b) || decide (b + units ≤ r.1)))
    (upFrom 0 (321 - units))

/-- Groups of a block that are not discarded (R314). -/
def Launch.blockSize (l : Launch) (ix : Nat) : Nat :=
  match l.lastGroups with
  | some k => if ix + 1 = l.total then k else l.hdr.groups
  | none => l.hdr.groups

/-- GIMAX of a context's image (R412). -/
def State.gimax (s : State) (pasid : Nat) : Nat := s.objNum (s.ctxOf pasid).image 32 4

/-- The lowest `n` free group image slots of a context (R411). -/
def State.freeImages (s : State) (pasid n : Nat) : List Nat :=
  let used := (s.groups.filter (fun g => g.pasid == pasid)).map (fun g => g.image)
  ((upFrom 0 (min (s.gimax pasid) (used.length + n))).filter (fun k => !used.contains k)).take n

/-- The lowest free group image slot of a context (R411). -/
def State.freeImage (s : State) (pasid : Nat) : Option Nat := (s.freeImages pasid 1).head?

/-- The last byte of a group image slot (R411). -/
def slotEnd (k : Nat) : Nat := 0x1000 + 0x30000 * k + 0x2FFFF

/-! ### A group placed -/

/-- The paths of a group that starts: one, or one per half in compatibility mode (R18, R25, R76). -/
def startPaths (h : KHeader) (pc : Addr) : List Path :=
  let p := { Path.free with live := true, pc := pc }
  if h.compat then
    { p with mask := 0x0000FFFF, slices := 0x0F } :: { p with mask := 0xFFFF0000, slices := 0xF0 } ::
      List.replicate 6 Path.free
  else { p with mask := 0xFFFFFFFF, slices := 0xFF } :: List.replicate 7 Path.free

/-- A group as it starts (R76, R309). -/
def startGroup (l : Launch) (gid ix grp image : Nat) : Group :=
  { Group.blank with
    gid := gid, die := l.die, lchid := l.lchid, block := ix, grpid := grp, role := roleOf l.hdr grp,
    pasid := l.pasid, image := image, ended := false,
    s := (l.args.zip (upFrom 0 8)).foldl (fun m x => spSet 0 m x.2 x.1) [],
    paths := startPaths l.hdr (BitVec.ofNat 57 (l.hdrAddr + l.hdr.entry)) }

/-- Whether a place suits a role of a block: a core of the block's cluster, the one on which the role's other groups are
(R27), and the role's own position in it (R28), unless the block has one role (R344) or a replayed record names the place (R277; log entry 32). -/
def State.suits (s : State) (die lchid ix role : Nat) (pl : Place) (named : Bool) : Bool :=
  pl.die == die && (named || pl.core % 4 == role || (s.launchOf die lchid).hdr.roles == 1) &&
  (s.groups.filter (fun g => g.die == die && g.lchid == lchid && g.block == ix)).all (fun g =>
    match g.spot with
    | some p => p.core / 4 == pl.core / 4 && (g.role != role || p.core == pl.core)
    | none => true)

/-- The state with a role's allocation on a core: the one that it holds there, a new one, or the saved one
restored (R34, R417). One that no group of the role uses on another core moves: a replay places its groups there (R277). -/
def State.allocRole (s : State) (die lchid ix role core : Nat) (h : KHeader) : Option State :=
  if h.scratch = 0 then some s
  else
    match (s.blockOf die lchid ix).bind (fun b => findBy (fun (a : Alloc) => a.role == role) b.allocs) with
    | some a =>
      let alone := !s.groups.any (fun g => g.die == die && g.lchid == lchid && g.block == ix && g.role == role && g.spot.isSome)
      if a.held && a.core = core then some s
      else if a.held && !alone then none
      else
        (s.freeRun die core h.units).map (fun base =>
          let f := fun (x : Alloc) => { x with core := core, base := base, saved := none, freed := false }
          s.updBlock die lchid ix (fun b =>
            { b with allocs := updBy (fun (x : Alloc) => x.role == role) f b.allocs }))
    | none =>
      (s.freeRun die core h.units).map (fun base =>
        s.updBlock die lchid ix (fun b =>
          { b with allocs := b.allocs ++
              [{ role := role, core := core, base := base, bytes := [], poison := [], saved := none, freed := false }] }))

/-- Whether an object has a byte at an offset. -/
def State.objHas (s : State) (id o : Nat) : Bool :=
  match s.objAddr id o false false with
  | .ok _ => true
  | .error _ => false

/-- A group of a started block placed in a record: a new group, or one that was out, which keeps the record
for its resumption. None where there is no room (R32 to R34, R156, R411). `named`: a replayed record names it. -/
def State.placeGroup1 (s : State) (die lchid ix grp : Nat) (pl : Place) (reserve named : Bool) : Option State :=
  let l := s.launchOf die lchid
  let role := roleOf l.hdr grp
  if !s.suits die lchid ix role pl named || !s.hasRoom l.hdr pl reserve then none
  else
    (s.allocRole die lchid ix role pl.core l.hdr).bind (fun s1 =>
      match findBy (fun (g : Group) => g.die == die && g.lchid == lchid && g.block == ix && g.grpid == grp) s1.groups with
      | some g =>
        if g.spot.isSome || g.ended then none
        else some (s1.updGrp g.gid (fun g =>
          { g with reserved := some pl, byPromo := reserve, dispatched := (s1.dieOf die).clk }))
      | none =>
        (s1.freeImage l.pasid).bind (fun k =>
          if s1.objHas (s1.ctxOf l.pasid).image (slotEnd k) && !(s1.ctxOf l.pasid).imageOff then
            some { s1 with
              nextId := s1.nextId + 1, nextPlace := s1.nextPlace + 1,
              groups := s1.groups ++ [{ startGroup l s1.nextId ix grp k with
                place := some pl, byPromo := reserve, dispatched := (s1.dieOf die).clk, age := s1.nextPlace }] }
          else none))

/-! ### The headstock's records (R271, R276, R277) -/

/-- The PAYLOAD of DISPATCH and EVICT. -/
def groupPayload (ix grp : Nat) : Nat := ix % 2 ^ 32 + grp * 2 ^ 32

/-- A headstock event of a die about a launch while its context records: its record with the die's ordinal, or (none) a
full ring that delays it. -/
def headEvent (s : State) (die : Nat) (l : Launch) (typ issuer payload : Nat) : Option State :=
  let c := s.ctxOf l.pasid
  if c.grain = 0 || c.mode != 1 || l.hdr.nolog then some s
  else if !grainRoom s l.pasid then none
  else
    let e : GEvent :=
      { typ := typ, flags := 0, issuer := issuer, line := l.lchid, version := ordinalOf c die typ, payload := payload }
    some ((grainRecord s l.pasid { ev := e, line := none, own := none, olds := [] }).updCtx l.pasid (fun c => c.bumpOrd die typ))

/-- Whether a launch's headstock events are held to a replay's records. -/
def replaying (s : State) (l : Launch) : Bool :=
  let c := s.ctxOf l.pasid
  c.grain != 0 && c.mode == 2 && !l.hdr.nolog

/-- A group placed, with its DISPATCH record. -/
def State.dispatch1 (s : State) (die lchid ix grp : Nat) (pl : Place) (reserve : Bool) : Option State :=
  (s.placeGroup1 die lchid ix grp pl reserve false).bind (fun s1 =>
    headEvent s1 die (s1.launchOf die lchid) 5 (issuerOf pl 0) (groupPayload ix grp))

/-! ### Blocks -/

/-- Whether a block is out of its records. -/
def Block.away (b : Block) : Bool := b.stat == BlockStat.out || b.stat == BlockStat.evicted

/-- The started block of a launch that is out and was dispatched first (R293, R299). -/
def State.oldestAway (s : State) (die lchid : Nat) : Option Block :=
  (s.blocks.filter (fun b => b.die == die && b.lchid == lchid && b.away)).foldl
    (fun (o : Option Block) b => match o with
      | none => some b
      | some x => if b.ordinal < x.ordinal then some b else some x) none

/-- The state with a block started, or marked as placed again. -/
def State.startBlock (s : State) (die lchid ix : Nat) : State :=
  let n := (s.dieOf die).dispatches
  let s1 := s.updDie die (fun d => { d with dispatches := n + 1 })
  match s1.blockOf die lchid ix with
  | some _ => s1.updBlock die lchid ix (fun b => { b with stat := .resident, ordinal := n })
  | none =>
    { s1.updLaunch die lchid (fun l => { l with next := max l.next (ix + 1) }) with
      blocks := s1.blocks ++
        [{ die := die, lchid := lchid, ix := ix, stat := .resident, ordinal := n, gone := [], allocs := [] }] }

/-- The groups of a block that need a record, in ascending number. -/
def State.seatless (s : State) (die lchid ix : Nat) : List Nat :=
  let gone := match s.blockOf die lchid ix with
    | some b => b.gone
    | none => []
  (upFrom 0 ((s.launchOf die lchid).blockSize ix)).filter (fun k =>
    !gone.contains k &&
    match findBy (fun (g : Group) => g.die == die && g.lchid == lchid && g.block == ix && g.grpid == k) s.groups with
    | some g => g.spot.isNone && !g.ended
    | none => true)

/-- Groups placed at places in turn; none where one finds no room or no place. -/
def State.dispatchGroups (die lchid ix : Nat) : List Nat → List Place → State → Option (State × List Place)
  | [], ps, s => some (s, ps)
  | _ :: _, [], _ => none
  | g :: r, p :: ps, s =>
    (s.dispatch1 die lchid ix g p false).bind (fun s1 => State.dispatchGroups die lchid ix r ps s1)

/-- A block placed whole, at the first of the places given. -/
def State.dispatchBlock (s : State) (die lchid ix : Nat) (ps : List Place) : Option (State × List Place) :=
  let s1 := s.startBlock die lchid ix
  State.dispatchGroups die lchid ix (s1.seatless die lchid ix) ps s1

/-- The block of a launch that is dispatched next: one that is out, or the first unstarted (R293). -/
def State.nextBlock (s : State) (die lchid : Nat) : Option Nat :=
  match s.oldestAway die lchid with
  | some b => some b.ix
  | none =>
    let l := s.launchOf die lchid
    if l.next < l.total then some l.next else none

/-- Blocks placed one after another while places last. -/
def State.dispatchAll (die lchid : Nat) : Nat → List Place → State → Option State
  | 0, _, s => some s
  | n + 1, ps, s =>
    match s.nextBlock die lchid with
    | none => some s
    | some ix =>
      match s.dispatchBlock die lchid ix ps with
      | none => none
      | some (s1, ps1) => State.dispatchAll die lchid n ps1 s1

/-- The blocks of a launch that wait for dispatch. -/
def State.waitingBlocks (s : State) (l : Launch) : Nat :=
  (s.blocks.filter (fun b => b.die == l.die && b.lchid == l.lchid && b.away)).length + (l.total - l.next)

/-- Whether a launch waits for dispatch: blocks, or the header check or count read that precedes them. -/
def State.wantsDispatch (s : State) (l : Launch) : Bool :=
  l.unchecked || l.count.isSome || s.waitingBlocks l != 0

/-- Whether a launch comes before another in the order of R292. -/
def Launch.before (a b : Launch) : Bool :=
  decide (b.cls.toNat < a.cls.toNat) || (a.cls == b.cls && decide (a.order < b.order))

/-- Whether a launch's dispatch is due: no launch of its context on the die comes before it (R292). -/
def State.due (s : State) (l : Launch) : Bool :=
  s.wantsDispatch l &&
  !s.launches.any (fun o => o.die == l.die && o.pasid == l.pasid && s.wantsDispatch o && o.before l)

/-- Whether the headstock of a die dispatches for a context now. -/
def State.dispatching (s : State) (die pasid : Nat) : Bool :=
  let c := s.ctxOf pasid
  c.on.contains die && !c.stopping.contains die && !c.teardown && !c.headStop.contains die

/-- Whether a promotion of a context that has been planned is being carried out: no other dispatch takes
the room that it counts on (R302). -/
def State.promoting (s : State) (pasid : Nat) : Bool :=
  s.dies.any (fun d => d.promo.any (fun r => r.plan.isSome && (s.grp r.who.gid).pasid == pasid))

end Sys2Proof.Machine
end

