-- ==== Sys2Proof/Machine/Schedule.lean ====
section
/-! DEFINITION. Spawning (R311 to R315) and the headstock's scheduling events: BLOCK_DISPATCH, the check of a
child's header, the count read of `spawnx`, and the freeing of a group's record (R85, R292, R313, R314). -/

namespace Sys2Proof.Machine

/-! ### `spawn` and `spawnx` (R311 to R315) -/

/-- The S register that B names. -/
def sIndex : Operand → Nat
  | .s n => n.toNat
  | _ => 1024

/-- The child's class as A names it. -/
def Env.childClass (e : Env) (a : Operand) : Nat :=
  match a with
  | .sr _ => e.launch.cls.toNat
  | _ => (e.uni a).toNat

/-- The address of a child's header. -/
def Env.childHeader (e : Env) (k : Word) : Addr := e.path.pc + (k.signExtend 57 : BitVec 57)

/-- A parameter word of a spawn. -/
def Env.param (e : Env) (b : Operand) (k : Nat) : Nat := (e.g.rdS (sIndex b + k)).toNat

/-- The trap of a spawn (R312). -/
def spawnTrap (w : XK) (x : Bool) (e : Env) : Option Trap :=
  let cls := e.childClass w.a
  let badSr := match w.a with
    | .sr n => n != 0x09
    | _ => false
  let b := sIndex w.b
  let t := fun (c : Cause) (f : Nat) => some ({ cause := c, faddr := BitVec.ofNat 64 f, lmask := e.act } : Trap)
  if !badSr && cls == 3 then t .illegalField 0
  else if badSr || decide (e.launch.cls.toNat < cls) || b % 4 != 0 || decide (1012 < b) || e.param w.b 3 != 0 ||
      (!x && decide (2 ^ 32 - 1 < e.param w.b 0 * e.param w.b 1 * e.param w.b 2)) then t .illegalOperand 0
  else if (e.childHeader w.k).toNat % 64 ≠ 0 then t .memAlign (e.childHeader w.k).toNat
  else if x && e.param w.b 0 % 4 != 0 then t .memAlign (e.param w.b 0 + e.param w.b 1 * 2 ^ 32)
  else none

/-- The child of a spawn as it is created (R313, R314). -/
def Env.child (e : Env) (w : XK) (x : Bool) : Launch :=
  let l := e.launch
  let p := e.param w.b
  let total := if x then 0 else p 0 * p 1 * p 2
  { Launch.blank with
    die := e.g.die, pasid := e.g.pasid, queue := l.queue, cmd := l.cmd, parent := some e.g.lchid,
    cls := BitVec.ofNat 2 (e.childClass w.a), hdrAddr := (e.childHeader w.k).toNat,
    grid := if x then (0, 1, 1) else (p 0, p 1, p 2),
    args := (upFrom 4 8).map (fun k => e.g.rdS (sIndex w.b + k)),
    n := if x then 1 else total, total := total, unchecked := true,
    count := if x then some ((p 0 + p 1 * 2 ^ 32) % 2 ^ 57, p 2) else none, saw := if x then e.path.view else [],
    semBase := l.semBase, semCnt := l.semCnt, stages := l.stages }

/-- The LCHID by which a SPAWN record names the child: its own, or in replay that of the recorded run, which the path's next
record gives (R277; log entry 85). -/
def childName (s : State) (g : Group) (pix : Nat) : Nat :=
  let c := s.ctxOf g.pasid
  if grainOn s g && c.mode == 2 then
    match nextOfPath s c g (g.issuer pix) with
    | .record _ r => if r % 256 = 7 then nbits r 151 88 else s.nextLch g.die
    | _ => s.nextLch g.die
  else s.nextLch g.die

/-- The child of a spawn created, under the name by which a replay's records know it. -/
def State.addChild (s : State) (g : Group) (c : Launch) (name : Nat) : State :=
  let s1 := s.createLaunch c
  if grainOn s g && (s.ctxOf g.pasid).mode == 2 then s1.nameLaunch g.pasid g.die (s.nextLch g.die) name else s1

/-- `spawn` and `spawnx` (R313, R314): the SPAWN record, then the child and its parent's count. -/
def spawnRes (w : XK) (x : Bool) (e : Env) (s : State) : Res :=
  if e.act = 0 then .adv s
  else
    match spawnTrap w x e with
    | some t => .trap t
    | none =>
      let c := e.child w x
      let g := s.grp s.cur.gid
      if !x && c.total = 0 then .adv s
      else
        let name := childName s g e.pix
        match ordEvent s g e.pix 7 name c.total with
        | .hold s1 => .hold (s1.grainHeld s.cur.gid e.pix)
        | .trap k a b => .trap (ringTrap e.act k a b)
        | .run s1 _ =>
          .adv ((s1.addChild g c name).updLaunch e.g.die e.g.lchid (fun l => { l with n := l.n + 1 }))

/-- `spawn` (R313). -/
def execSpawn (w : XK) : Meaning := issue (.spawn w) w.h (spawnRes w false)
/-- `spawnx` (R314). -/
def execSpawnx (w : XK) : Meaning := issue (.spawnx w) w.h (spawnRes w true)

/-! ### The child's header and count (R313, R314) -/

/-- The policy floor of a launch's queue (R48). -/
def floorOf (s : State) (l : Launch) : Nat := qcbFloor (qcb s l.die l.pasid l.queue)

/-- A launch with its checked header: the effective mode, and a latency mismatch reported (R336). -/
def acceptHeader (s : State) (l : Launch) (h : KHeader) : State :=
  let s1 := s.updLaunch l.die l.lchid (fun l =>
    { l with hdr := h, unchecked := false, sbmode := effectiveMode h (floorOf s l) })
  if h.lattab = Config.latencyTable then s1 else reportRoot s1 l 0x03 l.lchid h.lattab Config.latencyTable

/-- A child rejected: it creates no block and completes, and its parent's LCHID is reported (R313). -/
def rejectChild (s : State) (l : Launch) (code d0 d1 : Nat) : State :=
  let s1 := reportRoot s l code (l.parent.getD 0) d0 d1
  State.settleLaunch (s1.launches.length) l.die l.lchid
    (s1.updLaunch l.die l.lchid (fun l => { l with n := 0, total := 0, count := none, unchecked := false }))

/-- CHILD_HEADER_CHECK (R313). A fault in reading the header rejects the child with code 0x07. -/
def execChildHeaderCheck (die lchid : Nat) (s : State) : Host.Outcome State Fault Refusal :=
  let l := s.launchOf die lchid
  if !l.unchecked then .next s
  else
    match headRead s die l.pasid l.hdrAddr 64 with
    | (s1, .error none) => .next s1
    | (s1, .error (some c)) => .next (rejectChild s1 l 0x07 l.hdrAddr c.code.toNat)
    | (s1, .ok bs) =>
      let x := ofLe bs
      let h := headerOf x
      let (gx, gy, gz) := l.grid
      match firstFail [headerCheck x l.hdrAddr, gridCheck { h with cls := l.cls } gx gy gz,
          drainCheck h (s1.ctxOf l.pasid).draint] with
      | some f => .next (rejectChild s1 l 0x04 f.check f.value)
      | none => .next (acceptHeader s1 l h)

/-- The bytes that the headstock's relaxed load of a count word returns (R314): any that the rules allow, and none older than
what the issuing path had written or read before its `spawnx` (log entry 51). -/
def countRead (s : State) (l : Launch) (a : Nat) : State × Except (Option Cause) (List Byte) :=
  match headRead s l.die l.pasid a 4 with
  | (s1, .ok bs) =>
    match (s1.translate l.die headCore 1 l.pasid (a % 2 ^ 57) needR).2 with
    | .ok x =>
      let ps := s1.pickBytes l.saw (s1.mappedAt l.die headCore 1 l.pasid (a % 2 ^ 57)) 0 (upFrom x.loc.cell 4)
      (s1, .ok (ps.map (fun p => p.2)))
    | _ => (s1, .ok bs)
  | r => r

/-- SPAWNX_COUNT_READ (R314): when the child's first dispatch is due, the count word fixes its blocks. -/
def execSpawnxCountRead (die lchid : Nat) (s : State) : Host.Outcome State Fault Refusal :=
  let l := s.launchOf die lchid
  match l.count with
  | none => .next s
  | some (a, cap) =>
    if l.unchecked || !s.dispatching die l.pasid ||
        !(s.due l || s.dies.any (fun d => d.promo.any (fun r => (s.grp r.who.gid).pasid == l.pasid))) then .next s
    else
      match countRead s l a with
      | (s1, .error none) => .next s1
      | (s1, .error (some c)) => .next (rejectChild s1 l 0x07 a c.code.toNat)
      | (s1, .ok bs) =>
        let m := min (ofLe bs) cap
        let g := l.hdr.groups
        let b := (m + g - 1) / g
        match gridCheck { l.hdr with cls := l.cls } b 1 1 with
        | some f => .next (rejectChild s1 l 0x04 f.check f.value)
        | none =>
          let s2 := s1.updLaunch die lchid (fun l =>
            { l with n := b, total := b, grid := (b, 1, 1), count := none,
                     lastGroups := if b = 0 then none else some (m - g * (b - 1)) })
          .next (if b = 0 then State.settleLaunch s2.launches.length die lchid s2 else s2)

/-! ### BLOCK_DISPATCH (R277, R292) -/

/-- The state with a context's dispatching stopped, on every die, by a record that cannot be kept (R279). -/
def stopDispatch (s : State) (die pasid r : Nat) : State :=
  let s1 := s.updCtx pasid (fun c => { c with headStop := [0, 1, 2, 3] })
  match (s.queues.filter (fun q => q.ref.pasid == pasid && q.die == die)).head? with
  | none => s1
  | some q =>
    reportQueue s1 die pasid
      { code := 0x05, die := die, queue := q.ref.q, rptr := 0, lchid := 0, d0 := nbits r 87 40, d1 := 0 }

/-- A headstock record taken, and its type's ordinal advanced. -/
def takeHead (s : State) (pasid die ix typ : Nat) : State :=
  (takeRecord s pasid ix).updCtx pasid (fun c => c.bumpOrd die typ)

/-- The place that a record's ISSUER names (R270). -/
def placeOfIssuer (i : Nat) : Place :=
  { die := nbits i 23 22, core := nbits i 21 16, part := nbits i 15 13, slot := nbits i 12 9 }

/-- The state in which the context image has been found not to hold one of the next `n` free slots of a launch's groups, if it
does not: the slot is met at its first use (R411). -/
def State.slotMet (s : State) (l : Launch) (n : Nat) : State :=
  match (s.freeImages l.pasid n).findSome? (fun k =>
    match s.objAddr (s.ctxOf l.pasid).image (slotEnd k) false false with
    | .ok _ => none
    | .error e => some e) with
  | some e => imageFault s l.die l.pasid e
  | none => s

/-- The group of a block by its number. -/
def State.groupOf (s : State) (die lchid ix grp : Nat) : Option Group :=
  findBy (fun (g : Group) => g.die == die && g.lchid == lchid && g.block == ix && g.grpid == grp) s.groups

/-- The state in which a group whose next DISPATCH record gives it another place is asked out of its record, once the
records of its present place that stand before that one are consumed (R277, R288). -/
def State.reseat (s : State) (g : Group) (ix : Nat) : State :=
  let holds := g.paths.any (fun p => match p.wait.map (fun (x : Wait) => x.kind) with
    | some (WaitKind.op _) => true
    | _ => false)
  if holds || pathOwes s (s.ctxOf g.pasid) g ix then s
  else s.updGrp g.gid (fun g => { g with stopReq := g.place.isSome, reserved := none })

/-- A DISPATCH record carried out for a launch whose header has been checked (R63, R277 to R279). The group that it places
counts as one that a promotion placed, so no replayed group counts against the ordinary records of a partition (R32; log
entry 85). -/
def replayDispatch (s : State) (l : Launch) (ix r : Nat) : State :=
  let die := l.die
  let blk := nbits r 215 184
  let grp := nbits r 231 216
  let pl := placeOfIssuer (nbits r 39 16)
  let live := s.groups.any (fun g => g.die == die && g.lchid == l.lchid)
  if l.unchecked || l.count.isSome then s
  else if l.total ≤ blk then (if live then s else stopDispatch s die l.pasid r)
  else
    match s.groupOf die l.lchid blk grp with
    | some g =>
      if g.place = some pl then takeHead s l.pasid die ix 5
      else if g.spot.isSome then s.reseat g ix
      else
        let s1 := if (match s.blockOf die l.lchid blk with
          | some b => b.away
          | none => false) then s.startBlock die l.lchid blk else s
        match s1.placeGroup1 die l.lchid blk grp pl true true with
        | some s2 => takeHead s2 l.pasid die ix 5
        | none => s
    | none =>
      let s1 := if (s.blockOf die l.lchid blk).isSome then s else s.startBlock die l.lchid blk
      match s1.placeGroup1 die l.lchid blk grp pl true true with
      | some s2 => takeHead s2 l.pasid die ix 5
      | none => s.slotMet l 1

/-- In replay, a block that a context switch took out goes back to the records that it held, without a
record (log entry 17). -/
def replayReturn (s : State) (l : Launch) : State :=
  match s.oldestAway l.die l.lchid with
  | none => s
  | some b =>
    if b.stat != BlockStat.out then s
    else
      let gs := s.seatless l.die l.lchid b.ix
      let put := fun (s : Option State) (k : Nat) =>
        s.bind (fun s => (s.groupOf l.die l.lchid b.ix k).bind (fun g =>
          g.last.bind (fun pl => s.placeGroup1 l.die l.lchid b.ix k pl g.byPromo true)))
      match gs.foldl put (some (s.startBlock l.die l.lchid b.ix)) with
      | some s1 => s1
      | none => s

/-- The dispatch of a launch in replay. -/
def dispatchReplay (s : State) (l : Launch) : State :=
  let c := s.ctxOf l.pasid
  match nextOfHead s c l.die with
  | .none => replayReturn s l
  | .gap r => stopDispatch s l.die l.pasid r
  | .end_ r => if r % 256 = 0x10 then replayReturn s l else stopDispatch s l.die l.pasid r
  | .record ix r =>
    if r % 256 ≠ 5 || nbits r 183 152 ≠ ordinalOf c l.die 5 then replayReturn s l
    else
      let lch := nbits r 151 88
      match s.launchNamed l.pasid l.die lch with
      | some x => if x.lchid = l.lchid then replayDispatch (s.nameLaunch l.pasid l.die l.lchid lch) l ix r else s
      | none => if s.nameGone l.pasid l.die lch then stopDispatch s l.die l.pasid r else replayReturn s l

/-- Blocks of a launch whose dispatch is due, placed at places in turn; where nothing but a full ring delays them, FULLSEEN
is set (R276), and an image that does not hold their slots is reported (R411). -/
def State.dispatchDue (s : State) (l : Launch) (places : List Place) : State :=
  let n := if l.cls = 2 then s.waitingBlocks l else 1
  match State.dispatchAll l.die l.lchid n places s with
  | some s1 => s1
  | none =>
    if (State.dispatchAll l.die l.lchid n places (s.updCtx l.pasid (fun c => { c with grain := 0 }))).isSome then
      grainSetFullSeen s (s.ctxOf l.pasid)
    else
      s.slotMet l (n * l.hdr.groups)

/-- BLOCK_DISPATCH (R292): the next block of the launch whose dispatch is due, or every block of a STEADY
launch, is placed at the given places if there is room. -/
def execBlockDispatch (die lchid : Nat) (places : List Place) (s : State) : Host.Outcome State Fault Refusal :=
  match findBy (fun (l : Launch) => l.die == die && l.lchid == lchid) s.launches with
  | none => .next s
  | some l =>
    if !s.dispatching die l.pasid then .next s
    else if replaying s l then .next (dispatchReplay s l)
    else if s.promoting l.pasid || !s.due l || l.unchecked || l.count.isSome then .next s
    else .next (s.dispatchDue l places)

/-! ### GROUP_RECORD_FREE (R34, R85, R310) -/

/-- Whether every group of a role of a block has ended. -/
def State.roleEnded (s : State) (b : Block) (role : Nat) : Bool :=
  let l := s.launchOf b.die b.lchid
  (upFrom 0 (l.blockSize b.ix)).all (fun k =>
    roleOf l.hdr k != role || b.gone.contains k ||
    match s.groupOf b.die b.lchid b.ix k with
    | some g => g.ended
    | none => false)

/-- Whether a record's elements over some coordinates lie in a role's scratchpad; `own` is the role that SCRATCH means. -/
def Tsr.inRole (t : Tsr) (clamp : Bool) (own role : Nat) (cs : List (List Int)) : Bool :=
  match tsrSpace t with
  | .scr => own == role
  | .cls => cs.any (fun c => match tsrElem t clamp c with
    | some (a, _) => a / 2 ^ 20 == role
    | none => false)
  | _ => false

/-- Whether an operation addresses the scratchpad of a role: a peer store to it, or a copy with an element or its barrier
object there (R34). -/
def Op.addressesRole (o : Op) (own role : Nat) : Bool :=
  match o.kind with
  | .peer _ => o.todo.any (fun e => e.addr / 2 ^ 20 == role)
  | .copy r _ =>
    let at_ := fun (org : List Int) => (upFrom 0 (boxSize r.box)).map (fun n => shifted (boxCoords r.box n) org)
    !o.done && (r.src.inRole true own role (at_ r.sorg) || r.dst.inRole false own role (at_ r.dorg) ||
      (r.mode == 1 && r.barobj / 2 ^ 20 == role))
  | _ => false

/-- The allocations of a block freed whose roles have ended and that nothing outstanding addresses. -/
def State.freeAllocs (s : State) (die lchid ix : Nat) : State :=
  match s.blockOf die lchid ix with
  | none => s
  | some b =>
    let gs := s.groups.filter (fun g => g.die == die && g.lchid == lchid && g.block == ix)
    let free := fun (a : Alloc) =>
      a.freed || (s.roleEnded b a.role && !gs.any (fun g => g.ops.any (fun o => o.addressesRole g.role a.role)))
    s.updBlock die lchid ix (fun b =>
      { b with allocs := b.allocs.map (fun a => { a with freed := free a }) })

/-- The allocations of every block that are due to be freed. -/
def State.freeDue (s : State) : State := s.blocks.foldl (fun s b => s.freeAllocs b.die b.lchid b.ix) s

/-- The state with a block that owes no group ended (R310). -/
def State.endBlock (s : State) (die lchid ix : Nat) : State :=
  match s.blockOf die lchid ix with
  | none => s
  | some b =>
    if b.gone.length < (s.launchOf die lchid).blockSize ix then s
    else
      ({ s with blocks := s.blocks.filter (fun x => !(x.die == die && x.lchid == lchid && x.ix == ix)) }).lessLaunch
        die lchid

/-- GROUP_RECORD_FREE (R85): the record of an ended group whose counters read zero is freed, and with the last
group its block ends. Faults still held enter no path and are reported (R403). -/
def execGroupRecordFree (gid : Nat) (s : State) : Host.Outcome State Fault Refusal :=
  match findBy (fun (g : Group) => g.gid == gid) s.groups with
  | none => .next s
  | some g =>
    if !g.ended || !g.ops.isEmpty then .next s
    else
      let s1 := g.faults.foldl (fun s h => reportOrphan s g h.faddr h.cause) s
      let s2 := { s1 with
        groups := s1.groups.filter (fun x => x.gid != gid), rest := s1.rest.filter (fun e => e.who.gid != gid) }
      let s3 := s2.updBlock g.die g.lchid g.block (fun b => { b with gone := g.grpid :: b.gone })
      .next ((s3.freeAllocs g.die g.lchid g.block).endBlock g.die g.lchid g.block)

end Sys2Proof.Machine
end

