-- ==== Sys2Proof/Machine/Drain.lean ====
section
/-! DEFINITION. Drain programs (R179 to R196): the words that the drain engine runs on the 32 elements of
a row, their stores and reductions, and the start, the stop and the end of a drain. -/

namespace Sys2Proof.Machine

/-! ### Working registers (R181, R182) -/

/-- Working register `k` of column `j`. -/
def Engine.reg (en : Engine) (j k : Nat) : Word := spGet 0 en.d (8 * j + k)

/-- A source of a drain word: d0 to d7, or an argument (R181). -/
def Engine.src (en : Engine) (j : Nat) (x : BitVec 4) : Word :=
  if x.toNat < 8 then en.reg j x.toNat else getAt 0 en.args (x.toNat - 8)

/-- A source as an FP32 value. -/
def Engine.num (en : Engine) (j : Nat) (x : BitVec 4) : FNum := fDecode f32 (en.src j x).toNat

/-- The rounding mode of a drain word: RND 5 is ASTAT.RM as the `tmov.drain` read it (R183). -/
def Engine.mode (en : Engine) (r : BitVec 3) : Nat := if r = 5 then en.rm.toNat else r.toNat

/-- The engine with register `k` of every column written, events gathered, and the next word to run. -/
def Engine.put (en : Engine) (k : BitVec 3) (f : Nat → Word × Events) : Engine :=
  let rs := lanes.map f
  { en with
    d := (lanes.zip rs).foldl (fun m x => spSet 0 m (8 * x.1 + k.toNat) x.2.1) en.d,
    flags := rs.foldl (fun v x => v ||| x.2) en.flags, dpc := en.dpc + 1 }

/-- A word of the current engine that computes a register from the columns' own values. -/
def drainWord (k : BitVec 3) (f : Engine → Nat → Word × Events) : Meaning :=
  fun s => .next (s.updEngine s.eng (fun en => if en.active then en.put k (f en) else en))

/-- A word of 32-bit patterns, which raises no event. -/
def drainBits (k : BitVec 3) (f : Engine → Nat → Word) : Meaning := drainWord k (fun en j => (f en j, 0))

/-- An FP32 result of a drain word (R183). -/
def drainFloat (w : DW) (f : Engine → Nat → FNum × Events) : Meaning :=
  drainWord w.d (fun en j =>
    let (x, ev) := f en j
    let (r, ev2) := fResult f32 (en.mode w.r) w.s x
    (BitVec.ofNat 32 r, ev ||| ev2))

/-! ### Arithmetic words (R183) -/

/-- `dfadd` (R183). -/
def execDfadd (w : DW) : Meaning := drainFloat w (fun en j => numAdd (en.mode w.r) (en.num j w.a) (en.num j w.b))
/-- `dfsub` (R183). -/
def execDfsub (w : DW) : Meaning :=
  drainFloat w (fun en j => numAdd (en.mode w.r) (en.num j w.a) (numNeg (en.num j w.b)))
/-- `dfmul` (R183). -/
def execDfmul (w : DW) : Meaning := drainFloat w (fun en j => numMul (en.num j w.a) (en.num j w.b))
/-- `dfma` (R183): d := a·b + d. -/
def execDfma (w : DW) : Meaning :=
  drainFloat w (fun en j =>
    fusedMulAdd (en.mode w.r) (en.num j w.a) (en.num j w.b) (fDecode f32 (en.reg j w.d.toNat).toNat))

/-- The selection of R140 on FP32 patterns. -/
def drainSelect (greater : Bool) (a b : Word) : Word × Events :=
  let x := fDecode f32 a.toNat
  let y := fDecode f32 b.toNat
  (if x.isNan && y.isNan then BitVec.ofNat 32 (qnan f32)
   else if x.isNan then b
   else if y.isNan then a
   else if numBelow x y != greater then a
   else b, x.snv ||| y.snv)

/-- `dfmax` (R183). -/
def execDfmax (w : DW) : Meaning := drainWord w.d (fun en j => drainSelect true (en.src j w.a) (en.src j w.b))
/-- `dfmin` (R183). -/
def execDfmin (w : DW) : Meaning := drainWord w.d (fun en j => drainSelect false (en.src j w.a) (en.src j w.b))

/-- `drelu` of a value (R102, R183). -/
def reluOf (a : Word) : Word × Events :=
  match fDecode f32 a.toNat with
  | .nan g => (BitVec.ofNat 32 (qnan f32), if g then evNV else 0)
  | x => (if x.neg then 0 else a, 0)

/-- `drelu` (R183). -/
def execDrelu (w : DW) : Meaning := drainWord w.d (fun en j => reluOf (en.src j w.a))
/-- `dsel` (R183). -/
def execDsel (w : DW) : Meaning :=
  drainBits w.d (fun en j => if en.reg j w.d.toNat ≠ 0 then en.src j w.a else en.src j w.b)
/-- `diadd` (R183). -/
def execDiadd (w : DW) : Meaning := drainBits w.d (fun en j => en.src j w.a + en.src j w.b)
/-- `dimad` (R183). -/
def execDimad (w : DW) : Meaning := drainBits w.d (fun en j => en.src j w.a * en.src j w.b + en.reg j w.d.toNat)
/-- `dshl` (R183). -/
def execDshl (w : DK) : Meaning := drainBits w.d (fun en j => en.src j w.a <<< (w.k.toNat % 32))
/-- `dand` (R183). -/
def execDand (w : DW) : Meaning := drainBits w.d (fun en j => en.src j w.a &&& en.src j w.b)
/-- `dmov` (R183). -/
def execDmov (w : DW) : Meaning := drainBits w.d (fun en j => en.src j w.a)
/-- `dmovi` (R183). -/
def execDmovi (w : DK) : Meaning := drainBits w.d (fun _ _ => w.k.signExtend 32)
/-- `dmovhi` (R183). -/
def execDmovhi (w : DK) : Meaning := drainBits w.d (fun en j => w.k ++ (en.reg j w.d.toNat).setWidth 16)
/-- `dfcmp` (R183): the condition code lies in RND. -/
def execDfcmp (w : DW) : Meaning :=
  drainWord w.d (fun en j =>
    let (b, ev) := fcmpOf w.r.toNat (en.num j w.a) (en.num j w.b)
    (if b then 1 else 0, ev))
/-- `drst` (R183, R195): no effect on an element; the drain's completion looks for it. -/
def execDrst : Meaning :=
  fun s => .next (s.updEngine s.eng (fun en => if en.active then { en with dpc := en.dpc + 1 } else en))

/-! ### Memory words (R184, R189, R193) -/

/-- The words of a program slot as the engine decodes them. -/
def Group.program (g : Group) (p : Nat) : List (Option Instr) :=
  (upFrom 0 64).map (fun k => decodeDrain (g.drainWord p k))

/-- Whether a program is valid (R185). -/
def Group.programOk (g : Group) (p : Nat) : Bool := (g.program p).all (fun i => i.isSome)

/-- Whether a program holds `dred`. -/
def Group.programReds (g : Group) (p : Nat) : Bool :=
  (g.program p).any (fun i => match i with
    | some (.dred _) => true
    | _ => false)

/-- Whether a row that is at word `dpc` of a program may still meet a fault: a memory word is still to run. -/
def Group.programTouches (g : Group) (p dpc : Nat) : Bool :=
  (((g.program p).drop dpc).takeWhile (fun i => i != some .dend)).any (fun i => match i with
    | some (.dld _) => true
    | some (.dst _) => true
    | some (.dred _) => true
    | _ => false)

/-- Whether a program holds `drst`. -/
def Group.programCommits (g : Group) (p : Nat) : Bool := (g.program p).contains (some .drst)

/-- Whether an access shares a byte with `n` bytes of a unit's addresses from `a`. -/
def RowAccess.touches (x : RowAccess) (unit a n : Nat) : Bool :=
  x.unit == unit && meet x.addr (fmtBytes x.mf) a n

/-- The target of a unit's address: that of a scratchpad lies in the group's own role. -/
def unitTarget (unit a : Nat) : Target :=
  match unit with
  | 0 => .at_ (.mem a) 0
  | 1 => .at_ (.host a) 0
  | 2 => .at_ (.remote a) 0
  | _ => .scr (a / 2 ^ 20) (a % 2 ^ 20)

/-- The unit and address of a target. -/
def unitOf : Target → Nat × Nat
  | .at_ (.mem a) _ => (0, a)
  | .at_ (.host a) _ => (1, a)
  | .at_ (.remote a) _ => (2, a)
  | .scr role o => (3, role * 2 ^ 20 + o)
  | .obj as => (0, as.headD 0)

/-- A store or reduction of a drain performed, with its events and what it has written (R193, R243). A reduction
continues the release sequence of the write that it read (R229). -/
def performRow (g : Group) (s : State) (x : RowAccess) : State × Events × View :=
  let t := unitTarget x.unit x.addr
  let n := fmtBytes x.mf
  if x.red then
    let e : Elem := { lane := x.col, addr := x.addr, nib := none, val := x.val, val2 := 0, ver := none }
    let (v, ev) := atomNew .add x.mf (s.readTarget g t n) e
    let s1 := s.writeTarget g t n v
    (s1.releasing (s.msgsOf (s.stampsAt g t n)), ev, s1.wroteAt g t n)
  else
    let s1 := s.writeTarget g t n x.val.toNat
    (s1, 0, s1.wroteAt g t n)

/-- The accesses of a list performed in order. -/
def performRows (g : Group) (xs : List RowAccess) (s : State) : State × Events × View :=
  xs.foldl (fun (r : State × Events × View) x =>
    let (s1, ev, v) := performRow g r.1 x
    (s1, r.2.1 ||| ev, viewJoin r.2.2 v)) (s, 0, [])

/-- The address of a drain access of a column (R184). -/
def Engine.addr (en : Engine) (w : DM) (j : Nat) (o : BitVec 4) : Nat :=
  let lo := getAt 0 en.args (2 * w.p.toNat)
  let hi := getAt 0 en.args (2 * w.p.toNat + 1)
  let off := (en.src j o).toNat
  if w.x then (lo.toNat + off) % 2 ^ 32 else ((pairOf lo hi).toNat % 2 ^ 57 + off) % 2 ^ 57

/-- The place of a drain access, checked (R184): `red` asks what an atomic asks of its page. -/
def State.drainTarget (s : State) (g : Group) (w : DM) (a : Nat) (need : Need) (red : Bool) :
    State × Except (Option Cause) Target :=
  let n := fmtBytes w.f
  if a % n ≠ 0 then (s, .error (some .memAlign))
  else if w.x then
    match (engineEnv s g).scrAddr .scr a n with
    | some x => s.target g .scr x n need
    | none => (s, .error (some .memBounds))
  else
    match s.target g .gbl a n (if red then need.asks else need) with
    | (s1, .ok (.at_ p attr)) =>
      if red && !atomicOk attr (some .add) w.f false then (s1, .error (some .memProtection))
      else if red && s1.targetPoison g (.at_ p attr) n then (s1, .error (some .poison))
      else (if red then s1.used g a need else s1, .ok (.at_ p attr))
    | r => r

/-- The format of a drain register (R184). -/
def drainRf (w : DM) : Nat := if w.g then 6 else 9

/-- What a column of a memory word comes to. -/
inductive ColRes where
  | ok (s : State) (en : Engine)
  | bad (s : State) (c : Cause) (addr : Nat)
  | wait (s : State)
  deriving DecidableEq, Repr

/-- Byte `k` of an element as a `dld` reads it, with the stamp of its write (R189, R232): one that the rules allow. `key`
numbers the element in the step. None waits for a word in flight (R219). -/
def State.dldByte (s : State) (g : Group) (o : Op) (va : Nat) (t : Target) (key k : Nat) : Option (Nat × Nat) :=
  match t with
  | .scr role ofs => s.engineScr g o (role * 2 ^ 20 + ofs + k) (8 * key + k)
  | .at_ p attr => some (s.engineByte g o (va + k) (.at_ (p.plus k) attr) (8 * key + k))
  | .obj _ => some (0, 0)

/-- The bytes of an element that a `dld` reads: those that earlier accesses of the drain itself have given, and the
others of memory (R189). -/
def dldBytes (g : Group) (o : Op) (s : State) (en : Engine) (va : Nat) (t : Target) (key : Nat) :
    Nat → Option (Nat × View)
  | 0 => some (0, [])
  | k + 1 =>
    let (u, p) := unitOf t
    let own := en.acc.filter (fun x => x.touches u (p + k) 1)
    let b := if own.isEmpty then s.dldByte g o va t key k
      else some ((performRows g own s).1.readTarget g (unitTarget u (p + k)) 1, 0)
    match b, dldBytes g o s en va t key k with
    | some (v, st), some (x, w) => some (x + 256 ^ k * v, viewJoin w (viewOf ((unitTarget u (p + k)).cells g 1) [st]))
    | _, _ => none

/-- A `dld` of a column: it sees the drain's own accesses that come before it (R189). -/
def dldCol (g : Group) (w : DM) (s : State) (en : Engine) (j : Nat) : ColRes :=
  let a := en.addr w j w.o
  let n := fmtBytes w.f
  match s.drainTarget g w a needR false, g.op en.op with
  | _, none => .wait s
  | (s1, .error none), _ => .wait s1
  | (s1, .error (some c)), _ => .bad s1 c a
  | (s1, .ok t), some o =>
    if s1.targetPoison g t n then .bad s1 .poison a
    else
      match dldBytes g o s1 en a t (32 * en.dpc + j) n with
      | none => .wait s1
      | some (x, seen) =>
        let (r, ev) := convert w.f.toNat (drainRf w) (en.mode w.r) w.s x
        .ok (s1.addOwn en.gid en.op seen)
          { en with d := spSet 0 en.d (8 * j + w.d.toNat) (BitVec.ofNat 32 r), flags := en.flags ||| ev }

/-- A `dst` or `dred` of a column: translated now, performed later (R189, R193). -/
def dstCol (red : Bool) (g : Group) (w : DM) (s : State) (en : Engine) (j : Nat) : ColRes :=
  let a := en.addr w j w.o
  match s.drainTarget g w a needW red with
  | (s1, .error none) => .wait s1
  | (s1, .error (some c)) => .bad s1 c a
  | (s1, .ok t) =>
    let (u, p) := unitOf t
    let (r, ev) := convert (drainRf w) w.f.toNat (en.mode w.r) w.s (en.src j w.v).toNat
    let x : RowAccess :=
      { row := en.row, col := j, red := red, mf := w.f, unit := u, addr := p, val := BitVec.ofNat 64 r }
    .ok s1 { en with acc := en.acc ++ [x], flags := en.flags ||| ev }

/-- The columns of a word, one after another: the state, the engine, the columns that met a fault with its
cause and address, and whether a translation is awaited. -/
def runCols (f : State → Engine → Nat → ColRes) : List Nat → State → Engine →
    State × Engine × List (Nat × Cause × Nat) × Bool
  | [], s, en => (s, en, [], false)
  | j :: r, s, en =>
    match f s en j with
    | .ok s1 en1 => runCols f r s1 en1
    | .bad s1 c a =>
      let (s2, en2, bad, wt) := runCols f r s1 en
      (s2, en2, (j, c, a) :: bad, wt)
    | .wait s1 => (s1, en, [], true)

/-- The columns in a free order: accesses of one word to one byte are unordered among columns (R189). `n` of them are left
to be taken from `xs`. -/
def freeOrder (tick : Nat) : Nat → List Nat → List Nat
  | 0, _ => []
  | n + 1, xs =>
    let x := getAt 0 xs (Config.pick (tick + 2 ^ 67 * (2 ^ 19 + n + 1)) % xs.length)
    x :: freeOrder tick n (xs.filter (fun y => y != x))

/-- The 32 columns in a free order. -/
def freeCols (tick : Nat) : List Nat := freeOrder tick 32 lanes

/-! ### Stop and end (R188 to R195) -/

/-- The engine of a partition made idle. -/
def State.freeEngine (s : State) (e : EngRef) : State :=
  { s with engines := s.engines.filter (fun x => x.1 != e) }

/-- An engine's accesses performed, in their order. -/
def flushRows (g : Group) (xs : List RowAccess) (s : State) (en : Engine) : State × Engine :=
  let (s1, ev, v) := performRows g xs s
  (s1.addOwn en.gid en.op v,
    { en with flags := en.flags ||| ev, ni := en.ni || xs.any (fun x => x.red),
              acc := en.acc.filter (fun x => !xs.contains x) })

/-- A drain that ends without completing its rows (R192): its events are ORed into ASTAT and its operation
completes. -/
def abandonDrain (s : State) (gid : Nat) (d : StoppedDrain) : State :=
  s.updGrp gid (fun g =>
    let g1 : Group := { g.raise (s.dieOf g.die).clk d.flags with stopped := none }
    match g1.op d.op with
    | some o => (g1.addView o.ctr.code o.id o.own).updOp d.op (fun o => { o with done := true })
    | none => g1)

/-- A drain stopped at a row (R190): DRAIN_FAULT is raised, and a group with no live path abandons it. -/
def stopDrain (s : State) (gid : Nat) (o : Op) (d : StoppedDrain) (lanes : Mask) (addr : Nat) : State :=
  let dead := (s.grp gid).live.isEmpty
  let s1 := (s.updGrp gid (fun g => { g with stopped := some d })).raiseFault gid
    { op := o.id, path := o.path, cause := .drainFault, fpc := o.pc, faddr := BitVec.ofNat 64 addr,
      lmask := lanes, issuedAt := o.issuedAt }
  if dead then abandonDrain s1 gid d else s1

/-- The faults that a group still holds when its last path has ended: they are reported (R403), and a drain that stands
stopped is abandoned (R190). -/
def State.orphaned (s : State) (gid : Nat) : State :=
  let g := s.grp gid
  if !g.live.isEmpty then s
  else
    let s1 := (g.faults.foldl (fun s h => reportOrphan s g h.faddr h.cause) s).updGrp gid (fun g => { g with faults := [] })
    match g.stopped with
    | some d => if d.resumed then s1 else abandonDrain s1 gid d
    | none => s1

/-- Every group of the module whose last path has ended. -/
def State.orphans (s : State) : State :=
  (s.groups.filter (fun g => g.live.isEmpty && (!g.faults.isEmpty || g.stopped.isSome))).foldl
    (fun s g => s.orphaned g.gid) s

/-- The row of the current engine met faults: the older rows are performed, this row's accesses of the columns that met
none may be where no `dred` forbids it, and the drain stops (R190, R193). -/
def faultRow (s : State) (en : Engine) (bad : List (Nat × Cause × Nat)) : State :=
  let g := s.grp en.gid
  let (s1, en1) := flushRows g (en.acc.filter (fun x => x.row != en.row)) s en
  let m := maskOf (fun l => bad.any (fun x => x.1 == l))
  let mine := en1.acc.filter (fun x =>
    !g.programReds en.p && !m.getLsbD x.col && Config.freeBit s.tick (900000 + 32 * x.addr + x.col))
  let (s2, en2) := flushRows g mine s1 en1
  let first := findBy (fun (x : Nat × Cause × Nat) => x.1 == lowest m) bad
  let cause := match first with
    | some x => x.2.1
    | none => .memProtection
  let addr := match first with
    | some x => x.2.2
    | none => 0
  match g.op en.op with
  | none => s2.freeEngine s.eng
  | some o =>
    stopDrain (s2.freeEngine s.eng) en.gid o
      { op := en.op, path := o.path, tile := en.tile, t := en.t, p := en.p, row := en.row, args := en.args,
        rm := en.rm, kind := cause.code, ni := en2.ni, flags := en2.flags, resumed := false } m addr

/-- Whether an access of an engine names a page that is being moved (R363). -/
def State.rowHeld (s : State) (x : RowAccess) : Bool := x.unit == 0 && s.inMove (x.addr / 4096)

/-- A memory word of the current engine (R184, R189, R190). A fault waits until the accesses that its row performs can be
(R363). -/
def drainMemWord (cols : List Nat) (f : Group → State → Engine → Nat → ColRes) (s : State) :
    Host.Outcome State Fault Refusal :=
  match s.engine s.eng with
  | none => .next s
  | some en =>
    if !en.active then .next s
    else
      match runCols (f (s.grp en.gid)) cols s en with
      | (s1, _, _, true) => .next s1
      | (s1, en1, [], false) => .next (s1.updEngine s.eng (fun _ => { en1 with dpc := en.dpc + 1 }))
      | (s1, en1, b :: bad, false) => .next (if en1.acc.any s1.rowHeld then s1 else faultRow s1 en1 (b :: bad))

/-- `dld` (R184). -/
def execDld (w : DM) : Meaning := drainMemWord lanes (fun g => dldCol g w)
/-- `dst` (R184). -/
def execDst (w : DM) : Meaning := fun s => drainMemWord (freeCols s.tick) (fun g => dstCol false g w) s
/-- `dred` (R184, R193). -/
def execDred (w : DM) : Meaning := fun s => drainMemWord (freeCols s.tick) (fun g => dstCol true g w) s

/-- `dend` (R183, R187): the row ends, and after row 31 the drain has run. -/
def execDend : Meaning :=
  fun s => .next (s.updEngine s.eng (fun en =>
    if !en.active then en
    else if en.row = 31 then { en with active := false, finished := true }
    else { en with active := false, row := en.row + 1 }))

/-! ### Accesses performed after their row (R189) -/

/-- Whether an access of an engine may be performed now. A row's own accesses wait until no word of it can meet a fault any
more, since a column that faults has none performed (R190; log entry 86); and a row that holds reductions performs none
before its program has ended (R193). -/
def Engine.mayPerform (g : Group) (en : Engine) (x : RowAccess) : Bool :=
  !(en.active && x.row == en.row && (g.programReds en.p || g.programTouches en.p en.dpc))

/-- A free subset of an engine's accesses, none of which overtakes an access to the same byte (R189); `held` recognises
those that must wait. -/
def freeRows (held : RowAccess → Bool) (tick : Nat) (g : Group) (en : Engine) : Nat → List RowAccess → List RowAccess → List RowAccess
  | _, [], _ => []
  | k, x :: r, left =>
    if Engine.mayPerform g en x && !held x && Config.freeBit tick (800000 + k) &&
        !left.any (fun y => y.touches x.unit x.addr (fmtBytes x.mf)) then
      x :: freeRows held tick g en (k + 1) r left
    else freeRows held tick g en (k + 1) r (x :: left)

/-- The state after a free number of an engine's accesses have been performed. -/
def drainAheadOne (s : State) (e : EngRef) : State :=
  match s.engine e with
  | none => s
  | some en =>
    let g := s.grp en.gid
    let (s1, en1) := flushRows g (freeRows s.rowHeld s.tick g en 0 en.acc []) s en
    s1.updEngine e (fun _ => en1)

/-- The accesses of every engine that are performed in one step. -/
def State.drainsAhead (s : State) : State :=
  (s.engines.filter (fun x => !x.2.acc.isEmpty)).foldl (fun s x => drainAheadOne s x.1) s

/-! ### Rows (R187, R188) -/

/-- Whether a group's record lies in a partition. -/
def Group.inPart (g : Group) (e : EngRef) : Bool :=
  match g.place with
  | some pl => pl.die == e.die && pl.core == e.core && pl.part == e.part
  | none => false

/-- The drains of a group that wait for its engine, in issue order; a stopped drain holds back every one of
them until it is resumed (R188, R190). -/
def Group.drainsWaiting (g : Group) : List Op :=
  if (match g.stopped with
    | some d => !d.resumed
    | none => false) then []
  else
    (g.matrixOps.filter (fun x => match x.2 with
      | .drain _ _ _ _ _ => true
      | _ => false)).map (fun x => x.1)

/-- The drain that a partition's engine runs next: the oldest of all its groups (R188). -/
def State.nextDrain (s : State) (e : EngRef) : Option (Nat × Op) :=
  ((s.groups.filter (fun g => g.inPart e)).flatMap (fun g => g.drainsWaiting.map (fun o => (g.gid, o)))).foldl
    (fun (b : Option (Nat × Op)) x =>
      match b with
      | none => some x
      | some y => if x.2.id < y.2.id then some x else some y) none

/-- The columns of a row at the start of its program (R182). -/
def rowStart (tile : List Word) (i : Nat) : Sparse Word :=
  lanes.foldl (fun m j =>
    spSet 0 (spSet 0 (spSet 0 m (8 * j) (getAt 0 tile (32 * i + j))) (8 * j + 1) (BitVec.ofNat 32 i))
      (8 * j + 2) (BitVec.ofNat 32 j)) []

/-- A tile as a list of its elements. -/
def Group.tileWords (g : Group) (t : Nat) : List Word := (upFrom 0 1024).map (fun k => g.tile t (k / 32) (k % 32))

/-- The start of a drain that its engine takes (R185, R187, R192). -/
def startDrain (s : State) (e : EngRef) (gid : Nat) (o : Op) (t p : Nat) (args : List Word) (rm : BitVec 3) :
    State :=
  let g := s.grp gid
  let old := g.stopped
  if g.poisonTiles.contains t && old.isNone then s.matrixFault gid o .poison 0
  else
    let tile := match old with
      | some d => d.tile
      | none => g.tileWords t
    let row := match old with
      | some d => d.row
      | none => 0
    let ni := match old with
      | some d => d.ni
      | none => false
    let flags := match old with
      | some d => d.flags
      | none => 0
    if (s.drainMemory g true false).isSome then
      stopDrain s gid o
        { op := o.id, path := o.path, tile := tile, t := t, p := p, row := row, args := args, rm := rm,
          kind := ((s.drainMemory g true false).getD .memProtection).code, ni := ni, flags := flags, resumed := false }
        o.act (2 ^ 40 * (s.ctxOf g.pasid).drainmem)
    else if !g.programOk p then
      stopDrain s gid o
        { op := o.id, path := o.path, tile := tile, t := t, p := p, row := row, args := args, rm := rm,
          kind := 2, ni := ni, flags := flags, resumed := false } o.act 0
    else
      let en : Engine :=
        { gid := gid, op := o.id, t := t, p := p, row := row, dpc := 0, active := true,
          d := rowStart tile row, args := args, rm := rm, tile := tile, acc := [], flags := flags, ni := ni,
          finished := false }
      { s.updGrp gid (fun g => { g with stopped := none }) with engines := (e, en) :: s.engines }

/-- DRAIN_ROW (R187): a partition's engine takes its next drain, or begins the next row of the one it runs. -/
def execDrainRow (e : EngRef) (s : State) : Host.Outcome State Fault Refusal :=
  match s.engine e with
  | some en =>
    if en.active || en.finished then .next s
    else .next (s.updEngine e (fun en => { en with active := true, dpc := 0, d := rowStart en.tile en.row }))
  | none =>
    match s.nextDrain e with
    | none => .next s
    | some (gid, o) =>
      let g := s.grp gid
      match o.kind, g.matrixOps.head? with
      | .matrix (.drain t p args rm _), some (h, _) =>
        if h.id ≠ o.id || o.deps.any g.pending then .next s else .next (startDrain s e gid o t p args rm)
      | _, _ => .next s

/-- DRAIN_COMPLETE (R195): every access is performed, the events are ORed into ASTAT, and a committing
program may move RESTART past its `tmov.drain`. -/
def execDrainComplete (e : EngRef) (s : State) : Host.Outcome State Fault Refusal :=
  match s.engine e with
  | none => .next s
  | some en =>
    if !en.finished || en.acc.any s.rowHeld then .next s
    else
      let g := s.grp en.gid
      let (s1, en1) := flushRows g en.acc s en
      match g.op en.op with
      | none => .next (s1.freeEngine e)
      | some o =>
        let commit := fun (g : Group) =>
          match o.kind with
          | .matrix (.drain _ p _ _ r0) =>
            if g.programCommits p && r0 != 0 && g.regs.restart == r0 && Config.freeBit s.tick 0 then
              { g with regs := { g.regs with restart := o.pc + 12 } }
            else g
          | _ => g
        .next (((s1.freeEngine e).updGrp en.gid commit).matrixDone en.gid o en1.flags)

end Sys2Proof.Machine
end

