-- ==== Sys2Proof/Machine/Trap.lean ====
section
/-! DEFINITION. Family 0xE, the trap and control-register instructions (R397 to R408), `logmark` (R282),
`trcon` and `trcoff` (R428), and the entry of a held fault (R400). -/

namespace Sys2Proof.Machine

/-! ### The frame as bits (R399) -/

/-- A flag as a bit of a number. -/
def bitAt (b : Bool) (k : Nat) : Nat := if b then 2 ^ k else 0

/-- The frame as its 2,048-bit map lays it out (R399). -/
def frameBits (f : Frame) : Nat :=
  f.cause.toNat + f.path.toNat * 2 ^ 8 + f.ncause.toNat * 2 ^ 24 + bitAt f.imp 32 + bitAt f.inH 33 +
  bitAt f.nested 34 + bitAt f.stop 35 + bitAt f.pend 36 + f.held.toNat * 2 ^ 39 + f.skid.toNat * 2 ^ 48 +
  f.fpc.toNat * 2 ^ 64 + f.rpc.toNat * 2 ^ 128 + f.faddr.toNat * 2 ^ 192 + f.lmask.toNat * 2 ^ 256 +
  f.pmask.toNat * 2 ^ 288 + f.loopc.toNat * 2 ^ 320 + f.info.toNat * 2 ^ 352 + f.loops.toNat * 2 ^ 384 +
  f.loope.toNat * 2 ^ 448 + f.npc.toNat * 2 ^ 512 + f.ctrs.toNat * 2 ^ 576 + f.loopp.toNat * 2 ^ 612 +
  f.dcur.toNat * 2 ^ 640 + f.exprec.toNat * 2 ^ 1024 + f.fndrec.toNat * 2 ^ 1280

/-- Word `k` of a frame (R407). -/
def frameWord (f : Frame) (k : Nat) : DWord := BitVec.ofNat 64 (nbits (frameBits f) (64 * k + 63) (64 * k))

/-- The bits of word `k` that a program may write (R399). -/
def frameRw (k : Nat) : DWord :=
  match k with
  | 2 => 0x01FFFFFFFFFFFFFF
  | 5 => 0x00000000FFFFFFFF
  | 6 => 0xFFFFFFFFFFFFFFFF
  | 7 => 0xFFFFFFFFFFFFFFFF
  | 9 => 0x0000007000000000
  | 10 => 0x3000000000000000
  | _ => 0

/-- The reserved bits of word `k`. -/
def frameReserved (k : Nat) : DWord :=
  match k with
  | 0 => 0x0000006000FFF800
  | 1 => 0xFE00000000000000
  | 2 => 0xFE00000000000000
  | 9 => 0xFFFFFF8000000000
  | 10 => 0x000FFFFFFFFF01C0
  | _ => if decide (11 ≤ k) && decide (k ≤ 15) || decide (24 ≤ k) then 0xFFFFFFFFFFFFFFFF else 0

/-- The frame with the writable fields of word `k` taken from a value. -/
def frameSet (f : Frame) (k : Nat) (v : DWord) : Frame :=
  match k with
  | 2 => { f with rpc := v &&& 0x01FFFFFFFFFFFFFF }
  | 5 => { f with loopc := v.setWidth 32 }
  | 6 => { f with loops := v }
  | 7 => { f with loope := v }
  | 9 => { f with loopp := v.extractLsb' 36 3 }
  | 10 => { f with dcur := (f.dcur &&& ~~~frameRw 10) ||| (v &&& frameRw 10) }
  | _ => f

/-! ### `trap`, `rte`, `halt` (R408) -/

/-- `trap` (R408). -/
def execTrap (w : XK) : Meaning :=
  issue (.trap w) w.h (fun e s =>
    if e.act = 0 then .adv s else .trap { cause := .userTrap, lmask := e.act, info := w.k, next := true })

/-- VALID of a drain cursor (R191). -/
def cursorValid (c : BitVec 64) : Bool := c.getLsbD 63

/-- ACT of a drain cursor. -/
def cursorAct (c : BitVec 64) : Nat := nbits c.toNat 61 60

/-- What ACT makes of the group's stopped drain (R192). -/
def applyCursor (s : State) (gid act : Nat) : State :=
  match (s.grp gid).stopped with
  | none => s
  | some d =>
    if d.resumed then s
    else if act = 0 then s.updGrp gid (fun g => { g with stopped := some { d with resumed := true } })
    else abandonDrain s gid d

/-- The loop state that a frame saves (R408). -/
def frameLoop (f : Frame) : LoopSt :=
  { loopc := f.loopc, loops := f.loops.setWidth 57, loope := f.loope.setWidth 57, loopp := f.loopp }

/-- The path continued where its frame says (R408): the loop state is restored and IN clears. -/
def returnPath (p : Path) : Path :=
  { p with pc := p.frame.rpc.setWidth 57, lp := frameLoop p.frame,
           frame := { p.frame with inH := false, dcur := p.frame.dcur &&& 0x7FFFFFFFFFFFFFFF } }

/-- RETURN FROM A TRAP (R408): the cursor's choice takes effect, the path goes back to RPC, and a held fault
enters at once, the `rte` counted as issued. -/
def State.returnFrom (s : State) (gid pix : Nat) : State :=
  let f := ((s.grp gid).path pix).frame
  let s1 := if cursorValid f.dcur then applyCursor s gid (cursorAct f.dcur) else s
  let s2 := s1.updGrp gid (fun g => g.updPath pix returnPath)
  match (s2.grp gid).faultOf pix with
  | none => s2
  | some h =>
    let s3 := s2.updGrp gid (fun g => g.updPath pix (fun p => { p with issued := p.issued + 1 }))
    (s3.imprecise gid pix h).updGrp gid (fun g => g.updPath pix (fun p => { p with issued := p.issued - 1 }))

/-- `rte` (R408). -/
def execRte (w : XN) : Meaning :=
  issue (.rte w) w.h (fun e s =>
    let f := e.path.frame
    if e.act = 0 then .adv s
    else if !f.inH then .trap { cause := .illegalOperand, lmask := e.act }
    else if cursorValid f.dcur && decide (2 ≤ cursorAct f.dcur) then
      .trap { cause := .illegalField, lmask := e.act }
    else .jump (s.returnFrom s.cur.gid e.pix))

/-- `halt` (R408, R423): a pending debug halt of a path in its handler stops it after the `halt`. -/
def execHalt (w : XN) : Meaning :=
  issue (.halt w) w.h (fun e s =>
    let p := e.path
    if e.act ≠ 0 && p.haltPend && p.frame.inH then
      let (npc, _) := e.g.seqNext p.pc p.lp p.mask
      .adv (s.updGrp s.cur.gid (fun g => g.nest e.pix .debugHalt npc))
    else .adv s)

/-! ### Control registers (R407) -/

/-- The value of a control register in a lane, and whether it has 64 bits. -/
def Env.csr (e : Env) (n l : Nat) : DWord × Bool :=
  if n < 0x100 then (e.sr n l, sr64 (BitVec.ofNat 8 n)) else (frameWord (e.g.frameNow e.pix) (n - 0x100), true)

/-- Whether a destination takes 64 bits as a pair (R407). -/
def pairDest (d : Operand) : Bool :=
  match d with
  | .v n => evenIx n
  | .s n => evenIx n
  | _ => false

/-- `csrrd` (R407). -/
def execCsrrd (w : XK) : Meaning :=
  issue (.csrrd w) w.h (fun e s =>
    let n := w.k.toNat
    writeRes e ((e.csr n 0).2 && pairDest w.d) w.h w.d unused (fun l => (e.csr n l).1) s)

/-- The trap of a write to a frame word (R407). -/
def frameTrap (f : Frame) (k : Nat) (v : DWord) (act : Mask) : Option Trap :=
  let same := frameWord f k
  if v &&& frameReserved k ≠ 0 then some { cause := .illegalField, lmask := act }
  else if !f.inH || (v ^^^ same) &&& ~~~frameRw k != 0 then some { cause := .illegalOperand, lmask := act }
  else if k = 2 && v.toNat % 12 ≠ 0 then some { cause := .memAlign, faddr := v, lmask := act }
  else none

/-- `csrwr` (R407). -/
def execCsrwr (w : XK) : Meaning :=
  issue (.csrwr w) w.h (fun e s =>
    let n := w.k.toNat
    let wide := decide (0x100 ≤ n) || sr64 (BitVec.ofNat 8 n)
    let v := e.read wide w.a (lowest e.act)
    if e.act = 0 then .adv s
    else if n < 0x100 then writeRes e wide w.h (.sr (BitVec.ofNat 8 n)) unused (fun _ => v) s
    else
      match frameTrap (e.g.frameNow e.pix) (n - 0x100) v e.act with
      | some t => .trap t
      | none =>
        .adv (s.updGrp s.cur.gid (fun g =>
          g.updPath e.pix (fun p => { p with frame := frameSet p.frame (n - 0x100) v }))))

/-! ### Markers and trace gates (R282, R428) -/

/-- `logmark` (R282). -/
def execLogmark (w : XK) : Meaning :=
  issue (.logmark w) w.h (fun e s =>
    if e.act = 0 then .adv s
    else
      let a := if w.a = unused then 0 else (e.uni w.a).toNat
      let g := s.grp s.cur.gid
      let ev : GEvent :=
        { typ := 0x0E, flags := 0, issuer := g.issuer e.pix, line := 0, version := 0,
          payload := w.k.toNat * 2 ^ 32 + a }
      match grainEvent s g ev none with
      | .run s1 _ => .adv s1
      | .hold s1 => .hold (s1.grainHeld s.cur.gid e.pix)
      | .trap c x f => .trap (ringTrap e.act c x f))

/-- The state with the group's TRON set. -/
def setTron (b : Bool) (e : Env) (s : State) : Res :=
  if e.act = 0 then .adv s
  else .adv (s.updGrp s.cur.gid (fun g => { g with regs := { g.regs with tron := b } }))

/-- `trcon` (R428). -/
def execTrcon (w : XN) : Meaning := issue (.trcon w) w.h (setTron true)
/-- `trcoff` (R428). -/
def execTrcoff (w : XN) : Meaning := issue (.trcoff w) w.h (setTron false)

/-! ### Entry of a held fault (R400, R403) -/

/-- Whether a group is resident and its context switched in on its die. -/
def State.resident (s : State) (g : Group) : Bool :=
  g.place.isSome && (s.ctxOf g.pasid).on.contains g.die

/-- IMPRECISE_FAULT_ENTRY (R400): the oldest held fault of a path enters it. -/
def execImpreciseFaultEntry (w : Who) (s : State) : Host.Outcome State Fault Refusal :=
  let g := s.grp w.gid
  if !s.resident g then .next s
  else
    match g.dueFault w.path with
    | none => .next s
    | some h => .next (s.imprecise w.gid w.path h)

end Sys2Proof.Machine
end

