-- ==== Sys2Proof/Machine/Image.lean ====
section
/-! DEFINITION. A group's slot of the context image (R411, R413): what a pre-emption or a FLUSH writes
there, and what a reload takes back after a debugger has changed it (R422). -/

namespace Sys2Proof.Machine

/-- The image offset of a group's slot. -/
def slotOfs (k : Nat) : Nat := 0x1000 + 0x30000 * k

/-! ### What a slot holds (R413) -/

/-- A path entry: PC with its valid bit, mask, slices, the loop state, and the STALL still owed. -/
def pathBytes (p : Path) (clk : Nat) : List Byte :=
  leBytes 8 (p.pc.toNat + bitAt p.live 63) ++ leBytes 4 p.mask.toNat ++ leBytes 1 p.slices.toNat ++
    leBytes 3 p.lp.loopp.toNat ++ leBytes 8 p.lp.loopc.toNat ++ leBytes 8 p.lp.loops.toNat ++
    leBytes 8 p.lp.loope.toNat ++ leBytes 24 (p.earliest - clk)

/-- A deferral entry; no entry is all zero. The pool lists a path's newest entry first. -/
def deferralBytes (d : Option Deferral) : List Byte :=
  match d with
  | none => leBytes 64 0
  | some d =>
    leBytes 8 (d.pc.toNat + 2 ^ 63) ++ leBytes 4 d.mask.toNat ++ leBytes 1 d.owner ++
      leBytes 1 (d.region.getD 0) ++ leBytes 2 d.lp.loopp.toNat ++ leBytes 8 d.lp.loopc.toNat ++
      leBytes 8 d.lp.loops.toNat ++ leBytes 32 d.lp.loope.toNat

/-- A region entry: join PC with its valid bit, lanes, and the opener or a vacancy (R23). -/
def regionBytes (r : Option Region) : List Byte :=
  match r with
  | none => leBytes 16 0
  | some r =>
    leBytes 8 (r.pc.toNat + 2 ^ 63) ++ leBytes 4 r.lanes.toNat ++
      leBytes 4 (match r.opener with
        | some o => o
        | none => 2 ^ 7)

/-- The counters of a group as six bytes (R413). -/
def Group.counterBytes (g : Group) : List Byte :=
  [Ctr.ld, Ctr.st, Ctr.sp, Ctr.cp, Ctr.mx, Ctr.at].map (fun c => BitVec.ofNat 8 (g.ctr c))

/-- The group-state bytes at 0x2_2220. -/
def Group.stateBytes (g : Group) : List Byte :=
  leBytes 4 g.regs.emask.toNat ++ leBytes 4 g.regs.finalAstat.toNat ++ leBytes 8 g.regs.restart.toNat ++
    g.counterBytes ++ leBytes 1 g.regs.xp.toNat ++ leBytes 1 g.regs.stage.toNat ++
    leBytes 1 (match g.regs.pendStage with
      | some k => 2 ^ 7 + k.toNat
      | none => 0) ++ leBytes 1 (if g.regs.tron then 1 else 0)

/-- The words of a register file as bytes. -/
def fileBytes (f : Nat → Word) (n : Nat) : List Byte := (upFrom 0 n).flatMap (fun k => leBytes 4 (f k).toNat)

/-- The drain save area: the tile of a stopped drain, its slot, tile number and ROW, and its arguments
(log entry 18). -/
def drainSave (d : Option StoppedDrain) : List Byte :=
  match d with
  | none => []
  | some d =>
    d.tile.flatMap (fun w => leBytes 4 w.toNat) ++ leBytes 4 d.p ++ leBytes 4 d.t ++ leBytes 4 d.row ++
      d.args.flatMap (fun w => leBytes 4 w.toNat)

/-- The record state of a group: Q, X, P, the special and loop registers, the path table, the pools and the
frames, each with its offset in the slot. The manual gives no layout for an entry of the held list, whose
bytes are free values (log entry 14). -/
def Group.recordParts (g : Group) (clk tick : Nat) : List (Nat × List Byte) :=
  [(0x21000, fileBytes (fun k => g.rdQ (k / 32) (k % 32)) 1024),
   (0x22000, fileBytes (fun k => g.rdX (k / 32) (k % 32)) 128),
   (0x22200, fileBytes g.rdP 8),
   (0x22220, g.stateBytes),
   (0x22300, (upFrom 0 8).flatMap (fun i => pathBytes (g.path i) clk)),
   (0x22500, (upFrom 0 32).flatMap (fun k => deferralBytes (g.deferrals[k]?))),
   (0x22D00, (upFrom 0 16).flatMap (fun k => regionBytes (findBy (fun (r : Region) => r.ix == k) g.regions))),
   (0x22E00, (upFrom 0 8).flatMap (fun i => leBytes 256 (frameBits (g.frameNow i)))),
   (0x23600, (upFrom 0 g.faults.length).flatMap (fun k => leBytes 32 (Config.freeWord tick (600000 + k)).toNat)),
   (0x26600, drainSave g.stopped)]

/-- Register lines of a group: vector lines 0 to 511, then scalar lines 0 to 15. -/
def Group.lineBytes (g : Group) (k : Nat) : Nat × List Byte :=
  if k < 512 then (256 * k, fileBytes (fun j => g.rdV (2 * k + j / 32) (j % 32)) 64)
  else (0x20000 + 256 * (k - 512), fileBytes (fun j => g.rdS (64 * (k - 512) + j)) 64)

/-- The tiles of a group and its codebook slots (R413). -/
def Group.tileParts (g : Group) (n : Nat) : List (Nat × List Byte) :=
  (upFrom 0 n).map (fun t => (0x27800 + 4096 * t, fileBytes (fun k => g.tile t (k / 32) (k % 32)) 1024)) ++
    (upFrom 0 8).map (fun c =>
      (0x2F800 + 32 * c, (upFrom 0 16).flatMap (fun k => leBytes 2 (spGet 0 g.slots (16 * c + k)).toNat)))

/-- Parts written into a group's slot, unless the headstock has stopped using the image (R368). -/
def State.writeParts (s : State) (g : Group) (ps : List (Nat × List Byte)) : State :=
  ps.foldl (fun s p => s.imageWrite g.die g.pasid (slotOfs g.image + p.1) p.2) s

/-- The state with a group's record state in its slot, and each register line written back by a free
choice: a dirty line is written when it is replaced (R414 step 3 and 4). -/
def State.saveGroup (s : State) (g : Group) (lines : Nat → Bool) : State :=
  let clk := (s.dieOf g.die).clk
  s.writeParts g (g.recordParts clk s.tick ++ ((upFrom 0 528).filter lines).map g.lineBytes)

/-! ### What a reload takes (R422) -/

/-- A word of a group's slot. -/
def State.slotNum (s : State) (g : Group) (o n : Nat) : Nat :=
  s.objNum (s.ctxOf g.pasid).image (slotOfs g.image + o) n

/-- A register file of `n` words as a slot holds it. -/
def State.loadFile (s : State) (g : Group) (o n : Nat) : Sparse Word :=
  (upFrom 0 n).foldl (fun m k => spSet 0 m k (BitVec.ofNat 32 (s.slotNum g (o + 4 * k) 4))) []

/-- A frame with its writable fields as a slot holds them. -/
def State.loadFrame (s : State) (g : Group) (pix : Nat) (f : Frame) : Frame :=
  [2, 5, 6, 7, 9, 10].foldl (fun f k =>
    frameSet f k (BitVec.ofNat 64 (s.slotNum g (0x22E00 + 256 * pix + 8 * k) 8))) f

/-- A group with the registers, EMASK, ASTAT, RESTART and the frames' writable fields that its slot holds;
everything else comes from the headstock's own copy (R422). A value that ASTAT does not take (R111) leaves it as it was. -/
def State.reload (s : State) (g : Group) : Group :=
  let a : DWord := BitVec.ofNat 64 (s.slotNum g 0x22224 4)
  { g with
    v := s.loadFile g 0 32768, s := s.loadFile g 0x20000 1024, q := s.loadFile g 0x21000 1024,
    x := s.loadFile g 0x22000 128, p := s.loadFile g 0x22200 7,
    regs := { g.regs with
      emask := BitVec.ofNat 32 (s.slotNum g 0x22220 4),
      astat := if srValueBad (.sr 0x11) a then g.regs.finalAstat else a.setWidth 32, astatClk := 0, due := [],
      restart := BitVec.ofNat 57 (s.slotNum g 0x22228 8) },
    paths := (pathIxs.map (fun i => { g.path i with frame := s.loadFrame g i (g.path i).frame })),
    flushed := false }

/-- The state with a flushed group reloaded. -/
def State.reloaded (s : State) (gid : Nat) : State :=
  if (s.grp gid).flushed && !(s.ctxOf (s.grp gid).pasid).imageOff then s.updGrp gid (fun g => s.reload g) else s

/-! ### Resumption at a restart label (R176, R415, R430) -/

/-- Whether a path is halted or stopped (R422). -/
def Path.halted (p : Path) : Bool := p.live && p.stopped

/-- The frame of a halted path as the fused path takes it: RPC at the label and the reset loop state. -/
def restartFrame (f : Frame) (restart : Addr) : Frame :=
  { f with rpc := restart.setWidth 64, loopc := 0, loops := 0, loope := 0, loopp := 7 }

/-- The DRAIN_FAULT that a cleared frame described, held again while its drain is stopped. -/
def rehold (g : Group) (onto issued : Nat) (f : Frame) : List HeldFault :=
  match g.stopped with
  | some d =>
    if !d.resumed && cursorValid f.dcur && f.cause == Cause.drainFault.code then
      [{ op := d.op, path := onto, cause := .drainFault, fpc := f.fpc.setWidth 57, faddr := f.faddr, lmask := f.lmask,
         issuedAt := issued - f.skid.toNat }]
    else []
  | none => []

/-- A path in which a group resumes: its index, the paths that it takes the place of, and its lanes. -/
structure Resumed where
  onto : Nat
  was : List Nat
  lanes : Mask
  deriving DecidableEq, Repr

/-- The halted path whose frame a resumed path takes. -/
def Group.haltedOf (g : Group) (r : Resumed) : Option Nat := (r.was.filter (fun i => (g.path i).halted)).head?

/-- The count of issued instructions of a resumed path. -/
def Group.issuedOf (g : Group) (r : Resumed) : Nat := r.was.foldl (fun n i => max n (g.path i).issued) 0

/-- The path whose program order a resumed path goes on with: the one that had its index (R221, R240; log entry 51). -/
def Group.continued (g : Group) (r : Resumed) : Path := if r.was.contains r.onto then g.path r.onto else Path.free

/-- A resumed path. -/
def Group.resumedPath (g : Group) (r : Resumed) : Path :=
  { Path.free with
    live := true, pc := g.regs.restart, mask := r.lanes, slices := slicesOf r.lanes, issued := g.issuedOf r,
    frame := match g.haltedOf r with
      | some i => restartFrame (g.path i).frame g.regs.restart
      | none => Frame.reset,
    stepping := r.was.any (fun i => (g.path i).stepping), haltPend := r.was.any (fun i => (g.path i).haltPend),
    view := (g.continued r).view, heard := (g.continued r).heard, fences := (g.continued r).fences }

/-- A set of paths of which those are left that a resumed path goes on with. -/
def resumedBits (rs : List Resumed) (b : BitVec 8) : BitVec 8 :=
  b &&& pathBits ((rs.filter (fun r => r.was.contains r.onto)).map (fun r => r.onto))

/-- An operation of a group that goes back to its label: what its path had issued since is kept. -/
def Group.resumedOp (g : Group) (rs : List Resumed) (o : Op) : Op :=
  let o := { o with past := resumedBits rs o.past, rel := resumedBits rs o.rel, full := resumedBits rs o.full, stale := true }
  match findBy (fun (r : Resumed) => r.was.contains o.path) rs with
  | some r => { o with issuedAt := g.issuedOf r - ((g.path o.path).issued - o.issuedAt), path := r.onto }
  | none => o

/-- A held fault of a resumed group. -/
def Group.resumedFault (g : Group) (rs : List Resumed) (f : HeldFault) : HeldFault :=
  match findBy (fun (r : Resumed) => r.was.contains f.path) rs with
  | some r => { f with issuedAt := g.issuedOf r - ((g.path f.path).issued - f.issuedAt), path := r.onto }
  | none => f

/-- The paths in which a group resumes at its label: one, or one per half in compatibility mode (R176). -/
def Group.resumes (g : Group) (compat : Bool) : List Resumed :=
  let left := ~~~g.exited
  let of := fun (onto : Nat) (m : Mask) =>
    { onto := onto, was := g.live.filter (fun i => (g.path i).mask &&& m != 0), lanes := left &&& m : Resumed }
  (if compat then [of 0 0x0000FFFF, of 1 0xFFFF0000] else [of 0 0xFFFFFFFF]).filter (fun r => r.lanes != 0)

/-- A group as it resumes at its label (R176, R415, R430). -/
def Group.restarted (g : Group) (compat : Bool) : Group :=
  let rs := g.resumes compat
  let again := rs.flatMap (fun r =>
    (r.was.filter (fun i => some i != g.haltedOf r)).flatMap (fun i => rehold g r.onto (g.issuedOf r) (g.path i).frame))
  { g with
    deferrals := [], regions := [], held := 0, arrival := [],
    paths := pathIxs.map (fun i => match findBy (fun (r : Resumed) => r.onto == i) rs with
      | some r => g.resumedPath r
      | none => Path.free),
    ops := g.ops.map (g.resumedOp rs),
    faults := again.foldl (fun fs f => insertFault f fs) (g.faults.map (g.resumedFault rs)) }

end Sys2Proof.Machine
end

