-- ==== Sys2Proof/Machine/Context.lean ====
section
/-! DEFINITION. Pre-emption and context switches (R294, R410 to R420): the context header, the stop of a
slice, the pre-emption of a group, the saving of scratchpads, and the switch out and in. -/

namespace Sys2Proof.Machine

/-! ### The context header (R411, R412) -/

/-- Field of `n` bytes at byte `b` of a context header. -/
def ctxField (x b n : Nat) : Nat := nbits x (8 * b + 8 * n - 1) (8 * b)

/-- A PC comparator, whose bits [62:57] are zero. -/
def bpcOk (v : Nat) : Bool := nbits v 62 57 == 0

/-- A trace selection, whose reserved bits are zero (R426). -/
def trselOk (v : Nat) : Bool := nbits v 87 84 == 0 && nbits v 95 91 == 0 && nbits v 127 96 == 0

/-- Whether TROFS and TRSIZE have values that the header allows. -/
def traceAreaOk (trofs trsize gimax : Nat) : Bool :=
  trofs % 4096 == 0 && (trsize == 0 || (decide (slotOfs gimax ≤ trofs) &&
    (upFrom 12 19).any (fun k => trsize == 2 ^ k)))

/-- Whether every field of a header has a value that it allows. -/
def ctxHeaderOk (x : Nat) : Bool :=
  nbits (ctxField x 0 8) 63 57 == 0 && (upFrom 0 8).all (fun k => bpcOk (ctxField x (64 + 8 * k) 8)) &&
  trselOk (ctxField x 48 16) && traceAreaOk (ctxField x 40 4) (ctxField x 44 4) (ctxField x 32 4) &&
  decide (ctxField x 232 4 < 2) && ctxField x 244 12 == 0

/-- A context with the fields of its header; a field with a nonzero must-be-zero bit is ignored. -/
def Ctx.ofHeader (c : Ctx) (x : Nat) : Ctx :=
  { c with
    dvec := if nbits (ctxField x 0 8) 63 57 = 0 then BitVec.ofNat 64 (ctxField x 0 8) else c.dvec,
    draint := ctxField x 8 8, slice := ctxField x 16 8, scrofs := ctxField x 236 4, scrmax := ctxField x 240 4,
    trsel := if trselOk (ctxField x 48 16) then ctxField x 48 16 else c.trsel,
    attach := if ctxField x 232 4 < 2 then ctxField x 232 4 == 1 else c.attach,
    bpc := (upFrom 0 8).map (fun k =>
      let v := ctxField x (64 + 8 * k) 8
      if bpcOk v then BitVec.ofNat 64 v else getAt 0 c.bpc k) }

/-- The header of a context read by a die's headstock (R411). A field outside its values is reported; the
manual names no cause for it (log entry 14). -/
def readHeader (s : State) (die pasid : Nat) : State :=
  let c := s.ctxOf pasid
  if c.imageOff then s
  else
    match s.objRead c.image 0 256 with
    | .error e => imageFault s die pasid e
    | .ok bs =>
      let x := ofLe bs
      let s1 := s.updCtx pasid (fun c => c.ofHeader x)
      if ctxHeaderOk x then s1
      else objectFault s1 die pasid c.image ((Config.freeWord s.tick 600900).toNat % 2 ^ 64)

/-! ### Stop requests (R405, R418, R420) -/

/-- The slice clk of a context on a die. -/
def Ctx.sliceClk (c : Ctx) (die : Nat) : Nat := spGet 0 c.runClk die - spGet 0 c.sliceAt die

/-- Whether a path of the context on a die is stopped with PEND set. -/
def State.hasPend (s : State) (die pasid : Nat) : Bool :=
  s.groups.any (fun g => g.die == die && g.pasid == pasid && g.live.any (fun i => (g.path i).frame.pend))

/-- Whether a trap and a debugger halt have met at a path of the context on a die in this clk (R405). -/
def State.pendsNow (s : State) (die pasid : Nat) : Bool :=
  s.groups.any (fun g => g.die == die && g.pasid == pasid && g.live.any (fun i =>
    (g.path i).frame.pend && (g.path i).pendAt == (s.dieOf die).clk + 1))

/-- The save slots of a context that no allocation holds. -/
def State.freeSaves (s : State) (pasid : Nat) : List Nat :=
  let used := (s.blocks.filter (fun b => (s.launchOf b.die b.lchid).pasid == pasid)).flatMap (fun b =>
    b.allocs.filterMap (fun a => a.saved))
  (upFrom 0 (min (s.ctxOf pasid).scrmax (used.length + 512))).filter (fun k => !used.contains k)

/-- Roles of a block that are still to be saved when it goes out. -/
def Block.unsaved (b : Block) : Nat := (b.allocs.filter (fun a => a.held)).length

/-- A report that save slots are short (R417). -/
def shortSaves (s : State) (die pasid : Nat) : State :=
  objectFault s die pasid (s.ctxOf pasid).image ((Config.freeWord s.tick 600901).toNat % 2 ^ 64)

/-- A stop request to every group of a context on a die (R418, R420). -/
def State.stopContext (s : State) (die pasid : Nat) : State :=
  let need := ((s.blocks.filter (fun b => b.die == die && (s.launchOf b.die b.lchid).pasid == pasid)).map
    Block.unsaved).sum
  let s1 := { s.updCtx pasid (fun c => { c with stopping := die :: c.stopping }) with
    groups := s.groups.map (fun g =>
      if g.die == die && g.pasid == pasid then { g with stopReq := g.place.isSome, reserved := none } else g) }
  if (s.freeSaves pasid).length < need then shortSaves s1 die pasid else s1

/-- The state with a slice's deferral ended once no path holds it: the time between counts toward no slice
(R405, R420). -/
def State.endDeferral (s : State) (die pasid : Nat) : State :=
  s.updCtx pasid (fun c =>
    { c with sliceAt := spSet 0 c.sliceAt die (spGet 0 c.runClk die - (spGet 0 c.deferred die - 1)),
             deferred := spSet 0 c.deferred die 0 })

/-- A context stopped on a die for a SWITCH request, unless it is being stopped already or a deferral holds it there
(R420, R421). -/
def State.switchOut (s : State) (die pasid : Nat) : State :=
  let c := s.ctxOf pasid
  if c.stopping.contains die || spGet 0 c.deferred die != 0 then s else s.stopContext die pasid

/-- SLICE_STOP_REQUEST (R418): at slice clk SLICE − DRAINT, where another context is ready. A trap and a debugger halt
that meet it in its clk defer it, and a SWITCH request with it; a path that they stopped earlier may (R405, R420; log
entry 50). -/
def execSliceStopRequest (die pasid : Nat) (s : State) : Host.Outcome State Fault Refusal :=
  let c := s.ctxOf pasid
  if !c.on.contains die || c.stopping.contains die then .next s
  else if spGet 0 c.deferred die ≠ 0 then
    if s.hasPend die pasid then .next s
    else
      let s1 := s.endDeferral die pasid
      .next (if c.switching.map (fun x => x.1) == some die then s1.switchOut die pasid else s1)
  else if c.slice = 0 || decide (c.sliceClk die < spGet 0 c.sliceLen die - c.draint) || !s.otherReady die pasid then
    .next s
  else if s.hasPend die pasid && (s.pendsNow die pasid || Config.freeBit s.tick 700000) then
    .next (s.updCtx pasid (fun c => { c with deferred := spSet 0 c.deferred die (c.sliceClk die + 1) }))
  else .next (s.stopContext die pasid)

/-! ### Pre-emption of a group (R414, R415) -/

/-- The instruction that holds a path counts as not issued and issues again on resume; a parked wait, a wait
whose arrival is made, and one that has had its record's version stay, as does the time of a replay hold (R278, R414). -/
def Path.preempted (p : Path) (clk : Nat) : Path :=
  let p := { p with earliest := p.earliest - clk }
  let again := { p with stat := .run, wait := none }
  match p.stat, p.wait with
  | .promoting, some x => if x.met then { p with stat := .replayHold } else again
  | .accepting, _ => again
  | .replayHold, some x =>
    match x.kind with
    | .bar _ _ false => p
    | .op _ => p
    | _ => if x.met then p else again
  | _, _ => p

/-- Whether a pre-emption saves the group's tiles rather than discarding them (R281, R415). -/
def State.keepsTiles (s : State) (g : Group) : Bool :=
  let c := s.ctxOf g.pasid
  g.regs.restart = 0 || (c.grain != 0 && (c.mode == 1 || c.mode == 2))

/-- The operation of a group's stopped drain that has not been resumed. -/
def Group.stoppedOp (g : Group) : Option Nat :=
  match g.stopped with
  | some d => if d.resumed then none else some d.op
  | none => none

/-- The matrix operations that pre-emption must wait for: every one before a stopped drain, where tiles are
saved; where they are discarded, a drain that has performed a reduction (R194, R415; log entry 19). -/
def State.mustFinish (s : State) (g : Group) : Bool :=
  if s.keepsTiles g then
    !(g.matrixOps.takeWhile (fun x => some x.1.id != g.stoppedOp)).isEmpty
  else
    s.engines.any (fun x => x.2.gid == g.gid && x.2.ni) ||
    (match g.stopped with
      | some d => d.resumed && d.ni
      | none => false)

/-- The group without its matrix work, tiles and codebook slots (R175, R194). -/
def Group.discarded (g : Group) : Group :=
  { g with
    ops := g.ops.filter (fun o => o.ctr != .mx || some o.id == g.stoppedOp),
    stopped := match g.stopped with
      | some d => if d.resumed then none else some d
      | none => none,
    tiles := [], slots := [], poisonTiles := [], restarts := true }

/-- Whether a block's pre-emption may begin: it has begun, or the save slots that are left cover its roles
beside those of the blocks that have begun (R417). -/
def State.mayBegin (s : State) (g : Group) : Bool :=
  let begun := fun (b : Block) =>
    s.groups.any (fun x => x.die == b.die && x.lchid == b.lchid && x.block == b.ix && x.place.isNone && !x.ended) ||
    b.allocs.any (fun a => a.saved.isSome)
  match s.blockOf g.die g.lchid g.block with
  | none => true
  | some b =>
    begun b ||
    decide ((((s.blocks.filter (fun x => x.stat != BlockStat.out && x.stat != BlockStat.evicted && begun x &&
        (s.launchOf x.die x.lchid).pasid == g.pasid)).map Block.unsaved).sum + b.unsaved) ≤
      (s.freeSaves g.pasid).length)

/-- The state with a block out once every group has left its record and every role is saved (R417). -/
def State.blockLeft (s : State) (die lchid ix : Nat) : State :=
  match s.blockOf die lchid ix with
  | none => s
  | some b =>
    let gs := s.groups.filter (fun g => g.die == die && g.lchid == lchid && g.block == ix)
    if b.away || b.unsaved ≠ 0 || gs.any (fun g => g.spot.isSome) then s
    else
      s.updBlock die lchid ix (fun b =>
        { b with stat := if b.stat == BlockStat.evicting then .evicted else .out })

/-- The group with the faults that are due in its paths entered: a trap that meets a pre-emption enters (R405). -/
def State.enterDue (s : State) (gid : Nat) : State :=
  pathIxs.foldl (fun s k => match (s.grp gid).dueFault k with
    | some h => s.imprecise gid k h
    | none => s) s

/-- A group out of its record (R414): its paths stop as they stand, or at its restart label where its matrix work is
discarded (R176, R415). -/
def Group.away (g : Group) (clk : Nat) (keep compat : Bool) : Group :=
  let g0 := { g with place := none, last := g.place, stopReq := false, sb := [], missing := none }
  if keep then { g0 with paths := pathIxs.map (fun i => (g0.path i).preempted clk) }
  else g0.discarded.restarted compat

/-- A group pre-empted (R414): its matrix state is saved or discarded, its record state goes to its image slot, and its
record is freed. A promotion that it asked for goes on where it has been committed (R302). A group that a FLUSH has
written takes its image first, and again when it resumes (R422). -/
def State.preempt (s : State) (g : Group) : State :=
  let s0 := (s.enterDue g.gid).reloaded g.gid
  let h := s0.grp g.gid
  let keep := s0.keepsTiles h
  let promoting := h.live.filter (fun i => (h.path i).stat == PStat.promoting)
  let mine := fun (w : Who) => w.gid == g.gid && promoting.contains w.path
  let h1 := { h.away (s.dieOf g.die).clk keep (s.hdrOf g).compat with flushed := g.flushed }
  let s1 := s0.updGrp g.gid (fun _ => h1)
  let s2 := { s1 with
    rest := s1.rest.filter (fun e => !mine e.who && (keep || e.who.gid != g.gid)),
    dies := s1.dies.map (fun (d : Die) => { d with promo := d.promo.filter (fun r => r.plan.isSome || !mine r.who) }),
    engines := s1.engines.filter (fun x => x.2.gid != g.gid) }
  let s3 := s2.saveGroup h1 (fun k => g.flushed || Config.freeBit s.tick (710000 + k))
  let s4 := if keep then s3.writeParts h1 (h1.tileParts (s.hdrOf g).tiles) else s3
  s4.blockLeft g.die g.lchid g.block

/-- GROUP_PREEMPT (R414). -/
def execGroupPreempt (gid : Nat) (s : State) : Host.Outcome State Fault Refusal :=
  match findBy (fun (g : Group) => g.gid == gid) s.groups with
  | none => .next s
  | some g =>
    if !g.stopReq || g.place.isNone || s.mustFinish g || !s.mayBegin g then .next s
    else .next (s.preempt g)

/-! ### Scratchpads (R417) -/

/-- Whether an operation in flight may still read or write the scratchpad of a role: its own group's, or
one that it addresses. -/
def Op.usesRole (o : Op) (own role : Nat) : Bool :=
  !o.done && (o.addressesRole own role ||
    match o.kind with
    | .load sp .. => sp.isScr && o.todo.any (fun e => e.addr / 2 ^ 20 == role)
    | .store sp .. => sp.isScr && o.todo.any (fun e => e.addr / 2 ^ 20 == role)
    | .matrix _ => own == role
    | _ => false)

/-- SCRATCHPAD_SAVE (R417): the allocation of a role goes to a free save slot of the context image once its
groups are out and nothing outstanding reads or writes it. -/
def execScratchpadSave (die pasid lchid block role : Nat) (s : State) : Host.Outcome State Fault Refusal :=
  match s.blockOf die lchid block with
  | none => .next s
  | some b =>
    let c := s.ctxOf pasid
    let gs := s.groups.filter (fun g => g.die == die && g.lchid == lchid && g.block == block)
    let leaving := b.stat == BlockStat.evicting || (b.stat == BlockStat.resident && c.stopping.contains die)
    let h := (s.launchOf die lchid).hdr
    match findBy (fun (a : Alloc) => a.role == role && a.held) b.allocs, (s.freeSaves pasid).head? with
    | some a, some k =>
      if !leaving || (s.launchOf die lchid).pasid ≠ pasid ||
          gs.any (fun g => g.role == role && g.spot.isSome) ||
          gs.any (fun g => g.ops.any (fun o => o.usesRole g.role role && some o.id != g.stoppedOp)) then .next s
      else
        match s.objFault c.image (c.scrofs + 0x50000 * k) 0x50000 false true with
        | some e => .next (imageFault s die pasid e)
        | none =>
          let s1 := s.objWrite c.image (c.scrofs + 0x50000 * k) (rdBytes a.bytes 0 (1024 * h.units))
          let s2 := s1.updBlock die lchid block (fun b =>
            { b with allocs := updBy (fun (x : Alloc) => x.role == role) (fun (x : Alloc) => { x with saved := some k }) b.allocs })
          .next (s2.blockLeft die lchid block)
    | _, _ => .next s

/-! ### The switch (R294, R305, R418, R420) -/

/-- Whether everything of a context has left a die: no group holds a record, and no block is part-way out. -/
def State.allOut (s : State) (die pasid : Nat) : Bool :=
  !s.groups.any (fun g => g.die == die && g.pasid == pasid && g.spot.isSome) &&
  !s.blocks.any (fun b => b.die == die && (s.launchOf die b.lchid).pasid == pasid && !b.away && b.unsaved != 0)

/-- OVERRUN of a context's header. -/
def State.overrun (s : State) (pasid : Nat) : Nat := s.objNum (s.ctxOf pasid).image 24 8

/-- The state with OVERRUN written. -/
def State.setOverrun (s : State) (die pasid v : Nat) : State := s.imageWrite die pasid 24 (leBytes 8 v)

/-- CONTEXT_SWITCH_COMPLETE (R418): the context leaves its die, its rest-table entries go to its overflow
list, and OVERRUN grows by the clk since its slice ended. -/
def execContextSwitchComplete (die pasid : Nat) (s : State) : Host.Outcome State Fault Refusal :=
  let c := s.ctxOf pasid
  if !c.stopping.contains die || !s.allOut die pasid then .next s
  else
    let late := if c.slice = 0 then 0 else c.sliceClk die - spGet 0 c.sliceLen die
    let s1 := (s.blocks.filter (fun b => b.die == die && (s.launchOf die b.lchid).pasid == pasid)).foldl
      (fun s b => s.blockLeft die b.lchid b.ix) s
    let s2 := s1.updCtx pasid (fun c =>
      { c with on := c.on.filter (· != die), stopping := c.stopping.filter (· != die),
               deferred := spSet 0 c.deferred die 0 })
    let mine := fun (e : RestEntry) => e.die == die && (s.grp e.who.gid).pasid == pasid
    let s3 := { s2 with rest := updBy mine (fun (e : RestEntry) => { e with overflow := true }) s2.rest }
    .next (if late = 0 then s3 else s3.setOverrun die pasid (s.overrun pasid + late))

/-- The END record (R271). -/
def endEvent : GEvent := { typ := 0x10, flags := 0, issuer := 0, line := 0, version := 0, payload := 0 }

/-- Whether a ring has a slot for one more record, the one that FULL keeps for a GAP among them. -/
def grainSlot (s : State) (c : Ctx) : Bool := decide (grainHead s c - grainTail s c + 32 ≤ grainSize s c - 256)

/-- The launches of a context without the names of a replay. -/
def State.unnamed (s : State) (pasid : Nat) : State :=
  { s with launches := updBy (fun (l : Launch) => l.pasid == pasid) (fun l => { l with rname := 0 }) s.launches }

/-- The state with the ring's MODE in effect: a recording that ends writes END behind its records, and a recording or a
replay that begins starts its versions, ordinals and names anew (R268, R273; log entry 20). None while the ring has no
slot for END or for a record before it. -/
def State.takeMode (s : State) (pasid : Nat) : Option State :=
  let s := if (s.ctxOf pasid).mode = 1 then grainFlush s pasid else s
  let s := if (s.ctxOf pasid).grain = 0 then s else ringMet s (s.ctxOf pasid)
  let c := s.ctxOf pasid
  if c.grain = 0 then some s
  else
    let m := s.objNum c.grain 0 1 % 4
    if m = c.mode.toNat || m = 3 then some s
    else if c.mode = 1 && (!grainSlot s c || !c.late.isEmpty) then none
    else
      let s1 := if c.mode = 1 then grainAppend s c endEvent else s
      let s2 := { s1 with vers := s1.vers.filter (fun x => x.1 / 2 ^ 70 != pasid) }
      some (((clearGap s2 c.grain).unnamed pasid).updCtx pasid (fun c =>
        { c with mode := BitVec.ofNat 2 m, taken := [], ords := [], headStop := [], late := [], names := [] }))

/-- DACK written by a die's headstock with the SEQ of a request and a status: a release (R421) after what it has written
since a number of writes. -/
def State.dackAfter (s : State) (n die pasid seq status : Nat) : State :=
  let s1 := s.imageWrite die pasid 192 (leBytes 4 seq ++ leBytes 1 status)
  if s1.stamp = s.stamp then s1 else s1.headTells die n

/-- DACK written of a request that has written nothing. -/
def State.dack (s : State) (die pasid seq status : Nat) : State := s.dackAfter s.stamp die pasid seq status

/-- Whether the groups of a context that a switch took out of a die are back in their records. -/
def State.allBack (s : State) (die pasid : Nat) : Bool :=
  s.groups.all (fun g => g.die != die || g.pasid != pasid || g.place.isSome || g.ended ||
    match s.blockOf g.die g.lchid g.block with
    | some b => b.stat == BlockStat.evicted || b.stat == BlockStat.evicting
    | none => true)

/-- The state with the SWITCH request of a context acknowledged once it is back on its die, its groups in their records
(R421, R431). -/
def State.switchedBack (s : State) (die pasid : Nat) : State :=
  let c := s.ctxOf pasid
  match c.switching with
  | some (d, seq) =>
    if d = die && c.on.contains die && !c.stopping.contains die && spGet 0 c.deferred die == 0 && s.allBack die pasid then
      (s.dack die pasid seq 0).updCtx pasid (fun c => { c with switching := none })
    else s
  | none => s

/-- CONTEXT_SWITCH_IN (R294, R411, R418): the header is read, a context that owes its whole next slice gives
it up, each rest-table entry reads its word again, and a SWITCH request is acknowledged. -/
def execContextSwitchIn (die pasid : Nat) (s : State) : Host.Outcome State Fault Refusal :=
  if s.ctxs.any (fun c => c.on.contains die) || !s.ctxs.any (fun c => c.pasid == pasid && !c.teardown) ||
      decide (4 ≤ die) then .next s
  else
    let s1 := readHeader s die pasid
    let c := s1.ctxOf pasid
    let owed := s1.overrun pasid
    if c.slice ≠ 0 && decide (c.slice ≤ owed) then .next (s1.setOverrun die pasid (owed - c.slice))
    else
      match (if c.on.isEmpty then s1.takeMode pasid else some s1) with
      | none => .next s1
      | some s2 =>
        let s3 := if owed = 0 || c.slice = 0 then s2 else s2.setOverrun die pasid 0
        let s4 := s3.updCtx pasid (fun c =>
          { c with on := die :: c.on, sliceAt := spSet 0 c.sliceAt die (spGet 0 c.runClk die),
                   sliceLen := spSet 0 c.sliceLen die (c.slice - owed) })
        let mine := fun (e : RestEntry) => e.die == die && (s.grp e.who.gid).pasid == pasid
        .next ({ s4 with rest := updBy mine (fun (e : RestEntry) => { e with woken := true, overflow := false }) s4.rest }.switchedBack
          die pasid)

/-! ### Resumption (R36, R176, R416) -/

/-- A group back in a record: its lines come from the image, where a debugger may have changed them, and it goes on
as it stood or at its restart label. Its footprint lines are to be loaded before a path issues (R416). -/
def State.resume (s : State) (g : Group) (pl : Place) : State :=
  let clk := (s.dieOf g.die).clk
  let s1 := if g.flushed then s.reloaded g.gid else s.writeParts g (g.dirty.map g.lineBytes)
  { s1.updGrp g.gid (fun g =>
      { g with
        place := some pl, reserved := none, restarts := false, age := s.nextPlace,
        lines := [], absent := (s.hdrOf g).footprint, dirty := [],
        paths := pathIxs.map (fun i =>
          let p := g.path i
          if p.live then { p with earliest := p.earliest + clk } else p) }) with
    nextPlace := s.nextPlace + 1 }

/-- GROUP_RESUME (R416): a group whose block is placed again resumes in the record that is kept for it; the last one
that a SWITCH request took out lets it be acknowledged. -/
def execGroupResume (gid : Nat) (pl : Place) (s : State) : Host.Outcome State Fault Refusal :=
  match findBy (fun (g : Group) => g.gid == gid) s.groups with
  | none => .next s
  | some g =>
    let c := s.ctxOf g.pasid
    if g.reserved ≠ some pl || g.place.isSome || !c.on.contains g.die || c.stopping.contains g.die then .next s
    else .next ((s.resume g pl).switchedBack g.die g.pasid)

end Sys2Proof.Machine
end

