-- ==== Sys2Proof/Machine/Promote.lean ====
section
/-! DEFINITION. Promotion (R298 to R303, R307): `promote`, the plan of a promotion with its chain, its
evictions and its placements, and the carrying out of the plan by the headstock. -/

namespace Sys2Proof.Machine

/-! ### `promote` (R307) -/

/-- `promote` (R307): the check of R298 on a line, with precise translation faults. -/
def promoteRes (w : XN) (e : Env) (s : State) : Res :=
  if e.act = 0 || e.launch.cls = 0 then .adv s
  else
    let addr := (e.addr .gbl false w.a w.b (lowest e.act)).1
    let g := s.grp s.cur.gid
    let t := fun (c : Cause) => Res.trap { cause := c, faddr := BitVec.ofNat 64 addr, lmask := e.act }
    match s.target g .gbl addr 1 needR with
    | (s1, .error none) => .hold (s1.heldFor s.cur.gid e.pix 23)
    | (_, .error (some c)) => t c
    | (s1, .ok (.at_ p attr)) =>
      if s1.targetPoison g (.at_ p attr) 1 then t .poison
      else
        let tag := if attrSync attr then spGet none s1.tags p.line else none
        match checkWait e.launch.cls g.pasid (tagTarget s1 tag) with
        | .pass => .adv s1
        | .inversion => t .progressInversion
        | .promote l =>
          let who : Who := { gid := s.cur.gid, path := e.pix }
          .hold ((s1.waiting who (e.wait s1 w.h .promote addr unused 0 0 true) .promoting 24).requestPromotion who l)
    | (s1, .ok _) => .adv s1

/-- `promote` (R307). -/
def execPromote (w : XN) : Meaning := issue (.promote w) w.h (promoteRes w)

/-! ### The chain (R301) -/

/-- The place of an offset of the line of a number. -/
def placeInLine (line off : Nat) : PLoc :=
  if line < 2 ^ 60 then .mem (64 * line + off)
  else if line < 2 ^ 61 then .remote (64 * (line - 2 ^ 60) + off)
  else .host (64 * (line - 2 ^ 61) + off)

/-- The target of a parked wait as it stands, by the line that the wait read (R297, R301). -/
def State.waitTarget (s : State) (x : Wait) : Option (BitVec 2 × Option Launch) :=
  match x.kind, x.spot with
  | .sem n _, _ => some (tagTarget s (spGet none s.semTags n))
  | .bar _ _ _, some (line, _) => some (barCls (ofLe (s.rdLoc (placeInLine line (x.addr % 64)) 16)), none)
  | .word _ _ _, some (line, sync) => some (tagTarget s (if sync then spGet none s.tags line else none))
  | .task, some (line, sync) => some (tagTarget s (if sync then spGet none s.tags line else none))
  | _, _ => none

/-- The parked checked waits of a launch, one that is being promoted among them. -/
def State.parkedWaits (s : State) (l : Launch) : List (Who × Wait) :=
  (s.groups.filter (fun g => g.die == l.die && g.lchid == l.lchid)).flatMap (fun g =>
    g.live.filterMap (fun i =>
      let p := g.path i
      match p.wait with
      | some x =>
        if x.checked && (p.stat == PStat.parked || p.stat == PStat.promoting) then some ({ gid := g.gid, path := i }, x)
        else none
      | none => none))

/-- A launch that a promotion raises: with the path that waits for it, and its depth. -/
structure Link where
  l : Launch
  who : Who
  depth : Nat
  deriving DecidableEq, Repr, Inhabited

/-- A chain: the launches raised, the parked waits that meet an inversion, and where a ninth depth is met. -/
structure Chain where
  links : List Link
  bad : List (Who × Wait)
  deep : Option Wait
  deriving DecidableEq, Repr

/-- The check of one parked wait of a chain's launch. -/
def chainWait (s : State) (c : BitVec 2) (pasid depth : Nat) (ch : Chain) (x : Who × Wait) : Chain :=
  match s.waitTarget x.2 with
  | none => ch
  | some t =>
    match checkWait c pasid t with
    | .pass => ch
    | .inversion => { ch with bad := ch.bad ++ [x] }
    | .promote l =>
      if ch.links.any (fun k => k.l.die == l.die && k.l.lchid == l.lchid) then ch
      else if 8 ≤ depth then { ch with deep := some (ch.deep.getD x.2) }
      else { ch with links := ch.links ++ [{ l := l, who := x.1, depth := depth + 1 }] }

/-- The waits of the launches of a chain checked, in the order in which the launches came into it. -/
def growChain (s : State) (c : BitVec 2) (pasid : Nat) : Nat → Nat → Chain → Chain
  | 0, _, ch => ch
  | n + 1, k, ch =>
    match ch.links[k]? with
    | none => ch
    | some m => growChain s c pasid n (k + 1) ((s.parkedWaits m.l).foldl (chainWait s c pasid m.depth) ch)

/-- The chain of a promotion of a launch to a class (R301). -/
def chainOf (s : State) (r : PromoReq) (l : Launch) : Chain :=
  growChain s r.cls l.pasid s.launches.length 0 { links := [{ l := l, who := r.who, depth := 1 }], bad := [], deep := none }

/-! ### Room (R299, R300) -/

/-- A plan as it grows: the state in which its evictions and placements are tried, the placements, those of them that take
ordinary records, the blocks to be evicted, and the save slots left for them. -/
structure Plan where
  t : State
  seats : List Seat
  ords : List Place
  victims : List Block
  saves : Nat
  deriving DecidableEq, Repr

/-- The clusters of a die. -/
def clusters : List Nat := upFrom 0 12

/-- The places of a core, in an order that the Sumet chooses. -/
def corePlaces (tick die core : Nat) : List Place :=
  (upFrom (Config.pick tick) 128).map (fun k => { die := die, core := core, part := k % 128 / 16, slot := k % 16 })

/-- Whether an ordinary record of a partition is free in a plan: its own placements take them up as ordinary dispatch does
(R32, R300). -/
def Plan.ordinary (p : Plan) (h : KHeader) (pl : Place) : Bool :=
  let here := fun (x : Place) => x.die == pl.die && x.core == pl.core && x.part == pl.part
  p.t.hasRoom h pl false &&
  decide (((p.t.partGroups pl.die pl.core pl.part).filter (fun g => !g.byPromo)).length + (p.ords.filter here).length < 12)

/-- A group of a block tried on a core. -/
def Plan.seat (p : Plan) (tick core : Nat) (l : Launch) (ix : Nat) (ordinary : Bool) (grp : Nat) : Option Plan :=
  let fits := fun pl => (!ordinary || p.ordinary l.hdr pl) && (p.t.placeGroup1 l.die l.lchid ix grp pl true false).isSome
  (findBy fits (corePlaces tick l.die core)).bind (fun pl =>
    (p.t.placeGroup1 l.die l.lchid ix grp pl true false).map (fun t =>
      { p with t := t, seats := p.seats ++ [{ die := l.die, lchid := l.lchid, block := ix, grp := grp, place := pl }],
               ords := if p.ordinary l.hdr pl then pl :: p.ords else p.ords }))

/-- A block tried in a cluster as the room stands, its roles on the cores of their positions moved on by `k`. -/
def Plan.tryAt (p : Plan) (tick cluster k : Nat) (l : Launch) (ix : Nat) (ordinary : Bool) : Option Plan :=
  let t := p.t.startBlock l.die l.lchid ix
  (t.seatless l.die l.lchid ix).foldl (fun (o : Option Plan) grp =>
    o.bind (fun q => q.seat tick (4 * cluster + (roleOf l.hdr grp + k) % 4) l ix ordinary grp)) (some { p with t := t })

/-- A block tried in a cluster as the room stands: a block of one role on any of its cores (R344; log entry 32). -/
def Plan.tryBlock (p : Plan) (tick cluster : Nat) (l : Launch) (ix : Nat) (ordinary : Bool) : Option Plan :=
  (if l.hdr.roles = 1 then upFrom (Config.pick tick) 4 else [0]).foldl (fun (o : Option Plan) k =>
    o.orElse (fun _ => p.tryAt tick cluster k l ix ordinary)) none

/-- A block that an eviction may take: a resident SLACK block of a context on a die that a chain does not raise. -/
def Plan.slack (p : Plan) (ch : Chain) (l : Launch) : List Block :=
  p.t.blocks.filter (fun b =>
    let v := p.t.launchOf b.die b.lchid
    b.die == l.die && b.stat == BlockStat.resident && v.cls == 0 && v.pasid == l.pasid &&
    !ch.links.any (fun k => k.l.die == b.die && k.l.lchid == b.lchid))

/-- Whether a block has a group on some core. -/
def Plan.onCore (p : Plan) (b : Block) (core : Nat → Bool) : Bool :=
  p.t.groups.any (fun g => g.die == b.die && g.lchid == b.lchid && g.block == b.ix &&
    match g.spot with
    | some pl => core pl.core
    | none => false)

/-- The blocks that may be evicted from the cores that a block needs in a cluster, youngest first. -/
def Plan.candidates (p : Plan) (ch : Chain) (cluster : Nat) (l : Launch) (ix : Nat) : List Block :=
  let roles := (p.t.seatless l.die l.lchid ix).map (fun g => roleOf l.hdr g)
  let needed := fun core => core / 4 == cluster && (l.hdr.roles == 1 || roles.contains (core % 4))
  ((p.slack ch l).filter (fun b => p.onCore b needed)).mergeSort (fun a b => decide (b.ordinal ≤ a.ordinal))

/-- A block taken out in the plan; none where it cannot be saved. -/
def Plan.evict (p : Plan) (b : Block) : Option Plan :=
  if p.saves < b.unsaved then none
  else
    let out := fun (g : Group) => g.die == b.die && g.lchid == b.lchid && g.block == b.ix
    let t1 := { p.t with groups := updBy out (fun (g : Group) => { g with place := none, reserved := none }) p.t.groups }
    let f := fun (x : Block) =>
      { x with stat := .evicted, allocs := x.allocs.map (fun a => if a.held then { a with saved := some 0 } else a) }
    some { p with t := t1.updBlock b.die b.lchid b.ix f, victims := p.victims ++ [b], saves := p.saves - b.unsaved }

/-- A block placed in a cluster with as many evictions as it needs, youngest first. -/
def Plan.withEvictions (tick cluster : Nat) (l : Launch) (ix : Nat) (ordinary : Bool) : List Block → Plan → Option Plan
  | [], p => p.tryBlock tick cluster l ix ordinary
  | b :: r, p =>
    match p.tryBlock tick cluster l ix ordinary with
    | some q => some q
    | none =>
      match p.evict b with
      | some q => Plan.withEvictions tick cluster l ix ordinary r q
      | none => Plan.withEvictions tick cluster l ix ordinary r p

/-- The ordinal of the youngest SLACK block of the context in a cluster, plus 1; a chain's launches are no longer SLACK. -/
def Plan.youngest (p : Plan) (ch : Chain) (l : Launch) (cluster : Nat) : Nat :=
  ((p.slack ch l).filter (fun b => p.onCore b (fun core => core / 4 == cluster))).foldl (fun n b => max n (b.ordinal + 1)) 0

/-- The better of two ways to place a block: fewer evictions, then the cluster of the youngest SLACK block,
then the lowest cluster. -/
def betterPlan (a b : Nat × Nat × Plan) : Bool :=
  let na := a.2.2.victims.length
  let nb := b.2.2.victims.length
  decide (na < nb) || (na == nb && (decide (b.2.1 < a.2.1) || (a.2.1 == b.2.1 && decide (a.1 ≤ b.1))))

/-- The best way to place a block of a launch over all clusters, by one kind of room. -/
def Plan.bestOf (p : Plan) (ch : Chain) (tick : Nat) (l : Launch) (ix : Nat) (ordinary evict : Bool) : Option Plan :=
  let ways := clusters.filterMap (fun k =>
    (Plan.withEvictions tick k l ix ordinary (if evict then p.candidates ch k l ix else []) p).map
      (fun q => (k, p.youngest ch l k, q)))
  (ways.foldl (fun (o : Option (Nat × Nat × Plan)) w => match o with
    | none => some w
    | some b => if betterPlan b w then some b else some w) none).map (fun w => w.2.2)

/-- A block placed in free ordinary records, or in records freed by evictions, or in the reserve (R300; log
entry 21). -/
def Plan.block (p : Plan) (ch : Chain) (tick : Nat) (l : Launch) (ix : Nat) : Option Plan :=
  match p.bestOf ch tick l ix true false with
  | some q => some q
  | none =>
    match p.bestOf ch tick l ix true true with
    | some q => some q
    | none => p.bestOf ch tick l ix false true

/-- The blocks of a launch in the order in which they are placed (R299): those that are out, oldest dispatch
first, then the unstarted ones. No more than a die holds are listed. -/
def State.blockOrder (s : State) (l : Launch) : List Nat :=
  let out := (s.blocks.filter (fun b => b.die == l.die && b.lchid == l.lchid && b.away)).mergeSort
    (fun a b => decide (a.ordinal ≤ b.ordinal))
  out.map (fun b => b.ix) ++ upFrom l.next (min (l.total - l.next) 6145)

/-- The blocks that a class requires and that are not resident (R299). -/
def State.toPlace (s : State) (l : Launch) (c : BitVec 2) : List Nat :=
  let up := s.blocks.any (fun b => b.die == l.die && b.lchid == l.lchid && !b.away)
  if c = 2 then s.blockOrder l else if up then [] else (s.blockOrder l).take 1

/-- The whole plan of a chain with a number of save slots, or none where some block finds no room. -/
def planChain (s : State) (ch : Chain) (c : BitVec 2) (saves : Nat) : Option Plan :=
  ch.links.foldl (fun (o : Option Plan) k =>
    (s.toPlace k.l c).foldl (fun (o : Option Plan) ix => o.bind (fun p => p.block ch s.tick k.l ix)) o)
    (some { t := s, seats := [], ords := [], victims := [], saves := saves })

/-- What a plan does. -/
def Plan.acts (p : Plan) : List Seat × List (Nat × Nat × Nat) := (p.seats, p.victims.map (fun b => (b.die, b.lchid, b.ix)))

/-- The state in which a plan that wants of save slots has changed, or left without room, is reported (R417). -/
def planShort (s : State) (ch : Chain) (r : PromoReq) (pasid : Nat) (p : Option Plan) : State :=
  if p.map Plan.acts = (planChain s ch r.cls (2 ^ 32)).map Plan.acts then s else shortSaves s (ch.links.headD default).l.die pasid

/-! ### Carrying out (R302, R303) -/

/-- The state without a request. -/
def State.dropRequest (s : State) (die : Nat) (r : PromoReq) : State :=
  s.updDie die (fun d => { d with promo := d.promo.filter (fun x => x.who != r.who) })

/-- The waiting path after its promotion: its wait parks, and `promote` ends. -/
def State.promoted (s : State) (w : Who) : State :=
  let p := (s.grp w.gid).path w.path
  match p.stat, p.wait with
  | .promoting, some x =>
    if x.kind == WaitKind.promote then s.endWait w x false none
    else s.updGrp w.gid (fun g => g.updPath w.path (fun p => { p with stat := .parked, reason := x.reason }))
  | _, _ => s

/-- A progress fault of the original wait, with its address or another's (R304). -/
def State.progressFault (s : State) (w : Who) (c : Cause) (at_ : Option Wait) : State :=
  match ((s.grp w.gid).path w.path).wait with
  | some x => s.precise w.gid w.path { cause := c, faddr := (at_.getD x).faddr, lmask := x.act }
  | none => s

/-- ISSUER of the record that a group holds, or that it held last (R271). -/
def Group.lastIssuer (g : Group) : Nat :=
  match g.spot, g.last with
  | some pl, _ => issuerOf pl 0
  | none, some pl => issuerOf pl 0
  | none, none => 0

/-- A launch of a chain raised, with its PROMOTE record of the waiter's die; none while a full ring delays it. -/
def raiseLaunch (c : BitVec 2) (o : Option State) (k : Link) : Option State :=
  o.bind (fun s =>
    let g := s.grp k.who.gid
    let payload := k.l.cls.toNat + 4 * c.toNat + 2 ^ 32 * g.lchid
    (headEvent s g.die k.l 8 g.lastIssuer payload).map (fun s1 =>
      s1.updLaunch k.l.die k.l.lchid (fun l => { l with cls := c })))

/-- A block whose groups are asked to leave their records (R293). A record that is only kept for a group is given up at
once. -/
def State.askOut (s : State) (die lchid ix : Nat) : State :=
  let mine := fun (g : Group) => g.die == die && g.lchid == lchid && g.block == ix
  let ask := fun (g : Group) =>
    { g with
      stopReq := g.place.isSome, reserved := none,
      last := if g.place.isNone && g.reserved.isSome then g.reserved else g.last }
  let s1 := s.updBlock die lchid ix (fun b => { b with stat := .evicting })
  { s1 with groups := updBy mine ask s1.groups }.blockLeft die lchid ix

/-- A planned promotion begun: the classes change, the parked waits that met an inversion trap, and the blocks
to be evicted are asked to leave. -/
def commitPlan (s : State) (die : Nat) (r : PromoReq) (ch : Chain) (p : Plan) : Option State :=
  (ch.links.foldl (raiseLaunch r.cls) (some s)).map (fun s1 =>
    let s2 := ch.bad.foldl (fun s x =>
      s.precise x.1.gid x.1.path { cause := .progressInversion, faddr := x.2.faddr, lmask := x.2.act }) s1
    let s3 := p.victims.foldl (fun s b => s.askOut b.die b.lchid b.ix) s2
    let vs := p.victims.map (fun b => (b.die, b.lchid, b.ix))
    s3.updDie die (fun d =>
      { d with promo := updBy (fun x => x.who == r.who) (fun x => { x with plan := some (p.seats, vs) }) d.promo }))

/-- The planning of a request (R302). Where there is no room, an image that does not hold the slots of the blocks to be
placed is reported (R411), as is a want of save slots (R417). -/
def planRequest (s : State) (die : Nat) (r : PromoReq) : State :=
  let s0 := s.dropRequest die r
  match findBy (fun (l : Launch) => l.die == r.tdie && l.lchid == r.target) s.launches with
  | none => s0.progressFault r.who .progressInversion none
  | some l =>
    if r.cls.toNat ≤ l.cls.toNat then s0.promoted r.who
    else
      let ch := chainOf s r l
      if ch.links.any (fun k => k.l.unchecked || k.l.count.isSome || !s.dispatching k.l.die k.l.pasid) then s
      else
        match ch.deep with
        | some x => s0.progressFault r.who .progressDepth (some x)
        | none =>
          let plan := planChain s ch r.cls (s.freeSaves l.pasid).length
          match plan with
          | none =>
            let met := ch.links.foldl (fun (s : State) k => s.slotMet k.l ((s.toPlace k.l r.cls).length * k.l.hdr.groups))
              (planShort s0 ch r l.pasid plan)
            met.progressFault r.who .progressNoroom none
          | some p =>
            match commitPlan (planShort s ch r l.pasid plan) die r ch p with
            | some s2 => s2
            | none => grainStalls s l.pasid

/-- The EVICT record of a group that has left its record; none while a full ring delays it. -/
def evictRecord (s : State) (g : Group) : Option State :=
  headEvent s g.die (s.launchOf g.die g.lchid) 6 g.lastIssuer (groupPayload g.block g.grpid)

/-- A planned group placed with its DISPATCH record. -/
def placeSeat (s : State) (x : Seat) : Option State :=
  let s1 := match s.blockOf x.die x.lchid x.block with
    | some b => if b.away then s.startBlock x.die x.lchid x.block else s
    | none => s.startBlock x.die x.lchid x.block
  s1.dispatch1 x.die x.lchid x.block x.grp x.place true

/-- A state carried on by the items of a list, as far as they go, and the items that are left. -/
def carryWhile {α : Type} (f : State → α → Option State) : List α → State → State × List α
  | [], s => (s, [])
  | x :: r, s =>
    match f s x with
    | some s1 => carryWhile f r s1
    | none => (s, x :: r)

/-- Whether every block that a promotion evicts is out. -/
def State.victimsOut (s : State) (vs : List (Nat × Nat × Nat)) : Bool :=
  vs.all (fun v => match s.blockOf v.1 v.2.1 v.2.2 with
    | some b => b.away
    | none => true)

/-- Whether blocks of the launches that a plan places have gone out with their context since: each of these launches is then
placed again as its class asks, and the plan's own placements are left to that (R294). -/
def State.wentOut (s : State) (seats : List Seat) : Bool :=
  s.blocks.any (fun b => b.stat == BlockStat.out &&
    seats.any (fun x => x.die == b.die && x.lchid == b.lchid) &&
    !seats.any (fun x => x.die == b.die && x.lchid == b.lchid && x.block == b.ix))

/-- The end of a planned promotion once its blocks are out: the records, the placements, and the wait parks. A
target that has completed drops the rest of it (R303). A full ring delays what is left (R276), and a context that is
being switched out, or is out, places nothing (R294). -/
def finishPlan (s : State) (die : Nat) (r : PromoReq) (seats : List Seat) (vs : List (Nat × Nat × Nat)) : State :=
  if !s.victimsOut vs then s
  else
    let pasid := (s.grp r.who.gid).pasid
    let keep := fun (s : State) (seats : List Seat) (evs : List Nat) =>
      s.updDie die (fun d =>
        { d with promo := updBy (fun x => x.who == r.who) (fun x => { x with plan := some (seats, vs), evs := evs }) d.promo })
    let gs := s.groups.filter (fun g => vs.contains (g.die, g.lchid, g.block) && !g.ended && !r.evs.contains g.gid)
    let (s1, late) := carryWhile evictRecord gs s
    if !late.isEmpty then
      keep (grainStalls s1 pasid) seats (r.evs ++ (gs.take (gs.length - late.length)).map (fun g => g.gid))
    else
      let evs := r.evs ++ gs.map (fun g => g.gid)
      let live := s1.launches.any (fun l => l.die == r.tdie && l.lchid == r.target)
      let todo := if live && !s1.wentOut seats then seats else []
      if !todo.all (fun x => s1.dispatching x.die pasid) then keep s1 seats evs
      else
        let (s2, rest) := carryWhile placeSeat todo s1
        if !rest.isEmpty && !grainRoom s2 pasid then keep (grainStalls s2 pasid) rest evs
        else (s2.dropRequest die r).promoted r.who

/-! ### In replay (R277, R278) -/

/-- The launch that a parked or promoting wait of a group would promote, if the records of a replay name it, or may name
it, by `lch`. -/
def State.waitsOn (s : State) (g : Group) (lch : Nat) : Option Launch :=
  let named := fun (l : Launch) =>
    l.pasid == g.pasid && (l.rname == lch || (s.nameable l && !(s.ctxOf g.pasid).names.contains (l.die, lch)))
  let asked := (s.dieOf g.die).promo.filterMap (fun r =>
    if r.who.gid = g.gid then findBy (fun (l : Launch) => l.die == r.tdie && l.lchid == r.target) s.launches else none)
  let parked := g.live.filterMap (fun i => ((g.path i).wait.bind s.waitTarget).bind (fun t => t.2))
  findBy named (asked ++ parked)

/-- The launch that a PROMOTE record raises: of the launches that its waiter waits on, or else of those that are known by
its LINE, first on its own die. LCHIDs are numbered per die, so another die's launch may have the same. -/
def State.promoted8 (s : State) (c : Ctx) (die r : Nat) : Option Launch :=
  let lch := nbits r 151 88
  let waiter := findBy (fun (g : Group) => g.pasid == c.pasid && g.place.isSome && g.issuer 0 == nbits r 39 16) s.groups
  (waiter.bind (fun g => s.waitsOn g lch)).orElse (fun _ =>
    (findBy (fun (l : Launch) => l.die == die && l.pasid == c.pasid && l.rname == lch) s.launches).orElse (fun _ =>
      findBy (fun (l : Launch) => l.pasid == c.pasid && l.rname == lch) s.launches))

/-- A PROMOTE or EVICT record of a context carried out by its die's headstock. A record whose launch has completed stops
the headstock (R279); one whose launch has not come is held. -/
def replayHead (s : State) (c : Ctx) (die : Nat) : Option State :=
  match nextOfHead s c die with
  | .record ix r =>
    let typ := r % 256
    let lch := nbits r 151 88
    let blk := nbits r 215 184
    let grp := nbits r 231 216
    let miss := if s.nameGone c.pasid die lch then some (stopDispatch s die c.pasid r) else none
    if (typ != 6 && typ != 8) || nbits r 183 152 != ordinalOf c die typ || !s.dispatching die c.pasid then none
    else if typ = 8 then
      match s.promoted8 c die r with
      | none => miss
      | some l =>
        some (((takeHead s c.pasid die ix 8).nameLaunch c.pasid l.die l.lchid lch).updLaunch l.die l.lchid
          (fun l => { l with cls := BitVec.ofNat 2 (nbits r 187 186) }))
    else
      match s.launchNamed c.pasid die lch with
      | none => miss
      | some l =>
        if l.total ≤ blk then
          (if s.groups.any (fun g => g.die == die && g.lchid == l.lchid) || l.unchecked || l.count.isSome then none
           else some (stopDispatch s die c.pasid r))
        else
          match s.groupOf die l.lchid blk grp with
          | none => none
          | some _ =>
            let s1 := (takeHead s c.pasid die ix 6).nameLaunch c.pasid die l.lchid lch
            some (match s.blockOf die l.lchid blk with
              | some b => if b.stat == BlockStat.resident then s1.askOut die l.lchid blk else s1
              | none => s1)
  | _ => none

/-- A request whose launch a PROMOTE record has raised, or that finds no launch. -/
def replayRequest (s : State) (die : Nat) (r : PromoReq) : State :=
  let s0 := s.dropRequest die r
  match findBy (fun (l : Launch) => l.die == r.tdie && l.lchid == r.target) s.launches with
  | none => s0.progressFault r.who .progressInversion none
  | some l => if r.cls.toNat ≤ l.cls.toNat then s0.promoted r.who else s

/-! ### PROMOTION -/

/-- Requests of one clk on one die in the order core, partition, slot (R303). -/
def State.requestBefore (s : State) (a b : PromoReq) : Bool :=
  decide (a.clk < b.clk) || (a.clk == b.clk && decide ((s.grp a.who.gid).issuer a.who.path ≤ (s.grp b.who.gid).issuer b.who.path))

/-- The request that a die's headstock serves: the one being carried out, or else the first. -/
def State.nextRequest (s : State) (die : Nat) : Option PromoReq :=
  let ps := (s.dieOf die).promo
  match findBy (fun r => r.plan.isSome) ps with
  | some r => some r
  | none =>
    ps.foldl (fun (o : Option PromoReq) r => match o with
      | none => some r
      | some x => if s.requestBefore x r then some x else some r) none

/-- Whether a request's path still waits for it. -/
def State.stillAsks (s : State) (r : PromoReq) : Bool := ((s.grp r.who.gid).path r.who.path).stat == PStat.promoting

/-- PROMOTION (R302): the headstock of a die plans or carries out the promotion it serves; requests are served
one at a time over all dies. In replay it carries out the records that are its own. -/
def execPromotion (die : Nat) (s : State) : Host.Outcome State Fault Refusal :=
  match s.nextRequest die with
  | some r =>
    let g := s.grp r.who.gid
    match r.plan with
    | some (seats, vs) => .next (finishPlan s die r seats vs)
    | none =>
      if !s.stillAsks r then .next (s.dropRequest die r)
      else if replaying s (s.launchOf g.die g.lchid) then
        match findBy (fun (c : Ctx) => c.pasid == g.pasid && c.on.contains die) s.ctxs with
        | some c => .next ((replayHead s c die).getD (replayRequest s die r))
        | none => .next (replayRequest s die r)
      else if s.dies.any (fun d => d.promo.any (fun x => x.plan.isSome)) then .next s
      else .next (planRequest s die r)
  | none =>
    match findBy (fun (c : Ctx) => c.on.contains die && c.grain != 0 && c.mode == 2) s.ctxs with
    | some c => .next ((replayHead s c die).getD s)
    | none => .next s

end Sys2Proof.Machine
end

