-- ==== Sys2Proof/Machine/Task.lean ====
section
/-! DEFINITION. Family 0xD's task and stage instructions (R31, R316 to R328): `tasknew`, `taskget`, `taskdone`,
`tasksync` and `stage`, with the events TASK_ACCEPT and TASKSYNC_COPY, and STORE_COMPLETE, which also performs
the record of a posted task. -/

namespace Sys2Proof.Machine

/-! ### `tasknew` (R322) -/

/-- What a `tasknew` can read of its pool's descriptor: its first 64 bytes, or the cause that it meets, or (none) a wait for
a translation. -/
def poolRead (s : State) (g : Group) (addr : Nat) : State × Except (Option Cause) Nat :=
  match headRead s g.die g.pasid addr 64 with
  | (s1, .error c) => (s1, .error c)
  | (s1, .ok bs) =>
    if headPoison s1 g.die g.pasid addr 64 then (s1, .error (some .poison)) else (s1, .ok (ofLe bs))

/-- The trap of a `tasknew` (R322), for a pool as read and a descriptor where it lies in the scratchpad. -/
def taskTrap (s : State) (g : Group) (act : Mask) (addr o : Nat) (pool : Except (Option Cause) Nat) (desc : Option Nat) :
    Option Trap :=
  let t := fun (c : Cause) (f : Nat) => some ({ cause := c, faddr := BitVec.ofNat 64 f, lmask := act } : Trap)
  let badPool := match pool with
    | .ok x => poolIllegal x (s.poolNow g.pasid addr x) g.die
    | .error _ => false
  let badDesc := match desc with
    | some x => descIllegal x
    | none => false
  if badPool || badDesc then t .illegalOperand 0
  else if addr % 256 ≠ 0 then t .memAlign addr
  else if o % 128 ≠ 0 then t .memAlign o
  else if desc.isNone then t .memBounds o
  else
    match pool with
    | .error (some c) => t c addr
    | _ => none

/-- `tasknew` (R322): the checks, and then the path is held until the table accepts the task. -/
def tasknewRes (w : XN) (e : Env) (s : State) : Res :=
  let g := s.grp s.cur.gid
  if 63 ≤ g.ctr .st then .hold (s.heldFor s.cur.gid e.pix Ctr.st.reason)
  else if e.act = 0 then .adv (s.addOp s.cur.gid e.pix .st e.act [] [] 0 false 0 true (.matrix .none))
  else
    let addr := (e.uni64 w.a).toNat % 2 ^ 57
    let o := (e.uni w.b).toNat
    match e.ready s o 128 with
    | .hold => .hold (s.heldFor s.cur.gid e.pix 5)
    | .trap t => .trap t
    | .poison o => .adv (postPoison e .st o (.matrix .none) s)
    | .go =>
      let desc := e.scrRead s o 128
      match poolRead s g addr with
      | (s1, .error none) => .hold (s1.heldFor s.cur.gid e.pix 23)
      | (s1, pool) =>
        match taskTrap s1 g e.act addr o pool desc, desc with
        | some t, _ => .trap t
        | none, some x =>
          .hold ({ s1 with nextId := s1.nextId + 1 }.waiting { gid := s.cur.gid, path := e.pix }
            (e.wait s1 w.h (.accept x s1.nextId) addr unused 0 0 false) .accepting 25)
        | none, none => .hold s1

/-- `tasknew` (R322). -/
def execTasknew (w : XN) : Meaning := issue (.tasknew w) w.h (tasknewRes w)

/-- The order in which a path's `tasknew` reached the headstock of a die, where it is held there (R320; log entry 85). -/
def Path.posted (p : Path) : Option Nat :=
  if p.stat != PStat.accepting then none
  else
    match p.wait with
    | some x =>
      match x.kind with
      | .accept _ n => some n
      | _ => none
    | none => none

/-- Whether a `tasknew` that reached a die's headstock before another is still held there (R320). -/
def State.postedBefore (s : State) (die n : Nat) : Bool :=
  s.groups.any (fun g => g.die == die && g.place.isSome &&
    pathIxs.any (fun i => (g.path i).live && (g.path i).posted.any (fun m => decide (m < n))))

/-- TASK_ACCEPT (R320, R322): the table accepts a posted task in its turn, unless a check now fails, there is no room, or
its group's ST counter is full. -/
def execTaskAccept (w : Who) (s : State) : Host.Outcome State Fault Refusal :=
  let g := s.grp w.gid
  let p := g.path w.path
  match p.wait with
  | some x =>
    match x.kind with
    | .accept desc n =>
      if p.stat != PStat.accepting || !(s.ctxOf g.pasid).on.contains g.die then .next s
      else
        let (s1, pool) := poolRead s g x.addr
        match taskTrap s1 g x.act x.addr 0 pool (some desc), pool with
        | some t, _ => .next ((s1.noteFault g t.faddr.toNat t.cause).precise w.gid w.path t)
        | none, .ok d =>
          let old := s1.poolNow g.pasid x.addr d
          if Config.tasksInFlight ≤ s1.inFlightTasks g.die || s1.postedBefore g.die n then .next s1
          else if 63 ≤ g.ctr .st then .next (s1.heldFor w.gid w.path Ctr.st.reason)
          else
            match ({ old with die := some g.die } : Pool).accept desc with
            | none => .next (s1.heldFor w.gid w.path 25)
            | some (new, id) =>
              let s2 := s1.setPool old new
              let s3 := s2.addOp w.gid w.path .st x.act [] ((s2.grp w.gid).depsOf w.path 0 true) 0 false 0 false
                (.taskrec x.addr id)
              .next (s3.endWait w x false none)
        | none, .error _ => .next s1
    | _ => .next s
  | none => .next s

/-! ### The task's record (R322) -/

/-- Bytes written by the headstock of a die, or the fault that one of them meets, with its address, or a wait for a
translation (`some none`). -/
def headWriteAt (s : State) (die pasid : Nat) : Nat → List Byte → State × Option (Option (Cause × Nat))
  | _, [] => (s, none)
  | a, b :: r =>
    match headWrite s die pasid a [b] with
    | (s1, none) => headWriteAt s1 die pasid (a + 1) r
    | (s1, some c) => (s1, some (c.map (fun c => (c, a))))

/-- The record of a posted task performed: the task may then be ready. A fault removes the task from the table. -/
def performTaskrec (s : State) (gid : Nat) (o : Op) (addr id : Nat) : State :=
  let g := s.grp gid
  let finish := fun (s : State) => s.updGrp gid (fun g => g.updOp o.id (fun o => { o with done := true }))
  if o.done || o.deps.any g.pending then s
  else
    match s.poolOf g.pasid addr with
    | none => finish s
    | some p =>
      match findBy (fun (t : Task) => t.id == id) p.tasks with
      | none => finish s
      | some t =>
        match headWriteAt s g.die g.pasid (p.tbase + 128 * t.slot) t.record with
        | (s1, none) => finish (s1.setPool p (p.record id))
        | (s1, some none) => s1
        | (s1, some (some (c, a))) =>
          ((finish (s1.setPool p (p.release id []))).noteFault g a c).raiseFault gid
            { op := o.id, path := o.path, cause := c, fpc := o.pc, faddr := BitVec.ofNat 64 a, lmask := o.act,
              issuedAt := o.issuedAt }

/-- STORE_COMPLETE (R201): the named lanes of a store, or the record of a posted task (R322). -/
def execStoreComplete (gid op : Nat) (lanes : BitVec 32) (s : State) : Host.Outcome State Fault Refusal :=
  match (s.grp gid).op op with
  | none => .next s
  | some o =>
    match o.kind with
    | .taskrec addr id => .next (performTaskrec s gid o addr id)
    | _ => completeIf (fun o => o.isMem && o.ctr == .st) gid op lanes s

/-! ### `taskget` and `taskdone` (R323, R324) -/

/-- `taskget` (R323): a checked wait on the line of the pool's HEAD. -/
def taskgetRes (w : XN) (e : Env) (s : State) : Res :=
  if e.act = 0 then .adv s
  else
    let g := s.grp s.cur.gid
    let addr := (e.uni64 w.a).toNat % 2 ^ 57
    let who : Who := { gid := s.cur.gid, path := e.pix }
    if !e.launch.hdr.taskworker || g.task.isSome || g.live.length != 1 then
      .trap { cause := .illegalOperand, lmask := e.act }
    else if addr % 256 ≠ 0 then .trap { cause := .memAlign, faddr := BitVec.ofNat 64 addr, lmask := e.act }
    else
      let s1 : State := { s with pools := s.pools.map (fun (p : Pool) => { p with waiters := p.waiters.filter (fun o => o != who) }) }
      startWait e s1 (e.wait s1 w.h .task addr (.s 20) 4 0 true)

/-- `taskget` (R323). -/
def execTaskget (w : XN) : Meaning := issue (.taskget w) w.h (taskgetRes w)

/-- `taskdone` (R324): the path is held until its accesses are performed, and the release then takes the task
out of the table. -/
def taskdoneRes (_ : XN) (e : Env) (s : State) : Res :=
  if e.act = 0 then .adv s
  else
    let g := s.grp s.cur.gid
    match g.task with
    | none => .trap { cause := .illegalOperand, lmask := e.act }
    | some (addr, id) =>
      if !e.launch.hdr.taskworker then .trap { cause := .illegalOperand, lmask := e.act }
      else if (g.before e.pix).any (fun o => o.isAccess) then .hold (s.heldFor s.cur.gid e.pix 4)
      else
        let s1 := s.updGrp s.cur.gid (fun g => { g with task := none })
        match s1.poolOf g.pasid addr with
        | none => .adv s1
        | some p =>
          let q := p.release id (g.path e.pix).view
          .adv (s1.setPool p { q with done := p.done + 1 })

/-- `taskdone` (R324). -/
def execTaskdone (w : XN) : Meaning := issue (.taskdone w) w.h (taskdoneRes w)

/-! ### `tasksync` (R325) -/

/-- `tasksync` (R325): CLOSED is set at issue, and an operation covers the tasks accepted so far. A fault of the
descriptor is raised by the operation. -/
def tasksyncRes (w : XN) (e : Env) (s : State) : Res :=
  let g := s.grp s.cur.gid
  if 63 ≤ g.ctr .cp then .hold (s.heldFor s.cur.gid e.pix Ctr.cp.reason)
  else if e.act = 0 then .adv (s.addOp s.cur.gid e.pix .cp e.act [] [] 0 false 0 true (.matrix .none))
  else
    let addr := (e.uni64 w.a).toNat % 2 ^ 57
    let b := e.uni w.b
    if b.toNat ≥ 2 then .trap { cause := .illegalOperand, lmask := e.act }
    else if addr % 256 ≠ 0 then .trap { cause := .memAlign, faddr := BitVec.ofNat 64 addr, lmask := e.act }
    else
      match poolRead s g addr with
      | (s1, .error none) => .hold (s1.heldFor s.cur.gid e.pix 23)
      | (s1, .error (some c)) =>
        let id := s1.nextId
        let s2 := (s1.noteFault g addr c).addOp s.cur.gid e.pix .cp e.act [] [] 0 false 0 false (.tasksync addr 0)
        let bad := (lanesOf e.act).map (fun l => (l, c, addr))
        .adv ((s2.updGrp s.cur.gid (fun g =>
          { g with ops := updBy (fun x => x.id == id) (fun x => { x with bad := bad }) g.ops })).finishOp s.cur.gid id)
      | (s1, .ok x) =>
        let p := s1.poolNow g.pasid addr x
        let s2 := if b.toNat = 1 then s1.setPool p { p with closed := 1 } else s1
        .adv (s2.addOp s.cur.gid e.pix .cp e.act [] (g.depsOf e.pix 0 false) 0 false 0 false (.tasksync addr p.nextid))

/-- `tasksync` (R325). -/
def execTasksync (w : XN) : Meaning := issue (.tasksync w) w.h (tasksyncRes w)

/-- The renamed versions of a pool that are the youngest of their range (R325). -/
def Pool.toHome (p : Pool) : List Version :=
  p.live.filter (fun v => !p.refs.any (fun r => r.range == v.range && decide (v.writer < r.writer)))

/-- A byte copied home by a TCE, through the walk-ahead TLB of its core (R360), and what it has read and written; poison
moves with it (R409). `k` numbers the byte. -/
def copyByte (s : State) (g : Group) (o : Op) (k src dst : Nat) : State × Except (Option (Cause × Nat)) View :=
  match s.targetIn g 2 .gbl (src % 2 ^ 57) 1 needR with
  | (s1, .error c) => (s1, .error (c.map (fun c => (c, src))))
  | (s1, .ok x) =>
    match s1.targetIn g 2 .gbl (dst % 2 ^ 57) 1 needW with
    | (s2, .error c) => (s2, .error (c.map (fun c => (c, dst))))
    | (s2, .ok y) =>
      let b := s2.engineByte g o (src % 2 ^ 57) x k
      let s3 := s2.writeTarget g y 1 b.1
      (if s2.targetPoison g x 1 then s3.poisonPlace g y else s3,
        .ok (viewJoin (viewOf (x.cells g 1) [b.2]) (s3.wroteAt g y 1)))

/-- `n` bytes copied home. -/
def copyHome (g : Group) (o : Op) : Nat → Nat → Nat → State → State × Except (Option (Cause × Nat)) View
  | 0, _, _, s => (s, .ok [])
  | n + 1, src, dst, s =>
    match copyByte s g o n src dst with
    | (s1, .ok v) =>
      match copyHome g o n (src + 1) (dst + 1) s1 with
      | (s2, .ok w) => (s2, .ok (viewJoin v w))
      | r => r
    | r => r

/-- TASKSYNC_COPY (R325): once every covered task is done, the next renamed version is copied home and freed;
with none left the operation completes. -/
def execTasksyncCopy (gid op : Nat) (s : State) : Host.Outcome State Fault Refusal :=
  let g := s.grp gid
  match g.op op with
  | none => .next s
  | some o =>
    match o.kind with
    | .tasksync addr upto =>
      if o.done || o.deps.any g.pending then .next s
      else
        match s.poolOf g.pasid addr with
        | none => .next (s.copyDone gid o)
        | some p =>
          if p.tasks.any (fun t => decide (t.id ≤ upto)) then .next s
          else
            match p.toHome with
            | [] => .next (s.copyDone gid o)
            | v :: _ =>
              let seen := { o with view := viewJoin o.view p.seen, ahead := true }
              match copyHome g seen (256 * v.range.len) (p.addrOf v.range (.buf v.start)) (256 * v.range.base) s with
              | (s1, .error none) => .next s1
              | (s1, .error (some (c, a))) => .next (copyFault s1 gid o c a)
              | (s1, .ok did) =>
                let p1 : Pool :=
                  { p with versions := p.versions.map (fun x => if x.start = v.start then { x with freed := true } else x) }
                .next ((s1.setPool p p1.tidy).addOwn gid op did)
    | _ => .next s

/-! ### `stage` (R31, R328) -/

/-- Whether a path counts as fused for `stage`: it holds every live lane of its group, or in compatibility mode
of its half (R31). -/
def stageFused (e : Env) : Bool :=
  let p := e.path
  let out := e.g.exited
  if e.launch.hdr.compat then
    let half : Mask := if lowest p.mask < 16 then 0x0000FFFF else 0xFFFF0000
    half &&& ~~~out &&& ~~~p.mask == 0
  else ~~~out &&& ~~~p.mask == 0

/-- Whether the headstock is still to write the counts of a launch's stage table (R340). -/
def State.countsDue (s : State) (l : Launch) : Bool :=
  s.headDue.any (fun w => match w with
    | .bytes _ pasid a _ => pasid == l.pasid && decide (l.stages ≤ a) && decide (a < l.stages + 512)
    | .report _ _ _ => false)

/-- `stage` (R328). One that takes a pending assignment is held until the headstock has moved the group's count in GROUPS
(R340). -/
def stageRes (w : XN) (e : Env) (s : State) : Res :=
  if e.act = 0 then .adv s
  else
    let g := s.grp s.cur.gid
    let old := g.regs.stage
    let out := fun (v : BitVec 4) (s : State) =>
      writeRes e false w.h w.d unused (fun _ => v.setWidth 64)
        (s.updGrp s.cur.gid (fun g =>
          if v = old && g.regs.pendStage.isNone then g else { g with regs := { g.regs with stage := v, pendStage := none } }))
    match (if g.regs.pendClk = (s.dieOf g.die).clk + 1 then none else g.regs.pendStage) with
    | none => writeRes e false w.h w.d unused (fun _ => old.setWidth 64) s
    | some v =>
      if !e.launch.hdr.staged || !stageFused e then writeRes e false w.h w.d unused (fun _ => old.setWidth 64) s
      else if s.countsDue e.launch then .hold (s.heldFor s.cur.gid e.pix 26)
      else
        match ordEvent s g e.pix 10 (s.launchOf g.die g.lchid).recName (old.toNat + v.toNat * 16) with
        | .hold s1 => .hold (s1.grainHeld s.cur.gid e.pix)
        | .trap c a b => .trap (ringTrap e.act c a b)
        | .run s1 (some r) => out (BitVec.ofNat 4 (nbits r 7 4)) s1
        | .run s1 none => out v s1

/-- `stage` (R328). -/
def execStage (w : XN) : Meaning := issue (.stage w) w.h (stageRes w)

end Sys2Proof.Machine
end

