-- ==== Sys2Proof/Machine/Queue.lean ====
section
/-! DEFINITION. Queues (R370 to R380): the walk of the queue tables, the control blocks, the serving of a
queue, and the commands. -/

namespace Sys2Proof.Machine

/-! ### The walk (R370 to R372) -/

/-- The queue of a reference. -/
def State.queueOf (s : State) (r : QRef) : Option Queue := findBy (fun (q : Queue) => q.ref == r) s.queues

/-- The state with a queue changed. -/
def State.updQueue (s : State) (r : QRef) (f : Queue → Queue) : State :=
  { s with queues := updBy (fun (q : Queue) => q.ref == r) f s.queues }

/-- A record of a refused walk in the module error log, for which the manual states neither code nor detail
(log entry 14). -/
def walkReport (s : State) (die : Nat) : State :=
  logModule s
    { code := (Config.freeWord s.tick 600910).toNat % 2 ^ 16, die := die, queue := 0, rptr := 0, lchid := 0,
      d0 := (Config.freeWord s.tick 600911).toNat % 2 ^ 64, d1 := (Config.freeWord s.tick 600912).toNat % 2 ^ 64 }

/-- The outcome of a walk of the queue tables. -/
inductive Walk where
  | drop (s : State)     -- V = 0: the kick is dropped
  | log (s : State)      -- refused, with a record
  | ok (s : State)
  deriving DecidableEq, Repr

/-- One entry walked: V, P, the bits that must be zero, then A set. -/
def walkEntry (s : State) (die a : Nat) (zero : Nat → Bool) : Walk :=
  let e := s.rdNum a 8
  if !nbit e 0 then .drop s
  else if !nbit e 1 || !zero e then .log (walkReport s die)
  else .ok (if nbit e 2 then s else s.wrMem a (leBytes 8 (e + 4)))

/-- Whether a context record holds only what its map allows. -/
def recordZeros (r : Nat) : Bool := nbits r 399 332 == 0 && nbits r 262 0 == 0 && nbits r 450 448 == 0

/-- A context with the fields of its record (R372). -/
def Ctx.ofRecord (c : Ctx) (pasid r : Nat) : Ctx :=
  { c with
    pasid := pasid, ext := nbit r 263, priv := nbit r 264, gen := nbits r 331 316, root := nbits r 315 272,
    attr := BitVec.ofNat 9 (nbits r 271 265), image := nbits r 447 424, drainmem := nbits r 423 400,
    drainw := nbits r 511 448 }

/-- The state with a context as its record gives it. -/
def State.takeRecordOf (s : State) (pasid r : Nat) : State :=
  if s.ctxs.any (fun c => c.pasid == pasid) then s.updCtx pasid (fun c => c.ofRecord pasid r)
  else { s with ctxs := s.ctxs ++ [Ctx.blank.ofRecord pasid r] }

/-- The walk for a queue: both tables, the directory, and the queue's pointer. -/
def walkQueue (s : State) (die pasid q : Nat) : Walk :=
  let table := fun e => nbits e 11 3 == 0
  match walkEntry s die (qtEntry1 s die pasid) table with
  | .ok s1 =>
    match walkEntry s1 die (qtEntry2 s1 die pasid) table with
    | .ok s2 =>
      let dir := qtDir s2 die pasid
      let r := s2.rdNum dir 64
      match walkEntry s2 die (qPtrAt s2 die pasid q) (fun e => nbits e 15 3 == 0 && nbits e 63 40 == 0) with
      | .ok s3 =>
        if !recordZeros r || s2.rdNum (dir + 576) 3520 != 0 then .log (walkReport s3 die)
        else .ok (s3.takeRecordOf pasid r)
      | w => w
    | w => w
  | w => w

/-! ### Control blocks (R373, R374) -/

/-- Whether an object may serve a context as a ring or an image. -/
def State.owned (s : State) (id pasid : Nat) : Bool :=
  id == 0 || (let o := nbits (s.objEntry id) 139 120
    o == 0 || o == pasid)

/-- The control blocks of a context's other running queues, as its directory names them. -/
def State.runningQcbs (s : State) (die : Nat) (r : QRef) : List Nat :=
  let dir := qtDir s die r.pasid
  (upFrom 0 64).filterMap (fun q =>
    if q = r.q || s.rdNum (dir + 64 + 8 * q) 1 % 4 ≠ 3 then none
    else
      let c := qcb s die r.pasid q
      if qcbState c = 1 then some c else none)

/-- Whether a ring differs from that of another running queue of the context. -/
def State.otherRing (s : State) (die : Nat) (r : QRef) (f : Nat → Nat) (ring : Nat) : Bool :=
  ring != 0 && (s.runningQcbs die r).any (fun c => f c != 0 && f c != ring)

/-- The ring of a context: that of a queue's control block, or where it names none that of another running queue. -/
def State.ringNow (s : State) (die : Nat) (r : QRef) (f : Nat → Nat) (c : Nat) : Nat :=
  if f c ≠ 0 then f c else ((s.runningQcbs die r).map f).find? (· != 0) |>.getD 0

/-- Whether a control block is served (R368, R374). -/
def qcbAllowed (s : State) (die : Nat) (r : QRef) (c : Nat) : Bool :=
  qcbFloor c != 3 && decide (4 ≤ qcbLog2n c) && decide (qcbLog2n c ≤ 16) &&
  decide (qcbSemBase c + qcbSemCnt c ≤ 1024) && nbits c 207 0 == 0 && qcbErr c % 4096 == 0 &&
  qcbRbase c % 64 == 0 && qcbWp c % 4 == 0 && s.owned (qcbGrain c) r.pasid && s.owned (qcbShav c) r.pasid &&
  s.owned (s.ctxOf r.pasid).image r.pasid && !s.otherRing die r qcbGrain (qcbGrain c) && !s.otherRing die r qcbShav (qcbShav c)

/-- The state with bytes of a queue's control block written by its headstock; one that it may not write is a fault of the
object (R368). -/
def qcbWrite (s : State) (die : Nat) (r : QRef) (o : Nat) (bs : List Byte) : State :=
  let id := qcbObj s die r.pasid r.q
  match s.objFault id o bs.length false true with
  | none => s.objWrite id o bs
  | some e => objectFault s die r.pasid id e.code.toNat

/-- The state with STATE of a queue's control block set to 2 (R375, R376). -/
def setHalted (s : State) (die : Nat) (r : QRef) : State :=
  qcbWrite s die r 26 [BitVec.ofNat 8 (s.objNum (qcbObj s die r.pasid r.q) 26 1 / 4 * 4 + 2)]

/-- RPTR of a queue. -/
def rptrOf (s : State) (q : Queue) : Nat := qcbRptr (qcb s q.die q.ref.pasid q.ref.q)

/-- A queue halted by an error, with its report; commands read and not started are read again later. -/
def haltQueue (s : State) (q : Queue) (code rptr d0 d1 : Nat) : State :=
  let s1 := reportQueue s q.die q.ref.pasid
    { code := code, die := q.die, queue := q.ref.q, rptr := rptr, lchid := 0, d0 := d0, d1 := d1 }
  (setHalted s1 q.die q.ref).updQueue q.ref (fun q => { q with waiting := [], bad := none })

/-! ### Serving (R375, R376) -/

/-- The bytes of a command that its OP names (R377). -/
def commandBytes (op : Nat) : List Nat :=
  match op with
  | 1 => upFrom 4 60
  | 2 => upFrom 8 18
  | 3 => upFrom 8 19
  | 4 => upFrom 8 24
  | 5 => upFrom 8 8
  | _ => []

/-- Whether the field that begins at a byte of a command keeps its limits. -/
def fieldOk (op x b : Nat) : Bool :=
  let n := fun (o w : Nat) => nbits x (8 * o + 8 * w - 1) (8 * o)
  match b with
  | 0 => decide (op ≤ 5)
  | 1 => decide (n 1 1 ≤ 1)
  | 8 =>
    if op = 2 || op = 5 then n 8 8 % 8 == 0
    else if op = 3 then n 8 8 % (if n 25 1 = 0 then 4 else 8) == 0 else true
  | 24 => if op = 2 || op = 3 then decide (n 24 1 ≤ 6) else if op = 4 then decide (n 24 8 < 2 ^ 40)
    else if op = 1 then n 24 8 % 512 == 0 else true
  | 25 => if op = 2 || op = 3 then decide (n 25 1 ≤ 1) else true
  | 26 => if op = 3 then decide (n 26 1 ≤ 2) else true
  | _ => true

/-- The byte offset at which a malformed command first breaks its layout (log entry 22). -/
def badOffset (x : Nat) : Nat :=
  let op := x % 256
  (findBy (fun b =>
    !fieldOk op x b ||
    (decide (2 ≤ b) && !(commandBytes op).contains b && nbits x (8 * b + 7) (8 * b) != 0)) (upFrom 0 64)).getD 0

/-- What reading commands of a ring comes to: the commands, and a malformed one behind them, or an address at which a
fault, or (none) a wait for a translation, ends the reading. -/
structure ReadCmds where
  s : State
  cmds : List Instr
  bad : Option (Nat × Nat)
  stop : Option (Option Cause × Nat)
  deriving DecidableEq, Repr

/-- `n` commands read from count `k` on. -/
def readCommands (die : Nat) (r : QRef) (rbase ln : Nat) : Nat → Nat → State → ReadCmds
  | 0, _, s => { s := s, cmds := [], bad := none, stop := none }
  | n + 1, k, s =>
    let a := rbase + 64 * (k % 2 ^ ln)
    match headRead s die r.pasid a 64 with
    | (s1, .error c) => { s := s1, cmds := [], bad := none, stop := some (c, a) }
    | (s1, .ok bs) =>
      let x := ofLe bs
      match decodeCommand r (BitVec.ofNat 512 x) with
      | none => { s := s1, cmds := [], bad := some (x % 256, badOffset x), stop := none }
      | some i =>
        let rest := readCommands die r rbase ln n (k + 1) s1
        { rest with cmds := i :: rest.cmds }

/-- Whether a WAITWORD of a queue is pending. -/
def Queue.waits (q : Queue) : Bool :=
  q.started.any (fun c => match c.cmd with
    | .waitword _ _ => true
    | _ => false)

/-- The state after a malformed command that has come to the front halts its queue. -/
def settleBad (s : State) (r : QRef) : State :=
  match s.queueOf r with
  | none => s
  | some q =>
    match q.bad with
    | some (op, o) => if q.waiting.isEmpty && !q.waits then haltQueue s q 0x02 (rptrOf s q) op o else s
    | none => s

/-- What stands at a GLOBAL address and was written by releases, as a queue learns it by an acquire (R375, R378). -/
def queueHears (s : State) (q : Queue) (a n : Nat) (scope : BitVec 3) : State :=
  match s.translate q.die headCore 1 q.ref.pasid (a % 2 ^ 57) needR with
  | (s1, .ok x) =>
    let t : Target := .at_ x.loc x.attr
    let stamps := s1.stampsAt Group.blank t n
    let got := viewJoin (viewOf (t.cells Group.blank n) stamps) (acquired (headAgent q.die) scope false (s1.msgsOf stamps))
    s1.updQueue q.ref (fun q => { q with view := viewJoin q.view got })
  | (s1, _) => s1

/-- A queue served (R375): its write count read as an acquire, and the new commands of its ring. The flag answers that a
translation is awaited (R352). -/
def serveCommands (s : State) (q : Queue) (c : Nat) : State × Bool :=
  match headRead s q.die q.ref.pasid (qcbWp c) 4 with
  | (s1, .error none) => (s1, true)
  | (s1, .error (some e)) => (haltQueue s1 q 0x07 (qcbRptr c) (qcbWp c) e.code.toNat, false)
  | (s0, .ok bs) =>
    let s1 := queueHears s0 q (qcbWp c) 4 6
    let n := (ofLe bs + 2 ^ 32 - qcbRptr c) % 2 ^ 32
    if 2 ^ qcbLog2n c < n then
      (haltQueue s1 q 0x02 (qcbRptr c) ((Config.freeWord s.tick 600913).toNat % 2 ^ 64)
        ((Config.freeWord s.tick 600914).toNat % 2 ^ 64), false)
    else if q.bad.isSome then (s1, false)
    else
      let have_ := q.waiting.length
      let r := readCommands q.die q.ref (qcbRbase c) (qcbLog2n c) (n - have_) (qcbRptr c + have_) s1
      let took := settleBad (r.s.updQueue q.ref (fun q => { q with waiting := q.waiting ++ r.cmds, bad := r.bad })) q.ref
      match r.stop with
      | some (some e, a) => (haltQueue r.s q 0x07 (qcbRptr c + have_ + r.cmds.length) a e.code.toNat, false)
      | some (none, _) => (took, true)
      | none => (took, false)

/-- A queue whose walk succeeded: its control block is checked and, where it runs, it is served as the block now says, die
and rings among it (R371, R373). The flag answers that a translation is awaited. -/
def serveQueue (s : State) (die : Nat) (r : QRef) : State × Bool :=
  let id := qcbObj s die r.pasid r.q
  match s.objRead id 0 64 with
  | .error e => (objectFault s die r.pasid id e.code.toNat, false)
  | .ok bs =>
    let c := ofLe bs
    if nbits (s.objEntry id) 119 112 ≠ 6 || !qcbAllowed s die r c then (walkReport s die, false)
    else if qcbState c ≠ 1 then (s, false)
    else
      let ring := s.ringNow die r qcbGrain c
      let s1 := s.updCtx r.pasid (fun x =>
        { x with grain := x.using ring, shav := x.using (s.ringNow die r qcbShav c),
                 late := if x.using ring = x.grain then x.late else [] })
      match s1.queueOf r with
      | some q =>
        let q1 := { q with die := qcbDie c }
        serveCommands (s1.updQueue r (fun _ => q1)) q1 c
      | none =>
        let q : Queue := { ref := r, die := qcbDie c, waiting := [], bad := none, started := [], view := [] }
        serveCommands { s1 with queues := s1.queues ++ [q] } q c

/-! ### Starting a command (R375, R378) -/

/-- The queue whose next command is this one, if it may start now: its die's headstock serves queues (R392, R393), a BARRIER
waits for every earlier command, and a pending WAITWORD holds every later one. -/
def State.startable (s : State) (r : QRef) (i : Instr) (barrier : Bool) : Option Queue :=
  match s.queueOf r with
  | none => none
  | some q =>
    if q.waiting.head? = some i && !q.waits && !(barrier && !q.started.isEmpty) &&
        (s.dieOf q.die).gating == Gating.running && nbit s.module.ready.toNat (9 + q.die) && !(s.ctxOf r.pasid).teardown then some q
    else none

/-- A command started: RPTR advances past it. -/
def State.begin (s : State) (q : Queue) (c : Option PendCmd) : State :=
  let s1 := qcbWrite s q.die q.ref 36 (leBytes 4 (rptrOf s q + 1))
  s1.updQueue q.ref (fun q => { q with waiting := q.waiting.tail, started := q.started ++ c.toList })

/-- A command that has started and is not complete. -/
def pending (s : State) (q : Queue) (i : Instr) (lchid : Nat) : PendCmd :=
  { ix := rptrOf s q, cmd := i, lchid := lchid, moved := [] }

/-- A fault in a command's access: a report, and the queue halts (R378). -/
def commandFault (s : State) (q : Queue) (ix addr : Nat) (c : Cause) : State :=
  haltQueue (s.updQueue q.ref (fun q => { q with started := q.started.filter (fun p => p.ix != ix) })) q 0x07 ix addr
    c.code.toNat

/-- QUEUE_NOP (R376). -/
def execQueueNop (q : QRef) (barrier : Bool) (s : State) : Host.Outcome State Fault Refusal :=
  match s.startable q (.queueNop q barrier) barrier with
  | none => .next s
  | some x => .next (settleBad (s.begin x none) q)

/-! ### LAUNCH (R308 to R310, R377) -/

/-- DRAINT of a context as its headstock knows it: read from the image where the context is not switched in
(R411, R419). -/
def State.draintNow (s : State) (pasid : Nat) : Nat :=
  let c := s.ctxOf pasid
  if c.on.isEmpty then s.objNum c.image 8 8 else c.draint

/-- A root launch as its command creates it. -/
def rootLaunch (q : Queue) (c : LaunchCmd) (cb rptr : Nat) (h : KHeader) : Launch :=
  let total := c.x.toNat * c.y.toNat * c.z.toNat
  { Launch.blank with
    die := q.die, pasid := q.ref.pasid, queue := q.ref.q, cmd := rptr, cls := h.cls, hdr := h,
    hdrAddr := c.header.toNat % 2 ^ 57, sbmode := effectiveMode h (qcbFloor cb),
    grid := (c.x.toNat, c.y.toNat, c.z.toNat), args := c.args, n := total, total := total,
    semBase := qcbSemBase cb, semCnt := qcbSemCnt cb, stages := if h.staged then c.stages.toNat % 2 ^ 57 else 0 }

/-- The stage table of a STAGED launch checked: the check that it fails, or a fault, or (none) a wait for a translation,
with its address. -/
def readStages (s : State) (q : Queue) (h : KHeader) (c : LaunchCmd) :
    State × Except (Option Cause × Nat) (Option HdrFail) :=
  if !h.staged || c.stages = 0 then (s, .ok none)
  else
    match headRead s q.die q.ref.pasid (c.stages.toNat % 2 ^ 57) 512 with
    | (s1, .error e) => (s1, .error (e, c.stages.toNat))
    | (s1, .ok bs) => (s1, .ok (stageTableCheck bs))

/-- A LAUNCH rejected by a check: a record, and the command is complete (R308, R379). -/
def rejectLaunch (s : State) (q : Queue) (f : HdrFail) : State :=
  reportQueue (s.begin q none) q.die q.ref.pasid
    { code := 0x01, die := q.die, queue := q.ref.q, rptr := rptrOf s q, lchid := 0, d0 := f.check, d1 := f.value }

/-- A root launch of a LAUNCH whose checks have passed, with a report of a latency table that is not the device's. -/
def startLaunch (s : State) (q : Queue) (i : Instr) (c : LaunchCmd) (h : KHeader) : State :=
  let rptr := rptrOf s q
  let l := rootLaunch q c (qcb s q.die q.ref.pasid q.ref.q) rptr h
  let k := s.nextLch q.die
  let s1 := (s.begin q (some (pending s q i k))).createLaunch l
  if h.lattab = Config.latencyTable then s1
  else
    reportQueue s1 q.die q.ref.pasid
      { code := 0x03, die := q.die, queue := q.ref.q, rptr := rptr, lchid := k, d0 := h.lattab, d1 := Config.latencyTable }

/-- A root launch of a LAUNCH with an empty grid: it is created with no block and completes at once, without a record
(R308, R379). -/
def emptyLaunch (s : State) (q : Queue) (c : LaunchCmd) (h : KHeader) : State :=
  let l := rootLaunch q c (qcb s q.die q.ref.pasid q.ref.q) (rptrOf s q) h
  let s1 := (s.begin q none).createLaunch { l with n := 0, total := 0 }
  State.settleLaunch s1.launches.length q.die (s.nextLch q.die) s1

/-- A LAUNCH whose header is read: the checks in the order of R433, those of the header (R63, R27, R33) before R308's table
(log entry 71). A header or a grid that fails its check is rejected before the stage table is read. -/
def launchHeader (s : State) (q : Queue) (i : Instr) (c : LaunchCmd) (x : Nat) : State :=
  let rptr := rptrOf s q
  let h := headerOf x
  match headerCheck x (c.header.toNat % 2 ^ 57) with
  | some f => rejectLaunch s q f
  | none =>
    if c.x = 0 || c.y = 0 || c.z = 0 then emptyLaunch s q c h
    else
      match gridCheck h c.x.toNat c.y.toNat c.z.toNat with
      | some f => rejectLaunch s q f
      | none =>
        match readStages s q h c with
        | (s1, .error (none, _)) => s1
        | (s1, .error (some e, a)) => commandFault (s1.begin q none) q rptr a e
        | (s1, .ok stages) =>
          match firstFail [stages, drainCheck h (s1.draintNow q.ref.pasid)] with
          | some f => rejectLaunch s1 q f
          | none => startLaunch s1 q i c h

/-- LAUNCH (R308). -/
def execLaunch (r : QRef) (c : LaunchCmd) (s : State) : Host.Outcome State Fault Refusal :=
  match s.startable r (.launch r c) c.barrier with
  | none => .next s
  | some q =>
    match headRead s q.die r.pasid (c.header.toNat % 2 ^ 57) 64 with
    | (s1, .error none) => .next s1
    | (s1, .error (some e)) => .next (commandFault (s1.begin q none) q (rptrOf s q) c.header.toNat e)
    | (s1, .ok bs) => .next (settleBad (launchHeader s1 q (.launch r c) c (ofLe bs)) r)

/-! ### SIGNAL, WAITWORD and TIMESTAMP (R378) -/

/-- Bytes of a width field. -/
def widthBytes (w : BitVec 8) : Nat := if w = 0 then 4 else 8

/-- A store of a command, a release (R378): its prior accesses are those of its queue's commands. -/
def commandStore (s : State) (q : Queue) (a : Nat) (bs : List Byte) (scope : BitVec 3) : State :=
  let rptr := rptrOf s q
  match headWrite s q.die q.ref.pasid a bs with
  | (s1, none) =>
    let m : Msg := { who := headAgent q.die, scope := scope, sk := false, view := q.view }
    let s2 := match s1.translate q.die headCore 1 q.ref.pasid (a % 2 ^ 57) needW with
      | (s2, .ok _) => s2.releasing [m]
      | (s2, _) => s2
    settleBad (s2.begin q none) q.ref
  | (s1, some none) => s1
  | (s1, some (some c)) => commandFault (s1.begin q none) q rptr a c

/-- SIGNAL (R378): a release store, whose prior accesses are the headstock's alone. -/
def execSignal (r : QRef) (c : WordCmd) (s : State) : Host.Outcome State Fault Refusal :=
  match s.startable r (.signal r c) c.barrier with
  | none => .next s
  | some q => .next (commandStore s q c.addr.toNat (leBytes (widthBytes c.width) c.value.toNat) (c.scope.setWidth 3))

/-- TIMESTAMP (R378): RTIME, a release at SYSTEM scope, once every earlier command has completed. -/
def execTimestamp (r : QRef) (c : WordCmd) (s : State) : Host.Outcome State Fault Refusal :=
  match s.startable r (.timestamp r c) true with
  | none => .next s
  | some q => .next (commandStore s q c.addr.toNat (leBytes 8 s.rtime) 6)

/-- WAITWORD (R378): it starts, and no later command of its queue starts until it completes. -/
def execWaitword (r : QRef) (c : WordCmd) (s : State) : Host.Outcome State Fault Refusal :=
  match s.startable r (.waitword r c) c.barrier with
  | none => .next s
  | some q => .next (s.begin q (some (pending s q (.waitword r c) 0)))

/-- The test of a WAITWORD (R377). -/
def waitTest (c : WordCmd) (v : Nat) : Bool :=
  let k := c.value.toNat % 256 ^ widthBytes c.width
  match c.test.toNat with
  | 0 => v == k
  | 1 => v != k
  | _ => decide (k ≤ v)

/-- The command of a queue that started and that `f` recognises. -/
def Queue.find (q : Queue) (f : Instr → Option WordCmd) : Option (PendCmd × WordCmd) :=
  (q.started.filterMap (fun p => (f p.cmd).map (fun c => (p, c)))).head?

/-- WAITWORD_COMPLETE (R378): the word passes the test, and the queue goes on. -/
def execWaitwordComplete (r : QRef) (s : State) : Host.Outcome State Fault Refusal :=
  match s.queueOf r with
  | none => .next s
  | some q =>
    match q.find (fun i => match i with
      | .waitword _ c => some c
      | _ => none) with
    | none => .next s
    | some (p, c) =>
      match headRead s q.die r.pasid c.addr.toNat (widthBytes c.width) with
      | (s1, .error none) => .next s1
      | (s1, .error (some e)) => .next (commandFault s1 q p.ix c.addr.toNat e)
      | (s1, .ok bs) =>
        if waitTest c (ofLe bs) then
          .next (settleBad ((queueHears s1 q c.addr.toNat (widthBytes c.width) (c.scope.setWidth 3)).updQueue r (fun q => { q with started := q.started.filter (fun x => x.ix != p.ix) })) r)
        else .next s1

/-! ### COPY (R380) -/

/-- COPY (R380): the die's TCE copies its bytes; a count of 0 completes at once. -/
def execCopy (r : QRef) (c : WordCmd) (s : State) : Host.Outcome State Fault Refusal :=
  match s.startable r (.copy r c) c.barrier with
  | none => .next s
  | some q =>
    if c.count = 0 then .next (settleBad (s.begin q none) r)
    else .next (settleBad (s.begin q (some (pending s q (.copy r c) 0))) r)

/-- A group that stands for a die's engine in translations of a context. -/
def engineGroup (die pasid : Nat) : Group := { Group.blank with die := die, pasid := pasid }

/-- The operation that stands for a COPY command of a queue: what its queue has read happens before it (R232). `id` sets
its reads apart from those of the groups' operations. -/
def copyOp (q : Queue) (id : Nat) : Op :=
  { id := id, ctr := .cp, path := 8, issuer := 0, past := 0, pc := 0, issuedAt := 0, act := 0, todo := [], done := false,
    deps := [], olds := [], rel := 0, full := 0, view := q.view, own := [], fences := [], bad := [], ev := 0,
    scope := 6, sk := false, ord := 0, kind := .matrix .none, started := true, ahead := true, since := 0, stale := false }

/-- Bytes of a COPY copied that have not been: byte numbers from `k` on, modulo its count. What they read and write is
there for the commands behind it. -/
def copyBytes (q : Queue) (p : PendCmd) (c : WordCmd) : Nat → Nat → State → State × Except (Option (Cause × Nat)) Unit
  | 0, _, s => (s, .ok ())
  | n + 1, k, s =>
    let j := k % c.count.toNat
    let moved := match (s.queueOf q.ref).bind (fun q => findBy (fun (x : PendCmd) => x.ix == p.ix) q.started) with
      | some x => spGet false x.moved j
      | none => true
    if moved then copyBytes q p c n (k + 1) s
    else
      match copyByte s (engineGroup q.die q.ref.pasid) (copyOp q (s.nextId + q.ref.q)) (j % 2 ^ 19) (c.addr.toNat + j)
          (c.value.toNat + j) with
      | (s1, .ok did) =>
        let f := fun (x : PendCmd) => { x with moved := spSet false x.moved j true }
        copyBytes q p c n (k + 1) (s1.updQueue q.ref (fun q =>
          { q with started := updBy (fun (x : PendCmd) => x.ix == p.ix) f q.started, view := viewJoin q.view did }))
      | (s1, .error e) => (s1, .error e)

/-- The COPY command of a queue. -/
def Queue.copyCmd (q : Queue) : Option (PendCmd × WordCmd) :=
  q.find (fun i => match i with
    | .copy _ c => some c
    | _ => none)

/-- Some bytes of a queue's oldest COPY copied, from a byte that the Sumet chooses. -/
def copyRun (r : QRef) (first n : Nat) (s : State) : State :=
  match (s.queueOf r).bind (fun q => q.copyCmd.map (fun x => (q, x))) with
  | none => s
  | some (q, p, c) =>
    match copyBytes q p c (min n c.count.toNat) first s with
    | (s1, .ok ()) => s1
    | (s1, .error none) => s1
    | (s1, .error (some (e, a))) => commandFault s1 q p.ix a e

/-- COPY_COMMAND_COMPLETE (R378): the bytes that are left are copied, and the command completes. -/
def execCopyCommandComplete (r : QRef) (s : State) : Host.Outcome State Fault Refusal :=
  match (s.queueOf r).bind (fun q => q.copyCmd.map (fun x => (q, x))) with
  | none => .next s
  | some (q, p, c) =>
    match copyBytes q p c c.count.toNat (Config.pick s.tick) s with
    | (s1, .error none) => .next s1
    | (s1, .error (some (e, a))) => .next (commandFault s1 q p.ix a e)
    | (s1, .ok ()) =>
      .next (s1.updQueue r (fun q => { q with started := q.started.filter (fun x => x.ix != p.ix) }))

/-- The bytes that COPY commands copy in one step, a free run of each queue's oldest. -/
def State.copiesAhead (s : State) : State :=
  (s.queues.filter (fun q => q.copyCmd.isSome)).foldl
    (fun s q => copyRun q.ref (Config.pick (s.tick + 2 ^ 64)) (Config.pick (s.tick + 2 ^ 65)) s) s

end Sys2Proof.Machine
end

