-- ==== Sys2Proof/Machine/Debug.lean ====
section
/-! DEFINITION. Debug requests (R420 to R425): their targets, HALT, RESUME, STEP, FLUSH, EXIT, FORCE and
SWITCH, and their acknowledgement. -/

namespace Sys2Proof.Machine

/-! ### Requests (R421) -/

/-- SEQ of the last request that a context's headstock served. -/
def State.dackSeq (s : State) (pasid : Nat) : Nat := s.objNum (s.ctxOf pasid).image 192 4

/-- The request that a context image holds, as a number. -/
def State.dreq (s : State) (pasid : Nat) : Nat := s.objNum (s.ctxOf pasid).image 128 64

/-- Whether a request is the one that its context image holds, and neither it nor another is being served (R421). -/
def State.asks (s : State) (r : DebugReq) (i : Instr) : Bool :=
  decodeDebug r.pasid (BitVec.ofNat 512 (s.dreq r.pasid)) == some i && s.dackSeq r.pasid != r.seq.toNat &&
  (s.ctxOf r.pasid).switching.isNone

/-- The groups that a request names: by group, block, launch or context (R421). -/
def State.debugGroups (s : State) (r : DebugReq) : List Group :=
  s.groups.filter (fun g => g.pasid == r.pasid &&
    match r.level.toNat with
    | 2 => g.die == r.die && g.lchid == r.lchid && g.block == r.block
    | 3 => g.die == r.die && g.lchid == r.lchid
    | 4 => true
    | _ => g.die == r.die && g.lchid == r.lchid && g.block == r.block && g.grpid == r.grpid)

/-- The live paths that a request names. -/
def State.debugPaths (s : State) (r : DebugReq) : List Who :=
  (s.debugGroups r).flatMap (fun g =>
    (g.live.filter (fun i => r.level != 0 || i == r.path)).map (fun i => ({ gid := g.gid, path := i } : Who)))

/-- Whether a request's name matches a live target (R421). -/
def State.debugTarget (s : State) (r : DebugReq) : Bool :=
  match r.level.toNat with
  | 0 => !(s.debugPaths r).isEmpty
  | 1 => (s.debugGroups r).any (fun g => !g.ended)
  | 2 =>
    s.blocks.any (fun b => b.die == r.die && b.lchid == r.lchid && b.ix == r.block &&
      (s.launchOf r.die r.lchid).pasid == r.pasid)
  | 3 => s.launches.any (fun l => l.die == r.die && l.lchid == r.lchid && l.pasid == r.pasid)
  | _ => true

/-- The serving of a request: `refused` gives status 2, and `act` its effect. -/
def serveDebug (r : DebugReq) (i : Instr) (refused : State → Bool) (act : State → State) (s : State) :
    Host.Outcome State Fault Refusal :=
  if !s.asks r i then .next s
  else if !s.debugTarget r then .next (s.dack r.die r.pasid r.seq.toNat 1)
  else if refused s then .next (s.dack r.die r.pasid r.seq.toNat 2)
  else .next ((act s).dackAfter s.stamp r.die r.pasid r.seq.toNat 0)

/-! ### HALT (R423) -/

/-- Whether a path's wait has made its arrival, which a halt leaves made. -/
def Wait.arrivalMade (x : Wait) : Bool :=
  match x.kind with
  | .bar _ _ false => true
  | .arriving _ _ => true
  | _ => false

/-- A path halted at once, with RPC its next instruction or its wait. A wait whose arrival is made is kept
for when the path resumes. -/
def State.haltNow (s : State) (w : Who) : State :=
  let g := s.grp w.gid
  let kept := ((g.path w.path).wait).filter Wait.arrivalMade
  let s1 := if kept.isSome then s else dropHeld w (g.path w.path).wait s
  let s2 := (s1.updGrp w.gid (fun g => g.updPath w.path (fun p => { p with haltPend := true }))).precise w.gid w.path
    { cause := .debugHalt, lmask := g.enabled w.path }
  s2.updGrp w.gid (fun g => g.updPath w.path (fun p => { p with wait := kept }))

/-- A halt reaches a path: at its next instruction boundary where it runs, at once where it waits or is out of
its record, and later in a handler or at a join. -/
def State.haltPath (s : State) (w : Who) : State :=
  let g := s.grp w.gid
  let p := g.path w.path
  let later := s.updGrp w.gid (fun g => g.updPath w.path (fun p => { p with haltPend := true }))
  if !p.live || p.stopped then s
  else if p.frame.inH then later
  else
    match p.stat with
    | .arrived _ => later
    | .run => if s.resident g then later else s.haltNow w
    | _ => s.haltNow w

/-- DREQ_HALT (R423). -/
def execDreqHalt (r : DebugReq) (s : State) : Host.Outcome State Fault Refusal :=
  serveDebug r (.dreqHalt r) (fun s => !(s.ctxOf r.pasid).attach)
    (fun s => (s.debugPaths r).foldl (fun s w => s.haltPath w) s) s

/-! ### RESUME and STEP (R422, R424) -/

/-- Whether the path that a request names is neither stopped nor halted. -/
def State.notHalted (s : State) (r : DebugReq) : Bool :=
  (s.debugPaths r).any (fun w => !((s.grp w.gid).path w.path).stopped)

/-- A wait kept over a halt goes on where the path continues at it; elsewhere it is over. -/
def Path.rewait (p : Path) (onto : Addr) : Path :=
  match p.wait with
  | some x =>
    if onto != p.pc then { p with wait := none }
    else
      match x.kind with
      | .arriving _ _ => { p with stat := .parked }
      | _ => { p with stat := .replayHold }
  | none => p

/-- A halted path continued without its handler: with PEND at RPC and the frame's loop state; with STOP at NPC in a
handler, else at RPC (R422). Its first instruction meets no comparator (R425). -/
def Path.continued (p : Path) : Path :=
  if p.frame.pend then
    let q := p.rewait (p.frame.rpc.setWidth 57)
    { q with pc := p.frame.rpc.setWidth 57, lp := frameLoop p.frame, frame := { p.frame with pend := false }, exempt := true }
  else
    let onto := (if p.frame.inH then p.frame.npc else p.frame.rpc).setWidth 57
    { p.rewait onto with pc := onto, frame := { p.frame with stop := false, nested := false }, exempt := true }

/-- A path that completes its entry from the vector step (R422). -/
def Group.deliver (g : Group) (pix : Nat) (dvec : BitVec 64) : Group :=
  (g.updPath pix (fun p => { p with frame := { p.frame with pend := false }, wait := none, exempt := true })).vector pix dvec

/-- The path of a request resumed. -/
def State.resumePath (s : State) (w : Who) (deliver : Bool) (step : Bool) : State :=
  let s1 := s.reloaded w.gid
  let g := s1.grp w.gid
  let dvec := (s1.ctxOf g.pasid).dvec
  s1.updGrp w.gid (fun g =>
    let g1 := if deliver && (g.path w.path).frame.pend then g.deliver w.path dvec
      else g.updPath w.path Path.continued
    (g1.updPath w.path (fun p => { p with stepping := step, haltPend := false })).settle)

/-- DREQ_RESUME (R422). -/
def execDreqResume (r : DebugReq) (s : State) : Host.Outcome State Fault Refusal :=
  serveDebug r (.dreqResume r) (fun s => s.notHalted r)
    (fun s => (s.debugPaths r).foldl (fun s w => s.resumePath w r.deliver false) s) s

/-- DREQ_STEP (R424): one instruction, and then each path that it leaves halts. -/
def execDreqStep (r : DebugReq) (s : State) : Host.Outcome State Fault Refusal :=
  serveDebug r (.dreqStep r) (fun s => s.notHalted r || !(s.ctxOf r.pasid).attach)
    (fun s => (s.debugPaths r).foldl (fun s w => s.resumePath w false true) s) s

/-! ### FLUSH, EXIT, FORCE, SWITCH (R421, R423) -/

/-- DREQ_FLUSH (R421): the group's record state and lines go to the image, and its lines are dropped. A group that the
image holds already takes it first (R422). -/
def execDreqFlush (r : DebugReq) (s : State) : Host.Outcome State Fault Refusal :=
  serveDebug r (.dreqFlush r) (fun s => (s.debugGroups r).any (fun g => g.live.any (fun i => !(g.path i).stopped)))
    (fun s => (s.debugGroups r).foldl (fun s g =>
      let s1 := s.reloaded g.gid
      (s1.saveGroup (s1.grp g.gid) (fun _ => true)).updGrp g.gid (fun g => { g with lines := [], absent := (s.hdrOf g).footprint, dirty := [], flushed := true })) s) s

/-- The lanes of a stopped path exit as by `exit` at RPC (R94, R421). -/
def State.exitPath (s : State) (w : Who) : State :=
  let s1 := s.reloaded w.gid
  s1.updGrp w.gid (fun g =>
    let g1 := g.updPath w.path (fun p =>
      { p with
        pc := p.frame.rpc.setWidth 57, wait := none,
        frame := { p.frame with stop := false, nested := false, pend := false, inH := false } })
    (g1.exitLanes w.path (g1.path w.path).mask).settle)

/-- DREQ_EXIT (R421). -/
def execDreqExit (r : DebugReq) (s : State) : Host.Outcome State Fault Refusal :=
  serveDebug r (.dreqExit r)
    (fun s => (s.debugPaths r).any (fun w => !((s.grp w.gid).path w.path).frame.stop))
    (fun s => (s.debugPaths r).foldl (fun s w => s.exitPath w) s) s

/-- A path in its handler stopped at its current instruction (R423): a wait that holds it counts as not issued, and one
whose arrival is made is kept for when the path goes on. -/
def State.forcePath (s : State) (w : Who) : State :=
  let p := (s.grp w.gid).path w.path
  let kept := p.wait.filter Wait.arrivalMade
  let s1 := if kept.isSome then s else dropHeld w p.wait s
  (s1.unrested w).updGrp w.gid (fun g =>
    (g.nest w.path .debugHalt p.pc).updPath w.path (fun p => { p with wait := kept }))

/-- DREQ_FORCE (R423): a path in its handler stops at its current instruction. -/
def execDreqForce (r : DebugReq) (s : State) : Host.Outcome State Fault Refusal :=
  serveDebug r (.dreqForce r)
    (fun s => (s.debugPaths r).any (fun w => !((s.grp w.gid).path w.path).frame.inH))
    (fun s => (s.debugPaths r).foldl (fun s w => s.forcePath w) s) s

/-- DREQ_SWITCH (R420, R421): the context is switched out of the die that the request names, and acknowledged once it is
back there (log entry 50). -/
def execDreqSwitch (r : DebugReq) (s : State) : Host.Outcome State Fault Refusal :=
  if !s.asks r (.dreqSwitch r) then .next s
  else if !(s.ctxOf r.pasid).on.contains r.die then .next (s.dack r.die r.pasid r.seq.toNat 0)
  else
    .next ((s.switchOut r.die r.pasid).updCtx r.pasid (fun c => { c with switching := some (r.die, r.seq.toNat) }))

/-- A debug request at a kick of its context (R421): the header is read again, and the request is the next
thing that the headstock does; a malformed one gets status 3. One request is served at a time. -/
def serveRequest (s : State) (die pasid : Nat) : State :=
  let x := s.dreq pasid
  if (s.ctxOf pasid).image = 0 || (s.ctxOf pasid).imageOff || (s.ctxOf pasid).switching.isSome || x % 2 ^ 32 = s.dackSeq pasid then s
  else
    let s1 := readHeader s die pasid
    match decodeDebug pasid (BitVec.ofNat 512 x) with
    | some i => { s1 with agenda := .event i :: s1.agenda }
    | none => s1.dack die pasid (x % 2 ^ 32) 3

end Sys2Proof.Machine
end

