-- ==== Sys2Proof/Machine/Headstock.lean ====
section
/-! DEFINITION. The headstock's edge: kicks and the gating of a headstock (R381, R382), shootdowns (R364,
R365), the teardown of a PASID (R383), and the host-side registers (R12, R386). -/

namespace Sys2Proof.Machine

/-! ### Kicks (R381, R382) -/

/-- The aperture-table entry of an aperture. -/
def State.apertureOf (s : State) (die a : Nat) : Nat := (spGet (0 : BitVec 32) (s.dieOf die).apertures a).toNat

/-- A kick dropped and counted in KDROP. -/
def dropKick (s : State) (die : Nat) : State := s.updDie die (fun d => { d with kdrop := d.kdrop + 1 })

/-- A kick that is pending: in the buffer, or where that is full in the bitmap (R382). -/
def pendKick (s : State) (die a : Nat) : State :=
  s.updDie die (fun d =>
    if d.pendBuf.length < 64 then { d with pendBuf := d.pendBuf ++ [a] }
    else { d with bitmap := spSet false d.bitmap a true })

/-- A kick served (R371, R375, R421): the tables are walked again, the queue is served, and a debug request that
waits is served too. A kick whose queue awaits a translation is served again (R352). -/
def serveKick (s : State) (die a : Nat) : State :=
  let e := s.apertureOf die a
  if !nbit e 31 then dropKick s die
  else
    let r : QRef := { pasid := nbits e 25 6, q := nbits e 5 0 }
    match walkQueue s die r.pasid r.q with
    | .drop s1 => dropKick s1 die
    | .log s1 => s1
    | .ok s1 =>
      let (s2, waits) := serveQueue s1 die r
      let s3 := serveRequest s2 die r.pasid
      if waits then pendKick s3 die a else s3

/-- Whether a die's headstock serves queues (R392). -/
def State.serves (s : State) (die : Nat) : Bool := nbit s.module.ready.toNat (9 + die)

/-- KICK (R382, R393): served at once by a running headstock; else it enters the pending buffer and wakes the
headstock, or sets the aperture's bit in the bitmap. -/
def execKick (die aperture : Nat) (s : State) : Host.Outcome State Fault Refusal :=
  if 4 ≤ die || decide (65536 ≤ aperture) then .next s
  else if !nbit (s.apertureOf die aperture) 31 then .next (dropKick s die)
  else if (s.dieOf die).gating == Gating.running && s.serves die then .next (serveKick s die aperture)
  else .next (pendKick s die aperture)

/-- Whether a kick has left commands of a queue for a die whose headstock is gated, which it wakes (R382). -/
def State.leftFor (s : State) (die : Nat) : Bool :=
  (s.dieOf die).gating != Gating.running && s.queues.any (fun q => q.die == die && !q.waiting.isEmpty)

/-- HEADSTOCK_WAKE (R382): the buffer is served in arrival order, then the bitmap in ascending order. -/
def execHeadstockWake (die : Nat) (s : State) : Host.Outcome State Fault Refusal :=
  let d := s.dieOf die
  if decide (4 ≤ die) || !s.serves die || (d.pendBuf.isEmpty && d.bitmap.isEmpty && !s.leftFor die) then .next s
  else
    let s1 := s.updDie die (fun d => { d with gating := .running, pendBuf := [], bitmap := [] })
    .next ((d.pendBuf ++ d.bitmap.map (fun x => x.1)).foldl (fun s a => serveKick s die a) s1)

/-- Whether a die's headstock has nothing to do. -/
def State.idle (s : State) (die : Nat) : Bool :=
  !s.launches.any (fun l => l.die == die) && (s.dieOf die).promo.isEmpty && (s.dieOf die).pendBuf.isEmpty &&
  !s.queues.any (fun q => q.die == die && !(q.waiting.isEmpty && q.started.isEmpty))

/-- HEADSTOCK_GATING (R382): an idle headstock is clock-gated or power-gated. -/
def execHeadstockGating (die : Nat) (power : Bool) (s : State) : Host.Outcome State Fault Refusal :=
  if 4 ≤ die || !s.idle die then .next s
  else .next (s.updDie die (fun d => { d with gating := if power then .powerGated else .clockGated }))

/-! ### Shootdowns (R364, R365) -/

/-- A write to a reserved field or offset, which changes nothing (R12). -/
def refuseWrite (s : State) (die offset value : Nat) : State :=
  logModule s { code := 0x08, die := die, queue := 0, rptr := 0, lchid := 0, d0 := offset, d1 := value }

/-- The host-side offset of a die's register. -/
def regOffset (die o : Nat) : Nat := 0x10000 * die + o

/-- Whether a page range meets another; no pages stand for every page. -/
def rangeMeets (vpn pages v n : Nat) : Bool := pages == 0 || (decide (v < vpn + pages) && decide (vpn < v + n))

/-- Whether a virtual page is still mapped to a physical page of module memory, by the tables of a local context. -/
def State.stillMapped (s : State) (pasid vpn page : Nat) : Bool :=
  let c := s.ctxOf pasid
  !c.ext &&
  match walkFrom s.mem vpn 5 c.root with
  | .ok l => nbits l.pte 53 10 + vpn % 512 ^ l.level == page
  | .error _ => false

/-- The tags of the lines of pages that have been unmapped end (R250): those that the removed translations reached, or that
were set through a page of the range, and that the tables no longer map there. -/
def State.endTags (s : State) (pasid vpn pages : Nat) (gone : List TlbEntry) : State :=
  let ended := fun (line : Nat) (t : Tag) =>
    let page := line / 64
    gone.any (fun e =>
      attrKind e.attr == 0 && decide (e.ppn ≤ page) && decide (page < e.ppn + e.pages) &&
      !s.stillMapped e.pasid (e.vpn + (page - e.ppn)) page) ||
    (t.ctx == pasid && rangeMeets vpn pages t.vpn 1 && !s.stillMapped pasid t.vpn page)
  { s with tags := s.tags.filter (fun x => !x.2.any (ended x.1)) }

/-- The state without the translations and fetched packets of a range of a PASID, a larger page that meets the
range among them (R364 to R366). -/
def State.shootRange (s : State) (pasid vpn pages : Nat) : State :=
  let goes := fun (e : TlbEntry) => e.pasid == pasid && rangeMeets vpn pages e.vpn e.pages
  { s.endTags pasid vpn pages (s.tlb.filter goes) with
    tlb := s.tlb.filter (fun e => !goes e),
    packets := s.packets.filter (fun k => !(k.pasid == pasid && rangeMeets vpn pages (k.packet / 256) 1)) }

/-- Whether no access of a PASID that was translated is still to be performed: the drain engines alone hold
such accesses. -/
def State.drained (s : State) (pasid : Nat) : Bool :=
  s.engines.all (fun x => (s.grp x.2.gid).pasid != pasid || x.2.acc.isEmpty)

/-- A write of SDCTL (R364). -/
def writeSdctl (s : State) (die : Nat) (v : BitVec 64) : State :=
  if (s.dieOf die).sdctl.getLsbD 0 || v &&& 0x00000F00000000FC != 0 then refuseWrite s die (regOffset die 0x40) v.toNat
  else
    s.updDie die (fun d =>
      { d with sdctl := if v.getLsbD 0 then v &&& 0xFFFFFFFFFFFFFFFD
                        else (v &&& 0xFFFFFFFFFFFFFFFD) ||| (d.sdctl &&& 2) })

/-- SHOOTDOWN (R364): a write of SDCTL; START clears DONE. -/
def execShootdown (die : Nat) (sdctl : BitVec 64) (s : State) : Host.Outcome State Fault Refusal :=
  if 4 ≤ die then .next s else .next (writeSdctl s die sdctl)

/-- The range that a die's shootdown port names: PASID, first page, pages. -/
def sdRange (d : Die) : Nat × Nat × Nat := (nbits d.sdctl.toNat 63 44, nbits d.sdaddr.toNat 56 12, nbits d.sdctl.toNat 39 8)

/-- The state without the answers of an external context's host for a range of pages that nothing has used; a request for a
page of it is asked again (R365). -/
def State.dropAnswers (s : State) (pasid vpn pages : Nat) : State :=
  s.updCtx pasid (fun c =>
    { c with ats := c.ats.filter (fun a => !rangeMeets vpn pages a.1.vpn 1),
             atsAsk := c.atsAsk.filter (fun a => !rangeMeets vpn pages a.vpn 1) })

/-- A port's request completed. -/
def finishShootdown (s : State) (die : Nat) : State :=
  let (pasid, vpn, pages) := sdRange (s.dieOf die)
  ((s.shootRange pasid vpn pages).dropAnswers pasid vpn pages).updDie die (fun d => { d with sdctl := (d.sdctl ||| 2) &&& 0xFFFFFFFFFFFFFFFE })

/-- SHOOTDOWN_COMPLETE (R365). -/
def execShootdownComplete (die : Nat) (s : State) : Host.Outcome State Fault Refusal :=
  let d := s.dieOf die
  if !d.sdctl.getLsbD 0 || !s.drained (sdRange d).1 then .next s else .next (finishShootdown s die)

/-- ATS_INVALIDATE (R365): the same steps for an external context. -/
def execAtsInvalidate (pasid vpn pages : Nat) (s : State) : Host.Outcome State Fault Refusal :=
  if !s.drained pasid then .next s else .next ((s.shootRange pasid vpn pages).dropAnswers pasid vpn pages)

/-! ### Teardown (R383) -/

/-- The physical address of a context's record. -/
def recordAt (s : State) (die pasid : Nat) : Nat := qtDir s die pasid

/-- A write of TDCTL (R383); while START reads 1 it changes no bit and is reported (R384). START clears DONE and reads 1
until the teardown is done, as SDCTL's does (log entry 24). -/
def writeTdctl (s : State) (die : Nat) (v : BitVec 64) : State :=
  if (s.dieOf die).tdctl.getLsbD 0 || v &&& 0x00000FFFFFFFFFFC != 0 then refuseWrite s die (regOffset die 0x48) v.toNat
  else
    let keep := fun (d : Die) => { d with tdctl := (v &&& 0xFFFFFFFFFFFFFFFD) ||| (d.tdctl &&& 2) }
    let go := fun (d : Die) => { d with tdctl := v &&& 0xFFFFFFFFFFFFFFFD }
    if v.getLsbD 0 then (s.updDie die go).updCtx (nbits v.toNat 63 44) (fun c => { c with teardown := true })
    else s.updDie die keep

/-- PASID_TEARDOWN (R383): every die stops dispatching the PASID's blocks, and its groups issue nothing more. -/
def execPasidTeardown (die : Nat) (tdctl : BitVec 64) (s : State) : Host.Outcome State Fault Refusal :=
  if 4 ≤ die then .next s else .next (writeTdctl s die tdctl)

/-- Whether every access that a PASID has issued is performed or has returned its value. -/
def State.quiet (s : State) (pasid : Nat) : Bool :=
  s.drained pasid &&
  s.groups.all (fun g => g.pasid != pasid || g.ops.all (fun o => o.done || some o.id == g.stoppedOp ||
    match o.kind with
    | .matrix (.drain _ _ _ _ _) => false
    | .matrix (.drainld _ _ _ _) => false
    | .matrix _ => true
    | _ => false)) &&
  s.queues.all (fun q => q.ref.pasid != pasid || q.copyCmd.isNone)

/-- The context record with GEN advanced once by each of the four dies (log entry 24). -/
def nextGen (s : State) (die pasid : Nat) : State × Nat :=
  let a := recordAt s die pasid
  let r := s.rdNum a 64
  let old := nbits r 331 316
  let new := (old + 4) % 2 ^ 16
  (s.wrMem a (leBytes 64 (r - old * 2 ^ 316 + new * 2 ^ 316)), new)

/-- The state without anything of a PASID that the Sumet holds (log entry 25). -/
def State.forget (s : State) (pasid : Nat) : State :=
  let mine := fun (die lchid : Nat) => (s.launchOf die lchid).pasid == pasid
  { s with
    groups := s.groups.filter (fun g => g.pasid != pasid),
    blocks := s.blocks.filter (fun b => !mine b.die b.lchid),
    launches := s.launches.filter (fun l => l.pasid != pasid),
    ctxs := s.ctxs.filter (fun c => c.pasid != pasid),
    queues := s.queues.filter (fun q => q.ref.pasid != pasid),
    packets := s.packets.filter (fun k => k.pasid != pasid),
    tlb := s.tlb.filter (fun e => e.pasid != pasid),
    tags := s.tags.filter (fun t => (t.2.map (fun t => t.ctx)) != some pasid),
    headDue := s.headDue.filter (fun w => w.pasid != pasid),
    vers := s.vers.filter (fun x => x.1 / 2 ^ 70 != pasid),
    pools := s.pools.filter (fun p => p.pasid != pasid),
    rest := s.rest.filter (fun e => (s.grp e.who.gid).pasid != pasid),
    engines := s.engines.filter (fun x => (s.grp x.2.gid).pasid != pasid),
    dies := s.dies.map (fun d =>
      { d with pgreqs := d.pgreqs.filter (fun r => r.1 != pasid),
               promo := d.promo.filter (fun r => (s.grp r.who.gid).pasid != pasid) }) }

/-- TEARDOWN_COMPLETE (R383): once every access of the PASID is performed, GEN advances, shootdowns that name the
PASID complete, the drain word that the context record names takes the new GEN, and DONE is set; START clears with it (log entry 24). -/
def execTeardownComplete (die : Nat) (s : State) : Host.Outcome State Fault Refusal :=
  let d := s.dieOf die
  let pasid := nbits d.tdctl.toNat 63 44
  if !d.tdctl.getLsbD 0 || !s.quiet pasid then .next s
  else
    let drainw := nbits (s.rdNum (recordAt s die pasid) 64) 511 448
    let (s1, gen) := nextGen s die pasid
    let s2 := [0, 1, 2, 3].foldl (fun s k =>
      let d := s.dieOf k
      if d.sdctl.getLsbD 0 && (sdRange d).1 == pasid then finishShootdown s k else s) s1
    let s3 := s2.wrWhole drainw (leBytes 8 gen)
    .next ((s3.forget pasid).updDie die (fun d =>
      { d with tdctl := (d.tdctl ||| 2) &&& 0xFFFFFFFFFFFFFFFE }))

/-! ### Host-side registers (R12, R386) -/

/-- A module register or a die's register that a write sets; none for a refused value. -/
def writeRegister (s : State) (die o : Nat) (v : BitVec 64) : Option State :=
  match o with
  | 0x000 => if v &&& 0xFFFFFFFFE0000000 != 0 then none else some s
  | 0x008 => if v &&& 0xFFFFFFFFE0000000 != 0 then none else some s
  | 0x010 => some (s.updDie die (fun d => { d with qtbase := v }))
  | 0x020 =>
    if v &&& 0xFFF != 0 then none else some { s with module := { s.module with otbase := v } }
  | 0x028 =>
    if v &&& 0xFFFFFFFFFF000000 != 0 then none else some { s with module := { s.module with otlen := v.toNat } }
  | 0x030 =>
    let k := nbits v.toNat 5 1
    if v &&& 0xFFFFFFFFFFFFFFC0 != 0 || decide (k < 8) || decide (20 < k) then none
    else
      some (s.updDie die (fun d =>
        { d with shvctl := v.setWidth 32, shvPos := if v.getLsbD 0 then [(0, d.clk + 1)] else d.shvPos }))
  | 0x038 =>
    if (s.dieOf die).sdctl.getLsbD 0 || v &&& 0xFE00000000000FFF != 0 then none
    else some (s.updDie die (fun d => { d with sdaddr := v }))
  | 0x040 => some (writeSdctl s die v)
  | 0x048 => some (writeTdctl s die v)
  | 0x050 => some (s.updDie die (fun d => { d with ecnt := v }))
  | 0x058 => some (s.updDie die (fun d => { d with kdrop := v }))
  | 0x060 => some { s with module := { s.module with melog := v } }
  | 0x068 =>
    if v.toNat < 9 || decide (27 < v.toNat) then none
    else some (s.updDie die (fun d => { d with fceil := v.toNat, freq := min d.freq v.toNat }))
  | _ => if 0x400 ≤ o && decide (o < 0x500) then some s else none

/-- What a host-side read of a die's register returns, by its offset: the module's registers read the same on every die, and
every other offset reads 0 (R386). -/
def State.registerAt (s : State) (die o : Nat) : Nat :=
  let d := s.dieOf die
  let m := s.module
  match o with
  | 0x000 => m.ready.toNat
  | 0x008 => m.readyf.toNat
  | 0x010 => d.qtbase.toNat
  | 0x020 => m.otbase.toNat
  | 0x028 => m.otlen
  | 0x030 => d.shvctl.toNat
  | 0x038 => d.sdaddr.toNat
  | 0x040 => d.sdctl.toNat
  | 0x048 => d.tdctl.toNat
  | 0x050 => d.ecnt.toNat
  | 0x058 => d.kdrop.toNat
  | 0x060 => m.melog.toNat
  | 0x068 => d.fceil
  | _ =>
    if 0x400 ≤ o && decide (o < 0x500) then ofLe ((upFrom (o - 0x400) 8).map (fun k => spGet (0xFF : Byte) m.scopeTable k)) else 0

/-- What a host-side read of BAR 0 returns at an offset (R386). -/
def State.hostRegister (s : State) (offset : Nat) : Nat :=
  if offset < 0x40000 then s.registerAt (offset / 0x10000) (offset % 0x10000) else 0

/-- What a host-side read of a kick aperture returns (R381). -/
def apertureRead : Nat := 0

/-- The number from which the model counts the entries of the four dies' aperture tables as host-side offsets, four
bytes each: the manual gives the tables no address (log entry 29). -/
def apertureBase : Nat := 2 ^ 32

/-- A write of entry `a`, counted over the four dies, of the aperture tables (R381). -/
def writeAperture (s : State) (a offset : Nat) (v : BitVec 64) : State :=
  if v &&& 0xFFFFFFFF7C000000 != 0 then refuseWrite s (a / 65536) offset v.toNat
  else s.updDie (a / 65536) (fun d => { d with apertures := spSet 0 d.apertures (a % 65536) (v.setWidth 32) })

/-- HOST_REGISTER_WRITE (R12, R381, R386): a refused value, a reserved field or another offset changes nothing and is
reported. -/
def execHostRegisterWrite (offset : Nat) (value : BitVec 64) (s : State) : Host.Outcome State Fault Refusal :=
  let die := offset / 0x10000
  let a := (offset - apertureBase) / 4
  if apertureBase ≤ offset && decide (a < 4 * 65536) then .next (writeAperture s a offset value)
  else if 4 ≤ die then .next (refuseWrite s 0 offset value.toNat)
  else
    match writeRegister s die (offset % 0x10000) value with
    | some s1 => .next s1
    | none => .next (refuseWrite s die offset value.toNat)

end Sys2Proof.Machine
end

