-- ==== Sys2Proof/Machine/Fabric.lean ====
section
/-! DEFINITION. Translation, fetch and the memory fabric: page walks and ATS responses (R352, R358, R361), page
migration (R363), instruction fetch (R38, R366), remote and host accesses to module memory (R239, R394), page
requests (R216), and the driver's writes of a ring's control registers and of the object table (R267, R268, R338). -/

namespace Sys2Proof.Machine

/-! ### Walks (R352, R358, R361) -/

/-- Whether a copy may still access an element on a page (R361): only those inside its records count. -/
def CopyReq.onPage (r : CopyReq) (performed : List Nat) (vpn : Nat) : Bool :=
  let at_ := fun (t : Tsr) (clamp : Bool) (org : List Int) (n : Nat) =>
    tsrSpace t == .gbl &&
    match tsrElem t clamp (shifted (boxCoords r.box n) org) with
    | some (a, _) => a / 4096 == vpn
    | none => false
  (upFrom 0 (boxSize r.box)).any (fun n =>
    !performed.contains n && (at_ r.src true r.sorg n || at_ r.dst false r.dorg n))

/-- Whether an operation in flight is still to access a page through a data TLB: the walk-ahead TLB (`ahead`) of its core,
or the per-lane TLB (R360). An element outside its tensor is never accessed (R213, R361). -/
def Op.onPage (o : Op) (vpn : Nat) (ahead : Bool) : Bool :=
  !o.done &&
  match o.kind with
  | .copy r performed => ahead && r.onPage performed vpn
  | .load sp .. => sp == .gbl && (!ahead || o.ahead) && o.todo.any (fun e => e.val2 != 1 && e.addr / 4096 == vpn)
  | .store sp .. => sp == .gbl && (!ahead || o.ahead) && o.todo.any (fun e => e.addr / 4096 == vpn)
  | .atomic .. => !ahead && o.todo.any (fun e => e.addr / 4096 == vpn)
  | .cas .. => !ahead && o.todo.any (fun e => e.addr / 4096 == vpn)
  | .probe _ => !ahead && o.todo.any (fun e => e.addr / 4096 == vpn)
  | _ => false

/-- Whether an operation in flight is sure to store where it accesses, so that a walk for it sets D (R358): a `fill`, a
`syncinit` or an atomic may still be refused, and a `cas` may fail. -/
def Op.writes (o : Op) : Bool :=
  match o.kind with
  | .store _ _ false false => true
  | _ => false

/-- Whether a group's path or one of its operations misses a page in one of its core's TLBs: it fetches there, or accesses
it, and writes where `write` says so. -/
def Group.misses (g : Group) (tlb vpn : Nat) (write : Bool) : Bool :=
  if tlb = 0 then g.live.any (fun i => let pc := (g.path i).pc.toNat
    pc / 4096 == vpn || (pc + 11) % 2 ^ 57 / 4096 == vpn)
  else g.ops.any (fun o => o.onPage vpn (tlb == 2) && (!write || o.writes))

/-- PAGE_WALK (R352, R358, R361): a miss of one of a core's TLBs walks the tables, or asks the host by ATS. It is made for
an access that is still to be performed, ahead of it where the walk-ahead TLB serves the page. One that faults records
nothing. -/
def execPageWalk (die core tlb pasid : Nat) (va : BitVec 57) (write : Bool) (s : State) :
    Host.Outcome State Fault Refusal :=
  let vpn := va.toNat / 4096
  let here := fun (g : Group) => g.pasid == pasid && g.die == die &&
    (match g.place with
      | some pl => pl.core == core
      | none => false)
  let need := if tlb = 0 then needX else if write then needW else needR
  if s.groups.any (fun g => here g && g.misses tlb vpn write) then .next (s.translate die core tlb pasid va.toNat need).1
  else .next s

/-- The translation of a page that an ATS response gives to the TLB that asked (R352): the attributes are those of the
context, which has no PBMT, and the page lies in module memory or behind PCIe. Only a fetch's request has Execute
Requested. A response whose reserved KIND would route it nowhere grants nothing (R354). -/
def atsEntry (c : Ctx) (pg : AtsPage) (r : AtsReply) : TlbEntry :=
  { die := pg.die, core := pg.core, tlb := pg.tlb, pasid := c.pasid, gen := c.gen, vpn := pg.vpn, pages := 1,
    ppn := if r.inBar then r.ppn else atsBase + r.ppn,
    attr := (c.attr &&& 0x00F) ||| (if r.inBar then 0 else 0x020), r := r.r, w := r.w, x := r.x && pg.tlb == 0,
    dirty := r.w, since := 0 }

/-- ATS_TRANSLATION_RESPONSE (R352): the host's answer to the oldest request for a page of an external context, which the
access that waits for it then uses. -/
def execAtsTranslationResponse (pasid : Nat) (va : BitVec 57) (reply : Option AtsReply) (s : State) :
    Host.Outcome State Fault Refusal :=
  let c := s.ctxOf pasid
  match findBy (fun (a : AtsPage) => a.vpn == va.toNat / 4096) c.atsAsk with
  | none => .next s
  | some pg =>
    .next (s.updCtx pasid (fun c =>
      { c with atsAsk := c.atsAsk.filter (· != pg),
               ats := (pg, reply.map (atsEntry c pg)) :: c.ats.filter (fun a => a.1 != pg) }))

/-! ### Migration (R362, R363) -/

/-- Whether a TLB entry covers a physical page of module memory. -/
def TlbEntry.coversPhys (e : TlbEntry) (page : Nat) : Bool :=
  attrKind e.attr == 0 && decide (e.ppn ≤ page) && decide (page < e.ppn + e.pages)

/-- The state without the TLB entries of a physical page, and without the packets that they fetched. -/
def State.shootPhys (s : State) (page : Nat) : State :=
  let gone := s.tlb.filter (fun e => e.coversPhys page)
  { s with
    tlb := s.tlb.filter (fun e => !e.coversPhys page),
    packets := s.packets.filter (fun k => !gone.any (fun e =>
      e.pasid == k.pasid && decide (e.vpn ≤ k.packet / 256) && decide (k.packet / 256 < e.vpn + e.pages))) }

/-- PAGE_MIGRATION (R363): a placed page of PLACE 01 begins to move to the channels of another die, and the next event of
the page ends its move. In between no access to it is performed. Its bytes, poison, tags, versions and waits are known by
physical address, so they move with it. -/
def execPageMigration (page die : Nat) (s : State) : Host.Outcome State Fault Refusal :=
  let follows := s.tlb.any (fun e => e.coversPhys page && nbits e.attr.toNat 1 0 == 1)
  match findBy (fun (m : Nat × Nat) => m.1 == page) s.moving with
  | some m =>
    .next ({ s with place := spSet 0 s.place page (m.2 + 1), moving := s.moving.filter (fun x => x.1 != page) }.shootPhys page)
  | none =>
    if !follows || spGet 0 s.place page = 0 || decide (4 ≤ die) || !s.memReady die then .next s
    else .next { s with moving := (page, die) :: s.moving }

/-! ### Fetch (R38, R366, R409) -/

/-- The packet at an address fetched for a path: it enters the core's fetch buffers, or the fault of R366 or the
poison of R409 traps precisely. -/
def fetchAt (s : State) (w : Who) (pl : Place) (n : Nat) : State :=
  let g := s.grp w.gid
  let pc := (g.path w.path).pc.toNat
  let a := max pc (16 * n)
  let lm := g.enabled w.path
  let trap := fun (s : State) (c : Cause) =>
    s.precise w.gid w.path { cause := c, faddr := BitVec.ofNat 64 a, lmask := lm }
  match s.translate pl.die pl.core 0 g.pasid a needX with
  | (s1, .fault _) => trap s1 .fetchFault
  | (s1, .wait) => s1.heldFor w.gid w.path 12
  | (s1, .ok x) =>
    match s1.routed g a x with
    | (s2, .error none) => s2.heldFor w.gid w.path 12
    | (s2, .error (some _)) => trap s2 .fetchFault
    | (s2, .ok (.at_ p _)) =>
      let from_ : PLoc := match p with
        | .mem q => .mem (q / 16 * 16)
        | .host q => .host (q / 16 * 16)
        | .remote q => .remote (q / 16 * 16)
      if s2.poisonedAt from_ 16 then trap s2 .poison
      else
        { s2 with packets :=
            { die := pl.die, core := pl.core, pasid := g.pasid, gen := (s2.ctxOf g.pasid).gen, packet := n, bytes := s2.rdLoc from_ 16 } :: s2.packets }
    | (s2, .ok _) => s2

/-- INSTRUCTION_FETCH (R38, R366): the first packet that a path's next instruction lacks. -/
def execInstructionFetch (w : Who) (s : State) : Host.Outcome State Fault Refusal :=
  let g := s.grp w.gid
  match g.place with
  | none => .next s
  | some pl =>
    if !s.mayIssue w then .next s
    else
      match s.fetched g pl (g.path w.path).pc.toNat with
      | .ok _ => .next s
      | .error n => .next (fetchAt s w pl n)

/-! ### Accesses from outside (R239, R394) -/

/-- The state with what a read from outside returned. -/
def State.answered (s : State) (v : Nat) : State :=
  { s with module := { s.module with hostReads := BitVec.ofNat 64 v :: s.module.hostReads } }

/-- The identities whose object-table entries hold something, in the table's own range. -/
def State.tableIds (s : State) : List Nat :=
  let base := s.module.otbase.toNat
  ((s.mem.filter (fun x => decide (base ≤ x.1) && decide (x.1 < base + 32 * s.module.otlen))).map
    (fun x => (x.1 - base) / 32)).eraseDups

/-- The bytes of an object that its map guards: the control registers of a ring, and the header of a context image. -/
def State.mapBytes (s : State) (id : Nat) : Nat :=
  if s.isRing id then 256 else if s.isShavings id then 64 else if s.isImage id then 4096 else 0

/-- The valid objects whose maps guard bytes: the physical address of the first, and how many there are. -/
def State.mapRanges (s : State) : List (Nat × Nat × Nat) :=
  s.tableIds.filterMap (fun id =>
    if s.mapBytes id = 0 then none
    else
      match s.objAddr id 0 false false with
      | .ok a => some (id, a, s.mapBytes id)
      | .error _ => none)

/-- Bytes stored from outside at an offset of an object that its map guards. -/
def State.mapStore (s : State) (id o a : Nat) (bs : List Byte) : State :=
  if s.isRing id then s.ringStore 0 id o bs.length (ofLe bs)
  else if s.isShavings id then s.shavingsStore 0 id o bs.length (ofLe bs)
  else s.wrWhole a ((bs.zip (upFrom 0 bs.length)).map (fun x => if imageRo (o + x.2) then spGet memDefault s.mem (a + x.2) else x.1))

/-- Bytes stored at a physical address from outside: on the control registers of a ring, and in the header of a context
image, as their maps say (R12, R267, R338, R412). -/
def State.outerStore : List (Nat × Nat × Nat) → Nat → List Byte → State → State
  | [], a, bs, s => if bs.isEmpty then s else s.wrWhole a bs
  | (id, base, n) :: r, a, bs, s =>
    if a + bs.length ≤ base || decide (base + n ≤ a) then State.outerStore r a bs s
    else
      let k := base - a
      let mid := (bs.drop k).take (base + n - max a base)
      let s1 := State.outerStore r a (bs.take k) s
      let s2 := s1.mapStore id (max a base - base) (max a base) mid
      State.outerStore r (base + n) (bs.drop (k + mid.length)) s2

/-- The objects whose entries lie in a range of physical addresses. -/
def State.entriesIn (s : State) (a n : Nat) : List Nat :=
  let base := s.module.otbase.toNat
  (upFrom ((a - base) / 32) (n / 32 + 2)).filter (fun id =>
    decide (id < s.module.otlen) && decide (a < base + 32 * id + 32) && decide (base + 32 * id < a + n))

/-- Whether an object's entry is valid. -/
def State.valid (s : State) (id : Nat) : Bool := nbit (s.objEntry id) 0

/-- A store from outside performed. A ring object that becomes valid by it has been created, and its control registers
take the values of its map (R267, R338; log entry 85). -/
def State.stored (s : State) (a : Nat) (bs : List Byte) : State :=
  let s1 := State.outerStore s.mapRanges a bs s
  (s.entriesIn a bs.length).foldl (fun (t : State) id => if !s.valid id && s1.valid id then t.ringMade id else t) s1

/-- An access from outside performed: what a read, which finds the value `v`, or an atomic returns is kept beside the
earlier ones. -/
def remoteRun (op : RemoteOp) (addr v : Nat) (s : State) : State :=
  match op with
  | .read _ => s.answered v
  | .write bs => s.stored addr bs
  | .atomic op mf v =>
    let n := fmtBytes mf
    let old := s.rdNum addr n
    let (new, _) := atomNew op mf old { lane := 0, addr := addr, nib := none, val := v, val2 := 0, ver := none }
    (s.stored addr (leBytes n new)).answered old
  | .cas mf cmp new =>
    let n := fmtBytes mf
    let old := s.rdNum addr n
    (if old = cmp.toNat % 2 ^ (8 * n) then s.stored addr (leBytes n new.toNat) else s).answered old

/-- The bytes that an access from outside names. -/
def remoteBytes : RemoteOp → Nat
  | .read n => min n 8
  | .write bs => bs.length
  | .atomic _ mf _ => fmtBytes mf
  | .cas mf _ _ => fmtBytes mf

/-- Whether an access from outside reads. -/
def remoteReads : RemoteOp → Bool
  | .write _ => false
  | _ => true

/-- Whether an access from outside continues the release sequence of the write that it reads (R229). -/
def remoteChains : RemoteOp → Bool
  | .atomic .. => true
  | .cas .. => true
  | _ => false

/-- The bytes that an access of a requester outside the dies reads, with the stamps of their writes: for a plain read any
that the rules allow (R226), and for an atomic the newest (R229). -/
def State.outerReads (s : State) (key addr : Nat) (op : RemoteOp) : List (Nat × Byte) :=
  let ks := upFrom addr (remoteBytes op)
  match op with
  | .read _ => s.pickBytes (spGet [] s.module.outer key) 0 0 ks
  | _ => ks.map s.newest

/-- An access of a requester outside the dies, number `key`, with its order (R222, R223): as an acquire it learns what the
releases that it reads hand on, and as a release it hands on what it has learnt, read and written. -/
def State.outerAccess (s : State) (key : Nat) (a : Agent) (scope ord : BitVec 3) (addr : Nat) (op : RemoteOp) : State :=
  let ks := upFrom addr (remoteBytes op)
  let ps := s.outerReads key addr op
  let stamps := ps.map (fun x => x.1)
  let said := s.msgsOf stamps
  let got := if remoteReads op then
      viewJoin (viewOf ks stamps)
        (if ordAcq ord then viewJoin (acquired a scope false said) (if ord = 4 then s.scView a scope false else []) else [])
    else []
  let s1 := remoteRun op addr (ofLe (ps.map (fun x => x.2))) s
  let v := viewJoin (viewJoin (spGet [] s.module.outer key) got)
    (if s1.stamp = s.stamp then [] else viewOf ks (ks.map (fun k => (s1.newest k).1)))
  let m : Msg := { who := a, scope := scope, sk := false, view := v }
  let s2 := if s1.stamp = s.stamp then s1
    else s1.releasing ((if remoteChains op then said else []) ++ (if ordRel ord then [m] else []))
  let s3 := if ord = 4 then { s2 with sc := m :: s2.sc } else s2
  { s3 with module := { s3.module with outer := spSet [] s3.module.outer key v } }

/-- The order with which a port performs an access (R239): its own, or relaxed where its hop scope does not reach its home
from its module. -/
def State.portOrder (s : State) (sender : Nat) (ord : BitVec 3) (hops : Option Nat) : BitVec 3 :=
  match hops with
  | none => ord
  | some n => if decide (s.distance sender ≤ n) then ord else 0

/-- The pages of module memory in a range of addresses. -/
def pagesOf (addr n : Nat) : List Nat := upFrom (addr / 4096) ((addr % 4096 + n + 4095) / 4096)

/-- An access from outside to pages of module memory: it waits for a move of one of them (R363), and places them (R362),
as PLACE 00 where nothing else has, since it comes without attributes. -/
def State.outerPages (s : State) (addr : Nat) (op : RemoteOp) (run : State → State) : State :=
  let ps := pagesOf addr (remoteBytes op)
  if ps.any s.inMove then s else run (s.touchPages ps)

/-- REMOTE_ACCESS (R239): the spline port performs another module's access to an offset of this module's memory, at DEVICE
scope and with the access's order. -/
def execRemoteAccess (sender addr : Nat) (x : OuterOp) (s : State) : Host.Outcome State Fault Refusal :=
  if 256 ≤ sender || decide (2 ^ 48 ≤ addr) then .next s
  else
    .next (s.outerPages addr x.op (fun s =>
      s.outerAccess (2 ^ 32 + sender) (outerAgent .port) 5 (s.portOrder sender x.ord x.hops) addr x.op))

/-- HOST_MEMORY_ACCESS (R220, R394): a hart, number 0 to 15, or a PCIe requester, number 16 or more, accesses module memory
with an order at SYSTEM scope. -/
def execHostMemoryAccess (agent addr : Nat) (x : OuterOp) (s : State) : Host.Outcome State Fault Refusal :=
  if 2 ^ 32 ≤ agent || decide (2 ^ 56 ≤ addr) then .next s
  else
    .next (s.outerPages addr x.op (fun s =>
      s.outerAccess agent (outerAgent (if agent < 16 then .hart else .pcie)) 6 x.ord addr x.op))

/-- PAGE_REQUEST_RESPONSE (R216): an outstanding request retires; the answer promises nothing. -/
def execPageRequestResponse (die pasid : Nat) (va : BitVec 57) (_granted : Bool) (s : State) :
    Host.Outcome State Fault Refusal :=
  .next (s.updDie die (fun d => { d with pgreqs := d.pgreqs.filter (fun r => r != (pasid, va.toNat / 4096)) }))

/-! ### The grain ring's control registers (R267, R268, R276) -/

/-- GRAIN_RING_CONTROL_WRITE (R12, R267, R268): eight bytes of the control registers. A changed MODE waits for the
next switch-in; the MODE in effect written again ends a gap (log entry 20). -/
def execGrainRingControlWrite (pasid offset : Nat) (value : BitVec 64) (s : State) :
    Host.Outcome State Fault Refusal :=
  let c := s.ctxOf pasid
  if c.grain = 0 || offset % 8 ≠ 0 || decide (256 ≤ offset) then .next s
  else .next (s.ringStore (c.on.headD 0) c.grain offset 8 value.toNat)

end Sys2Proof.Machine
end

