-- ==== Sys2Proof/Machine/Sampler.lean ====
section
/-! DEFINITION. The sampler of a partition and its shavings ring (R337 to R340). -/

namespace Sys2Proof.Machine

/-! ### The rotation (R337) -/

/-- The keys of a partition in the sampler's rotation: `k` 0 for the next slot, 1 for the samples taken since EN
was set, and 8 + slot for the next path of a slot. Key 0 of the map is the clk at which EN was set. -/
def shvKey (e : EngRef) (k : Nat) : Nat := 16 + 32 * (8 * e.core + e.part) + k

/-- The rotation of a die's sampler. -/
def Die.shv (d : Die) (k : Nat) : Nat := spGet 0 d.shvPos k

/-- The first of a rotation of `n` from `i` on that satisfies `f`. -/
def nextInRotation (f : Nat → Bool) (n i : Nat) : Option Nat :=
  findBy f ((upFrom 0 n).map (fun k => (i + k) % n))

/-- The group in a slot of a partition. -/
def State.inSlot (s : State) (e : EngRef) (slot : Nat) : Option Group :=
  findBy (fun (g : Group) => g.place == some { die := e.die, core := e.core, part := e.part, slot := slot }) s.groups

/-- Whether a partition's next sample is due: every 2^K clk from the clk at which EN was set. -/
def State.sampleDue (s : State) (e : EngRef) : Bool :=
  let d := s.dieOf e.die
  d.shvctl.getLsbD 0 &&
  decide (d.shv 0 + 2 ^ nbits d.shvctl.toNat 5 1 * (d.shv (shvKey e 1) + 1) ≤ d.clk + 1)

/-! ### The sample (R339, R340) -/

/-- Whether a path issued in the clk of its die. -/
def Path.issuedAt (p : Path) (clk : Nat) : Bool := p.last == clk + 1

/-- The reasons that a held or waiting path shows, in the order of R340 from replay hold to counters. -/
def heldReasons : List Nat := [19, 18, 24, 9, 10, 11, 25, 26, 3, 4, 5, 6, 7, 8]

/-- OP of the next instruction of a path that runs, where its core has fetched it. -/
def State.nextOp (s : State) (g : Group) (p : Path) : Option Nat :=
  match g.place with
  | none => none
  | some pl =>
    match s.fetched g pl p.pc.toNat with
    | .ok bytes => some ((word96Of bytes).toNat / 2 ^ 86)
    | .error _ => none

/-- The reasons of a ready path that was not chosen, by the port that its next instruction takes (R330, R340): which of
them kept it back is open (log entry 1). -/
def unchosen (op : Nat) : List Nat :=
  (if op / 64 = 12 || op = 0x2C1 || op = 0x2C2 then [14] else []) ++
  (if op / 64 = 6 || op = 0x1C3 || op = 0x1C4 || op = 0x1C5 then [15] else []) ++ [16, 17]

/-- REASON (R340), of a path whose own reason is up to date. A path that waits at a join has none stated: a free value
(log entry 14). -/
def reasonOf (s : State) (g : Group) (p : Path) (clk : Nat) : Nat :=
  let halted := p.frame.pend || (p.frame.stop && p.frame.nested && p.frame.ncause == Cause.debugHalt.code)
  let joined := match p.stat with
    | .arrived _ => true
    | _ => false
  let asleep := match p.stat with
    | .sleeping _ => true
    | _ => false
  let op := s.nextOp g p
  if p.issuedAt clk then 0
  else if halted then 21
  else if g.stopReq then 22
  else if p.frame.inH || p.frame.stop then 20
  else if heldReasons.contains p.reason.toNat then p.reason.toNat
  else if p.stat == PStat.run && op.isNone then 12
  else if g.missing.isSome || p.reason = 13 then 13
  else if p.reason = 23 then 23
  else if p.reason = 2 then 2
  else if joined then (Config.freeWord s.tick 620000).toNat % 27
  else if asleep || decide (clk < p.earliest) then 1
  else
    let rs := unchosen (op.getD 0)
    getAt 17 rs ((Config.freeWord s.tick 620001).toNat % rs.length)

/-- The 16 bytes of a sample (R339). -/
def sampleBytes (s : State) (g : Group) (e : EngRef) (slot pix : Nat) : List Byte :=
  let clk := (s.dieOf e.die).clk
  let p := g.path pix
  leBytes 16
    (e.die * 2 ^ 15 + e.core * 2 ^ 17 + e.part * 2 ^ 23 + slot * 2 ^ 26 + pix * 2 ^ 30 +
      (if g.issuedClk = clk + 1 then 2 ^ 33 else 0) + reasonOf s g p clk * 2 ^ 34 + p.pc.toNat * 2 ^ 39 + p.mask.toNat * 2 ^ 96)

/-- The state with a sample in a context's shavings ring (R338): a full ring discards it, and a faulty one is
reported and used no more (R368). -/
def writeSample (s : State) (die pasid : Nat) (bs : List Byte) : State :=
  let id := (s.ctxOf pasid).shav
  let faulty := fun (c : Cause) =>
    (objectFault s die pasid id c.code.toNat).updCtx pasid (fun c => { c.off id with shav := 0 })
  if id = 0 then s
  else
    match s.objFault id 0 64 true true with
    | some c => faulty c
    | none =>
      let x := s.objNum id 0 64
      let size := nbits x 63 0
      let head := nbits x 127 64
      let cap := size - 64
      if cap < head - nbits x 191 128 + 16 then s.objWrite id 24 (leBytes 8 (nbits x 255 192 + 1))
      else
        let at_ := 64 + head % cap
        match s.objFault id at_ 16 false true with
        | some c => faulty c
        | none => (s.objWrite id at_ bs).objWrite id 8 (leBytes 8 (head + 16))

/-- SHAVINGS_SAMPLE (R337): the partition's next group in rotation, and its next path. -/
def execShavingsSample (e : EngRef) (s : State) : Host.Outcome State Fault Refusal :=
  if 4 ≤ e.die || decide (headCore ≤ e.core) || decide (8 ≤ e.part) || !s.sampleDue e then .next s
  else
    let d := s.dieOf e.die
    let s1 := s.updDie e.die (fun d =>
      { d with shvPos := spSet 0 d.shvPos (shvKey e 1) (d.shv (shvKey e 1) + 1) })
    match nextInRotation (fun k => (s.inSlot e k).isSome) 16 (d.shv (shvKey e 0)) with
    | none => .next s1
    | some slot =>
      let s2 := s1.updDie e.die (fun d => { d with shvPos := spSet 0 d.shvPos (shvKey e 0) ((slot + 1) % 16) })
      match s.inSlot e slot with
      | none => .next s2
      | some g =>
        match nextInRotation (fun k => (g.path k).live) 8 (d.shv (shvKey e (8 + slot))) with
        | none => .next s2
        | some pix =>
          let s3 := s2.updDie e.die (fun d =>
            { d with shvPos := spSet 0 d.shvPos (shvKey e (8 + slot)) ((pix + 1) % 8) })
          .next (writeSample s3 e.die g.pasid (sampleBytes s g e slot pix))

end Sys2Proof.Machine
end

