-- ==== Sys2Proof/Machine/Sha.lean ====
section
/-! DEFINITION. SHA-256, by which images, measurements and quotes are digested (R388, R391). The algorithm is
FIPS 180-4, which the manual names and does not repeat (log entry 27). A digest's byte k is bits [8k+7:8k]. -/

namespace Sys2Proof.Machine

/-- The round constants. -/
def shaK : List Word :=
  [0x428a2f98, 0x71374491, 0xb5c0fbcf, 0xe9b5dba5, 0x3956c25b, 0x59f111f1, 0x923f82a4, 0xab1c5ed5] ++
  [0xd807aa98, 0x12835b01, 0x243185be, 0x550c7dc3, 0x72be5d74, 0x80deb1fe, 0x9bdc06a7, 0xc19bf174] ++
  [0xe49b69c1, 0xefbe4786, 0x0fc19dc6, 0x240ca1cc, 0x2de92c6f, 0x4a7484aa, 0x5cb0a9dc, 0x76f988da] ++
  [0x983e5152, 0xa831c66d, 0xb00327c8, 0xbf597fc7, 0xc6e00bf3, 0xd5a79147, 0x06ca6351, 0x14292967] ++
  [0x27b70a85, 0x2e1b2138, 0x4d2c6dfc, 0x53380d13, 0x650a7354, 0x766a0abb, 0x81c2c92e, 0x92722c85] ++
  [0xa2bfe8a1, 0xa81a664b, 0xc24b8b70, 0xc76c51a3, 0xd192e819, 0xd6990624, 0xf40e3585, 0x106aa070] ++
  [0x19a4c116, 0x1e376c08, 0x2748774c, 0x34b0bcb5, 0x391c0cb3, 0x4ed8aa4a, 0x5b9cca4f, 0x682e6ff3] ++
  [0x748f82ee, 0x78a5636f, 0x84c87814, 0x8cc70208, 0x90befffa, 0xa4506ceb, 0xbef9a3f7, 0xc67178f2]

/-- The initial hash value. -/
def shaInit : List Word :=
  [0x6a09e667, 0xbb67ae85, 0x3c6ef372, 0xa54ff53a, 0x510e527f, 0x9b05688c, 0x1f83d9ab, 0x5be0cd19]

/-- The word of four bytes, the first the most significant. -/
def beWord (b : List Byte) : Word := BitVec.ofNat 32 (ofLe b.reverse)

/-- The sixteen words of a 64-byte block. -/
def blockWords : Nat → List Byte → List Word
  | 0, _ => []
  | n + 1, b => beWord (b.take 4) :: blockWords n (b.drop 4)

/-- One word of the message schedule from the sixteen before it, newest first. -/
def scheduleWord (w : List Word) : Word :=
  let s0 := fun (x : Word) => x.rotateRight 7 ^^^ x.rotateRight 18 ^^^ (x >>> 3)
  let s1 := fun (x : Word) => x.rotateRight 17 ^^^ x.rotateRight 19 ^^^ (x >>> 10)
  s1 (getAt 0 w 1) + getAt 0 w 6 + s0 (getAt 0 w 14) + getAt 0 w 15

/-- The 64 words of the schedule, newest first. -/
def schedule (b : List Byte) : List Word :=
  iter (fun w => scheduleWord w :: w) 48 (blockWords 16 b).reverse

/-- One round on the working variables a to h. -/
def shaRound (v : List Word) (kw : Word × Word) : List Word :=
  match v with
  | [a, b, c, d, e, f, g, h] =>
    let t1 := h + (e.rotateRight 6 ^^^ e.rotateRight 11 ^^^ e.rotateRight 25) + ((e &&& f) ^^^ (~~~e &&& g)) + kw.1 + kw.2
    let t2 := (a.rotateRight 2 ^^^ a.rotateRight 13 ^^^ a.rotateRight 22) + ((a &&& b) ^^^ (a &&& c) ^^^ (b &&& c))
    [t1 + t2, a, b, c, d + t1, e, f, g]
  | v => v

/-- The hash after a block. -/
def shaBlock (h : List Word) (b : List Byte) : List Word :=
  let v := (shaK.zip (schedule b).reverse).foldl shaRound h
  (h.zip v).map (fun x => x.1 + x.2)

/-- The hash after `n` blocks. -/
def shaBlocks : Nat → List Word → List Byte → List Word
  | 0, h, _ => h
  | n + 1, h, b => shaBlocks n (shaBlock h (b.take 64)) (b.drop 64)

/-- A message padded to whole blocks: a 1 bit, zeros, and the length in bits. -/
def shaPad (m : List Byte) : List Byte :=
  m ++ [0x80] ++ List.replicate ((119 - m.length % 64) % 64) 0 ++ (leBytes 8 (8 * m.length)).reverse

/-- The SHA-256 of bytes. -/
def sha256 (m : List Byte) : BitVec 256 :=
  let p := shaPad m
  let h := shaBlocks (p.length / 64) shaInit p
  BitVec.ofNat 256 (ofLe (h.flatMap (fun w => (leBytes 4 w.toNat).reverse)))

end Sys2Proof.Machine
end

