-- ==== Sys2Proof/Machine/Boot.lean ====
section
/-! DEFINITION. Boot, firmware and readiness (R387 to R393), measurements and quotes (R391), die resets and
frequency steps (R341), and error protection (R396, R409). -/

namespace Sys2Proof.Machine

/-! ### Images (R388) -/

/-- The image of a component in NOR. -/
def Module.image (m : Module) (component : Nat) : List Byte :=
  match findBy (fun (x : Nat × List Byte) => x.1 == component) m.nor with
  | some x => x.2
  | none => []

/-- Byte range of an image as a number. -/
def imgNum (b : List Byte) (o n : Nat) : Nat := ofLe ((b.drop o).take n)

/-- The digest that an image's header states. -/
def imgDigest (b : List Byte) : BitVec 256 := BitVec.ofNat 256 (imgNum b 16 32)

/-- The payload of an image. -/
def imgPayload (b : List Byte) : List Byte := (b.drop 128).take (imgNum b 8 8)

/-- The key hash that a fuse slot holds; none for an empty slot, another slot, or slot 0 once OWNERONLY is blown
(R389). -/
def Module.keyHash (m : Module) (slot : Nat) : Option (BitVec 256) :=
  match slot with
  | 0 => if m.ownerOnly then none else some m.fuse0
  | 1 => m.fuse1
  | _ => none

/-- Whether an image verifies as a component (R388). -/
def Module.verifies (m : Module) (component : Nat) (b : List Byte) : Bool :=
  decide (128 ≤ b.length) && imgNum b 0 4 == 0x534D4657 && imgNum b 4 1 == component &&
  (imgPayload b).length == imgNum b 8 8 && imgNum b 112 16 == 0 &&
  sha256 (imgPayload b) == imgDigest b &&
  (match m.keyHash (imgNum b 5 1) with
    | some k => Config.ecdsaVerifies k (BitVec.ofNat 512 (imgNum b 48 64)) (sha256 (b.take 48))
    | none => false) &&
  decide (m.svn ≤ imgNum b 6 2)

/-! ### Readiness and measurements (R391, R392) -/

/-- The module with a function ready, or failed. -/
def Module.mark (m : Module) (bit : Nat) (ok : Bool) : Module :=
  let b : BitVec 64 := 1 <<< bit
  if ok then { m with ready := m.ready ||| b, readyf := m.readyf &&& ~~~b }
  else { m with ready := m.ready &&& ~~~b, readyf := m.readyf ||| b }

/-- The module with functions neither ready nor failed. -/
def Module.unmark (m : Module) (mask : BitVec 64) : Module :=
  { m with ready := m.ready &&& ~~~mask, readyf := m.readyf &&& ~~~mask }

/-- Whether a function is ready. -/
def Module.isReady (m : Module) (bit : Nat) : Bool := m.ready.getLsbD bit

/-- The bytes of a digest. -/
def digestBytes (d : BitVec 256) : List Byte := leBytes 32 d.toNat

/-- A measurement register extended (R391). -/
def Module.extend (m : Module) (mr : Nat) (digest : BitVec 256) : Module :=
  { m with mrs := setAt m.mrs mr (sha256 (digestBytes (getAt 0 m.mrs mr) ++ digestBytes digest)) }

/-! ### The boot steps (R387) -/

/-- The scope table as the tailstock builds it (R395): a distance of 0 to 7, or not listed. -/
def bootScopes : Sparse Byte :=
  (upFrom 0 256).foldl (fun t k =>
    let d := Config.scopeDistance k
    spSet 0xFF t k (if d.toNat ≤ 7 then d else 0xFF)) []

/-- Step 1 done: the tailstock firmware runs, and it has built the scope table. -/
def bootTailstock (m : Module) : Module := { m.mark 0 true with scopeTable := bootScopes }

/-- Step 2 done: the bitstream is in each die, whose memory trains and whose headstock then serves queues, or
fails to (free values, log entry 28). -/
def bootHeadstock (tick : Nat) (m : Module) : Module :=
  [0, 1, 2, 3].foldl (fun m d =>
    ((m.mark (1 + d) true).mark (5 + d) (Config.freeBit tick (630000 + d))).mark (9 + d)
      (Config.freeBit tick (630010 + d))) m

/-- Step 3 done: the boot loader starts on the host complex and sets IGN and LOCK on its harts (R355). -/
def bootLoader (m : Module) : Module := { m.mark 13 true with hcptex := 3 }

/-- What a step does once its image has verified. -/
def bootDone (tick step : Nat) (m : Module) : Module :=
  match step with
  | 0 => bootTailstock m
  | 1 => bootHeadstock tick m
  | _ => bootLoader m

/-- The readiness bits that a step's failure sets in READYF. -/
def bootFailed (step : Nat) (m : Module) : Module :=
  match step with
  | 0 => m.mark 0 false
  | 1 => [1, 2, 3, 4].foldl (fun m b => m.mark b false) m
  | _ => m.mark 13 false

/-- The boot from a step on, for `n` steps: each runs only if the one before has verified its image, and its
digest extends the measurement register of its number (R387, R391). -/
def bootFrom (tick : Nat) : Nat → Nat → Module → Module
  | 0, _, m => m
  | n + 1, step, m =>
    let b := m.image step
    if m.verifies step b then bootFrom tick n (step + 1) (bootDone tick step (m.extend step (imgDigest b)))
    else bootFailed step m

/-- POWER_UP (R387): the module at its reset values, with what NOR and the fuses hold, boots in order. Whether the boot
flash is readable, and whether the UFS device is, the manual leaves open (R392): from a flash that is not, no image
verifies. -/
def execPowerUp (s : State) : Host.Outcome State Fault Refusal :=
  let m := s.module
  let m0 : Module :=
    { Module.reset with nor := m.nor, fuse0 := m.fuse0, fuse1 := m.fuse1, ownerOnly := m.ownerOnly, svn := m.svn }
  let nor := Config.freeBit s.tick 630021
  let m1 := (m0.mark 27 nor).mark 28 (Config.freeBit s.tick 630020)
  .next { State.reset with
    agenda := s.agenda, tick := s.tick,
    module := if nor then bootFrom s.tick 3 0 m1 else bootFailed 0 m1 }

/-- The readiness bits of the steps from one on. -/
def bootBits (step : Nat) : BitVec 64 :=
  match step with
  | 0 => 0x3FFF
  | 1 => 0x3FFE
  | _ => 0x2000

/-- Whether the boot flash, of 256 MiB (R2), holds some images. -/
def norFits (images : List (Nat × List Byte)) : Bool := decide ((images.map (fun x => x.2.length)).sum ≤ 2 ^ 28)

/-- Whether the step before a boot step has verified its image (R387). -/
def Module.mayBoot (m : Module) (step : Nat) : Bool :=
  match step with
  | 0 => true
  | 1 => m.isReady 0
  | _ => m.isReady 0 && m.isReady 1

/-- RECOVERY_IMAGE (R390): a replacement image that verifies, and that the flash has room for, is written to NOR, and the
steps that depend on it run again, as far as those before them have verified (R387); one that does not verify is not
written. -/
def execRecoveryImage (component : Nat) (image : List (BitVec 8)) (s : State) : Host.Outcome State Fault Refusal :=
  let m := s.module
  if 3 ≤ component || !m.verifies component image then .next s
  else
    let m1 := { m with nor := (component, image) :: m.nor.filter (fun x => x.1 != component) }
    if !norFits m1.nor then .next s
    else if !m.mayBoot component then .next { s with module := m1 }
    else .next { s with module := bootFrom s.tick (3 - component) component (m1.unmark (bootBits component)) }

/-- LINK_TRAINING (R392): the PCIe link or a spline port has trained, or failed to. -/
def execLinkTraining (bit : Nat) (ok : Bool) (s : State) : Host.Outcome State Fault Refusal :=
  if bit < 14 || decide (26 < bit) then .next s else .next { s with module := s.module.mark bit ok }

/-! ### Fuses, measurements, quotes (R389, R391) -/

/-- FUSE_PROGRAMMING (R389): the owner's slot while it is empty, OWNERONLY, or at a request that the owner has signed the
SVN fuses, which never go back. -/
def execFuseProgramming (f : FuseOp) (s : State) : Host.Outcome State Fault Refusal :=
  let m := s.module
  let m1 : Module :=
    match f with
    | .programOwner h => if m.fuse1.isSome then m else { m with fuse1 := some h }
    | .blowOwnerOnly => { m with ownerOnly := true }
    | .blowSvn n sig =>
      match m.fuse1 with
      | some k => if Config.ecdsaVerifies k sig (Config.svnDigest n) then { m with svn := max m.svn n } else m
      | none => m
  .next { s with module := m1 }

/-- MEASUREMENT_EXTEND (R391): the host complex extends MR3 to MR7 through the tailstock's mailbox. -/
def execMeasurementExtend (mr : Nat) (digest : BitVec 256) (s : State) : Host.Outcome State Fault Refusal :=
  let m := s.module
  if mr < 3 || decide (7 < mr) || !m.isReady 0 || !m.isReady 13 then .next s
  else .next { s with module := m.extend mr digest }

/-- QUOTE (R391): MR0 to MR7 with the signature over the SHA-256 of the nonce followed by them. -/
def execQuote (nonce : BitVec 256) (s : State) : Host.Outcome State Fault Refusal :=
  let m := s.module
  if !m.isReady 0 then .next s
  else
    let sig := Config.signDigest (sha256 (digestBytes nonce ++ m.mrs.flatMap digestBytes))
    .next { s with module := { m with quotes := (m.mrs, sig) :: m.quotes } }

/-! ### Clocks and resets (R341) -/

/-- FREQUENCY_STEP (R341): the clock switches to a frequency, in 100 MHz, that the ceiling allows. -/
def execFrequencyStep (die freq : Nat) (s : State) : Host.Outcome State Fault Refusal :=
  if freq < 9 || decide ((s.dieOf die).fceil < freq) || !s.module.isReady 0 then .next s
  else .next (s.updDie die (fun d => { d with freq := freq }))

/-- The state without the entries of a map in a range of keys. -/
def spDrop {β : Type} (lo n : Nat) (m : Sparse β) : Sparse β :=
  m.filter (fun x => decide (x.1 < lo) || decide (lo + n ≤ x.1))

/-- DIE_RESET (R259, R296, R310, R341, R386): CLK, the LCHID counter, the semaphores with their tags and the die's
registers take their reset values. -/
def execDieReset (die : Nat) (s : State) : Host.Outcome State Fault Refusal :=
  let r := Die.reset
  let s1 := s.updDie die (fun d =>
    { d with clk := r.clk, lchNext := r.lchNext, shvctl := r.shvctl, shvPos := r.shvPos, sdaddr := r.sdaddr,
             sdctl := r.sdctl, tdctl := r.tdctl, ecnt := r.ecnt, kdrop := r.kdrop, qtbase := r.qtbase,
             fceil := r.fceil })
  if 4 ≤ die then .next s
  else .next { s1 with sems := spDrop (256 * die) 256 s1.sems, semTags := spDrop (256 * die) 256 s1.semTags }

/-! ### Errors (R396, R409) -/

/-- CORRECTED_ERROR (R396): counted in ECNT, whose two counts saturate. -/
def execCorrectedError (die : Nat) (dram : Bool) (s : State) : Host.Outcome State Fault Refusal :=
  .next (s.updDie die (fun d =>
    let hi : Word := d.ecnt.extractLsb' 32 32
    let lo : Word := d.ecnt.setWidth 32
    let up := fun (c : Word) => if c = 0xFFFFFFFF then c else c + 1
    { d with ecnt := if dram then up hi ++ lo else hi ++ up lo }))

/-- The state with the line of a byte of a core's scratchpad poisoned, in the allocation that holds it. -/
def poisonScratch (s : State) (core b : Nat) : State :=
  let die := core / 48
  let hit := fun (k : Block) (a : Alloc) =>
    k.die == die && !a.freed && a.core == core % 48 && decide (1024 * a.base ≤ b) && decide (b < 1024 * a.base + 1024 * (s.launchOf k.die k.lchid).hdr.units)
  { s with
    blocks := s.blocks.map (fun k =>
      if k.stat == .resident || k.stat == .evicting then
        { k with allocs := updBy (hit k) (fun (a : Alloc) =>
            { a with poison := poisonLine a.poison (b - 1024 * a.base) }) k.allocs }
      else k) }

/-- UNCORRECTABLE_ERROR (R396, R409): the data is poisoned and recorded in the module error log. `unit` 0 is the
memory line of address `a`, 1 the scratchpad line of byte `b` of core 48·die + core `a`, 2 register line `b` of
group `a`, 3 the group record of group `a`, and 4 tile `b` of group `a`. The manual gives units no numbers, and
what is not in memory no physical address: those words are free (log entry 14). The record's die is that of the core, or of
the channels that hold the memory line: one that the Sumet chooses where the line has no place of its own. -/
def execUncorrectableError (unit a b : Nat) (s : State) : Host.Outcome State Fault Refusal :=
  let word := fun (k : Nat) => (Config.freeWord s.tick (640000 + k)).toNat % 2 ^ 64
  let die := match unit with
    | 0 => if spGet 0 s.place (a / 4096) = 0 then Config.pick (s.tick + 2 ^ 66) % 4 else spGet 0 s.place (a / 4096) - 1
    | 1 => a / 48
    | _ => (s.grp a).die
  let rep := fun (s : State) (addr : Nat) =>
    logModule s { code := 0x09, die := die, queue := 0, rptr := 0, lchid := 0, d0 := addr, d1 := word 0 }
  match unit with
  | 0 => .next (rep { s with poison := poisonLine s.poison a } (a / 64 * 64))
  | 1 => .next (rep (poisonScratch s a b) (word 1))
  | 2 =>
    .next (rep (s.updGrp a (fun g =>
      { g with poisonLines := if b < 528 then b :: g.poisonLines else g.poisonLines })) (word 1))
  | 3 => .next (rep (s.updGrp a (fun g => { g with poisonLines := 528 :: g.poisonLines })) (word 1))
  | 4 =>
    .next (rep (s.updGrp a (fun g =>
      { g with poisonTiles := if b < 8 then b :: g.poisonTiles.filter (· != b) else g.poisonTiles })) (word 1))
  | _ => .next s

end Sys2Proof.Machine
end

