-- ==== Sys2Proof/Machine/Cache.lean ====
section
/-! DEFINITION. The register cache of a partition (R33, R35, R36, R305): the lines that stop being pinned, which line is
replaced, and REGISTER_LINE_FILL. -/

namespace Sys2Proof.Machine

/-- Whether a group's footprint lines are not pinned: every live path of it is parked or has arrived (R36, R305). -/
def Group.unpinned (g : Group) : Bool :=
  g.live.all (fun i => match (g.path i).stat with
    | .parked => true
    | .arrived _ => true
    | _ => false)

/-- The latest use of a line by its group. -/
def Group.lineUse (g : Group) (line : Nat) : Nat :=
  match findBy (fun (x : Nat × Nat) => x.1 == line) g.lines with
  | some x => x.2
  | none => 0

/-- The lines of a group that its partition's cache holds outside its footprint. -/
def Group.looseLines (g : Group) (h : KHeader) : List Nat :=
  (g.lines.filter (fun x => !inFootprint h x.1)).map (fun x => x.1)

/-- The lines of a group that may be replaced: those outside its footprint, and those of a footprint that is not
pinned. -/
def State.replaceable (s : State) (g : Group) : List Nat :=
  let h := s.hdrOf g
  g.looseLines h ++ (if g.unpinned then h.footprint.filter (fun l => !g.absent.contains l) else [])

/-- The groups whose records lie in a partition. -/
def State.cacheOf (s : State) (pl : Place) : List Group :=
  s.groups.filter (fun g => g.place.any (fun q => q.die == pl.die && q.core == pl.core && q.part == pl.part))

/-- A line written back where it is dirty (R35), and out of the cache. -/
def State.replaceLine (s : State) (gid line : Nat) : State :=
  let g := s.grp gid
  let s1 := if g.dirty.contains line then s.writeParts g [g.lineBytes line] else s
  s1.updGrp gid (fun g =>
    { g with
      lines := g.lines.filter (fun x => x.1 != line), dirty := g.dirty.filter (fun l => l != line),
      absent := if inFootprint (s.hdrOf g) line then line :: g.absent else g.absent })

/-- The line of a partition that is replaced next: its group, and the line, used least recently (R35). -/
def State.oldestLine (s : State) (pl : Place) : Option (Nat × Nat) :=
  (((s.cacheOf pl).flatMap (fun g => (s.replaceable g).map (fun l => (g.lineUse l, g.gid, l)))).foldl
    (fun (b : Option (Nat × Nat × Nat)) x => match b with
      | none => some x
      | some y => if x.1 < y.1 then some x else some y) none).map (fun x => x.2)

/-- Whether the lines outside footprints in a partition need more than the lines that footprints leave them: the 64 that
none pins, and those of footprints that have been replaced (R33). -/
def State.cacheFull (s : State) (pl : Place) : Bool :=
  let gs := s.cacheOf pl
  decide (Config.looseLines + ((gs.map (fun g => g.absent.length)).sum) < ((gs.map (fun g => (g.looseLines (s.hdrOf g)).length)).sum))

/-- Lines of a partition replaced until its cache holds the rest, at most `n` of them. -/
def trimCache (pl : Place) : Nat → State → State
  | 0, s => s
  | n + 1, s =>
    if !s.cacheFull pl then s
    else
      match s.oldestLine pl with
      | some (gid, line) => trimCache pl n (s.replaceLine gid line)
      | none => s

/-- The caches of the partitions whose groups hold lines outside their footprints. -/
def State.trimCaches (s : State) : State :=
  (s.groups.filter (fun g => !(g.looseLines (s.hdrOf g)).isEmpty)).foldl
    (fun s g => match g.place with
      | some pl => trimCache pl (2 * Config.looseLines) s
      | none => s) s

/-- REGISTER_LINE_FILL (R35, R36): a line that a group stalls for, or one of its footprint that has been replaced, comes
into its partition's register cache. -/
def execRegisterLineFill (gid line : Nat) (s : State) : Host.Outcome State Fault Refusal :=
  let g := s.grp gid
  if (g.missing = some line || g.absent.contains line) && s.resident g then
    .next (s.updGrp gid (fun g =>
      { g with
        lines := (line, s.tick) :: g.lines.filter (fun x => x.1 != line),
        absent := g.absent.filter (fun l => l != line),
        missing := if g.missing = some line then none else g.missing }))
  else .next s

end Sys2Proof.Machine
end

