-- ==== Sys2Proof/Machine/Logic.lean ====
section
/-! DEFINITION. Family 0x2, logic and bit manipulation (R124, R125). -/

namespace Sys2Proof.Machine

/-- A 32-bit result of two sources per lane. -/
def logic2 (w : XN) (f : Word → Word → Word) (e : Env) (s : State) : Res :=
  writeRes e false w.h w.d unused (fun l => (f (e.rd w.a l) (e.rd w.b l)).setWidth 64) s

/-- A 32-bit result of one source per lane. -/
def logic1 (w : XN) (f : Word → Word) (e : Env) (s : State) : Res :=
  writeRes e false w.h w.d unused (fun l => (f (e.rd w.a l)).setWidth 64) s

/-- A 32-bit result of three sources per lane. -/
def bits3 (w : XF) (f : Word → Word → Word → Word) (e : Env) (s : State) : Res :=
  writeRes e false w.h w.d w.c (fun l => (f (e.rd w.a l) (e.rd w.b l) (e.rd w.c l)).setWidth 64) s

/-- `and` (R124). -/
def execAnd (w : XN) : Meaning := issue (.and w) w.h (logic2 w (fun a b => a &&& b))
/-- `or` (R124). -/
def execOr (w : XN) : Meaning := issue (.or w) w.h (logic2 w (fun a b => a ||| b))
/-- `xor` (R124). -/
def execXor (w : XN) : Meaning := issue (.xor w) w.h (logic2 w (fun a b => a ^^^ b))
/-- `not` (R124). -/
def execNot (w : XN) : Meaning := issue (.not w) w.h (logic1 w (fun a => ~~~a))
/-- `andn` (R124). -/
def execAndn (w : XN) : Meaning := issue (.andn w) w.h (logic2 w (fun a b => a &&& ~~~b))

/-- The truth table of `lop3`: bit i of the result is bit 4·a[i] + 2·b[i] + c[i] of the table (R125). -/
def lop3Of (lut : BitVec 8) (a b c : Word) : Word :=
  maskOf (fun i => lut.getLsbD
    ((if a.getLsbD i then 4 else 0) + (if b.getLsbD i then 2 else 0) + (if c.getLsbD i then 1 else 0)))

/-- `lop3` (R125). -/
def execLop3 (w : XF) : Meaning := issueC (.lop3 w) w.h w.c (bits3 w (lop3Of w.sub))

/-- `shl` (R124). -/
def execShl (w : XN) : Meaning := issue (.shl w) w.h (logic2 w (fun a b => if 32 ≤ b.toNat then 0 else a <<< b.toNat))
/-- `shr` (R124). -/
def execShr (w : XN) : Meaning := issue (.shr w) w.h (logic2 w (fun a b => a >>> b.toNat))
/-- `sar` (R124): 32 copies of the sign for a count of 32 or more. -/
def execSar (w : XN) : Meaning := issue (.sar w) w.h (logic2 w (fun a b => a.sshiftRight b.toNat))
/-- `rotl` (R124). -/
def execRotl (w : XN) : Meaning := issue (.rotl w) w.h (logic2 w (fun a b => a.rotateLeft (b.toNat % 32)))

/-- The funnel shift of a::b: right, low half; or left, high half (R125). -/
def funnel (left : Bool) (a b c : Word) : Word :=
  let m := c.toNat % 32
  let ab : DWord := a ++ b
  if left then (ab <<< m).extractLsb' 32 32 else (ab >>> m).setWidth 32

/-- `fsh` (R125). -/
def execFsh (w : XF) : Meaning := issueC (.fsh w) w.h w.c (bits3 w (funnel (w.sub == 1)))

/-- 0 bits above the highest 1 bit, of the `n` low bits. -/
def clzN (x : Nat) : Nat → Nat
  | 0 => 0
  | n + 1 => if x.testBit n then 0 else 1 + clzN x n

/-- 0 bits below the lowest 1 bit, from bit `i`, of `n` bits. -/
def ctzN (x : Nat) : Nat → Nat → Nat
  | _, 0 => 0
  | i, n + 1 => if x.testBit i then 0 else 1 + ctzN x (i + 1) n

/-- `popc` (R124). -/
def execPopc (w : XN) : Meaning := issue (.popc w) w.h (logic1 w (fun a => BitVec.ofNat 32 (popcount 32 a.toNat)))
/-- `clz` (R124). -/
def execClz (w : XN) : Meaning := issue (.clz w) w.h (logic1 w (fun a => BitVec.ofNat 32 (clzN a.toNat 32)))
/-- `ctz` (R124). -/
def execCtz (w : XN) : Meaning := issue (.ctz w) w.h (logic1 w (fun a => BitVec.ofNat 32 (ctzN a.toNat 0 32)))
/-- `brev` (R124). -/
def execBrev (w : XN) : Meaning :=
  issue (.brev w) w.h (logic1 w (fun a => maskOf (fun i => a.getLsbD (31 - i))))

/-- Position and width of a field pattern: k bits at p, or none (R125). -/
def fieldOf (pat : Word) : Nat × Nat :=
  let p := pat.toNat % 256
  let n := pat.toNat / 256 % 256
  (p, if p < 32 then Min.min n (32 - p) else 0)

/-- `bfe`: the field, extended by its sign for I32 (R125). -/
def bfeOf (signed : Bool) (a pat : Word) : Word :=
  let (p, k) := fieldOf pat
  if k = 0 then 0
  else
    let f := a.toNat / 2 ^ p % 2 ^ k
    if signed then BitVec.ofInt 32 (toSigned k f) else BitVec.ofNat 32 f

/-- `bfe` (R125). -/
def execBfe (w : XF) : Meaning :=
  issueC (.bfe w) w.h w.c (fun e s =>
    writeRes e false w.h w.d w.c (fun l => (bfeOf (w.df == 2) (e.rd w.a l) (e.rd w.b l)).setWidth 64) s)

/-- `bfi`: a with its field replaced by the low bits of b (R125). -/
def bfiOf (a b pat : Word) : Word :=
  let (p, k) := fieldOf pat
  maskOf (fun i => if decide (p ≤ i) && decide (i < p + k) then b.getLsbD (i - p) else a.getLsbD i)

/-- `bfi` (R125). -/
def execBfi (w : XF) : Meaning := issueC (.bfi w) w.h w.c (bits3 w bfiOf)

/-- One byte of `bperm`: byte s[2:0] of b::a, or 8 copies of its top bit (R125). -/
def bpermByte (a b : Word) (sel : Nat) : BitVec 8 :=
  let y := ((b ++ a : DWord) >>> (8 * (sel % 8))).setWidth 8
  if sel < 8 then y else if y.getLsbD 7 then 0xFF else 0

/-- `bperm` (R125). -/
def bpermOf (a b c : Word) : Word :=
  let n := fun i => c.toNat / 16 ^ i % 16
  bpermByte a b (n 3) ++ bpermByte a b (n 2) ++ bpermByte a b (n 1) ++ bpermByte a b (n 0)

/-- `bperm` (R125). -/
def execBperm (w : XF) : Meaning := issueC (.bperm w) w.h w.c (bits3 w bpermOf)

end Sys2Proof.Machine
end

