-- ==== Sys2Proof/Machine/Dispatch.lean ====
section
/-! DEFINITION. One arm for each row of the opcode table. -/

namespace Sys2Proof.Machine

/-- The meaning of an instruction or event in a state. -/
def exec (i : Instr) (s : State) : Host.Outcome State Fault Refusal :=
  match i with
  | .nop w => Sys2Proof.Machine.execNop w s
  | .bra w => Sys2Proof.Machine.execBra w s
  | .brx w => Sys2Proof.Machine.execBrx w s
  | .call w => Sys2Proof.Machine.execCall w s
  | .callx w => Sys2Proof.Machine.execCallx w s
  | .ret w => Sys2Proof.Machine.execRet w s
  | .loop w => Sys2Proof.Machine.execLoop w s
  | .loopx w => Sys2Proof.Machine.execLoopx w s
  | .join w => Sys2Proof.Machine.execJoin w s
  | .exit w => Sys2Proof.Machine.execExit w s
  | .yield w => Sys2Proof.Machine.execYield w s
  | .sleep w => Sys2Proof.Machine.execSleep w s
  | .brk w => Sys2Proof.Machine.execBrk w s
  | .sleepExpiry w => Sys2Proof.Machine.execSleepExpiry w s
  | .add w => Sys2Proof.Machine.execAdd w s
  | .addc w => Sys2Proof.Machine.execAddc w s
  | .sub w => Sys2Proof.Machine.execSub w s
  | .subb w => Sys2Proof.Machine.execSubb w s
  | .neg w => Sys2Proof.Machine.execNeg w s
  | .abs w => Sys2Proof.Machine.execAbs w s
  | .mul w => Sys2Proof.Machine.execMul w s
  | .mulhi w => Sys2Proof.Machine.execMulhi w s
  | .mulw w => Sys2Proof.Machine.execMulw w s
  | .mad w => Sys2Proof.Machine.execMad w s
  | .madhi w => Sys2Proof.Machine.execMadhi w s
  | .div w => Sys2Proof.Machine.execDiv w s
  | .rem w => Sys2Proof.Machine.execRem w s
  | .min w => Sys2Proof.Machine.execMin w s
  | .max w => Sys2Proof.Machine.execMax w s
  | .sad w => Sys2Proof.Machine.execSad w s
  | .dp4 w => Sys2Proof.Machine.execDp4 w s
  | .dp2 w => Sys2Proof.Machine.execDp2 w s
  | .and w => Sys2Proof.Machine.execAnd w s
  | .or w => Sys2Proof.Machine.execOr w s
  | .xor w => Sys2Proof.Machine.execXor w s
  | .not w => Sys2Proof.Machine.execNot w s
  | .andn w => Sys2Proof.Machine.execAndn w s
  | .lop3 w => Sys2Proof.Machine.execLop3 w s
  | .shl w => Sys2Proof.Machine.execShl w s
  | .shr w => Sys2Proof.Machine.execShr w s
  | .sar w => Sys2Proof.Machine.execSar w s
  | .rotl w => Sys2Proof.Machine.execRotl w s
  | .fsh w => Sys2Proof.Machine.execFsh w s
  | .popc w => Sys2Proof.Machine.execPopc w s
  | .clz w => Sys2Proof.Machine.execClz w s
  | .ctz w => Sys2Proof.Machine.execCtz w s
  | .brev w => Sys2Proof.Machine.execBrev w s
  | .bfe w => Sys2Proof.Machine.execBfe w s
  | .bfi w => Sys2Proof.Machine.execBfi w s
  | .bperm w => Sys2Proof.Machine.execBperm w s
  | .cmp w => Sys2Proof.Machine.execCmp w s
  | .sel w => Sys2Proof.Machine.execSel w s
  | .mov w => Sys2Proof.Machine.execMov w s
  | .movi w => Sys2Proof.Machine.execMovi w s
  | .movs w => Sys2Proof.Machine.execMovs w s
  | .movv w => Sys2Proof.Machine.execMovv w s
  | .mvsp w => Sys2Proof.Machine.execMvsp w s
  | .stsp w => Sys2Proof.Machine.execStsp w s
  | .pand w => Sys2Proof.Machine.execPand w s
  | .por w => Sys2Proof.Machine.execPor w s
  | .pxor w => Sys2Proof.Machine.execPxor w s
  | .pnot w => Sys2Proof.Machine.execPnot w s
  | .pmov w => Sys2Proof.Machine.execPmov w s
  | .shfl w => Sys2Proof.Machine.execShfl w s
  | .vote w => Sys2Proof.Machine.execVote w s
  | .redux w => Sys2Proof.Machine.execRedux w s
  | .scan w => Sys2Proof.Machine.execScan w s
  | .bcast w => Sys2Proof.Machine.execBcast w s
  | .matchLanes w => Sys2Proof.Machine.execMatchLanes w s
  | .fadd w => Sys2Proof.Machine.execFadd w s
  | .fsub w => Sys2Proof.Machine.execFsub w s
  | .fmul w => Sys2Proof.Machine.execFmul w s
  | .fma w => Sys2Proof.Machine.execFma w s
  | .fmin w => Sys2Proof.Machine.execFmin w s
  | .fmax w => Sys2Proof.Machine.execFmax w s
  | .fminn w => Sys2Proof.Machine.execFminn w s
  | .fmaxn w => Sys2Proof.Machine.execFmaxn w s
  | .fcmp w => Sys2Proof.Machine.execFcmp w s
  | .fclass w => Sys2Proof.Machine.execFclass w s
  | .fscale w => Sys2Proof.Machine.execFscale w s
  | .frnd w => Sys2Proof.Machine.execFrnd w s
  | .rcp w => Sys2Proof.Machine.execRcp w s
  | .rsq w => Sys2Proof.Machine.execRsq w s
  | .sqrt w => Sys2Proof.Machine.execSqrt w s
  | .fdiv w => Sys2Proof.Machine.execFdiv w s
  | .ex2 w => Sys2Proof.Machine.execEx2 w s
  | .lg2 w => Sys2Proof.Machine.execLg2 w s
  | .sinpi w => Sys2Proof.Machine.execSinpi w s
  | .cospi w => Sys2Proof.Machine.execCospi w s
  | .sincospi w => Sys2Proof.Machine.execSincospi w s
  | .tanh w => Sys2Proof.Machine.execTanh w s
  | .cvt w => Sys2Proof.Machine.execCvt w s
  | .cvtpk w => Sys2Proof.Machine.execCvtpk w s
  | .cvtcb w => Sys2Proof.Machine.execCvtcb w s
  | .rng w => Sys2Proof.Machine.execRng w s
  | .trng w => Sys2Proof.Machine.execTrng w s
  | .sampleCat w => Sys2Proof.Machine.execSampleCat w s
  | .ldGbl w => Sys2Proof.Machine.execLdGbl w s
  | .ldScr w => Sys2Proof.Machine.execLdScr w s
  | .ldCls w => Sys2Proof.Machine.execLdCls w s
  | .ldObj w => Sys2Proof.Machine.execLdObj w s
  | .stGbl w => Sys2Proof.Machine.execStGbl w s
  | .stScr w => Sys2Proof.Machine.execStScr w s
  | .stCls w => Sys2Proof.Machine.execStCls w s
  | .stObj w => Sys2Proof.Machine.execStObj w s
  | .ldt w => Sys2Proof.Machine.execLdt w s
  | .stt w => Sys2Proof.Machine.execStt w s
  | .prf w => Sys2Proof.Machine.execPrf w s
  | .probe w => Sys2Proof.Machine.execProbe w s
  | .pgreq w => Sys2Proof.Machine.execPgreq w s
  | .peerst w => Sys2Proof.Machine.execPeerst w s
  | .atomAdd w => Sys2Proof.Machine.execAtomAdd w s
  | .atomSub w => Sys2Proof.Machine.execAtomSub w s
  | .atomMin w => Sys2Proof.Machine.execAtomMin w s
  | .atomMax w => Sys2Proof.Machine.execAtomMax w s
  | .atomAnd w => Sys2Proof.Machine.execAtomAnd w s
  | .atomOr w => Sys2Proof.Machine.execAtomOr w s
  | .atomXor w => Sys2Proof.Machine.execAtomXor w s
  | .atomExch w => Sys2Proof.Machine.execAtomExch w s
  | .atomIncw w => Sys2Proof.Machine.execAtomIncw w s
  | .atomDecw w => Sys2Proof.Machine.execAtomDecw w s
  | .cas w => Sys2Proof.Machine.execCas w s
  | .redAdd w => Sys2Proof.Machine.execRedAdd w s
  | .redSub w => Sys2Proof.Machine.execRedSub w s
  | .redMin w => Sys2Proof.Machine.execRedMin w s
  | .redMax w => Sys2Proof.Machine.execRedMax w s
  | .redAnd w => Sys2Proof.Machine.execRedAnd w s
  | .redOr w => Sys2Proof.Machine.execRedOr w s
  | .redXor w => Sys2Proof.Machine.execRedXor w s
  | .redIncw w => Sys2Proof.Machine.execRedIncw w s
  | .redDecw w => Sys2Proof.Machine.execRedDecw w s
  | .ldacq w => Sys2Proof.Machine.execLdacq w s
  | .strel w => Sys2Proof.Machine.execStrel w s
  | .fence w => Sys2Proof.Machine.execFence w s
  | .bar w => Sys2Proof.Machine.execBar w s
  | .bararv w => Sys2Proof.Machine.execBararv w s
  | .barwt w => Sys2Proof.Machine.execBarwt w s
  | .barinit w => Sys2Proof.Machine.execBarinit w s
  | .waitc w => Sys2Proof.Machine.execWaitc w s
  | .waitw w => Sys2Proof.Machine.execWaitw w s
  | .waitf w => Sys2Proof.Machine.execWaitf w s
  | .fill w => Sys2Proof.Machine.execFill w s
  | .syncinit w => Sys2Proof.Machine.execSyncinit w s
  | .semop w => Sys2Proof.Machine.execSemop w s
  | .semwait w => Sys2Proof.Machine.execSemwait w s
  | .xkick w => Sys2Proof.Machine.execXkick w s
  | .cbld w => Sys2Proof.Machine.execCbld w s
  | .drainld w => Sys2Proof.Machine.execDrainld w s
  | .mma w => Sys2Proof.Machine.execMma w s
  | .mmloop w => Sys2Proof.Machine.execMmloop w s
  | .tzero w => Sys2Proof.Machine.execTzero w s
  | .tmovGet w => Sys2Proof.Machine.execTmovGet w s
  | .tmovPut w => Sys2Proof.Machine.execTmovPut w s
  | .tmovDrain w => Sys2Proof.Machine.execTmovDrain w s
  | .tsacc w => Sys2Proof.Machine.execTsacc w s
  | .rstlbl w => Sys2Proof.Machine.execRstlbl w s
  | .spawn w => Sys2Proof.Machine.execSpawn w s
  | .spawnx w => Sys2Proof.Machine.execSpawnx w s
  | .tasknew w => Sys2Proof.Machine.execTasknew w s
  | .taskget w => Sys2Proof.Machine.execTaskget w s
  | .taskdone w => Sys2Proof.Machine.execTaskdone w s
  | .tasksync w => Sys2Proof.Machine.execTasksync w s
  | .stage w => Sys2Proof.Machine.execStage w s
  | .promote w => Sys2Proof.Machine.execPromote w s
  | .trap w => Sys2Proof.Machine.execTrap w s
  | .rte w => Sys2Proof.Machine.execRte w s
  | .csrrd w => Sys2Proof.Machine.execCsrrd w s
  | .csrwr w => Sys2Proof.Machine.execCsrwr w s
  | .logmark w => Sys2Proof.Machine.execLogmark w s
  | .trcon w => Sys2Proof.Machine.execTrcon w s
  | .trcoff w => Sys2Proof.Machine.execTrcoff w s
  | .halt w => Sys2Proof.Machine.execHalt w s
  | .dend => Sys2Proof.Machine.execDend s
  | .dfadd w => Sys2Proof.Machine.execDfadd w s
  | .dfsub w => Sys2Proof.Machine.execDfsub w s
  | .dfmul w => Sys2Proof.Machine.execDfmul w s
  | .dfma w => Sys2Proof.Machine.execDfma w s
  | .dfmax w => Sys2Proof.Machine.execDfmax w s
  | .dfmin w => Sys2Proof.Machine.execDfmin w s
  | .drelu w => Sys2Proof.Machine.execDrelu w s
  | .dsel w => Sys2Proof.Machine.execDsel w s
  | .diadd w => Sys2Proof.Machine.execDiadd w s
  | .dimad w => Sys2Proof.Machine.execDimad w s
  | .dshl w => Sys2Proof.Machine.execDshl w s
  | .dand w => Sys2Proof.Machine.execDand w s
  | .dmov w => Sys2Proof.Machine.execDmov w s
  | .dmovi w => Sys2Proof.Machine.execDmovi w s
  | .dmovhi w => Sys2Proof.Machine.execDmovhi w s
  | .dfcmp w => Sys2Proof.Machine.execDfcmp w s
  | .dld w => Sys2Proof.Machine.execDld w s
  | .dst w => Sys2Proof.Machine.execDst w s
  | .dred w => Sys2Proof.Machine.execDred w s
  | .drst => Sys2Proof.Machine.execDrst s
  | .impreciseFaultEntry w => Sys2Proof.Machine.execImpreciseFaultEntry w s
  | .loadComplete gid op lanes => Sys2Proof.Machine.execLoadComplete gid op lanes s
  | .storeComplete gid op lanes => Sys2Proof.Machine.execStoreComplete gid op lanes s
  | .atomicComplete gid op lanes => Sys2Proof.Machine.execAtomicComplete gid op lanes s
  | .scratchpadAccessComplete gid op lanes => Sys2Proof.Machine.execScratchpadAccessComplete gid op lanes s
  | .peerstArrival gid op lanes => Sys2Proof.Machine.execPeerstArrival gid op lanes s
  | .registerLineFill gid line => Sys2Proof.Machine.execRegisterLineFill gid line s
  | .matrixOpComplete gid => Sys2Proof.Machine.execMatrixOpComplete gid s
  | .drainRow e => Sys2Proof.Machine.execDrainRow e s
  | .drainComplete e => Sys2Proof.Machine.execDrainComplete e s
  | .tceCopy gid op elems => Sys2Proof.Machine.execTceCopy gid op elems s
  | .tceCopyComplete gid op => Sys2Proof.Machine.execTceCopyComplete gid op s
  | .restTableWake w => Sys2Proof.Machine.execRestTableWake w s
  | .waitTimeout w => Sys2Proof.Machine.execWaitTimeout w s
  | .promotion die => Sys2Proof.Machine.execPromotion die s
  | .blockDispatch die lchid places => Sys2Proof.Machine.execBlockDispatch die lchid places s
  | .groupRecordFree gid => Sys2Proof.Machine.execGroupRecordFree gid s
  | .childHeaderCheck die lchid => Sys2Proof.Machine.execChildHeaderCheck die lchid s
  | .spawnxCountRead die lchid => Sys2Proof.Machine.execSpawnxCountRead die lchid s
  | .taskAccept w => Sys2Proof.Machine.execTaskAccept w s
  | .tasksyncCopy gid op => Sys2Proof.Machine.execTasksyncCopy gid op s
  | .replayHoldRelease w => Sys2Proof.Machine.execReplayHoldRelease w s
  | .replayHoldTimeout w => Sys2Proof.Machine.execReplayHoldTimeout w s
  | .shavingsSample e => Sys2Proof.Machine.execShavingsSample e s
  | .pageWalk die core tlb pasid va write => Sys2Proof.Machine.execPageWalk die core tlb pasid va write s
  | .atsTranslationResponse pasid va reply => Sys2Proof.Machine.execAtsTranslationResponse pasid va reply s
  | .pageMigration page die => Sys2Proof.Machine.execPageMigration page die s
  | .remoteAccess sender addr x => Sys2Proof.Machine.execRemoteAccess sender addr x s
  | .queueNop q barrier => Sys2Proof.Machine.execQueueNop q barrier s
  | .launch q c => Sys2Proof.Machine.execLaunch q c s
  | .signal q c => Sys2Proof.Machine.execSignal q c s
  | .waitword q c => Sys2Proof.Machine.execWaitword q c s
  | .waitwordComplete q => Sys2Proof.Machine.execWaitwordComplete q s
  | .copy q c => Sys2Proof.Machine.execCopy q c s
  | .copyCommandComplete q => Sys2Proof.Machine.execCopyCommandComplete q s
  | .timestamp q c => Sys2Proof.Machine.execTimestamp q c s
  | .kick die aperture => Sys2Proof.Machine.execKick die aperture s
  | .headstockWake die => Sys2Proof.Machine.execHeadstockWake die s
  | .shootdown die sdctl => Sys2Proof.Machine.execShootdown die sdctl s
  | .shootdownComplete die => Sys2Proof.Machine.execShootdownComplete die s
  | .atsInvalidate pasid vpn pages => Sys2Proof.Machine.execAtsInvalidate pasid vpn pages s
  | .pasidTeardown die tdctl => Sys2Proof.Machine.execPasidTeardown die tdctl s
  | .teardownComplete die => Sys2Proof.Machine.execTeardownComplete die s
  | .hostRegisterWrite offset value => Sys2Proof.Machine.execHostRegisterWrite offset value s
  | .dreqHalt r => Sys2Proof.Machine.execDreqHalt r s
  | .dreqResume r => Sys2Proof.Machine.execDreqResume r s
  | .dreqStep r => Sys2Proof.Machine.execDreqStep r s
  | .dreqFlush r => Sys2Proof.Machine.execDreqFlush r s
  | .dreqExit r => Sys2Proof.Machine.execDreqExit r s
  | .dreqForce r => Sys2Proof.Machine.execDreqForce r s
  | .dreqSwitch r => Sys2Proof.Machine.execDreqSwitch r s
  | .sliceStopRequest die pasid => Sys2Proof.Machine.execSliceStopRequest die pasid s
  | .groupPreempt gid => Sys2Proof.Machine.execGroupPreempt gid s
  | .scratchpadSave die pasid lchid block role => Sys2Proof.Machine.execScratchpadSave die pasid lchid block role s
  | .contextSwitchComplete die pasid => Sys2Proof.Machine.execContextSwitchComplete die pasid s
  | .contextSwitchIn die pasid => Sys2Proof.Machine.execContextSwitchIn die pasid s
  | .groupResume gid pl => Sys2Proof.Machine.execGroupResume gid pl s
  | .powerUp => Sys2Proof.Machine.execPowerUp s
  | .dieReset die => Sys2Proof.Machine.execDieReset die s
  | .recoveryImage component image => Sys2Proof.Machine.execRecoveryImage component image s
  | .measurementExtend mr digest => Sys2Proof.Machine.execMeasurementExtend mr digest s
  | .quote nonce => Sys2Proof.Machine.execQuote nonce s
  | .frequencyStep die freq => Sys2Proof.Machine.execFrequencyStep die freq s
  | .correctedError die dram => Sys2Proof.Machine.execCorrectedError die dram s
  | .uncorrectableError unit a b => Sys2Proof.Machine.execUncorrectableError unit a b s
  | .pageRequestResponse die pasid va granted => Sys2Proof.Machine.execPageRequestResponse die pasid va granted s
  | .grainRingControlWrite pasid offset value => Sys2Proof.Machine.execGrainRingControlWrite pasid offset value s
  | .instructionFetch w => Sys2Proof.Machine.execInstructionFetch w s
  | .hostMemoryAccess agent addr x => Sys2Proof.Machine.execHostMemoryAccess agent addr x s
  | .linkTraining bit ok => Sys2Proof.Machine.execLinkTraining bit ok s
  | .fuseProgramming f => Sys2Proof.Machine.execFuseProgramming f s
  | .headstockGating die power => Sys2Proof.Machine.execHeadstockGating die power s

end Sys2Proof.Machine
end

