-- ==== Sys2Proof/Machine/Trace.lean ====
section
/-! DEFINITION. Trace (R426 to R428): the records of a step, read off the state before it and after it. -/

namespace Sys2Proof.Machine

/-! ### Selection (R426) -/

/-- A field of TRSEL: bytes `b` of the context header, `n` of them. -/
def Ctx.trField (c : Ctx) (b n : Nat) : Nat := ctxField c.trsel (b - 48) n

/-- Whether a group matches its context's selection. -/
def State.traceMatch (s : State) (c : Ctx) (g : Group) : Bool :=
  let use := c.trField 58 1
  (!nbit use 0 || c.trField 48 4 == g.lchid) && (!nbit use 1 || c.trField 52 4 == g.block) &&
  (!nbit use 2 || c.trField 56 1 == g.grpid) && (!nbit use 3 || c.trField 57 1 == (s.launchOf g.die g.lchid).queue)

/-- Whether a group receives detail trace: of the matching groups that its core holds, it was dispatched
earliest, or of those of one clk has the lowest partition and slot (log entry 66). -/
def State.traceDetail (s : State) (c : Ctx) (g : Group) : Bool :=
  let core := fun (g : Group) => g.place.map (fun pl => (pl.die, pl.core))
  s.traceMatch c g && s.groups.all (fun o =>
    !(o.pasid == g.pasid && core o == core g && s.traceMatch c o) || decide (g.dispatched < o.dispatched) ||
    (g.dispatched == o.dispatched && decide (g.spotKey ≤ o.spotKey)))

/-- Whether a group's records are written: EN, the selection, and GATE's condition on TRON. -/
def State.traced (s : State) (c : Ctx) (g : Group) (tron : Bool) : Bool :=
  let ctl := c.trField 59 1
  c.image != 0 && !c.imageOff && nbit ctl 0 && (nbit ctl 1 || s.traceMatch c g) && (!nbit ctl 2 || tron) && g.place.isSome

/-! ### Records (R427) -/

/-- A trace record before it is written. -/
structure TrRecord where
  typ : Nat
  path : Nat
  pc : Addr
  mask : Mask
  inH : Bool
  data : Nat
  deriving DecidableEq, Repr

/-- The 32 bytes of a record. -/
def trBytes (clk issuer : Nat) (detail : Bool) (r : TrRecord) : List Byte :=
  leBytes 32
    (r.typ + (if detail then 2 ^ 8 else 0) + (if r.inH then 2 ^ 9 else 0) + issuer * 2 ^ 16 + r.pc.toNat * 2 ^ 64 +
      r.mask.toNat * 2 ^ 128 + (r.data % 2 ^ 32) * 2 ^ 160 + (clk % 2 ^ 64) * 2 ^ 192)

/-- A record written in the trace area, and TRHEAD advanced as a release, or dropped where the area is full; an area with misplaced or missing
bounds is off (R412). -/
def trAppend (s : State) (die pasid : Nat) (bs : List Byte) : State × Bool :=
  let c := s.ctxOf pasid
  let x := s.objNum c.image 0 256
  let ofs := ctxField x 40 4
  let size := ctxField x 44 4
  let head := ctxField x 208 8
  if size = 0 || !traceAreaOk ofs size (ctxField x 32 4) then (s, true)
  else if size ≤ head - ctxField x 216 8 then
    ((s.imageWrite die pasid 224 (leBytes 8 (ctxField x 224 8 + 1))).updCtx pasid (fun c => { c with lost := c.lost + 1 }),
      false)
  else
    (((s.imageWrite die pasid (ofs + head % size) bs).imageWrite die pasid 208 (leBytes 8 (head + 32))).headTells die s.stamp,
      true)

/-- A record of a path, with a LOST record before it where records were dropped and space has returned. A LOST
record carries the path fields of the record that it precedes (log entry 30). -/
def trWrite (g : Group) (detail : Bool) (s : State) (r : TrRecord) : State :=
  let clk := (s.dieOf g.die).clk
  let issuer := g.issuer r.path
  let lost := (s.ctxOf g.pasid).lost
  let s1 :=
    if lost = 0 then s
    else
      match trAppend s g.die g.pasid (trBytes clk issuer detail { r with typ := 0x1F, data := lost }) with
      | (s1, true) => s1.updCtx g.pasid (fun c => { c with lost := 0 })
      | (_, false) => s
  (trAppend s1 g.die g.pasid (trBytes clk issuer detail r)).1

/-! ### What a step shows (R427, R428) -/

/-- Bits [95:64] of the word at a path's PC, as the group's core holds it. Where its packets have gone since the
path issued it, the value is free (log entry 14). -/
def State.traceWord (s : State) (g : Group) (p : Path) : Nat :=
  match g.place with
  | none => 0
  | some pl =>
    match s.fetched g pl p.pc.toNat with
    | .ok bs => ofLe ((bs.drop 8).take 4)
    | .error _ => (Config.freeWord s.tick 650000).toNat

/-- Whether a path has issued an instruction in a step (R339, R402). -/
def pathIssued (g g' : Group) (pix : Nat) : Bool :=
  g'.issues != g.issues && g'.issuedPaths.getLsbD pix && (g'.issuedClk != g.issuedClk || !g.issuedPaths.getLsbD pix)

/-- The instruction that a step's choice names, at the path that issues it. -/
def choiceAt (c : Choice) (i : Option Instr) (gid pix : Nat) : Option Instr :=
  match c with
  | .issue w => if w.gid = gid && w.path = pix then i else none
  | _ => none

/-- The records of one path of a group in a step. -/
def pathRecords (s : State) (detail : Bool) (g g' : Group) (i : Option Instr) (pix : Nat) : List TrRecord :=
  let p := g.path pix
  let q := g'.path pix
  let mk := fun (typ data : Nat) =>
    ({ typ := typ, path := pix, pc := p.pc, mask := q.mask, inH := q.frame.inH, data := data } : TrRecord)
  let ran := pathIssued g g' pix
  let isParked := fun (x : PStat) => x == PStat.parked || x == PStat.accepting || x == PStat.promoting
  let back := match i with
    | some (.rte w) => g.active pix w.h != 0
    | _ => false
  let entered := (q.frame.inH && !p.frame.inH && !p.frame.pend) || (q.frame.stop && !p.frame.stop) ||
    (q.frame.pend && !p.frame.pend) || (back && ran && q.frame.inH)
  let cause := if q.frame.stop && q.frame.nested then q.frame.ncause else q.frame.cause
  let halt := cause == Cause.debugHalt.code || cause == Cause.singleStep.code
  let (switch, acted) := match i with
    | some (.trcon w) => (some 0x18, g.active pix w.h != 0)
    | some (.trcoff w) => (some 0x19, g.active pix w.h != 0)
    | _ => (none, true)
  let opened := (List.range 8).filter (fun k => (g'.path k).live && !(g.path k).live)
  (if isParked p.stat && ran then [mk 0x13 0] else []) ++
  (match switch with
    | some t => if ran && acted then [mk t 0] else []
    | none => if ran && detail then [mk 0x01 (s.traceWord g p)] else []) ++
  (if i.isSome then opened.map (fun k => mk 0x10 k) else []) ++
  (if isParked q.stat && !isParked p.stat then [mk 0x12 q.reason.toNat] else []) ++
  (if back && ran then [mk 0x15 0] else []) ++
  (if p.live && entered then [mk (if halt then 0x17 else 0x14) cause.toNat] else []) ++
  (if p.live && !q.live then [mk 0x16 0] else [])

/-- The path whose instruction a step's choice names. -/
def chosenPath (c : Choice) (gid : Nat) : Nat :=
  match c with
  | .issue w => if w.gid = gid then w.path else 0
  | _ => 0

/-- The records of the regions that completed in a step, each of the path that goes on at the join; a region whose lanes
have all exited has none, and the path whose instruction completed it stands for it (log entry 30). -/
def fuseRecords (g g' : Group) (by_ : Nat) : List TrRecord :=
  let gone := g.regions.filter (fun r => !g'.regions.any (fun x => x.ix == r.ix && x.pc == r.pc && x.lanes == r.lanes))
  gone.map (fun r =>
    let k := ((List.range 8).filter (fun k =>
      (g'.path k).live && (g'.path k).mask &&& r.lanes != 0 && (g'.path k).pc == r.pc)).head?.getD by_
    { typ := 0x11, path := k, pc := r.pc, mask := (g'.path k).mask, inH := (g'.path k).frame.inH, data := r.pc.toNat })

/-- The trace of one group in a step. -/
def traceGroup (before : State) (c : Choice) (i : Option Instr) (s : State) (g : Group) : State :=
  let g' := s.grp g.gid
  let ctx := before.ctxOf g.pasid
  if g' = g || g'.gid ≠ g.gid || (g'.restarts && !g.restarts) || !before.traced ctx g (g.regs.tron || g'.regs.tron) then s
  else
    let detail := before.traceDetail ctx g
    let rs := (List.range 8).flatMap (fun k => pathRecords before detail g g' (choiceAt c i g.gid k) k)
    (rs ++ fuseRecords g g' (chosenPath c g.gid)).foldl (trWrite g detail) s

/-- The trace of a step: of each group that was in a record, the records that its change gives. -/
def trace (before : State) (c : Choice) (i : Option Instr) (s : State) : State :=
  if before.ctxs.any (fun x => x.image != 0 && nbit (x.trField 59 1) 0) then
    before.groups.foldl (traceGroup before c i) s
  else s

end Sys2Proof.Machine
end

