-- ==== Sys2Proof/Machine/Agenda.lean ====
section
/-! DEFINITION. What surrounds a step's choice: the work that takes place with it, the image's counters and
trace, and the free choice that is made where none stands on the agenda (log entry 1). -/

namespace Sys2Proof.Machine

/-! ### Images kept up to date (R412, R416, R422) -/

/-- Paths of a context with STOP or PEND set (R412). -/
def State.stoppedPaths (s : State) (pasid : Nat) : Nat :=
  ((s.groups.filter (fun g => g.pasid == pasid)).map (fun g => (g.live.filter (fun k => (g.path k).stopped)).length)).sum

/-- STOPPED written in the headers of the contexts whose count a step has changed. -/
def writeStopped (before s : State) : State :=
  s.ctxs.foldl (fun s c =>
    let n := s.stoppedPaths c.pasid
    if n = before.stoppedPaths c.pasid then s else s.imageWrite (c.on.headD 0) c.pasid 36 (leBytes 4 n)) s

/-- The words of four bytes in which two lists differ, with their offsets and the new bytes. -/
def wordDiff : Nat → List Byte → List Byte → List (Nat × List Byte)
  | o, a :: b :: c :: d :: r, a' :: b' :: c' :: d' :: r' =>
    (if a = a' ∧ b = b' ∧ c = c' ∧ d = d' then [] else [(o, [a', b', c', d'])]) ++ wordDiff (o + 4) r r'
  | o, _, new => if new.isEmpty then [] else [(o, new)]

/-- The words in which two register files that stand at an offset differ, with the new values. -/
def fileDiff (o : Nat) (old new : Sparse Word) : List (Nat × List Byte) :=
  (old ++ new).filterMap (fun x =>
    if spGet 0 old x.1 = spGet 0 new x.1 then none else some (o + 4 * x.1, leBytes 4 (spGet 0 new x.1).toNat))

/-- The slot of a group after a step, while the image holds its record state: what has changed is written there, a result,
an event or a counter of an operation in flight (R416), or what a debug request has made of a path (R423); and register
lines too where a FLUSH has dropped the group's own. -/
def writeSlot (before : State) (s : State) (g : Group) : State :=
  let g0 := before.grp g.gid
  let out := g.place.isNone && g0.place.isNone
  if g0.gid ≠ g.gid || g0 = g || !(out || g.flushed && g0.flushed) then s
  else
    let clk := if out then 0 else (s.dieOf g.die).clk
    let parts := ((g0.recordParts clk s.tick).zip (g.recordParts clk s.tick)).flatMap (fun x => wordDiff x.2.1 x.1.2 x.2.2)
    let lines := if g.flushed && g0.flushed then
        fileDiff 0 g0.v g.v ++ fileDiff 0x20000 g0.s g.s
      else []
    s.writeParts g (parts ++ lines)

/-- The images after a step. -/
def writeImages (before s : State) : State :=
  if s.ctxs.all (fun c => c.image == 0) then s else s.groups.foldl (writeSlot before) (writeStopped before s)

/-! ### The work that goes with a step -/

/-- Whether a path has begun a `tasknew` or a `taskget` since an earlier state: they reach the headstock in the order of the
issues (R320, R323). -/
def Group.begins (g old : Group) (pix : Nat) : Bool :=
  let kind := fun (g : Group) => (g.path pix).wait.map (fun (x : Wait) => x.kind)
  kind g != kind old &&
  match kind g with
  | some (.accept _ _) => true
  | some .task => true
  | _ => false

/-- The die's record of its latest issue, by which the issues of a clk keep their order (R77). -/
def noteIssue (before : State) (c : Choice) (s : State) : State :=
  match c with
  | .issue w =>
    let g := s.grp w.gid
    match g.place with
    | some pl =>
      if g.issues = (before.grp w.gid).issues && !g.begins (before.grp w.gid) w.path then s
      else s.updDie pl.die (fun d => { d with issueClk := d.clk + 1, issueKey := issueKey pl w.path })
    | none => s
  | _ => s

/-- What takes place with a step after its choice: barriers that became whole complete (R254), engines run ahead
(R162, R189, R263, R380), held faults that no path can take any more are reported (R190), allocations are freed (R34),
register caches give up lines (R35), GROUPS and the records that are due are written (R274, R326, R352), images are kept,
and trace is written. -/
def aftermath (before : State) (c : Choice) (i : Option Instr) (s : State) : State :=
  let s1 := s.settleAllBars.matrixAhead.drainsAhead.copiesAhead.orphans.freeDue.trimCaches
  noteIssue before c
    (trace before c i (writeImages before (writeCounts before s1.headFlush.keepRecords)))

/-! ### Reasons brought up to date (R340) -/

/-- Reasons of a hold that begins only when the instruction issues: a path that has not been chosen does not show them. -/
def beginReasons : List Nat := [9, 10, 11, 24, 25]

/-- The reason that a path shows in a state: that of its wait, or that for which its next instruction would not issue
now; 0 where it would. While its stall count runs, only a register line or a write that its instruction misses comes before
that (R340). -/
def State.showsNow (s : State) (g : Group) (pix : Nat) : BitVec 5 :=
  let p := g.path pix
  let clk := (s.dieOf g.die).clk
  if p.stat != PStat.run then p.reason
  else
    let s0 := (s.heldFor g.gid pix 0).updGrp g.gid (fun g => g.updPath pix (fun p => { p with earliest := min p.earliest clk }))
    let shown := fun (t : State) => if (t.grp g.gid).issues = g.issues then ((t.grp g.gid).path pix).reason else 0
    let r := match front s0 { gid := g.gid, path := pix } with
      | .done t => shown t
      | .run i t =>
        match exec i t with
        | .next t => shown t
        | _ => 0
    if beginReasons.contains r.toNat || (decide (clk < p.earliest) && r != 13 && r != 2) then 0 else r

/-- The state before an event: a sample finds the reasons of its partition's paths as they stand in its clk. -/
def State.shown (s : State) (i : Instr) : State :=
  match i with
  | .shavingsSample e =>
    let here := fun (g : Group) => match g.place with
      | some pl => pl.die == e.die && pl.core == e.core && pl.part == e.part
      | none => false
    { s with groups := updBy here (fun g =>
        { g with paths := pathIxs.map (fun k =>
          if (g.path k).live then { g.path k with reason := s.showsNow g k } else g.path k) }) s.groups }
  | _ => s

/-- An outcome with its aftermath. -/
def after (before : State) (c : Choice) (i : Option Instr) (r : Host.Outcome State Fault Refusal) :
    Host.Outcome State Fault Refusal :=
  match r with
  | .next s => .next (aftermath before c i s)
  | .fault f => .fault f
  | .refused x => .refused x

/-! ### The free choice -/

/-- Whether a row of the opcode table is an event that may take place by itself. A debug request takes place only
at the kick that serves it (R421), and instructions and drain words run where they are fetched. -/
def isEvent (i : Instr) : Bool :=
  match i with
  | .sleepExpiry _ => true
  | .impreciseFaultEntry _ => true
  | .loadComplete _ _ _ => true
  | .storeComplete _ _ _ => true
  | .atomicComplete _ _ _ => true
  | .scratchpadAccessComplete _ _ _ => true
  | .peerstArrival _ _ _ => true
  | .registerLineFill _ _ => true
  | .matrixOpComplete _ => true
  | .drainRow _ => true
  | .drainComplete _ => true
  | .tceCopy _ _ _ => true
  | .tceCopyComplete _ _ => true
  | .restTableWake _ => true
  | .waitTimeout _ => true
  | .promotion _ => true
  | .blockDispatch _ _ _ => true
  | .groupRecordFree _ => true
  | .childHeaderCheck _ _ => true
  | .spawnxCountRead _ _ => true
  | .taskAccept _ => true
  | .tasksyncCopy _ _ => true
  | .replayHoldRelease _ => true
  | .replayHoldTimeout _ => true
  | .shavingsSample _ => true
  | .pageWalk _ _ _ _ _ _ => true
  | .atsTranslationResponse _ _ _ => true
  | .pageMigration _ _ => true
  | .remoteAccess _ _ _ => true
  | .queueNop _ _ => true
  | .launch _ _ => true
  | .signal _ _ => true
  | .waitword _ _ => true
  | .waitwordComplete _ => true
  | .copy _ _ => true
  | .copyCommandComplete _ => true
  | .timestamp _ _ => true
  | .kick _ _ => true
  | .headstockWake _ => true
  | .shootdown _ _ => true
  | .shootdownComplete _ => true
  | .atsInvalidate _ _ _ => true
  | .pasidTeardown _ _ => true
  | .teardownComplete _ => true
  | .hostRegisterWrite _ _ => true
  | .sliceStopRequest _ _ => true
  | .groupPreempt _ => true
  | .scratchpadSave _ _ _ _ _ => true
  | .contextSwitchComplete _ _ => true
  | .contextSwitchIn _ _ => true
  | .groupResume _ _ => true
  | .powerUp => true
  | .dieReset _ => true
  | .recoveryImage _ _ => true
  | .measurementExtend _ _ => true
  | .quote _ => true
  | .frequencyStep _ _ => true
  | .correctedError _ _ => true
  | .uncorrectableError _ _ _ => true
  | .pageRequestResponse _ _ _ _ => true
  | .grainRingControlWrite _ _ _ => true
  | .instructionFetch _ => true
  | .hostMemoryAccess _ _ _ => true
  | .linkTraining _ _ => true
  | .fuseProgramming _ => true
  | .headstockGating _ _ => true
  | _ => false

/-- Whether a free choice can be carried out. -/
def allowed (s : State) (c : Choice) : Bool :=
  match c with
  | .issue _ => true
  | .event i => isEvent i
  | .drainWord e => (drainFront s e).isSome

/-- The next choice of a state: the agenda's first, or a free one where the agenda is empty; none where the free
choice cannot be carried out, and time alone passes. -/
def State.nextChoice (s : State) : Option (Choice × List Choice) :=
  match s.agenda with
  | c :: rest => some (c, rest)
  | [] => if allowed s (Config.nextChoice s.tick) then some (Config.nextChoice s.tick, []) else none

end Sys2Proof.Machine
end

