-- ==== Sys2Proof/Machine/Step.lean ====
section
/-! DEFINITION. One step of the machine: time passes, and one choice is carried out: a path issues, an
event takes place, or a drain engine runs one word. -/

namespace Sys2Proof.Machine

/-- One choice carried out. A path that a stop, a trap, a fault or a missing packet keeps from issuing
takes that instead, and an engine that runs no word does nothing. -/
def runChoice (c : Choice) (s : State) : Host.Outcome State Fault Refusal :=
  match c with
  | .issue w =>
    match front s w with
    | .done s' => after s c none (.next s')
    | .run i s' => after s c (some i) (exec i s')
  | .event i => after s c none (exec i (s.shown i))
  | .drainWord e =>
    match drainFront s e with
    | some (i, s') => after s c none (exec i s')
    | none => after s c none (.next s)

/-- One step: time passes, the peer stores that are due arrive, and the next choice is carried out. -/
def step (s : State) : Host.Outcome State Fault Refusal :=
  match s.nextChoice with
  | some (c, rest) => runChoice c { s.passTime.arriveDue with agenda := rest }
  | none => .next s.passTime.arriveDue

/-- The state in which `step` runs a word of `nbits` bits next: a 96-bit instruction of a placed group,
a drain word of a placed drain, or a queue command. -/
def State.withFetchWord (s : State) (nbits w : Nat) : State :=
  match nbits with
  | 32 => s.placeDrain w
  | 512 => s.placeCommand w
  | _ => s.placeWord w

end Sys2Proof.Machine
end

