-- ==== Sys2Proof/Safety.lean ====
section
/-! DEFINITION. What a safe run is, in the terms that statements use: the canonical form of memory, which
every step keeps; what an instruction reads when it issues; and when nothing stands between an instruction
and its own effect. -/

namespace Sys2Proof.Machine

/-- The canonical form of module memory, host memory and remote memory. -/
def State.memWf (s : State) : Bool :=
  Memory.wf s.mem && Memory.wf s.hostMem && Memory.wf s.remoteMem

/-- Whether the module holds a group of an identity. -/
def State.has (s : State) (gid : Nat) : Bool := s.groups.any (fun g => g.gid == gid)

/-- What an instruction of the current path reads when it issues: its group as it stands, with ASTAT as it was
before the clk (R114), Active() (R14), the clocks, and the clk in which its result is finished (R334). -/
def State.view (s : State) (i : Instr) (h : Hdr) : Env :=
  let g := s.grp s.cur.gid
  let clk := (s.dieOf g.die).clk
  { s := s, g := g.seen clk, pix := s.cur.path, act := g.active s.cur.path h,
    clk := BitVec.ofNat 64 clk, rtime := BitVec.ofNat 64 s.rtime, mix := [], fin := clk + latency i }

/-- Whether nothing stands between an instruction of the current path and its own effect: the word's checks
hold (R52), a privileged one runs in a privileged context (R71), its matrix combination and its register blocks exist
(R159, R160), the register lines that it names are in the register cache (R35), no register that it reads is poisoned (R409) or unfinished (R49), and it reads no
clock that the grain ring records or replays (R80, R272). -/
def State.clear (s : State) (i : Instr) (h : Hdr) : Bool :=
  let g := s.grp s.cur.gid
  s.has s.cur.gid && (check i).isNone && (!privInstr i || (s.ctxOf g.pasid).priv) &&
  !illegalMma i && (g.active s.cur.path h == 0 || !g.blockPast i) && (s.missingLines i).isEmpty &&
  (g.readRegs i h).all (fun r => !g.poisonLines.contains (poisonKey r.2)) &&
  (g.sbHits i h (g.unfinished s.cur.path (s.dieOf g.die).clk)).isEmpty &&
  !(grainOn s g && (readsSr i 0x18 || readsSr i 0x19))

end Sys2Proof.Machine

namespace Sys2Proof.Stated

open Machine

/-! ### Words that the statements share -/

/-- What the current path's instruction reads when it issues with nothing in its way: the state with its register
lines used, its group, its lanes and the clocks. -/
def reads (s : State) (i : Instr) (h : Hdr) : Env := (s.touch i).view i h

/-- The instruction completes: its group becomes `f` of what it was, and its path goes on sequentially. -/
def Runs (i : Instr) (h : Hdr) (c : Operand) (s : State) (f : Group → Group) : Prop :=
  exec i s = .next (advance i h c (reads s i h) (s.touch i) ((s.touch i).updGrp s.cur.gid f))

/-- The instruction completes and has set its path table itself: its group becomes `f` of what it was. -/
def Jumps (i : Instr) (h : Hdr) (c : Operand) (s : State) (f : Group → Group) : Prop :=
  exec i s = .next (jumped i h c (reads s i h) (s.touch i) ((s.touch i).updGrp s.cur.gid f))

/-- The instruction issues: its own effect on the state is `f`, and its path goes on sequentially. -/
def Issues (i : Instr) (h : Hdr) (c : Operand) (s : State) (f : State → State) : Prop :=
  exec i s = .next (advance i h c (reads s i h) (s.touch i) (f (s.touch i)))

/-- Whether a memory instruction may issue: its counter is below 63, and no `ldacq` of its path is unfinished (R50,
R246). -/
def Free (e : Env) (c : Ctr) : Prop := e.g.ctr c < 63 ∧ (e.act = 0 ∨ e.g.acquiring e.pix = false)

/-- The elements of lanes, each with its address and its operands. -/
def elements (ls : List Nat) (at_ : Nat → Nat) (nib : Nat → Option Bool) (val : Nat → DWord × DWord) : List Elem :=
  ls.map (fun l => { lane := l, addr := at_ l, nib := nib l, val := (val l).1, val2 := (val l).2, ver := none })

/-- The lanes of a list that fail a check. -/
def failing (ls : List Nat) (p : Nat → Bool) : Mask := maskOf (fun l => ls.contains l && p l)

/-- The event takes place: the state becomes `t`. -/
def Becomes (i : Instr) (s t : State) : Prop := exec i s = .next t

/-- The instruction takes a precise trap, with no effect of its own (R400); where the trap is that of a module that
cannot be reached, its record is written (R395). -/
def Traps (i : Instr) (s : State) (t : Trap) : Prop :=
  exec i s = .next ((s.noteFault (s.grp s.cur.gid) t.faddr.toNat t.cause).precise s.cur.gid s.cur.path t)

/-- In every state in which nothing stands in the instruction's way, each lane of Active() has a result of which
`P` holds; the destination and its duplicate take the results, and where the destination is ASTAT and does not take
the value, ILLEGAL_FIELD is raised instead (R47, R77, R111). -/
def Results (i : Instr) (h : Hdr) (d c : Operand) (wide : Bool) (P : Env → Nat → DWord → Prop) : Prop :=
  ∀ s : State, s.clear i h = true →
    ∃ f : Nat → DWord, (∀ l, (reads s i h).act.getLsbD l = true → P (reads s i h) l (f l)) ∧
      (if (reads s i h).act ≠ 0 ∧ srValueBad d (f (lowest (reads s i h).act)) = true
       then Traps i s { cause := .illegalField, lmask := (reads s i h).act }
       else Runs i h c s (fun g => g.writeDup (reads s i h).pix (reads s i h).act wide h d c f))

/-- As `Results`, for an instruction whose lanes raise events: if an event of a lane has its enable set in ASTAT, the
enabled cause of lowest number traps with the lanes that raised it and nothing is written; otherwise the destination
takes the results and ASTAT the events (R111, R112). -/
def Computes (i : Instr) (h : Hdr) (d c : Operand) (wide : Bool) (P : Env → Nat → DWord → Events → Prop) : Prop :=
  ∀ s : State, s.clear i h = true →
    ∃ (f : Nat → DWord) (ev : Nat → Events),
      (∀ l, (reads s i h).act.getLsbD l = true → P (reads s i h) l (f l) (ev l)) ∧
      match trapOf (reads s i h).g.regs.astat (eventsOf (reads s i h).act ev) with
      | some (cause, bit) =>
        Traps i s { cause := cause, lmask := maskOf (fun l => (reads s i h).act.getLsbD l && ev l &&& bit != 0) }
      | none =>
        if (reads s i h).act ≠ 0 ∧ srValueBad d (f (lowest (reads s i h).act)) = true
        then Traps i s { cause := .illegalField, lmask := (reads s i h).act }
        else Runs i h c s (fun g =>
          (g.writeDup (reads s i h).pix (reads s i h).act wide h d c f).raise (reads s i h).fin
            (eventsOf (reads s i h).act ev))

/-- A value of an integer format as a register, or a pair, holds it (R103): 64 bits of it in a 64-bit format, and
otherwise 32 bits, with a signed value extended by its sign. -/
def Holds (f : BitVec 4) (v : DWord) (x : Int) : Prop :=
  if wideFmt f then v = BitVec.ofInt 64 x else v.setWidth 32 = BitVec.ofInt 32 x

/-- The value of a format that an exact result `y` comes to (R121): with `.sat` the nearest one, else the one that is
`y` modulo 2^w. -/
def Fits (f : BitVec 4) (sat : Bool) (y : Int) (v : DWord) : Prop :=
  ∃ x : Int, intLo f.toNat ≤ x ∧ x ≤ intHi f.toNat ∧ Holds f v x ∧
    (if sat then x = max (intLo f.toNat) (min (intHi f.toNat) y) else (2 ^ fmtBits f : Int) ∣ x - y)

/-- "Wraps" (R121): the value that the exact result comes to, and OV where it lies outside the format. -/
def Wraps (f : BitVec 4) (sat : Bool) (y : Int) (v : DWord) (ev : Events) : Prop :=
  Fits f sat y v ∧ ev = if y < intLo f.toNat ∨ intHi f.toNat < y then evOV else 0

/-- The sum over `n` fields of `k` bits, read in a format: field i is bits [k·i+k−1:k·i] (R122). -/
def dotOf (k : Nat) (f : BitVec 4) (a b : Word) : Nat → Int
  | 0 => 0
  | n + 1 =>
    dotOf k f a b n +
      intOf f.toNat (a.extractLsb' (k * n) k).toNat * intOf f.toNat (b.extractLsb' (k * n) k).toNat

/-- A 32-bit result given bit by bit. -/
def Bits (v : DWord) (f : Nat → Bool) : Prop := ∀ j, j < 32 → v.getLsbD j = f j

/-- A result that is a truth value: 1 or 0 (R126). -/
def Truth (v : DWord) (p : Prop) : Prop := (p → v.setWidth 32 = (1 : Word)) ∧ (¬p → v.setWidth 32 = (0 : Word))

/-- What lane `l` reads from lane `k` of a register in a lane exchange: lane k's value where that lane is in Active(),
and its own otherwise (R129). -/
def exchanged (e : Env) (wide : Bool) (o : Operand) (l k : Nat) : DWord :=
  if e.act.getLsbD k then e.read wide o k else e.read wide o l

/-- The lane that an index names for a reading lane: the lane of that number mod 32, or in compatibility mode the lane
of that number mod 16 in the reading lane's half (R129). -/
def namedLane (compat : Bool) (l ix : Nat) : Nat := if compat then 16 * (l / 16) + ix % 16 else ix % 32

/-- A mask of lanes as lane exchanges write it: bit i for lane i, or in compatibility mode bit i for lane 16h + i of
the issuing half h and zeros above bit 15 (R130). -/
def MaskFor (e : Env) (v : DWord) (m : Nat → Bool) : Prop :=
  Bits v (fun j =>
    if e.launch.hdr.compat then decide (j < 16) && m (16 * (lowest e.act / 16) + j) else m j)

/-- A floating value as a register of its format holds it (R103). -/
def Image (f : BitVec 4) (v : DWord) (x : Nat) : Prop := v = BitVec.ofNat 64 (x % 2 ^ fmtBits f)

/-- A floating result (R106, R107, R110): the exact value, with the events of its special cases, rounded once, then
saturated if asked, as its format encodes it; the events of the rounding beside them. -/
def Rounds (f : BitVec 4) (mode : Nat) (sat : Bool) (x : FNum × Events) (v : DWord) (ev : Events) : Prop :=
  ∃ r : FNum × Events, r = roundTo (ffmt f.toNat) x.1 mode ∧
    Image f v (fEncode (ffmt f.toNat) (if sat then satF (ffmt f.toNat) r.1 else r.1)) ∧ ev = r.2 ||| x.2

/-- A result that its rule has already brought to FP32 (R147), saturated if asked, with its events. -/
def Finished (sat : Bool) (x : FNum × Events) (v : DWord) (ev : Events) : Prop :=
  Image 9 v (fEncode (ffmt 9) (if sat then satF (ffmt 9) x.1 else x.1)) ∧ ev = x.2

/-- A source converted from SF to DF (R116, R117): its pattern in SF, or, for an immediate where SF is a floating
format, the exact value of its integer (R43). -/
def converted (e : Env) (sf df : BitVec 4) (rnd : BitVec 3) (sat : Bool) (o : Operand) (l : Nat) : Nat × Events :=
  match o with
  | .imm k =>
    if sf.toNat < 8 then convert sf.toNat df.toNat (e.mode rnd) sat (e.read (wideFmt sf) o l).toNat
    else if df.toNat < 8 then fToInt df.toNat (e.mode rnd) sat (FNum.ofInt k.toInt 0 false)
    else fResult (ffmt df.toNat) (e.mode rnd) sat (FNum.ofInt k.toInt 0 false)
  | _ => convert sf.toNat df.toNat (e.mode rnd) sat ((e.read (wideFmt sf) o l).toNat % 2 ^ fmtBits sf)

/-- A matrix instruction posts its operation, or one that is complete at once where Active() is empty (R158). -/
def Posts (i : Instr) (h : Hdr) (c : Operand) (s : State) (m : MatOp) : Prop :=
  Issues i h c s (fun s1 => s1.addOp s.cur.gid s.cur.path .mx (reads s i h).act []
    ((reads s i h).g.depsOf s.cur.path 0 false) 0 false 0 ((reads s i h).act == 0)
    (.matrix (if (reads s i h).act = 0 then .none else m)))

/-- A drain word, run by the current engine on the row that it holds (R179, R183): in every column register `d` takes a
result of which `P` holds with the column's events; its other registers stay, the events gather in the flags, the next
word follows, and nothing else changes. -/
def Drains (i : Instr) (d : BitVec 3) (P : Engine → Nat → Word → Events → Prop) : Prop :=
  ∀ (s : State) (en : Engine), s.engine s.eng = some en → en.active = true →
    ∃ (t : State) (en' : Engine) (ev : Nat → Events), exec i s = .next t ∧
      { t with engines := s.engines } = s ∧ (∀ r, r ≠ s.eng → t.engine r = s.engine r) ∧ t.engine s.eng = some en' ∧
      { en' with d := en.d, flags := en.flags, dpc := en.dpc } = en ∧ en'.dpc = en.dpc + 1 ∧
      (∀ j, j < 32 → P en j (en'.reg j d.toNat) (ev j) ∧
        ∀ k, k < 8 → k ≠ d.toNat → en'.reg j k = en.reg j k) ∧
      en'.flags = lanes.foldl (fun f j => f ||| ev j) en.flags

end Sys2Proof.Stated
end

