-- ==== Sys2Proof/Certificates/Slice0/Obligations.lean ====
section
/-! DEFINITION. The statements for the provers, made from the numbered rules of the spec. -/

open Sys2Proof Sys2Proof.Machine Sys2Proof.Stated

/-! ### Words and steps (R38 to R52, R68 to R75, R181 to R185, R376) -/

/-- Worked words of the spec, each written out there bit by bit from its fields, and what they stand for (R39, R41, R44,
R181). -/
def Obligations.WordsDecodeAsWritten : Prop :=
  let h : Hdr := { gn := false, gp := 7, stall := 0, yield := false, dup := 0 }
  decode 0x202803000E01400000001000 = .ok (.and
    { h := { gn := true, gp := 2, stall := 4, yield := false, dup := 0 }, d := .v 12, a := .v 3, b := .q 5, x := 0 }) ∧
  decode 0x219C01C00B01400000000000 = .ok (.shl { h := h, d := .v 7, a := .v 2, b := .imm 5, x := 0 }) ∧
  decode 0x019C00300C00000000120000 = .ok (.loop { h := h, d := .v 0, a := .imm 3, b := .v 0, k := 72 }) ∧
  decode 0x801C008003022C0EE4284000 = .ok (.ldGbl
    { h := h, d := .v 2, a := .v 0, b := .imm 8, c := .p 3, mf := 11, rf := 9, rnd := 0, sat := false, scope := 5,
      sk := false, ord := 0, prb := true }) ∧
  decode 0xA15C00000000000011400000 = .ok (.waitc
    { h := h, d := .v 0, a := .v 0, b := .v 0, c := .v 0, n := 1, ctr := 0, scope := 5, sk := false, low := 0 }) ∧
  decode 0xC05D04D05105800338004000 = .ok (.mmloop
    { h := h, d := .s 19, a := .s 20, b := .s 22, c := .v 0, af := 12, bf := 14, td := 0, spr := 0, sub := 1 }) ∧
  decode 0xE09D01000000000000408000 = .ok (.csrrd { h := h, d := .s 4, a := .v 0, b := .v 0, k := 0x102 }) ∧
  decodeDrain 0x23080000 = some (.dfma { d := 3, a := 0, b := 8, r := 0, s := false }) ∧
  decodeDrain 0x9034B040 = some (.dst
    { d := 0, v := 3, o := 4, f := 11, r := 0, s := false, p := 1, x := false, g := false }) ∧
  word96Of [0x00, 0x10, 0x00, 0x00, 0x00, 0x40, 0x01, 0x0E, 0x00, 0x03, 0x28, 0x20] = 0x202803000E01400000001000

/-- Decoding and encoding agree on 96-bit words: a well-formed instruction is what its word decodes to, with every
operand and field, and a word that decodes is the word of its instruction, so that two words never mean the same. -/
def Obligations.InstructionWordsRoundTrip : Prop :=
  (∀ (i : Instr) (w : Word96), encode i = some w → wellFormed i = true → decode w = .ok i) ∧
  (∀ (w : Word96) (i : Instr), decode w = .ok i → encode i = some w ∧ wellFormed i = true)

/-- Decoding and encoding agree on drain words and on queue commands, in both directions (R181 to R185, R376, R377). -/
def Obligations.DrainWordsAndCommandsRoundTrip : Prop :=
  (∀ (i : Instr) (w : Word), encodeDrain i = some w → wellFormed i = true → decodeDrain w = some i) ∧
  (∀ (w : Word) (i : Instr), decodeDrain w = some i → encodeDrain i = some w ∧ wellFormed i = true) ∧
  (∀ (q : QRef) (w : BitVec 512) (i : Instr), decodeCommand q w = some i →
    encodeCommand i = some w ∧ wellFormed i = true) ∧
  (∀ (q : QRef) (c : LaunchCmd), wellFormed (.launch q c) = true →
    ∃ w, encodeCommand (.launch q c) = some w ∧ decodeCommand q w = some (.launch q c)) ∧
  (∀ (q : QRef) (c : WordCmd) (f : QRef → WordCmd → Instr),
    f ∈ [Instr.signal, Instr.waitword, Instr.copy, Instr.timestamp] → wellFormed (f q c) = true →
    ∃ w, encodeCommand (f q c) = some w ∧ decodeCommand q w = some (f q c))

/-- The traps of words (R42, R52, R75): a member that the map leaves unassigned is ILLEGAL_OPCODE whatever its other
fields; in an assigned one, a set bit of H[6:0], a must-be-zero bit of a specifier, the reserved guard or DUP 11 is
ILLEGAL_FIELD; and no word raises another cause of decoding than these and ILLEGAL_OPERAND. -/
def Obligations.IllegalWordsAreRefused : Prop :=
  let members : List Nat := [13, 18, 18, 13, 6, 12, 10, 6, 14, 22, 12, 3, 6, 8, 8, 0]
  ∀ w : Word96,
    let family := w.toNat / 2 ^ 92
    let member := w.toNat / 2 ^ 86 % 64
    let spec := fun k => w.toNat / 2 ^ k % 2 ^ 12
    let bad := fun n : Nat => (n / 2 ^ 8 = 0x8 ∧ n % 2 ^ 8 / 2 ^ 5 ≠ 0) ∨ (n / 2 ^ 8 = 0x9 ∧ n % 2 ^ 8 / 2 ^ 2 ≠ 0) ∨
      (n / 2 ^ 8 = 0xB ∧ n % 2 ^ 8 / 2 ^ 3 ≠ 0)
    (getAt 0 members family ≤ member ↔ decode w = .error .illegalOpcode) ∧
    (member < getAt 0 members family →
      w.toNat % 2 ^ 7 ≠ 0 ∨ bad (spec 70) ∨ bad (spec 58) ∨ bad (spec 46) ∨ w.toNat / 2 ^ 82 % 16 = 15 ∨
        w.toNat / 2 ^ 7 % 4 = 3 → decode w = .error .illegalField) ∧
    (∀ c, decode w = .error c → c = .illegalOpcode ∨ c = .illegalField ∨ c = .illegalOperand)

/-- A step runs the decoded instruction. Time passes and due peer stores arrive; then the next choice is carried out (log
entries 1 and 2): a path that may issue, with no due fault, halt, step or comparator in its way, runs the instruction
that the 12 bytes at its PC decode to, from its earliest clk on and in its
turn among the issues of that clk, or traps with the cause of its word; an event takes
place, a sample of the shavings after the reasons of its partition's paths are brought up to date (`shown`); and a drain engine runs the word at its place in its slot. `after` adds to the state that results the work that goes
with the step: barriers that became whole, engines, images and trace. -/
def Obligations.StepRunsTheDecodedInstruction : Prop :=
  ∀ (s : State) (c : Choice) (rest : List Choice), s.nextChoice = some (c, rest) →
    let s1 := { s.passTime.arriveDue with agenda := rest }
    (∀ (w : Who) (pl : Place) (bytes : List Byte), c = .issue w →
      let s2 := { s1 with cur := w }
      let g := s2.grp w.gid
      let p := g.path w.path
      s2.mayIssue w = true → g.dueFault w.path = none → p.haltPend = false →
      (p.stepping = true → p.exempt = true) → comparator (s2.ctxOf g.pasid) p = none → g.place = some pl →
      s2.fetched g pl p.pc.toNat = .ok bytes →
      let s3 := (s2.passClk g.die (p.earliest - (s2.dieOf g.die).clk)).inTurn pl w.path
      (∀ i, decode (word96Of bytes) = .ok i → step s = after s1 c (some i) (exec i s3)) ∧
      (∀ cause, decode (word96Of bytes) = .error cause → step s = after s1 c none
        (.next (s3.precise w.gid w.path { cause := cause, lmask := g.active w.path (hdrOf (word96Of bytes)) })))) ∧
    (∀ i, c = .event i → step s = after s1 c none (exec i (s1.shown i))) ∧
    (∀ (e : EngRef) (en : Engine) (i : Instr), c = .drainWord e → s1.engine e = some en → en.active = true →
      decodeDrain ((s1.grp en.gid).drainWord en.p en.dpc) = some i →
      step s = after s1 c none (exec i { s1 with eng := e }))

/-- The state after reset: CLK 0, the first LCHID 1, FCEIL 27, the die registers that have a reset value at 0, semaphores
0, HCPTEX 0, and no queue, launch or group; memory has its canonical form. -/
def Obligations.ResetState : Prop :=
  let s := State.reset
  (∀ d, d < 4 → (s.dieOf d).clk = 0 ∧ (s.dieOf d).lchNext = 1 ∧ (s.dieOf d).fceil = 27 ∧ (s.dieOf d).shvctl = 0 ∧
    (s.dieOf d).sdaddr = 0 ∧ (s.dieOf d).sdctl = 0 ∧ (s.dieOf d).tdctl = 0 ∧ (s.dieOf d).ecnt = 0 ∧ (s.dieOf d).kdrop = 0) ∧
  (∀ n, n < 1024 → spGet 0 s.sems n = 0) ∧ s.module.otbase = 0 ∧ s.module.hcptex = 0 ∧
  s.groups = [] ∧ s.launches = [] ∧ s.queues = [] ∧ s.memWf = true

/-- Every step keeps the canonical form of module, host and remote memory. -/
def Obligations.EveryStepKeepsMemoryCanonical : Prop :=
  ∀ s t : State, s.memWf = true → step s = .next t → t.memWf = true

/-! ### Operands and registers (R11, R40 to R49, R76 to R81) -/

/-- What each operand form reads (R11, R43, R77, R78, R80): a register, or for 64 bits the even register's word below the
odd one's; an immediate extended by its sign; a predicate as 1 or 0, P7 as 1; bits [31:0] of a 64-bit special register
in a 32-bit position. With the scoreboard OFF each lane of an unfinished S register reads it as it is or as it was
(R49). The special registers that R79 gives a value by the place of the group, its path and its lanes (R26, R28, R30,
R79): lane and slice numbers, the path index, the group number, the block coordinates with x fastest, the launch, the
stage, the class and the die. -/
def Obligations.OperandsReadTheirForms : Prop :=
  (∀ (e : Env) (l : Nat), l < 32 →
     (∀ n : BitVec 10, e.rd (.v n) l = e.g.rdV n.toNat l ∧
       e.read true (.v n) l = e.g.rdV (n.toNat + 1) l ++ e.g.rdV n.toNat l) ∧
     (∀ n : BitVec 10, e.mix = [] → e.rd (.s n) l = e.g.rdS n.toNat ∧
       e.read true (.s n) l = e.g.rdS (n.toNat + 1) ++ e.g.rdS n.toNat) ∧
     (∀ n : BitVec 10, e.rd (.s n) l = e.g.rdS n.toNat ∨
       e.rd (.s n) l = (e.s.grp e.g.gid).rdS n.toNat ∨
       ∃ x ∈ e.mix, x.reg = .s n ∧ e.rd (.s n) l = getAt 0 x.old 0) ∧
     (∀ n : BitVec 5, e.rd (.q n) l = e.g.rdQ n.toNat l) ∧ (∀ n : BitVec 2, e.rd (.x n) l = e.g.rdX n.toNat l) ∧
     (∀ k : BitVec 10, e.rd (.imm k) l = k.signExtend 32 ∧ e.read true (.imm k) l = k.signExtend 64) ∧
     (∀ n : BitVec 3, e.rd (.p n) l = if n = 7 ∨ (spGet 0 e.g.p n.toNat).getLsbD l = true then 1 else 0) ∧
     (∀ n : BitVec 8, e.rd (.sr n) l = (e.read true (.sr n) l).setWidth 32)) ∧
  (∀ (e : Env) (l : Nat), l < 32 →
     let compat := e.launch.hdr.compat
     let grid := e.launch.grid
     (compat = false → e.sr 0x00 l = BitVec.ofNat 64 l ∧ e.sr 0x03 l = BitVec.ofNat 64 e.g.grpid) ∧
     (compat = true → e.sr 0x00 l = BitVec.ofNat 64 (l % 16) ∧ e.sr 0x03 l = BitVec.ofNat 64 (2 * e.g.grpid + l / 16)) ∧
     e.sr 0x01 l = BitVec.ofNat 64 (l / 4) ∧ e.sr 0x02 l = BitVec.ofNat 64 e.pix ∧
     (0 < grid.1 → 0 < grid.2.1 → e.g.block < grid.1 * grid.2.1 * grid.2.2 →
       ∃ x y z, x < grid.1 ∧ y < grid.2.1 ∧ z < grid.2.2 ∧ e.g.block = x + grid.1 * (y + grid.2.1 * z) ∧
         e.sr 0x04 l = BitVec.ofNat 64 x ∧ e.sr 0x05 l = BitVec.ofNat 64 y ∧ e.sr 0x06 l = BitVec.ofNat 64 z) ∧
     e.sr 0x07 l = BitVec.ofNat 64 e.g.lchid ∧ e.sr 0x08 l = e.g.regs.stage.setWidth 64 ∧
     e.sr 0x09 l = e.launch.cls.setWidth 64 ∧ e.sr 0x0B l = BitVec.ofNat 64 e.g.die)

/-- A per-lane write (R11, R77): in the lanes of Active() the register takes its lane's result, and for a pair the next
register its upper half; every other register and every other lane keeps its value, and so does everything else of the
group. Uniform and predicate writes (R40, R77, R78): an S register takes the result of the lowest lane of Active(),
once, and only where Active() is not empty; a predicate takes 1 in each lane of Active() whose 32-bit result is not
zero and 0 in the others, and keeps its other lanes; P7 is never written. DUP (R47): with 01 the lanes of Active() of
X[XP] take the result as well, and XP advances modulo 4; with 10 those of the Q entry that C names; a scalar result
goes to every one of those lanes; with 00, or where Active() is empty, nothing beyond the destination changes. -/
def Obligations.WritesReachTheirDestinations : Prop :=
  (∀ (g : Group) (pix : Nat) (act : Mask) (wide : Bool) (f : Nat → DWord) (m l : Nat), l < 32 →
     let onto := fun (n : Nat) (old : Word) =>
       if act.getLsbD l = true ∧ m = n then (f l).setWidth 32
       else if act.getLsbD l = true ∧ wide = true ∧ m = n + 1 then (f l).extractLsb' 32 32 else old
     (∀ n : BitVec 10, (g.write pix act wide (.v n) f).rdV m l = onto n.toNat (g.rdV m l) ∧
       { g.write pix act wide (.v n) f with v := g.v } = g) ∧
     (∀ n : BitVec 5, (g.write pix act wide (.q n) f).rdQ m l = onto n.toNat (g.rdQ m l) ∧
       { g.write pix act wide (.q n) f with q := g.q } = g) ∧
     (∀ n : BitVec 2, (g.write pix act wide (.x n) f).rdX m l = onto n.toNat (g.rdX m l) ∧
       { g.write pix act wide (.x n) f with x := g.x } = g)) ∧
  (∀ (g : Group) (pix : Nat) (act : Mask) (wide : Bool) (f : Nat → DWord) (m l : Nat), l < 32 →
     (∀ n : BitVec 10, act ≠ 0 → (g.write pix act wide (.s n) f).rdS m =
       if m = n.toNat then (f (lowest act)).setWidth 32
       else if wide = true ∧ m = n.toNat + 1 then (f (lowest act)).extractLsb' 32 32 else g.rdS m) ∧
     (∀ n : BitVec 10, { g.write pix act wide (.s n) f with s := g.s } = g) ∧
     (∀ d : Operand, g.write pix 0 wide d f = g) ∧
     (act ≠ 0 → act.getLsbD (lowest act) = true ∧ ∀ k, act.getLsbD k = true → lowest act ≤ k) ∧
     (∀ n : BitVec 3, n ≠ 7 → ((g.write pix act wide (.p n) f).rdP m).getLsbD l =
       if m = n.toNat ∧ act.getLsbD l = true then decide ((f l).setWidth 32 ≠ (0 : Word)) else (g.rdP m).getLsbD l) ∧
     (∀ n : BitVec 3, { g.write pix act wide (.p n) f with p := g.p } = g) ∧
     (g.write pix act wide (.p 7) f).rdP 7 = 0xFFFFFFFF) ∧
  (∀ (g : Group) (pix : Nat) (act : Mask) (wide : Bool) (h : Hdr) (d c : Operand) (f : Nat → DWord),
     let g1 := g.write pix act wide d f
     let g2 := g.writeDup pix act wide h d c f
     let val := fun l => match d with | .s _ => f (lowest act) | .sr _ => f (lowest act) | _ => f l
     (h.dup = 0 ∨ act = 0 → g2 = g1) ∧
     (h.dup = 1 → act ≠ 0 →
       g2.regs = { g1.regs with xp := g1.regs.xp + 1 } ∧
       (∀ m l, l < 32 → g2.rdX m l =
         if act.getLsbD l = true ∧ m = g1.regs.xp.toNat then (val l).setWidth 32 else g1.rdX m l) ∧
       { g2 with x := g1.x, regs := g1.regs } = g1) ∧
     (h.dup = 2 → act ≠ 0 → ∀ n : BitVec 10, c = .v n →
       (∀ m l, l < 32 → g2.rdQ m l = if act.getLsbD l = true ∧ m = n.toNat then (val l).setWidth 32 else g1.rdQ m l) ∧
       { g2 with q := g1.q } = g1))

/-- Writes of special registers (R81): EMASK changes only the bits of the path's own slices; ASTAT and TRAPVEC take the
value; the loop registers change only the path's own loop state, LOOPS and LOOPE by bits [56:0] and LOOPP by [2:0], and leave the
rest of the path and of the group. -/
def Obligations.SpecialRegisterWrites : Prop :=
  ∀ (g : Group) (pix : Nat) (v : DWord), pix < g.paths.length →
    (∀ l, l < 32 → (g.srWrite pix 0x10 v).regs.emask.getLsbD l =
      if (g.path pix).slices.getLsbD (l / 4) then v.getLsbD l else g.regs.emask.getLsbD l) ∧
    { (g.srWrite pix 0x10 v) with regs := { (g.srWrite pix 0x10 v).regs with emask := g.regs.emask } } = g ∧
    g.srWrite pix 0x11 v = { g with regs := { g.regs with astat := v.setWidth 32 } } ∧
    g.srWrite pix 0x30 v = { g with regs := { g.regs with trapvec := v } } ∧
    (let p := g.path pix
     (g.srWrite pix 0x21 v).path pix = { p with lp := { p.lp with loopc := v.setWidth 32 } } ∧
     (g.srWrite pix 0x22 v).path pix = { p with lp := { p.lp with loops := v.setWidth 57 } } ∧
     (g.srWrite pix 0x23 v).path pix = { p with lp := { p.lp with loope := v.setWidth 57 } } ∧
     (g.srWrite pix 0x24 v).path pix = { p with lp := { p.lp with loopp := v.setWidth 3 } }) ∧
    (∀ n, n ∈ [0x21, 0x22, 0x23, 0x24] → { g.srWrite pix n v with paths := g.paths } = g) ∧
    (∀ n k, k ≠ pix → (g.srWrite pix n v).path k = g.path k)

/-- The end of an instruction that goes on sequentially (R22, R45, R46, R91): nothing of the state changes but the group
that issued and its place in the age order; of the group, nothing but its path and join records, what its samples report
of the issue, and ASTAT as it was before this clk; and with no open region
the path is at the next instruction of R91, one more issued, and issues again no earlier than clk + 1 + STALL. -/
def Obligations.AdvanceChangesOnlyThePath : Prop :=
  ∀ (i : Instr) (h : Hdr) (c : Operand) (e : Env) (before s : State), s.has s.cur.gid = true →
    let t := advance i h c e before s
    let g := s.grp s.cur.gid
    let g' := t.grp s.cur.gid
    let clk := (s.dieOf (before.grp s.cur.gid).die).clk
    { t with groups := s.groups, nextPlace := s.nextPlace } = s ∧
    (∀ k, k ≠ s.cur.gid → t.grp k = s.grp k) ∧
    { g' with paths := g.paths, deferrals := g.deferrals, regions := g.regions, held := g.held, exited := g.exited,
              ops := g.ops, faults := g.faults, sb := g.sb, age := g.age, ended := g.ended, issues := g.issues,
              issuedClk := g.issuedClk, issuedPaths := g.issuedPaths,
              regs := { g'.regs with astatWas := g.regs.astatWas, astatClk := g.regs.astatClk } } = g ∧
    g'.issues = g.issues + 1 ∧ g'.issuedClk = clk + 1 ∧
    g'.ops.map (fun o => (o.id, o.ctr, o.done, o.todo, o.act)) = g.ops.map (fun o => (o.id, o.ctr, o.done, o.todo, o.act)) ∧
    (h.yield = false → g'.age = g.age) ∧
    (g.regions = [] → e.pix < g.paths.length →
      let p := g.path e.pix
      let p' := g'.path e.pix
      (p'.pc, p'.lp) = g.seqNext p.pc p.lp p.mask ∧ p'.mask = p.mask ∧ p'.slices = p.slices ∧ p'.stat = p.stat ∧
      p'.issued = p.issued + 1 ∧ p'.earliest = clk + 1 + h.stall.toNat ∧
      ∀ k, k ≠ e.pix → g'.path k = g.path k)

/-- The frame of the families 0x1 to 0x7 (R112, R120, R138), with no grain ring at work, whatever the outcome, trap
included: memory and everything else outside the group is unchanged but for time that ENFORCE lets pass and the path's
rest-table entries; a register changes only if the instruction names it as a destination, or DUP reaches it, and only in
Active() lanes; flags of ASTAT are only set; and RESTART, STAGE, TRON, tiles, codebooks, drain slots and the other groups
stay. -/
def Obligations.RegisterFamiliesFrame : Prop :=
  ∀ (i : Instr) (wd : Word96) (s t : State), encode i = some wd →
    1 ≤ (wd.extractLsb' 92 4).toNat → (wd.extractLsb' 92 4).toNat ≤ 7 →
    s.has s.cur.gid = true → grainOn s (s.grp s.cur.gid) = false → exec i s = .next t →
    let h := hdrOf wd
    let g := s.grp s.cur.gid
    let g' := t.grp s.cur.gid
    let act := g.active s.cur.path h
    let ds := (fixedDests i).flatMap regsOf
    { t with groups := s.groups, nextPlace := s.nextPlace, rest := s.rest, dies := s.dies, ctxs := s.ctxs } = s ∧
    (∀ k, k ≠ s.cur.gid → t.grp k = s.grp k) ∧
    (∀ (n : BitVec 10) (l : Nat), l < 32 → .v n ∉ ds ∨ act.getLsbD l = false → g'.rdV n.toNat l = g.rdV n.toNat l) ∧
    (∀ n : BitVec 10, .s n ∉ ds → g'.rdS n.toNat = g.rdS n.toNat) ∧
    (∀ (n : BitVec 5) (l : Nat), l < 32 → (.q n ∉ ds ∧ h.dup ≠ 2) ∨ act.getLsbD l = false →
      g'.rdQ n.toNat l = g.rdQ n.toNat l) ∧
    (∀ (n : BitVec 2) (l : Nat), l < 32 → (.x n ∉ ds ∧ h.dup ≠ 1) ∨ act.getLsbD l = false →
      g'.rdX n.toNat l = g.rdX n.toNat l) ∧
    (∀ (n : BitVec 3) (l : Nat), l < 32 → .p n ∉ ds ∨ act.getLsbD l = false →
      (g'.rdP n.toNat).getLsbD l = (g.rdP n.toNat).getLsbD l) ∧
    (.sr 0x10 ∉ ds → g'.regs.emask = g.regs.emask) ∧ (.sr 0x30 ∉ ds → g'.regs.trapvec = g.regs.trapvec) ∧
    (.sr 0x11 ∉ ds → g.regs.astat &&& ~~~g'.regs.astat = 0 ∧ g'.regs.astat >>> 8 = g.regs.astat >>> 8) ∧
    g'.regs.restart = g.regs.restart ∧ g'.regs.stage = g.regs.stage ∧ g'.regs.pendStage = g.regs.pendStage ∧
    g'.regs.tron = g.regs.tron ∧ (h.dup ≠ 1 → g'.regs.xp = g.regs.xp) ∧
    g'.tiles = g.tiles ∧ g'.slots = g.slots ∧ g'.drains = g.drains ∧ g'.stopped = g.stopped ∧
    (g.dueFault s.cur.path = none → g'.arrival = g.arrival) ∧
    g'.task = g.task ∧ g'.place = g.place

/-- A source that a fixed-latency producer of the same path has not finished (R49): in mode TRAP the reader raises
SCOREBOARD_UNDERSIZED with the specifier of the first such operand, and has no effect; in ENFORCE the path shows stall
reason 2, time passes until the producers have finished, and the instruction then issues as in any state with nothing
unfinished. A privileged instruction or register in a context that is not privileged raises PRIVILEGED, with no effect
(R42, R71): `ld.obj` and `st.obj`, and the reads and writes of TRAPVEC, at an issue or at a completion. -/
def Obligations.ScoreboardAndPrivilegeTraps : Prop :=
  (∀ (w : XF) (s : State) (o : Operand) (e : SbEntry) (r : List (Operand × SbEntry)),
     let g := s.grp s.cur.gid
     let i := Instr.add w
     s.has s.cur.gid = true → check i = none → s.missingLines i = [] →
     (∀ x ∈ g.readRegs i w.h, g.poisonLines.contains (poisonKey x.2) = false) →
     privInstr i = false →
     g.sbHits i w.h (g.unfinished s.cur.path (s.dieOf g.die).clk) = (o, e) :: r →
     ((s.launchOf g.die g.lchid).sbmode = 1 →
       Traps i s { cause := .scoreboardUndersized, faddr := (opSpec o).setWidth 64, lmask := g.active s.cur.path w.h }) ∧
     ((s.launchOf g.die g.lchid).sbmode = 2 → (g.path s.cur.path).reason ≠ 2 → Becomes i s (s.heldFor s.cur.gid s.cur.path 2)) ∧
     ((s.launchOf g.die g.lchid).sbmode = 2 → (g.path s.cur.path).reason = 2 → grainOn s g = false →
       ∃ n : Nat, (∀ x ∈ (o, e) :: r, x.2.done ≤ (s.dieOf g.die).clk + n) ∧
         exec i s = exec i (s.passClk g.die n))) ∧
  (∀ s : State, s.has s.cur.gid = true → (s.ctxOf (s.grp s.cur.gid).pasid).priv = false →
     let act := fun (h : Hdr) => (s.grp s.cur.gid).active s.cur.path h
     (∀ w : XA, ∀ i ∈ [Instr.ldObj w, Instr.stObj w], check i = none → Traps i s { cause := .privileged, lmask := act w.h }) ∧
     (∀ w : XN, w.a = .sr 0x30 → ∀ i ∈ [Instr.mov w, Instr.mvsp w], check i = none →
       Traps i s { cause := .privileged, lmask := act w.h }) ∧
     (∀ w : XN, w.d = .sr 0x30 → check (.stsp w) = none → Traps (.stsp w) s { cause := .privileged, lmask := act w.h }) ∧
     (∀ w : XA, w.d = .sr 0x30 → ∀ i ∈ [Instr.waitw w, Instr.waitf w, Instr.ldacq w, Instr.cas w, Instr.atomAdd w],
       check i = none → Traps i s { cause := .privileged, lmask := act w.h }) ∧
     (∀ w : XK, w.k = 0x30 → ∀ i ∈ [Instr.csrrd w, Instr.csrwr w], check i = none →
       Traps i s { cause := .privileged, lmask := act w.h }))

/-! ### Integer arithmetic (R119 to R123) -/

/-- The rows of R122 that wrap: each computes its exact integer per Active() lane from its sources in DF (in SF where the
row names SF), wraps or saturates it, and raises OV where it lies outside DF. The rows of R122 that raise no event:
the high half, the widening product, the high half plus C, and the lesser and the greater. -/
def Obligations.IntegerRowsWrapOrSaturate : Prop :=
  (∀ w : XF, ∀ r ∈ ([
       (.add w, fun e l => e.int w.df w.a l + e.int w.df w.b l),
       (.sub w, fun e l => e.int w.df w.a l - e.int w.df w.b l),
       (.neg w, fun e l => -e.int w.df w.a l),
       (.abs w, fun e l => ((e.int w.df w.a l).natAbs : Int)),
       (.mul w, fun e l => e.int w.df w.a l * e.int w.df w.b l),
       (.mad w, fun e l => e.int w.df w.a l * e.int w.df w.b l + e.int w.df w.c l),
       (.sad w, fun e l => ((e.int w.df w.a l - e.int w.df w.b l).natAbs : Int) + e.int w.df w.c l),
       (.dp4 w, fun e l => dotOf 8 w.sf (e.rd w.a l) (e.rd w.b l) 4 + e.int w.df w.c l),
       (.dp2 w, fun e l => dotOf 16 w.sf (e.rd w.a l) (e.rd w.b l) 2 + e.int w.df w.c l)] :
       List (Instr × (Env → Nat → Int))),
     Computes r.1 w.h w.d w.c (wideFmt w.df) (fun e l v ev => Wraps w.df w.sat (r.2 e l) v ev)) ∧
  (∀ w : XF, ∀ r ∈ ([
       (.mulhi w, fun e l => (e.int w.df w.a l * e.int w.df w.b l).fdiv (2 ^ fmtBits w.df)),
       (.mulw w, fun e l => e.int w.sf w.a l * e.int w.sf w.b l),
       (.madhi w, fun e l => (e.int w.df w.a l * e.int w.df w.b l).fdiv (2 ^ fmtBits w.df) + e.int w.df w.c l),
       (.min w, fun e l => if e.int w.df w.a l ≤ e.int w.df w.b l then e.int w.df w.a l else e.int w.df w.b l),
       (.max w, fun e l => if e.int w.df w.a l ≤ e.int w.df w.b l then e.int w.df w.b l else e.int w.df w.a l)] :
       List (Instr × (Env → Nat → Int))),
     Results r.1 w.h w.d w.c (wideFmt w.df) (fun e l v => Fits w.df false (r.2 e l) v))

/-- `mulhi`, `mulw`, `min` and `max` are exact: what their destination holds is the row's integer itself. `addc` and
`subb`: the sum or difference of the operands' patterns with the carry bit of C, modulo 2^w, to D; and to C in each
Active() lane whether it left the width, after D: where D is C itself, the carry stands. -/
def Obligations.WideProductsAndCarriesAreExact : Prop :=
  (∀ (w : XF) (e : Env) (l : Nat),
     (wellFormed (.mulhi w) = true →
       intLo w.df.toNat ≤ (e.int w.df w.a l * e.int w.df w.b l).fdiv (2 ^ fmtBits w.df) ∧
       (e.int w.df w.a l * e.int w.df w.b l).fdiv (2 ^ fmtBits w.df) ≤ intHi w.df.toNat) ∧
     (wellFormed (.mulw w) = true →
       intLo w.df.toNat ≤ e.int w.sf w.a l * e.int w.sf w.b l ∧ e.int w.sf w.a l * e.int w.sf w.b l ≤ intHi w.df.toNat)) ∧
  (∀ w : XF, ∀ r ∈ ([
       (.addc w, (fun e l => (e.nat w.df w.a l + e.nat w.df w.b l + e.carry w.c l : Nat)), fun y => decide (2 ^ fmtBits w.df ≤ y)),
       (.subb w, (fun e l => (e.nat w.df w.a l : Int) - e.nat w.df w.b l - e.carry w.c l), fun y => decide (y < 0))] :
       List (Instr × (Env → Nat → Int) × (Int → Bool))),
     ∀ s : State, s.clear r.1 w.h = true →
       ∃ f : Nat → DWord,
         (∀ l, (reads s r.1 w.h).act.getLsbD l = true → Fits w.df false (r.2.1 (reads s r.1 w.h) l) (f l)) ∧
         (((reads s r.1 w.h).act ≠ 0 ∧ srValueBad w.d (f (lowest (reads s r.1 w.h).act)) = true →
           Traps r.1 s { cause := .illegalField, lmask := (reads s r.1 w.h).act }) ∧
         (¬((reads s r.1 w.h).act ≠ 0 ∧ srValueBad w.d (f (lowest (reads s r.1 w.h).act)) = true) →
           Runs r.1 w.h w.c s (fun g =>
             (g.writeDup (reads s r.1 w.h).pix (reads s r.1 w.h).act (wideFmt w.df) w.h w.d unused f).write
               (reads s r.1 w.h).pix (reads s r.1 w.h).act false w.c
               (fun l => if r.2.2 (r.2.1 (reads s r.1 w.h) l) then 1 else 0)))))

/-- `div` and `rem` (R123): by zero all ones and the dividend, with DZ; the most negative value by −1 itself and 0,
with OV; else the truncated quotient and the remainder with the dividend's sign. They have no saturation; and the word
that R123 works out is that `div`. -/
def Obligations.DivisionTruncatesTowardsZero : Prop :=
  (∀ w : XF, ∀ r ∈ ([(.div w, true), (.rem w, false)] : List (Instr × Bool)),
    Computes r.1 w.h w.d w.c (wideFmt w.df) (fun e l v ev =>
      let a := e.int w.df w.a l
      let b := e.int w.df w.b l
      if b = 0 then
        ev = evDZ ∧ Holds w.df v (if r.2 then (if w.df.toNat < 4 then -1 else intHi w.df.toNat) else a)
      else if w.df.toNat < 4 ∧ a = intLo w.df.toNat ∧ b = -1 then
        ev = evOV ∧ Holds w.df v (if r.2 then a else 0)
      else
        ev = 0 ∧ ∃ q m : Int, a = b * q + m ∧ m.natAbs < b.natAbs ∧ (m = 0 ∨ (m < 0 ↔ a < 0)) ∧
          Holds w.df v (if r.2 then q else m))) ∧
  (∀ w : XF, w.sat = true → check (.div w) = some .illegalField ∧ check (.rem w) = some .illegalField) ∧
  decode 0x12DC01400C01000080000000 = .ok (.div
    { h := { gn := false, gp := 7, stall := 0, yield := false, dup := 0 }, d := .v 5, a := .v 3, b := .v 4, c := .v 0,
      df := 2, sf := 0, rnd := 0, sat := false, sub := 0 })

/-! ### Logic, compare and move (R124 to R128) -/

/-- The rows of R124 that R124 gives bit by bit: bit j of the result from the bits of a and b, with n the count in b.
A count of 32 or more shifts every bit out, and `sar` then copies the sign. -/
def Obligations.LogicAndShiftRows : Prop :=
  ∀ w : XN, ∀ r ∈ ([
      (.and w, fun a b j => a.getLsbD j && b.getLsbD j),
      (.or w, fun a b j => a.getLsbD j || b.getLsbD j),
      (.xor w, fun a b j => a.getLsbD j != b.getLsbD j),
      (.not w, fun a _ j => !a.getLsbD j),
      (.andn w, fun a b j => a.getLsbD j && !b.getLsbD j),
      (.shl w, fun a b j => decide (b.toNat ≤ j) && a.getLsbD (j - b.toNat)),
      (.shr w, fun a b j => decide (j + b.toNat < 32) && a.getLsbD (j + b.toNat)),
      (.sar w, fun a b j => if j + b.toNat < 32 then a.getLsbD (j + b.toNat) else a.getLsbD 31),
      (.rotl w, fun a b j => a.getLsbD ((j + (32 - b.toNat % 32)) % 32)),
      (.brev w, fun a _ j => a.getLsbD (31 - j))] :
      List (Instr × (Word → Word → Nat → Bool))),
    Results r.1 w.h w.d unused false (fun e l v => Bits v (r.2 (e.rd w.a l) (e.rd w.b l)))

/-- `popc`, `clz` and `ctz` (R124): the number of 1 bits, of 0 bits above the highest 1, and of 0 bits below the lowest 1,
which are 32 for a = 0. The rows of R125, bit by bit: the truth table of `lop3`, the funnel shifts of a::b, the field
of `bfe` and of `bfi` with its position p, length n and effective length k, and the byte permutation of `bperm`. -/
def Obligations.BitCountAndFieldRows : Prop :=
  (∀ w : XN,
     Results (.popc w) w.h w.d unused false (fun e l v =>
       (v.setWidth 32 : Word).toNat = (List.range 32).countP (fun j => (e.rd w.a l).getLsbD j)) ∧
     Results (.clz w) w.h w.d unused false (fun e l v => ∃ n, (v.setWidth 32 : Word) = BitVec.ofNat 32 n ∧ n ≤ 32 ∧
       (∀ j, j < n → (e.rd w.a l).getLsbD (31 - j) = false) ∧ (n < 32 → (e.rd w.a l).getLsbD (31 - n) = true)) ∧
     Results (.ctz w) w.h w.d unused false (fun e l v => ∃ n, (v.setWidth 32 : Word) = BitVec.ofNat 32 n ∧ n ≤ 32 ∧
       (∀ j, j < n → (e.rd w.a l).getLsbD j = false) ∧ (n < 32 → (e.rd w.a l).getLsbD n = true))) ∧
  (∀ w : XF,
     let p := fun (x : Word) => x.toNat % 256
     let k := fun (x : Word) => if x.toNat % 256 < 32 then min (x.toNat / 256 % 256) (32 - x.toNat % 256) else 0
     Results (.lop3 w) w.h w.d w.c false (fun e l v => Bits v (fun j => w.sub.getLsbD
       (4 * ((e.rd w.a l).getLsbD j).toNat + 2 * ((e.rd w.b l).getLsbD j).toNat + ((e.rd w.c l).getLsbD j).toNat))) ∧
     Results (.fsh w) w.h w.d w.c false (fun e l v => Bits v (fun j =>
       ((e.rd w.a l) ++ (e.rd w.b l)).getLsbD
         (if w.sub = 0 then j + (e.rd w.c l).toNat % 32 else 32 + j - (e.rd w.c l).toNat % 32))) ∧
     Results (.bfe w) w.h w.d w.c false (fun e l v => Bits v (fun j =>
       let pat := e.rd w.b l
       if k pat = 0 then false
       else if j < k pat then (e.rd w.a l).getLsbD (p pat + j)
       else w.df == 2 && (e.rd w.a l).getLsbD (p pat + k pat - 1))) ∧
     Results (.bfi w) w.h w.d w.c false (fun e l v => Bits v (fun j =>
       let pat := e.rd w.c l
       if p pat ≤ j ∧ j < p pat + k pat then (e.rd w.b l).getLsbD (j - p pat) else (e.rd w.a l).getLsbD j)) ∧
     Results (.bperm w) w.h w.d w.c false (fun e l v => Bits v (fun j =>
       let sel := (e.rd w.c l).toNat / 16 ^ (j / 8) % 16
       ((e.rd w.b l) ++ (e.rd w.a l)).getLsbD (8 * (sel % 8) + (if sel < 8 then j % 8 else 7)))))

/-- `cmp` (R126) writes 1 where the comparison that SUB names holds of a and b read in SF, and 0 otherwise; a SUB above
5, a floating SF, a DF, or a C that DUP does not use is ILLEGAL_FIELD. `sel` (R127) gives a where c, always 32 bits, is
not zero and b otherwise, of the width of DF; a DF other than I32, N32, I64 and N64 is ILLEGAL_FIELD. -/
def Obligations.CompareAndSelect : Prop :=
  ∀ w : XF,
    Results (.cmp w) w.h w.d w.c false (fun e l v =>
      let a := e.int w.sf w.a l
      let b := e.int w.sf w.b l
      Truth v ((w.sub = 0 ∧ a = b) ∨ (w.sub = 1 ∧ a ≠ b) ∨ (w.sub = 2 ∧ a < b) ∨ (w.sub = 3 ∧ a ≤ b) ∨
        (w.sub = 4 ∧ b < a) ∨ (w.sub = 5 ∧ b ≤ a))) ∧
    (5 < w.sub.toNat ∨ 7 < w.sf.toNat ∨ w.df ≠ 0 ∨ (w.h.dup ≠ 2 ∧ w.c ≠ unused) →
      check (.cmp w) = some .illegalField) ∧
    Results (.sel w) w.h w.d w.c (wideFmt w.df) (fun e l v =>
      (e.rd w.c l ≠ 0 → v = e.read (wideFmt w.df) w.a l) ∧ (e.rd w.c l = 0 → v = e.read (wideFmt w.df) w.b l)) ∧
    (w.df.toNat ∉ [2, 3, 6, 7] → check (.sel w) = some .illegalField) ∧
    (∃ x y : Word96, encode (.cmp w) = some x ∧ encode (.sel w) = some y ∧ x.extractLsb' 86 10 = 0x0C0 ∧
      y.extractLsb' 86 10 = 0x0C1)

/-- The moves of R128: `mov`, `movi`, the one lane that `movs` reads and the one that `movv` writes, the 64-bit moves
`mvsp` and `stsp`, and the predicate moves. -/
def Obligations.MoveRows : Prop :=
  (∀ w : XN,
    Results (.mov w) w.h w.d unused false (fun e l v => v.setWidth 32 = e.rd w.a l) ∧
    Results (.movs w) w.h w.d unused false (fun e _ v => v.setWidth 32 = e.rd w.a ((e.uni w.b).toNat % 32)) ∧
    (∀ s : State, s.clear (.movv w) w.h = true →
      Runs (.movv w) w.h unused s (fun g =>
        g.writeDup (reads s (.movv w) w.h).pix
          ((reads s (.movv w) w.h).act &&& laneBit (((reads s (.movv w) w.h).uni w.b).toNat % 32)) false w.h w.d unused
          (fun _ => ((reads s (.movv w) w.h).uni w.a).setWidth 64))) ∧
    Results (.mvsp w) w.h w.d unused true (fun e l v => v = e.read true w.a l) ∧
    Results (.stsp w) w.h w.d unused true (fun e l v => v = e.read true w.a l) ∧
    Results (.pand w) w.h w.d unused false (fun e l v => Truth v (e.rd w.a l ≠ 0 ∧ e.rd w.b l ≠ 0)) ∧
    Results (.por w) w.h w.d unused false (fun e l v => Truth v (e.rd w.a l ≠ 0 ∨ e.rd w.b l ≠ 0)) ∧
    Results (.pxor w) w.h w.d unused false (fun e l v => Truth v (¬(e.rd w.a l ≠ 0 ↔ e.rd w.b l ≠ 0))) ∧
    Results (.pnot w) w.h w.d unused false (fun e l v => Truth v (e.rd w.a l = 0)) ∧
    Results (.pmov w) w.h w.d unused false (fun e l v =>
      match w.d, w.a with
      | .s _, a => Bits v (fun j => e.act.getLsbD j && decide (e.rd a j ≠ 0))
      | _, .s n => Truth v ((e.rd (.s n) l).getLsbD l = true)
      | _, a => Truth v (e.rd a l ≠ 0))) ∧
  (∀ w : XK, Results (.movi w) w.h w.d unused false (fun _ _ v => v.setWidth 32 = w.k))

/-! ### Lane exchange (R129 to R136) -/

/-- `shfl` (R131) and `bcast` (R134): the lane that each reading lane names, its own value where that lane is out of range
or outside Active() (R129); in compatibility mode within its own half. `vote` (R132) and `match` (R135) over the lanes
of Active(), with their masks as R130 lays them out. `redux` and `scan` with `.add`, `.min` and `.max` (R133): over
all the lanes of Active(), or over those up to the lane itself: the exact sum, which wraps, or the least or the
greatest value, which some lane holds. -/
def Obligations.LaneExchanges : Prop :=
  ((∀ w : XF, Results (.shfl w) w.h w.d w.c false (fun e l v =>
     let compat := e.launch.hdr.compat
     let b := (e.rd w.b l).toNat
     (w.sub = 0 → v = exchanged e false w.a l (namedLane compat l b)) ∧
     (w.sub = 1 → v = if b ≤ l ∧ (if compat then 16 * (l / 16) else 0) ≤ l - b
       then exchanged e false w.a l (l - b) else e.read false w.a l) ∧
     (w.sub = 2 → v = if l + b ≤ (if compat then 16 * (l / 16) + 15 else 31)
       then exchanged e false w.a l (l + b) else e.read false w.a l) ∧
     (w.sub = 3 → v = exchanged e false w.a l (namedLane compat l (l ^^^ (b % 32)))))) ∧
   (∀ w : XN, Results (.bcast w) w.h w.d unused false (fun e l v =>
     v = exchanged e false w.a l (namedLane e.launch.hdr.compat l (e.uni w.b).toNat)))) ∧
  (∀ w : XF,
     Results (.vote w) w.h w.d w.c false (fun e _ v =>
       (w.sub = 0 → Truth v (∃ k, k < 32 ∧ e.act.getLsbD k = true ∧ e.rd w.a k ≠ 0)) ∧
       (w.sub = 1 → Truth v (∀ k, k < 32 → e.act.getLsbD k = true → e.rd w.a k ≠ 0)) ∧
       (w.sub = 2 → Truth v ((∀ k, k < 32 → e.act.getLsbD k = true → e.rd w.a k ≠ 0) ∨
         ∀ k, k < 32 → e.act.getLsbD k = true → e.rd w.a k = 0)) ∧
       (w.sub = 3 → MaskFor e v (fun k => e.act.getLsbD k && decide (e.rd w.a k ≠ 0)))) ∧
     Results (.matchLanes w) w.h w.d w.c false (fun e l v =>
       let same := fun k m => e.read (wideFmt w.df) w.a k = e.read (wideFmt w.df) w.a m
       (w.sub = 0 → MaskFor e v (fun k => e.act.getLsbD k && decide (same k l))) ∧
       (w.sub = 1 → ((∀ k m, k < 32 → m < 32 → e.act.getLsbD k = true → e.act.getLsbD m = true → same k m) →
           MaskFor e v (fun k => e.act.getLsbD k)) ∧
         (¬(∀ k m, k < 32 → m < 32 → e.act.getLsbD k = true → e.act.getLsbD m = true → same k m) →
           v.setWidth 32 = (0 : Word))))) ∧
  (∀ w : XF, ∀ r ∈ ([(.redux w, fun _ => 31), (.scan w, fun l => l)] : List (Instr × (Nat → Nat))),
     Computes r.1 w.h w.d w.c (wideFmt w.df) (fun e l v ev =>
       let ks := (lanesOf e.act).filter (fun k => k ≤ r.2 l)
       let a := fun k => e.int w.df w.a k
       (w.sub = 0 → Wraps w.df w.sat ((ks.map a).sum) v ev) ∧
       (w.sub = 1 → ev = 0 ∧ ∃ m ∈ ks, (∀ k ∈ ks, a m ≤ a k) ∧ Holds w.df v (a m)) ∧
       (w.sub = 2 → ev = 0 ∧ ∃ m ∈ ks, (∀ k ∈ ks, a k ≤ a m) ∧ Holds w.df v (a m)) ∧
       (w.sub.toNat ∈ [3, 4, 5] → ev = 0 ∧ ∀ j, j < fmtBits w.df → v.getLsbD j =
         let bit := fun k => (e.read (wideFmt w.df) w.a k).getLsbD j
         if w.sub = 3 then ks.all bit else if w.sub = 4 then ks.any bit
         else ks.foldl (fun x k => x != bit k) false)))

/-! ### Floating-point, special functions and conversions (R101 to R154) -/

/-- `fadd`, `fsub`, `fmul` and `fma` (R139): the exact sum, difference, product, or product and sum, of the operands
read in DF, rounded once in the instruction's mode. -/
def Obligations.FloatArithmeticRoundsOnce : Prop :=
  ∀ w : XF, ∀ r ∈ ([
      (.fadd w, fun m a b _ => numAdd m a b),
      (.fsub w, fun m a b _ => numAdd m a (numNeg b)),
      (.fmul w, fun _ a b _ => numMul a b),
      (.fma w, fun m a b c => ((numAdd m (numMul a b).1 c).1, (numMul a b).2 ||| (numAdd m (numMul a b).1 c).2))] :
      List (Instr × (Nat → FNum → FNum → FNum → FNum × Events))),
    Computes r.1 w.h w.d w.c (wideFmt w.df) (fun e l v ev =>
      Rounds w.df (e.mode w.rnd) w.sat
        (r.2 (e.mode w.rnd) (e.num w.df w.a l) (e.num w.df w.b l) (e.num w.df w.c l)) v ev)

/-- `fmin`, `fmax`, `fminn` and `fmaxn` (R140): the lesser or the greater, −0 below +0; a NaN gives the other operand,
or QNaN where both are NaN or the row is `fminn` or `fmaxn`; and a signalling NaN raises NV. The bits of a returned
register operand are its own; an immediate is returned as DF encodes its integer, and one that DF does not hold has no
bits in the spec (log entry 14). -/
def Obligations.FloatSelectionsReturnAnOperand : Prop :=
  ∀ w : XF, ∀ r ∈ ([(.fmin w, false, false), (.fmax w, true, false), (.fminn w, false, true), (.fmaxn w, true, true)] :
      List (Instr × Bool × Bool)),
    Computes r.1 w.h w.d w.c (wideFmt w.df) (fun e l v ev =>
      let a := e.num w.df w.a l
      let b := e.num w.df w.b l
      let below := fun (x y : FNum) => numCmp x y = .lt ∨ (numCmp x y = .eq ∧ x.neg = true ∧ y.neg = false)
      let F := ffmt w.df.toNat
      let kept := fun (o : Operand) =>
        match o with
        | .imm k => (roundTo F (FNum.ofInt k.toInt 0 false) 0).2 = 0 → Image w.df v (fEncode F (FNum.ofInt k.toInt 0 false))
        | o => Image w.df v (e.read (wideFmt w.df) o l).toNat
      ev = a.snv ||| b.snv ∧
      ((a.isNan ∧ b.isNan) ∨ (r.2.2 ∧ (a.isNan ∨ b.isNan)) → Image w.df v (qnan (ffmt w.df.toNat))) ∧
      (r.2.2 = false → a.isNan ∧ ¬b.isNan → kept w.b) ∧ (r.2.2 = false → b.isNan ∧ ¬a.isNan → kept w.a) ∧
      (¬a.isNan → ¬b.isNan → ((r.2.1 = false ∧ below a b) ∨ (r.2.1 = true ∧ ¬below a b) → kept w.a) ∧
        ((r.2.1 = false ∧ ¬below a b) ∨ (r.2.1 = true ∧ below a b) → kept w.b)))

/-- `fcmp` (R141), `fclass` (R142), `fscale` and `frnd` (R143). `frnd` of an immediate that DF does not hold has no
bits in the spec (log entry 14). -/
def Obligations.FloatCompareClassScaleRound : Prop :=
  ∀ w : XF,
    Computes (.fcmp w) w.h w.d w.c false (fun e l v ev =>
      let a := e.num w.sf w.a l
      let b := e.num w.sf w.b l
      let nan := a.isNan = true ∨ b.isNan = true
      Truth v ((w.sub = 0 ∧ ¬nan ∧ numCmp a b = .eq) ∨ (w.sub = 1 ∧ (nan ∨ numCmp a b ≠ .eq)) ∨
        (w.sub = 2 ∧ ¬nan ∧ numCmp a b = .lt) ∨ (w.sub = 3 ∧ ¬nan ∧ numCmp a b ≠ .gt) ∨
        (w.sub = 4 ∧ ¬nan ∧ numCmp a b = .gt) ∨ (w.sub = 5 ∧ ¬nan ∧ numCmp a b ≠ .lt) ∨
        (w.sub = 6 ∧ nan) ∨ (w.sub = 7 ∧ ¬nan)) ∧
      (2 ≤ w.sub.toNat ∧ w.sub.toNat ≤ 5 → ev = if a.isNan || b.isNan then evNV else 0) ∧
      (¬(2 ≤ w.sub.toNat ∧ w.sub.toNat ≤ 5) → ev = a.snv ||| b.snv)) ∧
    Results (.fclass w) w.h w.d w.c false (fun e l v =>
      let F := ffmt w.sf.toNat
      let x := (e.read (wideFmt w.sf) w.a l).toNat % 2 ^ F.width
      let ex := x / 2 ^ F.f % 2 ^ F.e
      let fr := x % 2 ^ F.f
      let neg := x.testBit (F.e + F.f)
      let top := ex = 2 ^ F.e - 1
      (∀ k, w.a = .imm k → v = if k.toInt = 0 then 64 else if 0 < k.toInt then 256 else 8) ∧
      (isImm w.a = false →
        (F.inf = true ∧ top ∧ fr ≠ 0 → v = BitVec.ofNat 64 (if fr.testBit (F.f - 1) then 2 else 1)) ∧
        (F.inf = false ∧ top ∧ fr = 2 ^ F.f - 1 → v = 2) ∧
        (F.inf = true ∧ top ∧ fr = 0 → v = if neg then 4 else 512) ∧
        (ex = 0 ∧ fr = 0 → v = if neg then 32 else 64) ∧
        (ex = 0 ∧ fr ≠ 0 → v = if neg then 16 else 128) ∧
        (ex ≠ 0 ∧ ¬(top ∧ (F.inf = true ∨ fr = 2 ^ F.f - 1)) → v = if neg then 8 else 256))) ∧
    Computes (.fscale w) w.h w.d w.c (wideFmt w.df) (fun e l v ev =>
      Rounds w.df (e.mode w.rnd) w.sat (scaled (e.num w.df w.a l) (e.rd w.b l).toInt) v ev) ∧
    Computes (.frnd w) w.h w.d w.c (wideFmt w.df) (fun e l v ev =>
      let x := integral (e.mode w.rnd) (e.num w.df w.a l)
      let F := ffmt w.df.toNat
      ev = (e.num w.df w.a l).snv ∧
      (isImm w.a = false ∨ (roundTo F x.1 0).2 = 0 →
        Image w.df v (fEncode F (if w.sat then satF F x.1 else x.1))))

/-- The special functions. Each of them completes, or traps on an enabled event: `sqrt`, `fdiv`, `sinpi` and `cospi` round
once in the instruction's mode (R145, R146); `rcp`, `rsq`, `ex2`, `lg2` and `tanh` are truncated or chopped whatever
the mode (R147, R148); and `sincospi` gives the sine to D and the cosine to C in every Active() lane, with the events
of both. The special cases are those of the tables of R145, R146 and R148; a root and a quotient of finite operands of
at most 53 bits are bracketed by n·2^k and (n + 1)·2^k, exact where the mark says so; and `ex2` of an integer from
−148 to 127 and `lg2` of a power of two are exact. `rng` (R152) writes the four words of ten Philox rounds to d to
d+3; `trng` (R153), where no grain ring logs it, writes a free word to each Active() lane, or one to a uniform
destination, and raises ILLEGAL_FIELD where that is ASTAT and does not take it; `sample.cat` (R154) writes one index
to every lane and raises SW as its rule says. -/
def Obligations.SpecialFunctionAndRandomRows : Prop :=
  ((∀ w : XF,
     (∀ r ∈ ([(.sqrt w, fun a _ => sqrtOf a), (.fdiv w, fun a b => fdivOf a b), (.sinpi w, fun a _ => sinPi a),
         (.cospi w, fun a _ => cosPi a)] : List (Instr × (FNum → FNum → FNum × Events))),
       Computes r.1 w.h w.d w.c (wideFmt w.df) (fun e l v ev =>
         Rounds w.df (e.mode w.rnd) w.sat (r.2 (e.num w.df w.a l) (e.num w.df w.b l)) v ev)) ∧
     (∀ r ∈ ([(.rcp w, rcpOf), (.rsq w, rsqOf), (.ex2 w, ex2Of), (.lg2 w, lg2Of), (.tanh w, tanhVal)] :
         List (Instr × (FNum → FNum × Events))),
       Computes r.1 w.h w.d w.c (wideFmt w.df) (fun e l v ev => Finished w.sat (r.2 (e.num w.df w.a l)) v ev)) ∧
     (∀ s : State, s.clear (.sincospi w) w.h = true →
       ∃ sn cs : Nat → DWord, ∃ evs evc : Nat → Events,
         let e := reads s (.sincospi w) w.h
         let all := fun l => evs l ||| evc l
         (∀ l, e.act.getLsbD l = true →
           Rounds w.df (e.mode w.rnd) w.sat (sinPi (e.num w.df w.a l)) (sn l) (evs l) ∧
           Rounds w.df (e.mode w.rnd) w.sat (cosPi (e.num w.df w.a l)) (cs l) (evc l)) ∧
         match trapOf e.g.regs.astat (eventsOf e.act all) with
         | some (cause, bit) =>
           Traps (.sincospi w) s { cause := cause, lmask := maskOf (fun l => e.act.getLsbD l && all l &&& bit != 0) }
         | none =>
           if e.act ≠ 0 ∧ srValueBad w.d (sn (lowest e.act)) = true
           then Traps (.sincospi w) s { cause := .illegalField, lmask := e.act }
           else Runs (.sincospi w) w.h unused s (fun g =>
             ((g.writeDup e.pix e.act (wideFmt w.df) w.h w.d w.c sn).raise e.fin (eventsOf e.act all)).write
               e.pix e.act false w.c cs))) ∧
   (∀ (x y : FNum), (x.isNan = true ∨ y.isNan = true) →
     (fdivOf x y).1.isNan = true ∧ (fdivOf x y).2 = x.snv ||| y.snv) ∧
   (∀ x : FNum, x.isNan = true → ∀ f ∈ [sqrtOf, sinPi, cosPi, rcpOf, rsqOf, ex2Of, lg2Of, tanhVal],
     (f x).1.isNan = true ∧ (f x).2 = x.snv) ∧
   (∀ s u : Bool, sqrtOf (.zero s) = (.zero s, 0) ∧ fdivOf (.zero s) (.zero u) = (.nan false, evNV) ∧
     fdivOf (.inf s) (.inf u) = (.nan false, evNV) ∧ fdivOf (.inf s) (.zero u) = (.inf (xor s u), 0) ∧
     fdivOf (.zero s) (.inf u) = (.zero (xor s u), 0) ∧ rcpOf (.zero s) = (.inf s, evFDZ) ∧ rcpOf (.inf s) = (.zero s, 0) ∧
     rsqOf (.zero s) = (.inf s, evFDZ) ∧ lg2Of (.zero s) = (.inf true, evFDZ) ∧ tanhVal (.zero s) = (.zero s, 0) ∧
     tanhVal (.inf s) = (.fin s 1 0 false, 0) ∧ ex2Of (.zero s) = (.fin false 1 0 false, 0) ∧
     sinPi (.zero s) = (.zero s, 0) ∧ cosPi (.zero s) = (.fin false 1 0 false, 0) ∧
     sinPi (.inf s) = (.nan false, evNV) ∧ cosPi (.inf s) = (.nan false, evNV) ∧
     ∀ (m : Nat) (e : Int), 0 < m →
       fdivOf (.fin s m e false) (.zero u) = (.inf (xor s u), evFDZ) ∧ fdivOf (.fin s m e false) (.inf u) = (.zero (xor s u), 0) ∧
       fdivOf (.zero s) (.fin u m e false) = (.zero (xor s u), 0) ∧ fdivOf (.inf s) (.fin u m e false) = (.inf (xor s u), 0) ∧
       (0 ≤ e → sinPi (.fin s m e false) = (.zero s, 0)) ∧
       (0 ≤ e → cosPi (.fin s m e false) = (.fin (decide (m * 2 ^ e.toNat % 2 = 1)) 1 0 false, 0)) ∧
       sinPi (.fin s (2 * m - 1) (-1) false) = (.fin (xor s (decide (m % 2 = 0))) 1 0 false, 0) ∧
       cosPi (.fin s (2 * m - 1) (-1) false) = (.zero false, 0)) ∧
   (∀ f ∈ [sqrtOf, rsqOf, lg2Of], f (.inf true) = (.nan false, evNV) ∧ ∀ m e, f (.fin true m e false) = (.nan false, evNV)) ∧
   sqrtOf (.inf false) = (.inf false, 0) ∧ rsqOf (.inf false) = (.zero false, 0) ∧ lg2Of (.inf false) = (.inf false, 0) ∧
   ex2Of (.inf true) = (.zero false, 0) ∧ ex2Of (.inf false) = (.inf false, 0) ∧
   (∀ (m : Nat) (e : Int), 0 < m → m < 2 ^ 53 →
     (∃ n k st, sqrtOf (.fin false m e false) = (.fin false n k st, 0) ∧ 2 ^ 60 ≤ n ∧
       ∀ c : Nat, 0 ≤ e + 2 * c → 0 ≤ k + c →
         (n * 2 ^ (k + c).toNat) ^ 2 ≤ m * 2 ^ (e + 2 * c).toNat ∧ m * 2 ^ (e + 2 * c).toNat < ((n + 1) * 2 ^ (k + c).toNat) ^ 2 ∧
         (st = false ↔ (n * 2 ^ (k + c).toNat) ^ 2 = m * 2 ^ (e + 2 * c).toNat)) ∧
     (∃ n k st, rsqOf (.fin false m e false) = trunc1 (.fin false n k st) ∧ 2 ^ 60 ≤ n ∧
       ∀ c : Nat, 0 ≤ 2 * k + e + c →
         n ^ 2 * m * 2 ^ (2 * k + e + c).toNat ≤ 2 ^ c ∧ 2 ^ c < (n + 1) ^ 2 * m * 2 ^ (2 * k + e + c).toNat) ∧
     ∀ (s u : Bool) (p : Nat) (f : Int), 0 < p → p < 2 ^ 53 →
       (∃ n k st, fdivOf (.fin s m e false) (.fin u p f false) = (.fin (xor s u) n k st, 0) ∧ 2 ^ 60 ≤ n ∧
         ∀ c : Nat, 0 ≤ e + c → 0 ≤ k + f + c →
           n * p * 2 ^ (k + f + c).toNat ≤ m * 2 ^ (e + c).toNat ∧ m * 2 ^ (e + c).toNat < (n + 1) * p * 2 ^ (k + f + c).toNat ∧
           (st = false ↔ n * p * 2 ^ (k + f + c).toNat = m * 2 ^ (e + c).toNat)) ∧
       (∃ n k st, rcpOf (.fin s p f false) = trunc1 (.fin s n k st) ∧
         ∃ q, fdivOf (.fin false 1 0 false) (.fin false p f false) = (q, 0) ∧ q = .fin false n k st)) ∧
   (∀ k : Int, -148 ≤ k → k ≤ 127 → (ex2Of (FNum.ofInt k 0 false)).2 = 0 ∧
     fEncode (ffmt 9) (ex2Of (FNum.ofInt k 0 false)).1 = if -126 ≤ k then (k + 127).toNat * 2 ^ 23 else 2 ^ (k + 149).toNat) ∧
   (∀ (j : Nat) (e : Int), j < 24 → -149 ≤ e → e + j ≤ 127 → (lg2Of (.fin false (2 ^ j) e false)).2 = 0 ∧
     fEncode (ffmt 9) (lg2Of (.fin false (2 ^ j) e false)).1 = fEncode (ffmt 9) (FNum.ofInt (e + j) 0 false))) ∧
  ((∀ (w : XF) (s : State), s.clear (.rng w) w.h = true →
     let e := reads s (.rng w) w.h
     let r := fun l => philox 10 ((e.rd w.a l).toNat, (e.rd w.c l).toNat, l, 0)
       ((e.uni64 w.b).toNat % 2 ^ 32) ((e.uni64 w.b).toNat / 2 ^ 32)
     Runs (.rng w) w.h unused s (fun g =>
       (g.write e.pix e.act true w.d (fun l => pairOf (BitVec.ofNat 32 (r l).1) (BitVec.ofNat 32 (r l).2.1))).write
         e.pix e.act true (opPlus w.d 2)
         (fun l => pairOf (BitVec.ofNat 32 (r l).2.2.1) (BitVec.ofNat 32 (r l).2.2.2)))) ∧
   philox 10 (0, 0, 0, 0) 0 0 = (0x6627E8D5, 0xE169C58D, 0xBC57AC4C, 0x9B00DBD8) ∧
   (∀ (w : XN) (s : State), s.clear (.trng w) w.h = true →
     let e := reads s (.trng w) w.h
     grainOn (s.touch (.trng w)) e.g = false →
     ∃ f : Nat → DWord,
       (∀ l, e.act.getLsbD l = true → l = lowest e.act ∨ (∀ n, w.d ≠ .s n) ∧ (∀ n, w.d ≠ .sr n) →
         f l = (Config.entropy s.tick l).setWidth 64) ∧
       (if e.act ≠ 0 ∧ srValueBad w.d (f (lowest e.act)) = true
        then Traps (.trng w) s { cause := .illegalField, lmask := e.act }
        else Runs (.trng w) w.h unused s (fun g => g.writeDup e.pix e.act false w.h w.d unused f))) ∧
   (∀ w : XF, Computes (.sampleCat w) w.h w.d w.c false (fun e _ v ev =>
     let half := 16 * (lowest e.act / 16)
     let ls := if e.launch.hdr.compat then (List.range 16).map (fun k => half + k) else List.range 32
     let r := sampleOf (ls.map (fun l => if e.act.getLsbD l then e.num 9 w.a l else .zero false)) (e.uni w.b)
     v = BitVec.ofNat 64 r.1 ∧ ev = if r.2 then evSW else 0)))

/-- `cvt`, `cvtpk` and `cvtcb` (R149 to R151): each converts from SF to DF under R116 and R117 in the instruction's mode; `cvtpk` packs two results, over the old half of d for 8-bit results; `cvtcb` converts the codebook
entry that a nibble of A names. -/
def Obligations.ConversionRows : Prop :=
  ∀ w : XF,
    Computes (.cvt w) w.h w.d w.c (wideFmt w.df) (fun e l v ev =>
      let r := converted e w.sf w.df w.rnd w.sat w.a l
      ev = r.2 ∧ v = extend w.df.toNat r.1) ∧
    Computes (.cvtpk w) w.h w.d w.c false (fun e l v ev =>
      let conv := fun (o : Operand) => converted e w.sf w.df w.rnd w.sat o l
      let n := fmtBits w.df
      let at0 := if n = 8 ∧ w.sub ≠ 0 then 16 else 0
      ev = (conv w.a).2 ||| (conv w.b).2 ∧
      Bits v (fun j =>
        if at0 ≤ j ∧ j < at0 + n then (conv w.a).1.testBit (j - at0)
        else if at0 + n ≤ j ∧ j < at0 + 2 * n then (conv w.b).1.testBit (j - at0 - n)
        else (e.rd w.d l).getLsbD j)) ∧
    Computes (.cvtcb w) w.h w.d w.c (wideFmt w.df) (fun e l v ev =>
      ∀ k, w.b = .s k →
        let code := ((e.rd w.a l).extractLsb' (4 * w.sub.toNat) 4).toNat
        let entry := ((e.rdS (k.toNat + code / 2) l).extractLsb' (16 * (code % 2)) 16).toNat
        let r := convert 11 w.df.toNat (e.mode w.rnd) w.sat entry
        ev = r.2 ∧ v = extend w.df.toNat r.1)

/-! ### Control flow (R20 to R24, R82 to R97) -/

/-- `bra` and `call` (R87, R89): with no lane in Active() the path goes on sequentially; to a misaligned target they
raise MEM_ALIGN with that address and transfer nothing; otherwise `call` writes PC + 12 to its link in the lanes of
Active(), and the lanes of Active() go to PC + sext(X) and the path's other enabled lanes to PC + 12. `brx`, `callx` and
`ret` do the same to each lane's own target, or, with a scalar pair, to the one that it gives (R88). -/
def Obligations.BranchesAndCallsTransfer : Prop :=
  (∀ w : XK, ∀ r ∈ ([(.bra w, false), (.call w, true)] : List (Instr × Bool)), ∀ s : State, s.clear r.1 w.h = true →
    let e := reads s r.1 w.h
    let t := e.path.pc + w.k.signExtend 57
    let link := fun (g : Group) =>
      if r.2 then g.write e.pix e.act true w.d (fun _ => (e.path.pc + 12).setWidth 64) else g
    (e.act = 0 → Runs r.1 w.h unused s (fun g => g)) ∧
    (e.act ≠ 0 → t.toNat % 12 ≠ 0 → Traps r.1 s { cause := .memAlign, faddr := t.setWidth 64, lmask := e.act }) ∧
    (e.act ≠ 0 → t.toNat % 12 = 0 → Jumps r.1 w.h unused s (fun g =>
      (link g).transfer e.pix e.path.pc (e.g.enabled e.pix)
        [{ pc := e.path.pc + 12, lanes := e.g.enabled e.pix &&& ~~~e.act, seq := true },
         { pc := t, lanes := e.act, seq := false }]))) ∧
  (∀ w : XN, ∀ r ∈ ([(.brx w, false), (.callx w, true), (.ret w, false)] : List (Instr × Bool)), ∀ s : State,
    s.clear r.1 w.h = true →
    let e := reads s r.1 w.h
    let one := match w.a with | .v _ => false | _ => true
    let target := fun l => (e.read true w.a (if one then lowest e.act else l)).setWidth 57
    let bad := maskOf (fun l => e.act.getLsbD l && decide ((target l).toNat % 12 ≠ 0))
    let link := fun (g : Group) =>
      if r.2 then g.write e.pix e.act true w.d (fun _ => (e.path.pc + 12).setWidth 64) else g
    (e.act = 0 → Runs r.1 w.h unused s (fun g => g)) ∧
    (bad ≠ 0 → Traps r.1 s { cause := .memAlign, faddr := (target (lowest bad)).setWidth 64, lmask := bad }) ∧
    (e.act ≠ 0 → bad = 0 → Jumps r.1 w.h unused s (fun g =>
      (link g).transfer e.pix e.path.pc (e.g.enabled e.pix)
        (if one then
          [{ pc := e.path.pc + 12, lanes := e.g.enabled e.pix &&& ~~~e.act, seq := true },
           { pc := target 0, lanes := e.act, seq := false }]
         else brxDests e.path.pc (e.g.enabled e.pix) e.act target))))

/-- A transfer of a path (R21): where all its enabled lanes have one destination, the path moves whole, with its mask and
slices; a destination that is the fall-through takes the loop test. The destinations of an indirect transfer (R88):
their addresses rise strictly, each lane of Active() is in the one of its own target, every enabled lane that the
guard leaves out is in that of PC + 12, and no other lane is in any. A conditional branch that splits (R21): the path
keeps its index and goes on at the first destination with that destination's lanes; the slices all of whose enabled
lanes go to the second form one new path at the lowest free index with those lanes and a copy of the loop state; each
other slice with a lane bound for it records a deferral entry for the innermost region. -/
def Obligations.TransfersPartitionTheLanes : Prop :=
  (∀ (g : Group) (pix : Nat) (pc : Addr) (active : Mask) (d : Dest) (ds : List Dest), pix < g.paths.length →
     ds.filter (fun d => d.lanes != 0) = [d] →
     let onto := if d.seq then g.seqNext pc (g.path pix).lp (g.path pix).mask else (d.pc, (g.path pix).lp)
     g.transfer pix pc active ds = g.updPath pix (fun p => { p with pc := onto.1, lp := onto.2 }) ∧
     ((g.transfer pix pc active ds).path pix).mask = (g.path pix).mask ∧
     ((g.transfer pix pc active ds).path pix).slices = (g.path pix).slices ∧
     ((g.transfer pix pc active ds).path pix).pc = onto.1) ∧
  (∀ (pc : Addr) (active act : Mask) (target : Nat → Addr), act &&& ~~~active = 0 →
     ((brxDests pc active act target).map (fun d => d.pc.toNat)).Pairwise (· < ·) ∧
     ∀ l, l < 32 → ∀ d ∈ brxDests pc active act target,
       (d.lanes.getLsbD l = true ↔
         (act.getLsbD l = true ∧ target l = d.pc) ∨
         (active.getLsbD l = true ∧ act.getLsbD l = false ∧ d.pc = pc + 12))) ∧
  (∀ (g : Group) (pix : Nat) (pc t : Addr) (active taken : Mask),
     pix < 8 → g.paths.length = 8 → (g.path pix).live = true → (∃ k, k < 8 ∧ (g.path k).live = false) →
     taken &&& ~~~active = 0 → taken ≠ 0 → active &&& ~~~taken ≠ 0 → active &&& ~~~sliceLanes (g.path pix).slices = 0 →
     let fall : Dest := { pc := pc + 12, lanes := active &&& ~~~taken, seq := true }
     let onto : Dest := { pc := t, lanes := taken, seq := false }
     let g' := g.transfer pix pc active [fall, onto]
     let whole := fun k => (g.path pix).slices.getLsbD k && (active &&& sliceLanes (1 <<< k)) != 0 &&
       (active &&& sliceLanes (1 <<< k)) &&& ~~~taken == 0
     let mixed := fun k => (g.path pix).slices.getLsbD k && !whole k && (taken &&& sliceLanes (1 <<< k)) != 0
     (g'.path pix).mask = active &&& ~~~taken ∧
     (g'.path pix).pc = (g.seqNext pc (g.path pix).lp (active &&& ~~~taken)).1 ∧
     (∀ k, k < 8 → (g'.path pix).slices.getLsbD k = ((g.path pix).slices.getLsbD k && !whole k)) ∧
     ((∃ k, k < 8 ∧ whole k = true) →
       (g'.path g.freeIx).live = true ∧ (g'.path g.freeIx).pc = t ∧ (g'.path g.freeIx).lp = (g.path pix).lp ∧
       (g'.path g.freeIx).stat = .run ∧
       (∀ k, k < 8 → (g'.path g.freeIx).slices.getLsbD k = whole k) ∧
       (∀ l, l < 32 → (g'.path g.freeIx).mask.getLsbD l = (taken.getLsbD l && whole (l / 4)))) ∧
     g'.deferrals = ((List.range 8).filter mixed).reverse.map (fun k =>
       ({ owner := pix, pc := t, mask := taken &&& sliceLanes (1 <<< k),
          region := (g.innermost (g.path pix).mask).map (fun r => r.ix), lp := (g.path pix).lp } : Deferral)) ++ g.deferrals)

/-- `loop` and `loopx` (R90) set the path's loop state and send it to the first governed instruction, or past the last one
where the count is 0. Where sequential execution goes (R91): at LOOPE with LOOPC not zero, back to LOOPS with LOOPC
less one, unless LOOPC is 1 or the exit predicate is 0 in every enabled lane, which clear LOOPC and leave the loop;
anywhere else to PC + 12. -/
def Obligations.LoopsRunTheirTest : Prop :=
  (∀ w : XK, ∀ r ∈ ([(.loop w, 7), (.loopx w, match w.b with | .p n => n | _ => 7)] : List (Instr × BitVec 3)),
     ∀ s : State, s.clear r.1 w.h = true →
     let e := reads s r.1 w.h
     (e.act = 0 → Runs r.1 w.h unused s (fun g => g)) ∧
     (e.act ≠ 0 → Jumps r.1 w.h unused s (fun g => g.updPath e.pix (fun p =>
       { p with
         lp := { loopc := e.uni w.a, loops := e.path.pc + 12, loope := e.path.pc + w.k.signExtend 57, loopp := r.2 },
         pc := if e.uni w.a = 0 then e.path.pc + w.k.signExtend 57 + 12 else e.path.pc + 12 })))) ∧
  (∀ (g : Group) (pc : Addr) (lp : LoopSt) (mask : Mask),
     let stop := lp.loopc = 1 ∨ (lp.loopp ≠ 7 ∧ ∀ l, l < 32 → (g.regs.emask &&& mask).getLsbD l = true →
       (g.rdP lp.loopp.toNat).getLsbD l = false)
     (lp.loopc = 0 ∨ pc ≠ lp.loope → g.seqNext pc lp mask = (pc + 12, lp)) ∧
     (lp.loopc ≠ 0 → pc = lp.loope → stop → g.seqNext pc lp mask = (lp.loope + 12, { lp with loopc := 0 })) ∧
     (lp.loopc ≠ 0 → pc = lp.loope → ¬stop → g.seqNext pc lp mask = (lp.loops, { lp with loopc := lp.loopc - 1 })))

/-- `nop`, `join`, `exit`, `yield`, `sleep`, `brk` (R93 to R96) and the end of a sleep: the region that a `join` opens
with Active() as its lanes, or ILLEGAL_FIELD where 16 are open; the lanes that `exit` ends; the group that `yield`
puts behind its peers; the path that sleeps until its issue clk plus n; and the trap of `brk`. The lanes that `exit`
ends (R94, R22): they count as exited; a path with lanes left goes on with them; one with none runs its newest
deferral entry; one with neither, and none of whose lanes has arrived before, frees its index. -/
def Obligations.JoinExitYieldSleepBreak : Prop :=
  ((∀ (w : XN) (s : State), s.clear (.nop w) w.h = true → Runs (.nop w) w.h unused s (fun g => g)) ∧
   (∀ (w : XK) (s : State), s.clear (.join w) w.h = true →
     let e := reads s (.join w) w.h
     (e.act = 0 → Runs (.join w) w.h unused s (fun g => g)) ∧
     (e.act ≠ 0 → ∀ i, e.g.freeRegion = some i → Runs (.join w) w.h unused s (fun g =>
       { g with regions := { ix := i, pc := e.path.pc + w.k.signExtend 57, lanes := e.act, came := 0, opener := some e.pix } :: g.regions })) ∧
     (e.act ≠ 0 → e.g.freeRegion = none → Traps (.join w) s { cause := .illegalField, lmask := e.act })) ∧
   (∀ (w : XN) (s : State), s.clear (.exit w) w.h = true →
     let e := reads s (.exit w) w.h
     (e.act = 0 → Runs (.exit w) w.h unused s (fun g => g)) ∧
     (e.act ≠ 0 → grainOn (s.touch (.exit w)) e.g = false →
       ((e.g.path e.pix).mask &&& ~~~e.act ≠ 0 → Runs (.exit w) w.h unused s (fun g => g.exitLanes e.pix e.act)) ∧
       ((e.g.path e.pix).mask &&& ~~~e.act = 0 → Jumps (.exit w) w.h unused s (fun g => g.exitLanes e.pix e.act)))) ∧
   (∀ (w : XN) (s : State), s.clear (.yield w) w.h = true →
     let e := reads s (.yield w) w.h
     (e.act = 0 → Runs (.yield w) w.h unused s (fun g => g)) ∧
     (e.act ≠ 0 → Becomes (.yield w) s
       (advance (.yield w) w.h unused e (s.touch (.yield w))
         { (s.touch (.yield w)).updGrp s.cur.gid (fun g => { g with age := s.nextPlace }) with nextPlace := s.nextPlace + 1 }))) ∧
   (∀ (w : XK) (s : State), s.clear (.sleep w) w.h = true →
     let e := reads s (.sleep w) w.h
     (e.act = 0 ∨ w.k = 0 → Runs (.sleep w) w.h unused s (fun g => g)) ∧
     (e.act ≠ 0 → w.k ≠ 0 → Runs (.sleep w) w.h unused s (fun g => g.updPath e.pix (fun p =>
       { p with stat := .sleeping ((s.dieOf e.g.die).clk + w.k.toNat) })))) ∧
   (∀ (w : XK) (s : State), s.clear (.brk w) w.h = true → (reads s (.brk w) w.h).act ≠ 0 →
     Traps (.brk w) s { cause := .breakpoint, lmask := (reads s (.brk w) w.h).act, info := w.k, next := true }) ∧
   (∀ (w : Who) (s : State) (d : Nat), ((s.grp w.gid).path w.path).stat = .sleeping d →
     d ≤ (s.dieOf (s.grp w.gid).die).clk → (s.ctxOf (s.grp w.gid).pasid).on.contains (s.grp w.gid).die = true →
     Becomes (.sleepExpiry w) s
       (s.updGrp w.gid (fun g => (g.updPath w.path (fun p => { p with stat := .run })).settle)))) ∧
  (∀ (g : Group) (pix : Nat) (lanes : Mask), pix < 8 → g.paths.length = 8 →
     (g.exitLanes pix lanes).exited = g.exited ||| lanes ∧
     ((g.path pix).mask &&& ~~~lanes ≠ 0 →
       ((g.exitLanes pix lanes).path pix) = { g.path pix with mask := (g.path pix).mask &&& ~~~lanes }) ∧
     (∀ d rest, (g.path pix).mask &&& ~~~lanes = 0 → g.deferrals = d :: rest → d.owner = pix →
       ((g.exitLanes pix lanes).path pix) = { g.path pix with pc := d.pc, mask := d.mask, lp := d.lp } ∧
       (g.exitLanes pix lanes).deferrals = rest) ∧
     ((g.path pix).mask &&& ~~~lanes = 0 → (∀ d ∈ g.deferrals, d.owner ≠ pix) →
       (∀ r ∈ g.regions, r.came &&& sliceLanes (g.path pix).slices = 0) →
       ((g.exitLanes pix lanes).path pix).live = false))

/-! ### Traps (R397 to R408) -/

/-- What a trap writes in the frame of its path (R399, R400): the cause, the path, its address, the resume point, the
lanes, the counters and the loop state; a precise one has IMP and SKID 0 and resumes at its instruction, or for `brk`
and `trap` at the next one with the loop test run; NESTED, NCAUSE and NPC stay; and any wait of the path is forgotten.
An answer of the host that the trap of an external context came from is used up (R352). An imprecise fault that is due
in the path enters instead of a precise trap (R405). IMPRECISE_FAULT_ENTRY (R400, R402, R403): the oldest held fault
of a path leaves the held list and enters it: IMP is 1, FPC is the faulting instruction, RPC the instruction that the
path would issue next, and SKID the instructions issued between; an arrival that the path has recorded is taken back.
REGISTER_LINE_FILL (R35, R36): the line that a group stalls for, or a line of its footprint that was replaced, comes
into its partition's register cache as the line used last, and any other fill changes nothing. -/
def Obligations.TrapsEnterWithTheirFrame : Prop :=
  (∀ (s : State) (gid pix : Nat) (t : Trap),
     let g := s.grp gid
     let p := g.path pix
     (∀ h, g.dueFault pix = some h → s.precise gid pix t = s.imprecise gid pix h) ∧
     (p.frame.inH = false → g.dueFault pix = none →
     let onto := if t.next then g.seqNext p.pc p.lp p.mask else (p.pc, p.lp)
     let c := s.ctxOf g.pasid
     ∃ f : Frame,
       f.cause = t.cause.code ∧ f.path = BitVec.ofNat 3 pix ∧ f.imp = false ∧ f.skid = 0 ∧
       f.fpc = p.pc.setWidth 64 ∧ f.rpc = onto.1.setWidth 64 ∧ f.faddr = t.faddr ∧ f.lmask = t.lmask ∧ f.pmask = p.mask ∧
       f.info = t.info ∧ f.held = g.heldOf pix ∧ f.exprec = t.exprec ∧ f.fndrec = t.fndrec ∧ f.ctrs = g.ctrs ∧ f.dcur = g.cursor ∧
       f.loopc = onto.2.loopc ∧ f.loops = onto.2.loops.setWidth 64 ∧ f.loope = onto.2.loope.setWidth 64 ∧ f.loopp = onto.2.loopp ∧
       f.inH = false ∧ f.stop = false ∧ f.pend = false ∧
       f.nested = p.frame.nested ∧ f.ncause = p.frame.ncause ∧ f.npc = p.frame.npc ∧
       s.precise gid pix t =
         ({ s with rest := s.rest.filter (fun e => e.who != ({ gid := gid, path := pix } : Who)) }.usedUp g t).updGrp gid
           (fun g => (g.enter pix (s.dieOf g.die).clk c.attach c.dvec f).settle) ∧
       (c.ext = false ∨ (t.cause ≠ .memNotPresent ∧ t.cause ≠ .memProtection) → ∀ s1 : State, s1.ctxs = s.ctxs →
         s1.usedUp g t = s1))) ∧
  ((∀ (w : Who) (s : State) (h : HeldFault), s.resident (s.grp w.gid) = true →
     (s.grp w.gid).dueFault w.path = some h →
     let p := (s.grp w.gid).path w.path
     let c := s.ctxOf (s.grp w.gid).pasid
     ∃ f : Frame,
       f.cause = h.cause.code ∧ f.imp = true ∧ f.fpc = h.fpc.setWidth 64 ∧ f.rpc = p.pc.setWidth 64 ∧ f.faddr = h.faddr ∧
       f.lmask = h.lmask ∧ f.pmask = p.mask ∧
       f.held = { s.grp w.gid with faults := (s.grp w.gid).faults.filter (fun x => x != h) }.heldOf w.path ∧ f.skid = BitVec.ofNat 16 (min (p.issued - h.issuedAt) 65535) ∧
       f.loopc = p.lp.loopc ∧ f.loops = p.lp.loops.setWidth 64 ∧ f.loope = p.lp.loope.setWidth 64 ∧ f.loopp = p.lp.loopp ∧
       Becomes (.impreciseFaultEntry w) s
         ({ s with rest := s.rest.filter (fun e => e.who != ({ gid := w.gid, path := w.path } : Who)) }.updGrp w.gid
           (fun g => (({ g with faults := g.faults.filter (fun x => x != h) }.takeBack w.path).enter w.path (s.dieOf g.die).clk
             c.attach c.dvec f).settle))) ∧
   (∀ (gid line : Nat) (s : State), s.resident (s.grp gid) = true →
     (s.grp gid).missing = some line ∨ (s.grp gid).absent.contains line = true →
     Becomes (.registerLineFill gid line) s
       (s.updGrp gid (fun g =>
         { g with
           lines := (line, s.tick) :: g.lines.filter (fun x => x.1 != line), absent := g.absent.filter (fun l => l != line),
           missing := if g.missing = some line then none else g.missing }))) ∧
   (∀ (gid line : Nat) (s : State), ((s.grp gid).missing ≠ some line ∧ (s.grp gid).absent.contains line = false) ∨
       s.resident (s.grp gid) = false → Becomes (.registerLineFill gid line) s s))

/-- Where entry sends the path (R400, R401, R405): LOOPC is 0; with no debugger in the way, TRAPVEC, or else DVEC, is the
path's PC and IN is 1, but a vector of 0 or no multiple of 12 stops the path with IN 0; a pending debug halt or an
attached debugger stops it before its handler with PEND 1. Mask, slices and the other paths stay. A precise cause in a
handler is nested (R404): the frame keeps everything but NESTED, NCAUSE and NPC, and the path stops where it stands. -/
def Obligations.TrapEntryVectorsOrStopsThePath : Prop :=
  (∀ (g : Group) (pix clk : Nat) (attach : Bool) (dvec : BitVec 64) (f : Frame), pix < g.paths.length →
     let v := if g.regs.trapvec = 0 then dvec else g.regs.trapvec
     let p := g.path pix
     let p' := (g.enter pix clk attach dvec f).path pix
     p'.lp = { p.lp with loopc := 0 } ∧ p'.mask = p.mask ∧ p'.slices = p.slices ∧ p'.live = p.live ∧ p'.wait = none ∧
     (p.haltPend = true ∨ attach = true → p'.frame = { f with pend := true } ∧ p'.pc = p.pc) ∧
     (p.haltPend = false → attach = false →
       (v ≠ 0 ∧ v.toNat % 12 = 0 → p'.frame = { f with inH := true } ∧ p'.pc = v.setWidth 57) ∧
       (v = 0 ∨ v.toNat % 12 ≠ 0 → p'.frame = { f with stop := true } ∧ p'.pc = p.pc)) ∧
     (∀ k, k ≠ pix → (g.enter pix clk attach dvec f).path k = g.path k) ∧
     (g.enter pix clk attach dvec f).regs = g.regs) ∧
  (∀ (s : State) (gid pix : Nat) (t : Trap), s.has gid = true → ((s.grp gid).path pix).frame.inH = true →
     pix < (s.grp gid).paths.length →
     let p := (s.grp gid).path pix
     let p' := ((s.precise gid pix t).grp gid).path pix
     p'.frame = { p.frame with nested := true, ncause := t.cause.code, npc := p.pc.setWidth 64, stop := true } ∧
     p'.pc = p.pc ∧ p'.mask = p.mask ∧ p'.lp = p.lp ∧
     ((s.precise gid pix t).grp gid).regs = (s.grp gid).regs)

/-- The 64-bit words of a frame, which `csrrd` reads (R399, R407). `csrrd` and `csrwr` (R407): a special register or a
word of the path's frame is read, as a pair where it has 64 bits and D is an even V or S register, HELD as it stands;
a special register is written under R81; and RPC, the loop fields and ACT of the frame are written in a handler, with
every other field kept. -/
def Obligations.ControlRegistersAndFrameWords : Prop :=
  (∀ f : Frame,
     frameWord f 0 = f.skid ++ f.held ++ (0 : BitVec 2) ++ BitVec.ofBool f.pend ++ BitVec.ofBool f.stop ++
       BitVec.ofBool f.nested ++ BitVec.ofBool f.inH ++ BitVec.ofBool f.imp ++ f.ncause ++ (0 : BitVec 13) ++ f.path ++ f.cause ∧
     frameWord f 1 = f.fpc ∧ frameWord f 2 = f.rpc ∧ frameWord f 3 = f.faddr ∧ frameWord f 4 = f.pmask ++ f.lmask ∧
     frameWord f 5 = f.info ++ f.loopc ∧ frameWord f 6 = f.loops ∧ frameWord f 7 = f.loope ∧ frameWord f 8 = f.npc ∧
     frameWord f 9 = (0 : BitVec 25) ++ f.loopp ++ f.ctrs ∧ frameWord f 10 = f.dcur ∧
     (∀ k, k ∈ [11, 12, 13, 14, 15, 24, 25, 26, 27, 28, 29, 30, 31] → frameWord f k = 0) ∧
     (∀ k, k < 4 → frameWord f (16 + k) = f.exprec.extractLsb' (64 * k) 64) ∧
     (∀ k, k < 4 → frameWord f (20 + k) = f.fndrec.extractLsb' (64 * k) 64)) ∧
  ((∀ w : XK,
     let n := w.k.toNat
     let wide := decide (0x100 ≤ n) || sr64 (BitVec.ofNat 8 n)
     Results (.csrrd w) w.h w.d unused (wide && match w.d with | .v k => evenIx k | .s k => evenIx k | _ => false)
       (fun e l v => v = if n < 0x100 then e.sr n l else frameWord (e.g.frameNow e.pix) (n - 0x100))) ∧
   (∀ (w : XK) (s : State), s.clear (.csrwr w) w.h = true →
     let e := reads s (.csrwr w) w.h
     let n := w.k.toNat
     let wide := decide (0x100 ≤ n) || sr64 (BitVec.ofNat 8 n)
     let v := e.read wide w.a (lowest e.act)
     (e.act = 0 → Runs (.csrwr w) w.h unused s (fun g => g)) ∧
     (e.act ≠ 0 → n < 0x100 → srValueBad (.sr (BitVec.ofNat 8 n)) v = false →
       Runs (.csrwr w) w.h unused s (fun g => g.srWrite e.pix n v)) ∧
     (e.act ≠ 0 → n < 0x100 → srValueBad (.sr (BitVec.ofNat 8 n)) v = true →
       Traps (.csrwr w) s { cause := .illegalField, lmask := e.act }) ∧
     (e.act ≠ 0 → 0x100 ≤ n → v &&& frameReserved (n - 0x100) ≠ 0 →
       Traps (.csrwr w) s { cause := .illegalField, lmask := e.act }) ∧
     (e.act ≠ 0 → 0x100 ≤ n → v &&& frameReserved (n - 0x100) = 0 →
       e.path.frame.inH = false ∨ (v ^^^ frameWord (e.g.frameNow e.pix) (n - 0x100)) &&& ~~~frameRw (n - 0x100) ≠ 0 →
       Traps (.csrwr w) s { cause := .illegalOperand, lmask := e.act }) ∧
     (e.act ≠ 0 → 0x100 ≤ n → v &&& frameReserved (n - 0x100) = 0 → e.path.frame.inH = true →
       (v ^^^ frameWord (e.g.frameNow e.pix) (n - 0x100)) &&& ~~~frameRw (n - 0x100) = 0 →
       (n = 0x102 → v.toNat % 12 ≠ 0 → Traps (.csrwr w) s { cause := .memAlign, faddr := v, lmask := e.act }) ∧
       (n ≠ 0x102 ∨ v.toNat % 12 = 0 → Runs (.csrwr w) w.h unused s (fun g => g.updPath e.pix (fun p =>
         { p with frame := frameSet p.frame (n - 0x100) v }))))))

/-- `trap`, `halt`, `trcon`, `trcoff`, and `logmark` where nothing is logged (R408, R423, R428, R282): the trap of
`trap` with its constant; a `halt` in a handler that meets a pending debug halt records it as a nested cause at the next
instruction; and TRON. -/
def Obligations.TrapHaltAndGates : Prop :=
  (∀ (w : XK) (s : State), s.clear (.trap w) w.h = true →
    let e := reads s (.trap w) w.h
    (e.act = 0 → Runs (.trap w) w.h unused s (fun g => g)) ∧
    (e.act ≠ 0 → Traps (.trap w) s { cause := .userTrap, lmask := e.act, info := w.k, next := true })) ∧
  (∀ (w : XN) (s : State), s.clear (.halt w) w.h = true →
    let e := reads s (.halt w) w.h
    let due := e.act ≠ 0 ∧ e.path.haltPend = true ∧ e.path.frame.inH = true
    (¬due → Runs (.halt w) w.h unused s (fun g => g)) ∧
    (due → Runs (.halt w) w.h unused s (fun g => g.updPath e.pix (fun p =>
      { p with wait := none, haltPend := false, stepping := false, holdSince := none,
               stat := match p.stat with | .sleeping d => .sleeping d | .arrived r => .arrived r | _ => .run,
               frame := { p.frame with nested := true, ncause := 0x39, stop := true,
                                       npc := (e.g.seqNext e.path.pc e.path.lp e.path.mask).1.setWidth 64 } })))) ∧
  (∀ w : XN, ∀ r ∈ ([(.trcon w, true), (.trcoff w, false)] : List (Instr × Bool)), ∀ s : State, s.clear r.1 w.h = true →
    Runs r.1 w.h unused s (fun g =>
      if (reads s r.1 w.h).act = 0 then g else { g with regs := { g.regs with tron := r.2 } })) ∧
  (∀ (w : XK) (s : State), s.clear (.logmark w) w.h = true →
    grainOn (s.touch (.logmark w)) (reads s (.logmark w) w.h).g = false →
    Runs (.logmark w) w.h unused s (fun g => g))

/-- `rte` (R408): outside a handler ILLEGAL_OPERAND; with a cursor whose ACT is 2 or more ILLEGAL_FIELD; otherwise the
path leaves its handler. With no stopped drain to decide on and no held fault, it goes on at RPC with the loop state of
its frame and IN 0. -/
def Obligations.ReturnFromTrap : Prop :=
  ∀ (w : XN) (s : State), s.clear (.rte w) w.h = true →
    let e := reads s (.rte w) w.h
    let f := e.path.frame
    (e.act = 0 → Runs (.rte w) w.h unused s (fun g => g)) ∧
    (e.act ≠ 0 → f.inH = false → Traps (.rte w) s { cause := .illegalOperand, lmask := e.act }) ∧
    (e.act ≠ 0 → f.inH = true → f.dcur.getLsbD 63 = true → 2 ≤ (f.dcur.extractLsb' 60 2).toNat →
      Traps (.rte w) s { cause := .illegalField, lmask := e.act }) ∧
    (e.act ≠ 0 → f.inH = true → f.dcur.getLsbD 63 = false →
      (∀ h ∈ e.g.faults, e.g.faultPath h ≠ e.pix) →
      Jumps (.rte w) w.h unused s (fun g => g.updPath e.pix (fun p =>
        { p with pc := p.frame.rpc.setWidth 57,
                 lp := { loopc := p.frame.loopc, loops := p.frame.loops.setWidth 57,
                         loope := p.frame.loope.setWidth 57, loopp := p.frame.loopp },
                 frame := { p.frame with inH := false, dcur := p.frame.dcur &&& 0x7FFFFFFFFFFFFFFF } })))

/-! ### Memory access (R199 to R219, R241 to R246) -/

/-- Addresses (R199, R200): a GLOBAL address is the pair A plus the signed offset B, modulo 2^57; an object keeps its
identity, and its offset is taken modulo 2^40; a scratchpad address is 32 bits; a CB4 element counts its offset in
nibbles. A scratchpad address names a role that the block has, and all its bytes lie in that role's scratchpad; in
SCRATCH it is an offset in the group's own. -/
def Obligations.AddressesAndTheirBounds : Prop :=
  (∀ (e : Env) (a b : Operand) (l : Nat),
    let off := (e.rd b l).toInt
    let base := e.read true a l
    e.addr .gbl false a b l = ((((base.toNat : Int) + off) % 2 ^ 57).toNat, none) ∧
    e.addr .obj false a b l =
      (base.toNat / 2 ^ 40 * 2 ^ 40 + (((base.toNat : Int) + off) % 2 ^ 40).toNat, none) ∧
    (∀ sp ∈ ([.scr, .cls] : List Space),
      e.addr sp false a b l = ((((e.rd a l).toNat + off) % 2 ^ 32).toNat, none)) ∧
    (let n := ((2 * (base.toNat : Int) + off) % 2 ^ 58).toNat
     e.addr .gbl true a b l = (n / 2, some (decide (n % 2 = 1))))) ∧
  (∀ (e : Env) (raw n : Nat),
    let h := e.launch.hdr
    let holds := fun (role : Nat) => role < h.roles ∧ role * ((h.groups + h.roles - 1) / h.roles) < e.blockGroups
    (∀ p, e.scrAddr .scr raw n = some p ↔
      raw < 2 ^ 20 ∧ holds e.g.role ∧ raw + n ≤ h.scratch ∧ p = e.g.role * 2 ^ 20 + raw) ∧
    (∀ p, e.scrAddr .cls raw n = some p ↔
      raw < 2 ^ 22 ∧ holds (raw / 2 ^ 20) ∧ raw % 2 ^ 20 + n ≤ h.scratch ∧ p = raw))

/-- Loads (R200, R209, R246): the lanes whose addresses are misaligned raise MEM_ALIGN, and else those outside their
scratchpad MEM_BOUNDS, and in scoreboard mode TRAP those that meet a word of a peer store in flight
SCOREBOARD_UNDERSIZED (R219), with the address of the lowest; otherwise the load is counted and its elements are in
flight, one for each lane of Active(), or for the lowest alone where D is scalar. `ldacq` is an acquire and converts
nothing. Stores (R200, R210, R246): the checks of loads, in every lane of Active(); otherwise the store is counted
with the values read and converted at its issue, whose events set flags then. `strel` is a release and converts
nothing. -/
def Obligations.LoadsAndStoresIssue : Prop :=
  (∀ w : XA, ∀ r ∈ ([(.ldGbl w, .gbl, w.rf, false), (.ldObj w, .obj, w.rf, false), (.ldScr w, .scr, w.rf, false),
       (.ldCls w, .cls, w.rf, false), (.ldacq w, .gbl, w.mf, true)] : List (Instr × Space × BitVec 4 × Bool)),
     ∀ s : State, s.clear r.1 w.h = true →
     let e := reads s r.1 w.h
     let sp := r.2.1
     let n := elemBytes w.mf
     let ls := e.lanesFor w.d
     let raw := fun l => (e.addr sp (w.mf == 14) w.a w.b l).1
     let bad := failing ls (fun l => w.mf != 14 && decide (raw l % n ≠ 0))
     let out := failing ls (fun l => (e.scrAddr sp (raw l) n).isNone)
     let own := (((s.touch r.1).grp s.cur.gid).before e.pix).map (fun o => o.id)
     let met := failing ls (fun l => sp.isScr && e.launch.sbmode == 1 &&
       !((s.touch r.1).inFlight e.g own ((e.scrAddr sp (raw l) n).getD 0) n).isEmpty)
     Free e (spaceCtr sp true) →
     (bad ≠ 0 → Traps r.1 s { cause := .memAlign, faddr := BitVec.ofNat 64 (raw (lowest bad)), lmask := bad }) ∧
     (bad = 0 → sp.isScr = true → out ≠ 0 →
       Traps r.1 s { cause := .memBounds, faddr := BitVec.ofNat 64 (raw (lowest out)), lmask := out }) ∧
     (bad = 0 → sp.isScr = false ∨ out = 0 → met ≠ 0 →
       Traps r.1 s { cause := .scoreboardUndersized, faddr := BitVec.ofNat 64 (raw (lowest met)), lmask := met }) ∧
     (bad = 0 → sp.isScr = false ∨ out = 0 → met = 0 →
       Issues r.1 w.h w.c s (post e (spaceCtr sp true)
         (elements ls (fun l => if sp.isScr then (e.scrAddr sp (raw l) n).getD 0 else raw l)
           (fun l => (e.addr sp (w.mf == 14) w.a w.b l).2) (fun _ => (0, 0)))
         w.scope w.sk (if r.2.2.2 then 1 else 0) false
         (.load sp w.d w.mf r.2.2.1 (BitVec.ofNat 3 (e.mode w.rnd)) w.sat (probeOf w) r.2.2.2)))) ∧
  ((∀ w : XA, ∀ r ∈ ([(.stGbl w, .gbl), (.stObj w, .obj), (.stScr w, .scr), (.stCls w, .cls)] : List (Instr × Space)),
     ∀ s : State, s.clear r.1 w.h = true →
     let e := reads s r.1 w.h
     let sp := r.2
     let n := elemBytes w.mf
     let ls := lanesOf e.act
     let raw := fun l => (e.addr sp (w.mf == 14) w.a w.b l).1
     let bad := failing ls (fun l => w.mf != 14 && decide (raw l % n ≠ 0))
     let out := failing ls (fun l => (e.scrAddr sp (raw l) n).isNone)
     let v := fun l => if w.mf = 14 then
         (BitVec.ofNat 64 (if w.sat then
             (max 0 (min 15 (intOf w.rf.toNat ((e.read (wideFmt w.rf) w.d l).toNat % 2 ^ fmtBits w.rf)))).toNat
           else (e.read (wideFmt w.rf) w.d l).toNat % 2 ^ fmtBits w.rf % 16), (0 : Events))
       else
         let c := convert w.rf.toNat w.mf.toNat (e.mode w.rnd) w.sat ((e.read (wideFmt w.rf) w.d l).toNat % 2 ^ fmtBits w.rf)
         (BitVec.ofNat 64 c.1, c.2)
     Free e (spaceCtr sp false) →
     (bad ≠ 0 → Traps r.1 s { cause := .memAlign, faddr := BitVec.ofNat 64 (raw (lowest bad)), lmask := bad }) ∧
     (bad = 0 → sp.isScr = true → out ≠ 0 →
       Traps r.1 s { cause := .memBounds, faddr := BitVec.ofNat 64 (raw (lowest out)), lmask := out }) ∧
     (bad = 0 → sp.isScr = false ∨ out = 0 →
       Issues r.1 w.h w.c s (fun s1 => (post e (spaceCtr sp false)
         (elements ls (fun l => if sp.isScr then (e.scrAddr sp (raw l) n).getD 0 else raw l)
           (fun l => (e.addr sp (w.mf == 14) w.a w.b l).2) (fun l => ((v l).1, 0)))
         w.scope w.sk 0 true (.store sp w.mf false false) s1).updGrp s.cur.gid
           (fun g => g.raise (s.dieOf e.g.die).clk (eventsOf e.act (fun l => (v l).2)))))) ∧
   (∀ (w : XA) (s : State), s.clear (.strel w) w.h = true →
     let e := reads s (.strel w) w.h
     let raw := fun l => (e.addr .gbl (w.mf == 14) w.a w.b l).1
     let bad := failing (lanesOf e.act) (fun l => w.mf != 14 && decide (raw l % fmtBytes w.mf ≠ 0))
     Free e .st →
     (bad ≠ 0 → Traps (.strel w) s { cause := .memAlign, faddr := BitVec.ofNat 64 (raw (lowest bad)), lmask := bad }) ∧
     (bad = 0 → Issues (.strel w) w.h w.c s (post e .st
       (elements (lanesOf e.act) raw (fun _ => none) (fun l => (e.read (wideFmt w.mf) w.d l, 0)))
       w.scope w.sk 2 true (.store .gbl w.mf false false)))))

/-- `ldt` and `stt` (R212 to R214): an offset that is no multiple of 64 or outside the role's scratchpad traps; a legal
record gives each lane its element, an element outside loads 0 or is not stored, and the operation is counted in the
record's space; a hop scope on a scratchpad record is ILLEGAL_FIELD. An element's address is the base plus Σ coordinate · stride elements; where CLIP is 1, a load's
coordinates are clamped to their extents. -/
def Obligations.TensorAccesses : Prop :=
  (∀ w : XA, ∀ r ∈ ([(.ldt w, true), (.stt w, false)] : List (Instr × Bool)), ∀ s : State, s.clear r.1 w.h = true →
    let e := reads s r.1 w.h
    let o := (e.uni w.a).toNat
    let ctr := if r.2 then Ctr.ld else Ctr.st
    let kind := if r.2 then OpKind.load .gbl w.d 6 w.rf (BitVec.ofNat 3 (e.mode w.rnd)) w.sat (probeOf w) false
      else OpKind.store .gbl 6 false false
    (e.act = 0 → e.g.ctr ctr < 63 →
      exec r.1 s = .next (advance r.1 w.h w.c e (s.touch r.1) (if r.2 then post e ctr [] w.scope w.sk 0 false kind (s.touch r.1)
        else (post e ctr [] w.scope w.sk 0 true kind (s.touch r.1)).updGrp s.cur.gid (fun g => g.raise (s.dieOf e.g.die).clk 0)))) ∧
    (e.act ≠ 0 → o % 64 ≠ 0 → Traps r.1 s { cause := .memAlign, faddr := BitVec.ofNat 64 o, lmask := e.act }) ∧
    (e.act ≠ 0 → o % 64 = 0 → e.launch.hdr.scratch ≤ o →
      Traps r.1 s { cause := .memBounds, faddr := BitVec.ofNat 64 o, lmask := e.act }) ∧
    (∀ t : Tsr, e.act ≠ 0 → e.readTsr (s.touch r.1) o w.mf.toNat w.rf = .ok t → t.space = 0 →
      Free e ctr →
      let es := fun (ls : List Nat) (val : Nat → DWord) => (ls.filterMap (fun l => (e.tensorElem w t r.2 l).map (fun x =>
        ({ lane := x.lane, addr := x.raw, nib := x.nib, val := val l, val2 := 0, ver := none } : Elem))))
      let outside := fun (ls : List Nat) => elements (ls.filter (fun l => (e.tensorElem w t r.2 l).isNone))
        (fun _ => 0) (fun _ => none) (fun _ => (0, 1))
      let v := fun l => e.stored t.fmt w.rf w.rnd w.sat w.d l
      let aside := fun (s1 : State) => s1.updGrp s.cur.gid (fun g =>
        { g with ops := updBy (fun o => o.id == s.nextId) (fun o => { o with ahead := true }) g.ops })
      (r.2 = true → Issues r.1 w.h w.c s (fun s1 => aside (post e .ld
        (es (e.lanesFor w.d) (fun _ => 0) ++ outside (e.lanesFor w.d))
        w.scope w.sk 0 false (.load .gbl w.d t.fmt w.rf (BitVec.ofNat 3 (e.mode w.rnd)) w.sat (probeOf w) false) s1))) ∧
      (r.2 = false → Issues r.1 w.h w.c s (fun s1 => aside (
        (post e .st (es (lanesOf e.act) (fun l => (v l).1)) w.scope w.sk 0 true (.store .gbl t.fmt false false) s1).updGrp
          s.cur.gid (fun g => g.raise (s.dieOf e.g.die).clk
            ((es (lanesOf e.act) (fun _ => 0)).foldl (fun a x => a ||| (v x.lane).2) 0)))))) ∧
    (∀ t : Tsr, e.act ≠ 0 → e.readTsr (s.touch r.1) o w.mf.toNat w.rf = .ok t → (tsrSpace t).isScr = true → w.sk = true →
      Traps r.1 s { cause := .illegalField, lmask := e.act })) ∧
  (∀ (e : Env) (w : XA) (t : Tsr) (load : Bool) (l : Nat), t.fmt ≠ 14 → t.rot = 0 → t.ndim ≤ t.ext.length →
    let c := e.coords w t l
    let ext := t.ext.take t.ndim
    let inside := ∀ k, k < t.ndim → 0 ≤ getAt 0 c k ∧ getAt 0 c k < ((getAt (0 : Nat) ext k : Nat) : Int)
    let at_ := fun (c : List Int) =>
      (((t.base : Int) + elemIndex c t.str * fmtBytes t.fmt) % (if t.space = 0 then 2 ^ 57 else 2 ^ 32)).toNat
    (inside → e.tensorElem w t load l = some { lane := l, raw := at_ c, nib := none }) ∧
    (¬inside → load = false ∨ t.clip ≠ 1 ∨ (∃ x ∈ ext, x = 0) → e.tensorElem w t load l = none) ∧
    (¬inside → load = true → t.clip = 1 → (∀ x ∈ ext, 0 < x) →
      e.tensorElem w t load l = some { lane := l, raw := at_ (clampTo c ext), nib := none }))

/-- Atomics (R243, R244), with no grain ring at work: MEM_ALIGN on misaligned addresses; otherwise the operation is
counted, in AT where it returns a value and in ST where not, with one element for each lane, or for the lowest alone
where D is scalar, and its values read at issue. The new value of an atomic on an integer format of w bits, with `old`
and the operand both below 2^w (R242, R243): add and sub modulo 2^w, min and max in the format's own order, the
bitwise ones, exch the operand, incw 0 where old is at least the operand and else old + 1, decw the operand where old
is 0 or above it and else old − 1; no events. -/
def Obligations.AtomicsIssueAndCompute : Prop :=
  ((∀ w : XA, ∀ r ∈ ([(.atomAdd w, .add), (.atomSub w, .sub), (.atomMin w, .min), (.atomMax w, .max), (.atomAnd w, .and),
       (.atomOr w, .or), (.atomXor w, .xor), (.atomExch w, .exch), (.atomIncw w, .incw), (.atomDecw w, .decw)] :
       List (Instr × AtomOp)), ∀ s : State, s.clear r.1 w.h = true →
     let e := reads s r.1 w.h
     let ls := e.lanesFor w.d
     let raw := fun l => (e.addr .gbl (w.mf == 14) w.a w.b l).1
     let bad := failing ls (fun l => w.mf != 14 && decide (raw l % fmtBytes w.mf ≠ 0))
     Free e .at → grainOn (s.touch r.1) e.g = false →
     (bad ≠ 0 → Traps r.1 s { cause := .memAlign, faddr := BitVec.ofNat 64 (raw (lowest bad)), lmask := bad }) ∧
     (bad = 0 → Issues r.1 w.h w.c s (post e .at
       (elements ls raw (fun _ => none) (fun l => atomVal w.mf w.c e l)) w.scope w.sk w.ord true
       (.atomic r.2 w.mf (some w.d))))) ∧
   (∀ w : XA, ∀ r ∈ ([(.redAdd w, .add), (.redSub w, .sub), (.redMin w, .min), (.redMax w, .max), (.redAnd w, .and),
       (.redOr w, .or), (.redXor w, .xor), (.redIncw w, .incw), (.redDecw w, .decw)] : List (Instr × AtomOp)),
     ∀ s : State, s.clear r.1 w.h = true →
     let e := reads s r.1 w.h
     let raw := fun l => (e.addr .gbl (w.mf == 14) w.a w.b l).1
     let bad := failing (lanesOf e.act) (fun l => w.mf != 14 && decide (raw l % fmtBytes w.mf ≠ 0))
     Free e .st → grainOn (s.touch r.1) e.g = false →
     (bad ≠ 0 → Traps r.1 s { cause := .memAlign, faddr := BitVec.ofNat 64 (raw (lowest bad)), lmask := bad }) ∧
     (bad = 0 → Issues r.1 w.h w.c s (post e .st
       (elements (lanesOf e.act) raw (fun _ => none) (fun l => atomVal w.mf w.d e l)) w.scope w.sk w.ord true
       (.atomic r.2 w.mf none)))) ∧
   (∀ (w : XA) (s : State), s.clear (.cas w) w.h = true →
     let e := reads s (.cas w) w.h
     let ls := e.lanesFor w.d
     let raw := fun l => (e.addr .gbl (w.mf == 14) w.a (.imm 0) l).1
     let bad := failing ls (fun l => w.mf != 14 && decide (raw l % fmtBytes w.mf ≠ 0))
     Free e .at → grainOn (s.touch (.cas w)) e.g = false →
     (bad ≠ 0 → Traps (.cas w) s { cause := .memAlign, faddr := BitVec.ofNat 64 (raw (lowest bad)), lmask := bad }) ∧
     (bad = 0 → Issues (.cas w) w.h w.c s (post e .at
       (elements ls raw (fun _ => none)
         (fun l => (e.read (wideFmt w.mf) w.b l, e.read (wideFmt w.mf) w.c l))) w.scope w.sk w.ord true
       (.cas w.mf w.d))))) ∧
  (∀ (mf : BitVec 4) (old : Nat) (e : Elem), mf.toNat < 8 → old < 2 ^ fmtBits mf → e.val.toNat < 2 ^ fmtBits mf →
     let M := 2 ^ fmtBits mf
     let v := e.val.toNat
     let lt := intOf mf.toNat old < intOf mf.toNat v
     let is := fun (op : AtomOp) (x : Nat) => atomNew op mf old e = (x, 0)
     is .add ((old + v) % M) ∧ is .sub ((old + (M - v)) % M) ∧ is .exch v ∧
     (lt → is .min old ∧ is .max v) ∧ (¬lt → is .min v ∧ is .max old) ∧
     is .and (old &&& v) ∧ is .or (old ||| v) ∧ is .xor (old ^^^ v) ∧
     is .incw (if v ≤ old then 0 else old + 1) ∧ is .decw (if old = 0 ∨ v < old then v else old - 1))

/-- `prf`, `probe`, `pgreq` and `peerst` (R215 to R218): `prf` only advances; `probe` is counted as a load of its lanes'
addresses; `pgreq` adds the pages that have no request yet to the die's, at most 256, and else waits; `peerst` waits for
the accesses that R222 orders before it (log entry 86), reserves an arrival for each word, and waits while one of them is
taken. -/
def Obligations.PrefetchProbeRequestAndPeerStore : Prop :=
  (∀ (w : XN) (s : State), s.clear (.prf w) w.h = true → Runs (.prf w) w.h unused s (fun g => g)) ∧
  (∀ (w : XN) (s : State) (n : BitVec 3), s.clear (.probe w) w.h = true → w.d = .p n →
    let e := reads s (.probe w) w.h
    Free e .ld → Issues (.probe w) w.h unused s (post e .ld
      (elements (lanesOf e.act) (fun l => (e.addr .gbl false w.a w.b l).1) (fun _ => none) (fun _ => (0, 0)))
      0 false 0 false (.probe n))) ∧
  (∀ (w : XN) (s : State), s.clear (.pgreq w) w.h = true →
    let e := reads s (.pgreq w) w.h
    let page := fun l => (e.g.pasid, (e.addr .gbl false w.a w.b l).1 / 4096)
    let old := (s.dieOf e.g.die).pgreqs
    ∃ all : List (Nat × Nat), (∀ x, x ∈ all ↔ x ∈ old ∨ ∃ l, l < 32 ∧ e.act.getLsbD l = true ∧ x = page l) ∧
      old <+: all ∧ (old.Nodup → all.Nodup) ∧
      (all.length ≤ 256 → Issues (.pgreq w) w.h unused s (fun s1 => s1.updDie e.g.die (fun d => { d with pgreqs := all }))) ∧
      (256 < all.length → Becomes (.pgreq w) s ((s.touch (.pgreq w)).heldFor s.cur.gid e.pix 23))) ∧
  (∀ (w : XA) (s : State), s.clear (.peerst w) w.h = true →
    let e := reads s (.peerst w) w.h
    let s1 := s.touch (.peerst w)
    let raw := fun l => (e.addr .cls false w.a w.b l).1
    let bad := failing (lanesOf e.act) (fun l => decide (raw l % 4 ≠ 0))
    let out := failing (lanesOf e.act) (fun l => (e.scrAddr .cls (raw l) 4).isNone)
    let rows := (lanesOf e.act).map (fun l => (l, s1.bankRow e.g (raw l)))
    let arr := arrivals (s.dieOf e.g.die).clk (fun l => peerTime e.g.role (raw l / 2 ^ 20)) rows
    let taken := (rows.zip arr).any (fun x => (s1.reserved e.g.die).contains (x.1.2.1, x.1.2.2.1, x.2.2))
    let due := e.act ≠ 0 ∧ (s1.grp s.cur.gid).depsOf e.pix 0 true ≠ []
    Free e .sp →
    (due → Becomes (.peerst w) s (s1.heldFor s.cur.gid e.pix 5)) ∧ (¬due →
    (bad ≠ 0 → Traps (.peerst w) s { cause := .memAlign, faddr := BitVec.ofNat 64 (raw (lowest bad)), lmask := bad }) ∧
    (bad = 0 → out ≠ 0 → Traps (.peerst w) s { cause := .memBounds, faddr := BitVec.ofNat 64 (raw (lowest out)), lmask := out }) ∧
    (bad = 0 → out = 0 → taken = true → Becomes (.peerst w) s (s1.heldFor s.cur.gid e.pix 17)) ∧
    (bad = 0 → out = 0 → taken = false → Issues (.peerst w) w.h w.c s (post e .sp
      (elements (lanesOf e.act) raw (fun _ => none) (fun l => (e.read false w.d l, 0))) w.scope false 0 true (.peer arr)))))

/-- Reading and writing memory (R203): a write of bytes at a place changes those bytes alone, in their order, and keeps
the memories in their canonical form; everything else of the state but its poison record, the rest table and the
record of who wrote what stays. How elements are performed (R203, R207, R209, R210, R226, R229, R243, R244, R273): a
load's lane takes the converted value of bytes each of which is a write that R226 lets the path's view return, of
module memory, host memory or another module; a store's bytes go to its place; and an atomic writes its new value
there, from the newest old one, and returns that, or where it is a `red` nothing, and a store or an atomic that writes
sets D then (`used`, R358). What each adds to the order of R224 is `hasRead`, `hasWritten` and `hasCompared`; the
operation's element is gone and its events are kept. Each happens at an event of its own, and a group that has ended
takes no value, nor does a register that the group has loaded again since its restart (R432). -/
def Obligations.ElementsReadAndLandAtTheirPlaces : Prop :=
  (∀ (s : State) (p : PLoc) (bs : List Byte),
     (s.wrLoc p bs).rdLoc p bs.length = bs ∧
     (∀ q : PLoc, (∀ k, k < bs.length → q ≠ p.plus k) → (s.wrLoc p bs).rdLoc q 1 = s.rdLoc q 1) ∧
     (s.memWf = true → (s.wrLoc p bs).memWf = true) ∧
     { s.wrLoc p bs with mem := s.mem, hostMem := s.hostMem, remoteMem := s.remoteMem, poison := s.poison, rest := s.rest,
                         stamp := s.stamp, hist := s.hist, objMsgs := s.objMsgs } = s) ∧
  (∀ (s : State) (gid id l : Nat) (o : Op) (el : Elem) (attr : BitVec 9) (s1 : State),
     let g := s.grp gid
     let gone := fun (o : Op) (ev : Events) => { o with todo := o.todo.filter (fun x => x.lane != l), ev := o.ev ||| ev }
     let done := fun (s' : State) (ev : Events) (onto : Group → Group) => (s'.updGrp gid (fun g =>
       let g1 := { g with ops := updBy (fun x => x.id == id) (fun x => gone x ev) g.ops }
       if g.ended then g1 else onto g1)).finishOp gid id
     let late := fun (g : Group) (wide : Bool) (d : Operand) (v : DWord) =>
       if g.superseded o l then g else g.writeLate (s.dieOf g.die).clk o.path (laneBit l) wide d v
     l < 32 → g.op id = some o → findBy (fun (e : Elem) => e.lane == l) o.todo = some el → g.blocked o el = false →
     el.nib = none →
     (∀ p dst mf rf rnd sat acq, o.kind = .load .gbl dst mf rf rnd sat none acq → o.ctr = .ld → mf ≠ 14 → el.val2 = 0 →
       s.targetIn g (s.tlbFor g o.ahead el.addr) .gbl el.addr (fmtBytes mf) needR = (s1, .ok (.at_ p attr)) →
       s1.poisonedAt p (fmtBytes mf) = false →
       ∃ ps : List (Nat × Byte), ps.length = fmtBytes mf ∧
         (∀ k, k < fmtBytes mf → ∃ bound : Nat, spGet 0 o.view (p.cell + k) ≤ bound ∧
           getAt (0, 0) ps k ∈ readable bound (s1.writesOf (p.cell + k))) ∧
         let x := ofLe (ps.map (fun y => y.2))
         let c := if acq then (x, 0) else convert mf.toNat rf.toNat rnd.toNat sat x
         Becomes (.loadComplete gid id (laneBit l)) s
           (done (s1.hasRead g o (.at_ p attr) (fmtBytes mf) (ps.map (fun y => y.1))) c.2 (fun g =>
             late g (wideFmt rf) dst (extend (if acq then mf else rf).toNat c.1)))) ∧
     (∀ p mf, o.kind = .store .gbl mf false false → o.ctr = .st → mf ≠ 14 →
       s.targetIn g (s.tlbFor g o.ahead el.addr) .gbl el.addr (fmtBytes mf) needW = (s1, .ok (.at_ p attr)) →
       Becomes (.storeComplete gid id (laneBit l)) s
         (done ((s1.wrLoc p (leBytes (fmtBytes mf) el.val.toNat)).hasWritten g o (.at_ p attr) (fmtBytes mf) []) 0
           (fun g => g))) ∧
     (∀ p mf dst reads, ((∃ op d, o.kind = .atomic op mf d ∧ dst = d ∧ reads = d.isSome) ∨
         (∃ d, o.kind = .cas mf d ∧ dst = some d ∧ reads = true)) → o.ctr = (if reads then .at else .st) →
       s.target g .gbl el.addr (fmtBytes mf) (atomNeed reads).asks = (s1, .ok (.at_ p attr)) → attrPbmt attr = 0 →
       attrKind attr ≠ 2 → s1.poisonedAt p (fmtBytes mf) = false → grainOn s1 g = false →
       let e := if reads then Instr.atomicComplete gid id (laneBit l) else .storeComplete gid id (laneBit l)
       let t : Target := .at_ p attr
       let old := ofLe (s1.rdLoc p (fmtBytes mf))
       let read := s1.hasRead g o t (fmtBytes mf) (s1.stampsAt g t (fmtBytes mf))
       let put := fun v => ((read.used g el.addr (atomNeed reads)).wrLoc p (leBytes (fmtBytes mf) v)).hasWritten
         (read.grp gid) ((read.grp gid).opOr o) t (fmtBytes mf) (s1.msgsOf (s1.stampsAt g t (fmtBytes mf)))
       let onto := fun (g : Group) => match dst with
         | some d => late g (wideFmt mf) d (extend mf.toNat old)
         | none => g
       (∀ op d, o.kind = .atomic op mf d → (s1.governWaits g.pasid el.addr).2 = false →
         let n := atomNew op mf old el
         Becomes e s (done ((put n.1).govern g.pasid el.addr old n.1) n.2 onto)) ∧
       (∀ d, o.kind = .cas mf d →
         (old = el.val.toNat % 2 ^ fmtBits mf →
           Becomes e s (done (put (el.val2.toNat % 2 ^ fmtBits mf)) 0 onto)) ∧
         (old ≠ el.val.toNat % 2 ^ fmtBits mf → Becomes e s (done (read.hasCompared (read.grp gid) ((read.grp gid).opOr o) t) 0 onto)))) ∧
     (∀ sp dst mf rf rnd sat a, (sp = .scr ∨ sp = .cls) → o.kind = .load sp dst mf rf rnd sat none false → o.ctr = .sp →
       mf ≠ 14 → el.val2 = 0 → s.flightsFor g o el.addr (fmtBytes mf) = [] →
       s.alloc g.die g.lchid g.block (el.addr / 2 ^ 20) = some a →
       poisoned a.poison (el.addr % 2 ^ 20) (fmtBytes mf) = false →
       let c := convert mf.toNat rf.toNat rnd.toNat sat (ofLe (rdBytes a.bytes (el.addr % 2 ^ 20) (fmtBytes mf)))
       Becomes (.scratchpadAccessComplete gid id (laneBit l)) s
         (done (s.hasRead g o (.scr (el.addr / 2 ^ 20) (el.addr % 2 ^ 20)) (fmtBytes mf)
           (s.stampsAt g (.scr (el.addr / 2 ^ 20) (el.addr % 2 ^ 20)) (fmtBytes mf))) c.2 (fun g =>
           late g (wideFmt rf) dst (extend rf.toNat c.1)))) ∧
     (∀ arr, o.kind = .peer arr → (∃ a ∈ arr, a.1 = l ∧ a.2 ≤ (s.dieOf g.die).clk) →
       Becomes (.peerstArrival gid id (laneBit l)) s
         (done ((s.wrScr g.die g.lchid g.block (el.addr / 2 ^ 20) (el.addr % 2 ^ 20) (leBytes 4 el.val.toNat)).hasWritten g o
           (.scr (el.addr / 2 ^ 20) (el.addr % 2 ^ 20)) 4 []) 0 (fun g => g))))

/-! ### Fences, counters, sync lines, waits, barriers and semaphores (R247 to R260, R291 to R305) -/

/-- `fence`, `waitc`, `fill` and `syncinit` (R247 to R250): acquire order holds while a load or atomic of the path is
unperformed and seq_cst while any access is; release order marks the accesses that later stores and atomics follow, and
none of them where ORD is relaxed; an acquire changes only what its path has learnt, and the record of sequentially
consistent operations (R223, R228); `waitc` holds while its counter exceeds N, and then has learnt what the counter's
operations but the youngest N did; `fill` is a release store of one word of
the lowest lane's values and `syncinit` a relaxed one that tags the line, and both raise MEM_ALIGN when misaligned. -/
def Obligations.FencesCountersAndFills : Prop :=
  (∀ (w : XA) (s : State), s.clear (.fence w) w.h = true →
    let e := reads s (.fence w) w.h
    let acc := (e.g.before e.pix).filter (fun o => o.isAccess)
    let acq := w.ord = 1 ∨ w.ord = 3 ∨ w.ord = 4
    let rel := w.ord = 2 ∨ w.ord = 3 ∨ w.ord = 4
    let s1 := s.touch (.fence w)
    (e.act = 0 ∨ w.ord = 0 → Runs (.fence w) w.h w.c s (fun g => g)) ∧
    (e.act ≠ 0 → acq → (∃ o ∈ acc, o.reads = true) → Becomes (.fence w) s (s1.heldFor s.cur.gid e.pix 3)) ∧
    (e.act ≠ 0 → w.ord = 4 → (∀ o ∈ acc, o.reads = false) → acc ≠ [] →
      Becomes (.fence w) s (s1.heldFor s.cur.gid e.pix 4)) ∧
    (e.act ≠ 0 → w.ord ≠ 0 → (acq → ∀ o ∈ acc, o.reads = false) → (w.ord = 4 → acc = []) →
      Issues (.fence w) w.h w.c s (fun s1 =>
        let s2 := if acq then s1.fenceAcq s.cur.gid e.pix w.ord w.scope w.sk else s1
        if rel then s2.updGrp s.cur.gid (fun g =>
          { g.updPath e.pix (fun p => { p with
              fences := { scope := w.scope, sk := w.sk, view := (g.path e.pix).view,
                          olds := ((g.before e.pix).filter (fun o => o.isAccess)).map (fun o => o.id) } :: p.fences }) with
            ops := g.ops.map (fun o =>
              if o.past.getLsbD e.pix && !o.done then { o with rel := o.rel ||| pathBits [e.pix] } else o) })
        else s2))) ∧
  (∀ (s : State) (gid pix : Nat) (ord scope : BitVec 3) (sk : Bool),
    let t := s.fenceAcq gid pix ord scope sk
    { t with groups := s.groups, sc := s.sc } = s ∧ (ord ≠ 4 → t.sc = s.sc) ∧ (∀ k, k ≠ gid → t.grp k = s.grp k) ∧
    { t.grp gid with paths := (s.grp gid).paths } = s.grp gid ∧
    ∀ k, { (t.grp gid).path k with view := ((s.grp gid).path k).view } = (s.grp gid).path k) ∧
  (∀ (w : XW) (s : State), s.clear (.waitc w) w.h = true →
    let e := reads s (.waitc w) w.h
    let more := w.n.toNat < e.g.ctr (ctrOf w.ctr)
    (e.act = 0 → Runs (.waitc w) w.h w.c s (fun g => g)) ∧
    (e.act ≠ 0 → ¬more → Runs (.waitc w) w.h w.c s (fun g =>
      g.updPath e.pix (fun p => p.hears (g.viewOfCtr (ctrOf w.ctr) w.n.toNat)))) ∧
    (e.act ≠ 0 → more → Becomes (.waitc w) s ((s.touch (.waitc w)).heldFor s.cur.gid e.pix (ctrOf w.ctr).reason))) ∧
  (∀ w : XA, ∀ r ∈ ([(.fill w, false), (.syncinit w, true)] : List (Instr × Bool)), ∀ s : State, w.mf ≠ 14 →
    s.clear r.1 w.h = true →
    let e := reads s r.1 w.h
    let addr := (e.addr .gbl false w.a w.b (lowest e.act)).1
    let v := if wideFmt w.mf then e.uni64 w.d else (e.uni w.d).setWidth 64
    let go := fun (els : List Elem) =>
      Issues r.1 w.h w.c s (post e .st els w.scope w.sk (if r.2 then 0 else 2) true (.store .gbl w.mf r.2 true))
    Free e .st → grainOn (s.touch r.1) e.g = false →
    (e.act = 0 → go []) ∧
    (e.act ≠ 0 → addr % fmtBytes w.mf ≠ 0 → Traps r.1 s { cause := .memAlign, faddr := BitVec.ofNat 64 addr, lmask := e.act }) ∧
    (e.act ≠ 0 → addr % fmtBytes w.mf = 0 → go (elements [lowest e.act] (fun _ => addr) (fun _ => none) (fun _ => (v, 0)))))

/-- `waitw` and `waitf` (R251, R252, R295, R298), with no grain ring at work: MEM_ALIGN on a misaligned address; where
the word already differs from the comparand, or for `waitf` from 0, the wait is complete and D takes the word; a page
that forbids the wait is an imprecise MEM_PROTECTION, and a word that ASTAT does not take raises ILLEGAL_FIELD; otherwise the path parks on the word's line, unless the wait is
checked and its target is of a lower class, which raises PROGRESS_INVERSION or asks for a promotion. A wait that
completes has acquired what it read (R223). -/
def Obligations.WordWaits : Prop :=
  ∀ (w : XA) (s s1 : State) (p : PLoc) (attr : BitVec 9),
    ∀ r ∈ ([(.waitw w, true), (.waitf w, false)] : List (Instr × Bool)), s.clear r.1 w.h = true →
    let e := reads s r.1 w.h
    let wide := wideFmt w.mf
    let n := fmtBytes w.mf
    let addr := (e.uni64 w.a).toNat % 2 ^ 57
    let t := (e.uni w.c).toNat
    let cmp := if wide then e.uni64 w.b else (e.uni w.b).setWidth 64
    let who : Who := { gid := s.cur.gid, path := e.pix }
    let wt : Wait :=
      { kind := .word r.2 cmp wide, addr := addr, dst := w.d, act := e.act, scope := w.scope,
        sk := w.sk, deadline := if t = 0 then none else some ((s.dieOf e.g.die).clk + t), timeout := t,
        checked := decide (t = 0 ∨ 2 ^ 20 < t), hdr := w.h, spot := none, met := false }
    (e.act = 0 → Runs r.1 w.h w.c s (fun g => g)) ∧
    (e.act ≠ 0 → addr % n ≠ 0 → Traps r.1 s { cause := .memAlign, faddr := BitVec.ofNat 64 addr, lmask := e.act }) ∧
    (n = (if wide then 8 else 4) → e.act ≠ 0 → addr % n = 0 → grainOn (s.touch r.1) e.g = false → grainOn s1 e.g = false →
      (s.touch r.1).target e.g .gbl addr n needR = (s1, .ok (.at_ p attr)) →
      let x := ofLe (s1.rdLoc p n)
      let pass := if r.2 then x ≠ cmp.toNat % 256 ^ n else x ≠ 0
      let target := tagTarget s1 (if attrSync attr then spGet none s1.tags p.line else none)
      let onLine := { wt with spot := some (p.line, attrSync attr) }
      let parked := (s1.rested who (.line p.line) false).waiting who onLine .parked (if r.2 then 10 else 11)
      (attrPbmt attr ≠ 0 ∨ attrKind attr = 2 → Becomes r.1 s (s1.waitFault who wt .memProtection)) ∧
      (attrPbmt attr = 0 → attrKind attr ≠ 2 → s1.poisonedAt p n = true → Becomes r.1 s (s1.waitFault who wt .poison)) ∧
      (attrPbmt attr = 0 → attrKind attr ≠ 2 → s1.poisonedAt p n = false →
        (pass → srValueBad w.d (BitVec.ofNat 64 x) = false →
          Becomes r.1 s ((s1.waitHears e.g.gid e.pix wt (.at_ p attr) n).endWait who wt wide (some (BitVec.ofNat 64 x)))) ∧
        (pass → srValueBad w.d (BitVec.ofNat 64 x) = true →
          Becomes r.1 s ((s.touch r.1).precise s.cur.gid e.pix { cause := .illegalField, lmask := e.act })) ∧
        (¬pass → (0 < t ∧ t ≤ 2 ^ 20) ∨ (t = 0 ∨ 2 ^ 20 < t) ∧
            (s1.launchOf e.g.die e.g.lchid).cls.toNat ≤ target.1.toNat → Becomes r.1 s parked) ∧
        (¬pass → t = 0 ∨ 2 ^ 20 < t → target.1.toNat < (s1.launchOf e.g.die e.g.lchid).cls.toNat →
          (∀ l, target.2 = some l → l.pasid ≠ e.g.pasid) → Becomes r.1 s (s1.precise s.cur.gid e.pix
            { cause := .progressInversion, faddr := BitVec.ofNat 64 addr, lmask := e.act })) ∧
        (∀ l, ¬pass → t = 0 ∨ 2 ^ 20 < t → target.1.toNat < (s1.launchOf e.g.die e.g.lchid).cls.toNat →
          target.2 = some l → l.pasid = e.g.pasid → Becomes r.1 s
            (((s1.rested who (.line p.line) false).waiting who onLine .promoting 24).requestPromotion who l))))

/-- The end of a wait (R45, R47, R111, R251): the path leaves the rest table, D and its duplicate take the value in the
wait's lanes, but a uniform D of a path above which another has written it in this clk (R77), the path's earlier
unfinished writes of D are forgotten (R69), and the path, running again, goes on at the next instruction of R91 with
the stall and the yield of its own. The events of waits (R251, R252, R278, R279): a woken entry of the rest table, or
a deadline that has come, lets a parked path whose context runs read again; in replay a held path tries again, an
operation with the records that have come for its lanes, one of which may raise a fault. A timeout writes the word
read then. A hold of HOLDLIM × 1,024 clk whose condition is still unmet raises REPLAY_DIVERGE; every other event
changes nothing. -/
def Obligations.WaitsEndWakeAndTimeOut : Prop :=
  (∀ (s : State) (w : Who) (x : Wait) (wide : Bool) (v : Option DWord), s.has w.gid = true →
     let t := s.endWait w x wide v
     let g := s.grp w.gid
     let g' := t.grp w.gid
     let clk := (s.dieOf g.die).clk
     let g1 := match v with
       | some v =>
         let d := { g with regs := g.regs.settled clk }.writeDup w.path x.act wide x.hdr x.dst unused (fun _ => v)
         if g.outranked clk w.path x.dst = true then { d with s := g.s, regs := { g.regs.settled clk with xp := d.regs.xp } }
         else d
       | none => g
     (∀ r ∈ t.rest, r.who ≠ w) ∧ (∀ k, k ≠ w.gid → t.grp k = s.grp k) ∧
     { t with groups := s.groups, nextPlace := s.nextPlace, rest := s.rest } = s ∧
     g'.v = g1.v ∧ g'.s = g1.s ∧ g'.q = g1.q ∧ g'.x = g1.x ∧ g'.p = g1.p ∧
     { g'.regs with astatWas := g1.regs.astatWas, astatClk := g1.regs.astatClk } = g1.regs ∧
     (g.regions = [] → w.path < g.paths.length →
       let p' := g'.path w.path
       (p'.pc, p'.lp) = g1.seqNext (g1.path w.path).pc (g1.path w.path).lp (g1.path w.path).mask ∧
       p'.stat = .run ∧ p'.wait = none ∧ p'.earliest = clk + 1 + x.hdr.stall.toNat ∧
       (v.isSome = true → ∀ y ∈ g'.sb, y ∈ g.sb ∧ ¬(y.path = w.path ∧ y.reg ∈ regsOf (use1 wide x.dst))))) ∧
  ((∀ (w : Who) (s : State) (x : Wait), let g := s.grp w.gid
     let ready := g.place.isSome = true ∧ (s.ctxOf g.pasid).on.contains g.die = true
     (g.path w.path).wait = some x →
     ((g.path w.path).stat = .parked →
       (ready → s.rest.any (fun e => e.who == w && e.woken) = true →
         Becomes (.restTableWake w) s ((s.unrested w).carryWait w x)) ∧
       (¬ready ∨ s.rest.any (fun e => e.who == w && e.woken) = false → Becomes (.restTableWake w) s s) ∧
       (∀ d, x.deadline = some d → d ≤ (s.dieOf g.die).clk → ready →
         Becomes (.waitTimeout w) s ((s.unrested w).carryWait w x)) ∧
       (x.deadline = none ∨ (∃ d, x.deadline = some d ∧ (s.dieOf g.die).clk < d) ∨ ¬ready →
         Becomes (.waitTimeout w) s s)) ∧
     ((g.path w.path).stat = .replayHold → ready →
       (∀ id s1, x.kind = .op id → s.rematch w.gid id = (s1, none) →
         Becomes (.replayHoldRelease w) s ((s1.performOp w.gid id 0xFFFFFFFF).carryWait w x)) ∧
       (∀ id s1 c a b, x.kind = .op id → s.rematch w.gid id = (s1, some (c, a, b)) → Becomes (.replayHoldRelease w) s
         ((dropHeld w (some x) s1).precise w.gid w.path { cause := c, lmask := x.act, exprec := a, fndrec := b })) ∧
       ((∀ id, x.kind ≠ .op id) → Becomes (.replayHoldRelease w) s (s.carryWait w x)))) ∧
   (∀ (w : Who) (s s1 : State) (x : Wait) (p : PLoc) (attr : BitVec 9) (ne wide : Bool) (cmp : BitVec 64) (d : Nat),
     let g := s.grp w.gid
     let n := if wide then 8 else 4
     x.kind = .word ne cmp wide → x.deadline = some d → d ≤ (s.dieOf g.die).clk →
     s.target g .gbl x.addr n needR = (s1, .ok (.at_ p attr)) → grainOn s1 g = false → attrPbmt attr = 0 →
     attrKind attr ≠ 2 → s1.poisonedAt p n = false → srValueBad x.dst (BitVec.ofNat 64 (ofLe (s1.rdLoc p n))) = false →
     s.carryWait w x = (s1.waitHears g.gid w.path x (.at_ p attr) n).endWait w x wide
       (some (BitVec.ofNat 64 (ofLe (s1.rdLoc p n))))) ∧
   (∀ (w : Who) (s : State) (t : Nat) (r : Option Nat), let g := s.grp w.gid
     let c := s.ctxOf g.pasid
     let p := g.path w.path
     p.holdSince = some t → s.heldRecord g w.path = some r → p.mayHold = true → g.place.isSome = true →
     grainHoldLim s c ≠ 0 → t + grainHoldLim s c * 1024 ≤ spGet 0 c.runClk g.die →
     Becomes (.replayHoldTimeout w) s ((dropHeld w p.wait s).precise w.gid w.path
       { cause := .replayDiverge, exprec := (heldBits s g r).1, fndrec := (heldBits s g r).2,
         lmask := match p.wait with
           | some y => y.act
           | none => g.regs.emask &&& p.mask })) ∧
   (∀ (w : Who) (s : State), let p := (s.grp w.gid).path w.path
     p.wait = none →
     Becomes (.restTableWake w) s s ∧ Becomes (.waitTimeout w) s s ∧ Becomes (.replayHoldRelease w) s s ∧
     (p.holdSince = none → Becomes (.replayHoldTimeout w) s s)))

/-- Barrier objects (R253 to R258): the phase completes, with PHASE one more and ARRIVED and BYTES 0, when ARRIVED is the
effective count and BYTES is 0; `barinit` writes EXPECT and the launch's class and zeros, and traps on an EXPECT of 0
or above 65,535; `barwt` is complete once PHASE is 1 to 2^31 beyond its operand, and parks otherwise; `bar` and
`bararv` record their path's arrival, hold the path, and make the participant's arrival, one more in ARRIVED, with its
last path; `bararv` has added its bytes and written the PHASE to D before that, and traps with no change to the object
where D does not take the PHASE or its arrival, made at once, would find ARRIVED at the count; POISON is imprecise.
The objects are those that no peer word in flight is bound for. Semaphores (R259, R260), with no grain ring at work: a
number above 1,023 raises ILLEGAL_OPERAND, and one outside the launch's range MEM_PROTECTION with FADDR 2^63 + number;
`semop` is counted in AT, and when it is performed adds its amount, returns the old value, wakes the word's waits and,
for an amount other than 0, tags it with its launch; `semwait` subtracts its need from a word that is at least that
and writes 1 to D, and parks, or at its timeout writes 0, otherwise. -/
def Obligations.BarriersAndSemaphores : Prop :=
  ((∀ x e a b : Nat, x < 2 ^ 98 → b < 2 ^ 32 → a < 2 ^ 16 →
     let y := barUpdate x e a b
     barExpect y = barExpect x ∧ barCls y = barCls x ∧
     (a = e ∧ b = 0 → barPhase y = (barPhase x + 1) % 2 ^ 32 ∧ barArrived y = 0 ∧ barBytes y = 0) ∧
     (¬(a = e ∧ b = 0) → barPhase y = barPhase x ∧ barArrived y = a ∧ barBytes y = b)) ∧
   (∀ (w : XW) (s : State) (o : Nat) (al : Alloc), s.clear (.barinit w) w.h = true →
     let e := reads s (.barinit w) w.h
     let n := (e.uni w.b).toNat
     let s1 := s.touch (.barinit w)
     (e.act = 0 → Runs (.barinit w) w.h w.c s (fun g => g)) ∧
     (e.act ≠ 0 → n = 0 ∨ 65535 < n → Traps (.barinit w) s { cause := .illegalOperand, lmask := e.act }) ∧
     (e.act ≠ 0 → 0 < n → n ≤ 65535 → w.n = 0 → (e.uni w.a).toNat = o → o % 16 = 0 →
       e.scrAddr .scr o 16 = some (e.g.role * 2 ^ 20 + o) → o < 2 ^ 20 →
       s1.alloc e.g.die e.g.lchid e.g.block e.g.role = some al → poisoned al.poison o 16 = false →
       s1.inFlight e.g [] (e.g.role * 2 ^ 20 + o) 16 = [] →
       ofLe (rdBytes al.bytes o 16) < 2 ^ 98 →
       ∃ m v, Issues (.barinit w) w.h w.c s (fun s1 =>
         { s1.wrScr e.g.die e.g.lchid e.g.block e.g.role o (leBytes 16 (n + 2 ^ 96 * e.launch.cls.toNat)) with
           objMsgs := m }.updGrp s.cur.gid (fun g => g.updPath e.pix (fun p => p.hears v))))) ∧
   (∀ (w : XW) (s : State) (addr : Nat), s.clear (.barwt w) w.h = true →
     let e := reads s (.barwt w) w.h
     let s1 := s.touch (.barwt w)
     let who : Who := { gid := s.cur.gid, path := e.pix }
     let sp := barSpace w.n
     let wt := e.wait s1 w.h (.bar sp (e.uni w.b) true) addr unused w.scope 0 (sp == .gbl)
     (e.act = 0 → Runs (.barwt w) w.h w.c s (fun g => g)) ∧
     (e.act ≠ 0 → e.barAddr w = .ok addr → Becomes (.barwt w) s (s1.carryWait who wt)) ∧
     (∀ al : Alloc, e.act ≠ 0 → e.barAddr w = .ok addr → w.n = 0 ∨ w.n = 1 →
       s1.alloc e.g.die e.g.lchid e.g.block (addr / 2 ^ 20) = some al → s1.inFlight e.g [] addr 16 = [] →
       poisoned al.poison (addr % 2 ^ 20) 16 = true → Becomes (.barwt w) s (s1.waitFault who wt .poison)) ∧
     (∀ al : Alloc, e.act ≠ 0 → e.barAddr w = .ok addr → w.n = 0 ∨ w.n = 1 →
       s1.alloc e.g.die e.g.lchid e.g.block (addr / 2 ^ 20) = some al → s1.inFlight e.g [] addr 16 = [] →
       poisoned al.poison (addr % 2 ^ 20) 16 = false →
       let x := ofLe (rdBytes al.bytes (addr % 2 ^ 20) 16)
       let d := (BitVec.ofNat 32 (barPhase x) - e.uni w.b).toNat
       (2 ^ 98 ≤ x → Becomes (.barwt w) s (s1.precise s.cur.gid e.pix { cause := .illegalOperand, lmask := e.act })) ∧
       (x < 2 ^ 98 → 1 ≤ d → d ≤ 2 ^ 31 → Becomes (.barwt w) s ((s1.keyHears e.g.gid e.pix wt
         (barKey (Target.objNo (.scr (addr / 2 ^ 20) (addr % 2 ^ 20)) e.g) (some (e.uni w.b).toNat))).endWait who wt false none)) ∧
       (x < 2 ^ 98 → ¬(1 ≤ d ∧ d ≤ 2 ^ 31) → ∃ t, Becomes (.barwt w) s t ∧ (∀ k, k ≠ s.cur.gid → t.grp k = s.grp k) ∧
         ((t.grp s.cur.gid).path e.pix).stat = .parked ∧ ((t.grp s.cur.gid).path e.pix).wait = some wt))) ∧
   (∀ (w : XW) (s : State) (addr : Nat), s.clear (.bar w) w.h = true →
     let e := reads s (.bar w) w.h
     let s1 := s.touch (.bar w)
     let who : Who := { gid := s.cur.gid, path := e.pix }
     let sp := barSpace w.n
     (e.act = 0 → Runs (.bar w) w.h w.c s (fun g => g)) ∧
     (∀ t, e.act ≠ 0 → e.barAddr w = .error t → Traps (.bar w) s t) ∧
     (e.act ≠ 0 → e.barAddr w = .ok addr → s1.recordArrival who sp addr = none →
       Traps (.bar w) s { cause := .illegalOperand, lmask := e.act }) ∧
     (∀ s2, e.act ≠ 0 → e.barAddr w = .ok addr → s1.recordArrival who sp addr = some s2 →
       Becomes (.bar w) s ((s2.waiting who (e.wait s1 w.h (.arriving sp false) addr unused w.scope 0 (sp == .gbl)) .parked
         9).settleBars s.cur.gid))) ∧
   (∀ (w : XW) (s : State) (addr : Nat) (al : Alloc), s.clear (.bararv w) w.h = true →
     let e := reads s (.bararv w) w.h
     let s1 := s.touch (.bararv w)
     let who : Who := { gid := s.cur.gid, path := e.pix }
     let sp := barSpace w.n
     let role := addr / 2 ^ 20
     let o := addr % 2 ^ 20
     (e.act = 0 → Runs (.bararv w) w.h w.c s (fun g => g)) ∧
     (e.act ≠ 0 → e.barAddr w = .ok addr → s1.recordArrival who sp addr = none →
       Traps (.bararv w) s { cause := .illegalOperand, lmask := e.act }) ∧
     (e.act ≠ 0 → e.barAddr w = .ok addr → (s1.recordArrival who sp addr).isSome = true → w.n = 0 ∨ w.n = 1 →
       s1.alloc e.g.die e.g.lchid e.g.block role = some al → poisoned al.poison o 16 = false →
       s1.inFlight e.g [] addr 16 = [] →
       let x := ofLe (rdBytes al.bytes o 16)
       x < 2 ^ 98 →
       let y := barUpdate x (s1.barCount e.g x) (barArrived x) (barBytes x + (e.uni w.b).toNat)
       let full := s1.arrivesNow who sp addr = true ∧ s1.barCount e.g x ≤ barArrived y
       (srValueBad w.d (BitVec.ofNat 64 (barPhase x)) = true →
         Traps (.bararv w) s { cause := .illegalField, lmask := e.act }) ∧
       (srValueBad w.d (BitVec.ofNat 64 (barPhase x)) = false → full →
         Traps (.bararv w) s { cause := .illegalOperand, lmask := e.act }) ∧
       (srValueBad w.d (BitVec.ofNat 64 (barPhase x)) = false → ¬full →
         ∃ m v s3,
           let s4 := ({ s1.wrScr e.g.die e.g.lchid e.g.block role o (leBytes 16 y) with objMsgs := m }.updGrp s.cur.gid
             (fun g => g.updPath e.pix (fun p => p.hears v))).updGrp s.cur.gid (fun g =>
               g.writeEnd (s.dieOf e.g.die).clk e.pix e.act false w.h w.d (BitVec.ofNat 64 (barPhase x)))
           s4.recordArrival who sp addr = some s3 ∧
           Becomes (.bararv w) s ((s3.waiting who (e.wait s4 w.h (.arriving sp true) addr unused w.scope 0 false) .parked
             9).settleBars s.cur.gid)))) ∧
   (∀ (s : State) (gid : Nat) (a : BarArrival) (al : Alloc),
     let g := s.grp gid
     let o := a.addr % 2 ^ 20
     a.sp = .scr ∨ a.sp = .cls → s.allArrived g a = true → g.releasable a = true →
     s.alloc g.die g.lchid g.block (a.addr / 2 ^ 20) = some al → poisoned al.poison o 16 = false →
     s.inFlight g [] a.addr 16 = [] →
     let x := ofLe (rdBytes al.bytes o 16)
     x < 2 ^ 98 → barArrived x < s.barCount g x →
     let y := barUpdate x (s.barCount g x) (barArrived x + 1) (barBytes x)
     ∃ m v pix, s.tryArrive gid a = arrivedPaths gid (BitVec.ofNat 32 (barPhase x)) a.paths.reverse
       (({ s.wrScr g.die g.lchid g.block (a.addr / 2 ^ 20) o (leBytes 16 y) with objMsgs := m }.updGrp gid
         (fun g => g.updPath pix (fun p => p.hears v))).updGrp gid (fun g =>
         { g.updPath pix (fun p => { p with holdSince := none }) with arrival := g.arrival.filter (fun x => x != a) })))) ∧
  ((∀ (w : XW) (s : State), s.clear (.semop w) w.h = true →
     let e := reads s (.semop w) w.h
     let n := (e.uni w.a).toNat
     Free e .at → grainOn (s.touch (.semop w)) e.g = false →
     let go := fun (els : List Elem) =>
       Issues (.semop w) w.h w.c s (post e .at els w.scope false 3 true (.sem n (e.uni w.b) w.d))
     (e.act = 0 → go []) ∧
     (e.act ≠ 0 → 1023 < n → Traps (.semop w) s { cause := .illegalOperand, lmask := e.act }) ∧
     (e.act ≠ 0 → n ≤ 1023 → n < e.launch.semBase ∨ e.launch.semBase + e.launch.semCnt ≤ n →
       Traps (.semop w) s { cause := .memProtection, faddr := BitVec.ofNat 64 (2 ^ 63 + n), lmask := e.act }) ∧
     (e.act ≠ 0 → n ≤ 1023 → e.launch.semBase ≤ n → n < e.launch.semBase + e.launch.semCnt →
       go (elements [lowest e.act] (fun _ => n) (fun _ => none) (fun _ => (0, 0))))) ∧
   (∀ (s : State) (g : Group) (o : Op) (e : Elem) (n : Nat) (amount : Word), grainOn s g = false →
     let l := s.launchOf g.die g.lchid
     ∃ m, performSem s g o e n amount = .done
       { s with
         groups := (s.updGrp g.gid (fun x =>
           x.learn o.id [] (s.learnt g o (s.objSays (semKey n))) (s.objSays (semKey n)))).groups,
         objMsgs := m,
         sems := spSet 0 s.sems n (s.sem n + amount),
         rest := updBy (fun e => e.key == RestKey.sem n) (fun e => { e with woken := true }) s.rest,
         semTags := if amount = 0 then s.semTags
           else spSet none s.semTags n (some { ctx := g.pasid, die := g.die, cls := l.cls, lch := g.lchid }) }
       (some ((s.sem n).setWidth 64)) 0) ∧
   (∀ (w : XW) (s : State), s.clear (.semwait w) w.h = true →
     let e := reads s (.semwait w) w.h
     let s1 := s.touch (.semwait w)
     let n := (e.uni w.a).toNat
     let need := (e.uni w.b).toInt
     let t := (e.uni w.c).toNat
     let who : Who := { gid := s.cur.gid, path := e.pix }
     let wt := e.wait s1 w.h (.sem n need.toNat) n w.d w.scope t (decide (t = 0 ∨ 2 ^ 20 < t))
     (e.act = 0 → Runs (.semwait w) w.h w.c s (fun g => g)) ∧
     (e.act ≠ 0 → 1023 < n ∨ need < 1 → Traps (.semwait w) s { cause := .illegalOperand, lmask := e.act }) ∧
     (e.act ≠ 0 → n ≤ 1023 → 1 ≤ need → n < e.launch.semBase ∨ e.launch.semBase + e.launch.semCnt ≤ n →
       Traps (.semwait w) s { cause := .memProtection, faddr := BitVec.ofNat 64 (2 ^ 63 + n), lmask := e.act }) ∧
     (e.act ≠ 0 → n ≤ 1023 → 1 ≤ need → e.launch.semBase ≤ n → n < e.launch.semBase + e.launch.semCnt →
       grainOn s1 e.g = false →
       (need ≤ (s.sem n).toInt → Becomes (.semwait w) s
         (((s1.keyHears e.g.gid e.pix wt (semKey n)).setSem n (s.sem n - e.uni w.b)).endWait who wt false (some 1))) ∧
       ((s.sem n).toInt < need → (0 < t ∧ t ≤ 2 ^ 20) ∨
           ((t = 0 ∨ 2 ^ 20 < t) ∧ e.launch.cls.toNat ≤ (tagTarget s1 (spGet none s1.semTags n)).1.toNat) →
         Becomes (.semwait w) s ((s1.rested who (.sem n) false).waiting who wt .parked 10)))))

/-! ### The matrix unit, the copy engine and the drain engine (R156 to R197, R261 to R265) -/

/-- The issue of matrix instructions (R156 to R163, R168 to R174, R180): ILLEGAL_OPERAND where the group has no tiles or
not the one named; for `mma` and `mmloop`, before any register is looked at, ILLEGAL_MMA where the formats have no shape, and
ILLEGAL_OPERAND where a register block
runs past v1023; a descriptor traps by its checks; otherwise the operation is counted in MX with its register operands and its
descriptors as they stand, and is
complete at once where Active() is empty. `tmov.drain` and `drainld` raise ILLEGAL_OPERAND for a slot that the launch
lacks, and `drainld` MEM_ALIGN; `rstlbl` sets RESTART in a recomputable launch and raises ILLEGAL_OPERAND in another. -/
def Obligations.MatrixInstructionsIssue : Prop :=
  (∀ (w : XT) (s : State),
    let act := fun (i : Instr) => (reads s i w.h).act
    let tiles := fun (i : Instr) => (reads s i w.h).launch.hdr.tiles
    let may := fun (i : Instr) => s.clear i w.h = true ∧ (reads s i w.h).g.ctr .mx < 63
    let has := fun (i : Instr) (t : Nat) => t < tiles i
    let bad := fun (i : Instr) => Traps i s { cause := .illegalOperand, lmask := act i }
    let V := fun (i : Instr) (o : Operand) (n : Nat) => match o with
      | .v k => (reads s i w.h).block k.toNat n
      | _ => (reads s i w.h).block 0 n
    (∀ i ∈ [Instr.mma w, .mmloop w, .tzero w, .tmovGet w, .tmovPut w, .tmovDrain w, .tsacc w], s.clear i w.h = true →
      ¬has i w.td.toNat → bad i) ∧
    (may (.tzero w) → has (.tzero w) w.td.toNat → Posts (.tzero w) w.h w.c s (.tzero w.td.toNat)) ∧
    (∀ k, w.d = .v k → may (.tmovGet w) → has (.tmovGet w) w.td.toNat →
      Posts (.tmovGet w) w.h w.c s (.get w.td.toNat k.toNat (act (.tmovGet w)) [])) ∧
    (∀ k, w.a = .v k → may (.tmovPut w) → has (.tmovPut w) w.td.toNat →
      Posts (.tmovPut w) w.h w.c s (.put w.td.toNat (act (.tmovPut w)) (V (.tmovPut w) w.a 32))) ∧
    (may (.tsacc w) → has (.tsacc w) w.td.toNat → has (.tsacc w) (w.sub.toNat % 8) →
      Posts (.tsacc w) w.h w.c s (.tsacc w.td.toNat (w.sub.toNat % 8) (lanes.map ((reads s (.tsacc w) w.h).rd w.a))
        (lanes.map ((reads s (.tsacc w) w.h).rd w.b)))) ∧
    (may (.tmovDrain w) → has (.tmovDrain w) w.td.toNat → let e := reads s (.tmovDrain w) w.h
      let p := (e.uni w.a).toNat
      (e.launch.hdr.drains ≤ p → e.act ≠ 0 → bad (.tmovDrain w)) ∧
      (p < e.launch.hdr.drains → Posts (.tmovDrain w) w.h w.c s (.drain w.td.toNat p
        ((upFrom 0 8).map (fun k => e.uni (opPlus w.b k))) (BitVec.ofNat 3 (e.mode 5)) e.g.regs.restart))) ∧
    (may (.cbld w) → 0 < tiles (.cbld w) → let e := reads s (.cbld w) w.h
      (∀ k, w.a = .v k → Posts (.cbld w) w.h w.c s (.cbld w.td.toNat (.regs (V (.cbld w) w.a 1)))) ∧
      (∀ n : BitVec 10, w.a = .s n → let w0 := e.g.rdS n.toNat
        let w1 := e.g.rdS (n.toNat + 1)
        (∀ t, e.act ≠ 0 → descTrap e w0 w1 false (some (nbits w0.toNat 19 0 + 31)) = some t → Traps (.cbld w) s t) ∧
        (descTrap e w0 w1 false (some (nbits w0.toNat 19 0 + 31)) = none → e.launch.sbmode ≠ 1 →
          Posts (.cbld w) w.h w.c s (.cbld w.td.toNat (descOf w0 w1))))) ∧
    (∀ r ∈ ([(.mma w, 1), (.mmloop w, loopCount w (reads s (.mmloop w) w.h))] : List (Instr × Nat)),
      check r.1 = none →
      let e := reads s r.1 w.h
      let act := (s.grp s.cur.gid).active s.cur.path w.h
      (mmaShape w.af w.bf w.spr = none → Traps r.1 s { cause := .illegalMma, lmask := act }) ∧
      (∀ k ab bb m, mmaShape w.af w.bf w.spr = some (k, ab, bb, m) →
        let past := fun (o : Operand) (n : Nat) => ∃ k, o = .v k ∧ 1024 < k.toNat + n
        let ovf := past w.a (r.2 * (ab / 4)) ∨ past w.b (r.2 * (bb / 4)) ∨ past w.c (r.2 * m)
        let desc := fun (n : BitVec 10) (nb : Nat) => let w0 := e.g.rdS n.toNat
          let w1 := e.g.rdS (n.toNat + 1)
          (descTrap e w0 w1 true (if r.2 = 0 then none else some (descSpan (descOf w0 w1) r.2 + nb - 1)), descOf w0 w1)
        let opnd := fun (o : Operand) (nb : Nat) (x : MatSrc) =>
          ((∃ k, o = .v k) ∧ x = .regs (V r.1 o (r.2 * (nb / 4)))) ∨
          (∃ n, o = .s n ∧ e.launch.sbmode ≠ 1 ∧ (desc n nb).1 = none ∧ x = (desc n nb).2)
        (act ≠ 0 → ovf → Traps r.1 s { cause := .illegalOperand, lmask := act }) ∧
        (s.clear r.1 w.h = true → has r.1 w.td.toNat → e.act ≠ 0 → ¬ovf → ∀ n t, w.a = .s n → (desc n ab).1 = some t →
          Traps r.1 s t) ∧
        (∀ A B, s.clear r.1 w.h = true → has r.1 w.td.toNat → ¬ovf → e.g.ctr .mx < 63 → opnd w.a ab A → opnd w.b bb B →
          Posts r.1 w.h w.c s (.mma w.td.toNat r.2 A B (V r.1 w.c (r.2 * m)) w.af w.bf (w.spr == 1) (w.sub.getLsbD 0)
            (nbits w.sub.toNat 6 4) (nbits w.sub.toNat 3 1)))))) ∧
  (∀ (w : XK) (s : State), s.clear (.drainld w) w.h = true →
    let e := reads s (.drainld w) w.h
    let p := nbits w.k.toNat 3 0
    let a := (e.uni64 w.a).toNat % 2 ^ 57
    (e.launch.hdr.drains ≤ p → Traps (.drainld w) s { cause := .illegalOperand, lmask := e.act }) ∧
    (p < e.launch.hdr.drains → 0 < e.launch.hdr.tiles → e.act ≠ 0 → a % 4 ≠ 0 →
      Traps (.drainld w) s { cause := .memAlign, faddr := BitVec.ofNat 64 a, lmask := e.act }) ∧
    (p < e.launch.hdr.drains → 0 < e.launch.hdr.tiles → a % 4 = 0 → e.g.ctr .mx < 63 →
      Posts (.drainld w) w.h unused s (.drainld p (nbits w.k.toNat 10 4) a []))) ∧
  (∀ (w : XK) (s : State), s.clear (.rstlbl w) w.h = true →
    let e := reads s (.rstlbl w) w.h
    (e.launch.hdr.recomputable = false → Traps (.rstlbl w) s { cause := .illegalOperand, lmask := e.act }) ∧
    (e.launch.hdr.recomputable = true → (e.act = 0 → Runs (.rstlbl w) w.h unused s (fun g => g)) ∧
      (e.act ≠ 0 → Runs (.rstlbl w) w.h unused s (fun g => { g with regs := { g.regs with
        restart := if w.k = 0 then 0 else e.path.pc + w.k.signExtend 57 } }))))

/-- What matrix operations do when they are performed (R163 to R168, R170 to R173, R178, R180): `tzero` clears its tile;
`tmov.get` writes the tile's rows to registers and `tmov.put` a register block to the tile, in the lanes that were
active; `tsacc` adds to each element (r·c) rounded to FP32 times the other tile's element, rounded once more; `mma`
adds to each element the sum of its k products, or of zero plus them; `cbld` fills a slot; an element outside the tile
named stays; and the operation is complete, its events due in ASTAT at the end of the clk (R114). The special sums of
R165: a NaN, or infinities of both signs, give a NaN, the latter with NV; else an infinity of one sign gives it; no
nonzero product gives +0, or −0 where all are −0; and a single exact product of at most 24 significant bits in FP32's
range gives itself. -/
def Obligations.MatrixOperationsPerform : Prop :=
  (∀ (s : State) (gid : Nat) (o : Op) (m : MatOp), s.has gid = true →
     let g := s.grp gid
     (s.nextMatrix g = none → Becomes (.matrixOpComplete gid) s s) ∧ (s.nextMatrix g = some (o, m) →
     (o.deps.any g.pending = true → Becomes (.matrixOpComplete gid) s s) ∧ (o.deps.any g.pending = false →
     let sets := fun (t : Nat) (f : Nat → Nat → Word × Events) => ∃ s', Becomes (.matrixOpComplete gid) s s' ∧
       (∀ u i j, u < 8 → i < 32 → j < 32 → (s'.grp gid).tile u i j = if u = t then (f i j).1 else g.tile u i j) ∧
       (s'.grp gid).v = g.v ∧ (s'.grp gid).regs = { g.regs with due := ((s.dieOf g.die).clk,
         lanes.foldl (fun a i => lanes.foldl (fun a j => a ||| (f i j).2) a) (0 : Events)) :: g.regs.due }
     (∀ t, m = .tzero t → t < 8 → sets t (fun _ _ => (0, 0))) ∧
     (∀ t act ws, m = .put t act ws → t < 8 →
       sets t (fun i j => (if act.getLsbD j then getAt 0 ws (32 * i + j) else g.tile t i j, 0))) ∧
     (∀ t ts rows cols, m = .tsacc t ts rows cols → t < 8 → ts < 8 → sets t (fun i j =>
       let num := fun (x : Nat) => fDecode (ffmt 9) x
       let p := numMul (num (getAt (0 : Word) rows i).toNat) (num (getAt (0 : Word) cols j).toNat)
       let r1 := fResult (ffmt 9) 0 false p.1
       let x := fusedMulAdd 0 (num r1.1) (num (g.tile ts i j).toNat) (num (g.tile t i j).toNat)
       let r2 := fResult (ffmt 9) 0 false x.1
       (BitVec.ofNat 32 r2.1, p.2 ||| r1.2 ||| x.2 ||| r2.2))) ∧
     (∀ t a b af bf zero sa sb k ab bb mw, m = .mma t 1 (.regs a) (.regs b) [] af bf false zero sa sb → t < 8 →
       mmaShape af bf 0 = some (k, ab, bb, mw) → sets t (fun i j =>
         let ca := fun x => matCode af (fun y => s.matByte g o.olds (.regs a) ab 0 i y) x
         let cb := fun x => matCode bf (fun y => s.matByte g o.olds (.regs b) bb 0 j y) x
         let r := stepElem k ((upFrom 0 k).map (fun x => (x, productOf g.slots af bf sa sb (ca x) (cb x))))
           (if zero then 0 else (g.tile t i j).toNat)
         (BitVec.ofNat 32 r.1, r.2))) ∧
     (∀ t v act, m = .get t v act [] → t < 8 → v + 32 ≤ 1024 → g.poisonTiles.contains t = false →
       ∃ s', Becomes (.matrixOpComplete gid) s s' ∧
         (∀ n l, l < 32 → (s'.grp gid).rdV n l =
           if v ≤ n ∧ n < v + 32 ∧ act.getLsbD l = true then g.tile t (n - v) l else g.rdV n l) ∧
         (s'.grp gid).tiles = g.tiles ∧ (s'.grp gid).regs.astat = g.regs.astat) ∧
     (∀ slot ws, m = .cbld slot (.regs ws) → ∃ s', Becomes (.matrixOpComplete gid) s s' ∧
       (∀ c, c < 16 → spGet 0 (s'.grp gid).slots (16 * slot + c) =
         (getAt (0 : Word) ws (c / 2)).extractLsb' (16 * (c % 2)) 16) ∧
       (∀ n, n / 16 ≠ slot → spGet 0 (s'.grp gid).slots n = spGet 0 g.slots n) ∧ (s'.grp gid).tiles = g.tiles)))) ∧
  (∀ ps : List FNum,
     let P := FNum.inf false ∈ ps
     let N := FNum.inf true ∈ ps
     ((∃ x ∈ ps, x.isNan = true) ∨ (P ∧ N) → (groupSum ps).1 = .nan false ∧ (groupSum ps).2 = if P ∧ N then evNV else 0) ∧
     ((∀ x ∈ ps, x.isNan = false) → P → ¬N → groupSum ps = (.inf false, 0)) ∧
     ((∀ x ∈ ps, x.isNan = false) → N → ¬P → groupSum ps = (.inf true, 0)) ∧
     ((∀ x ∈ ps, ∃ b, x = .zero b) → groupSum ps = (.zero (decide (∀ x ∈ ps, x = .zero true)), 0)) ∧
     (∀ b m e, ps = [.fin b m e false] → 0 < m → m < 2 ^ 24 → -126 ≤ e → e ≤ 100 →
       (groupSum ps).2 = 0 ∧ fEncode (ffmt 9) (groupSum ps).1 = fEncode (ffmt 9) (roundTo (ffmt 9) (.fin b m e false) 0).1))

/-- `xkick` and its copy (R261 to R265): the request and its two records are read at issue; a request that is not legal
traps with the cause of its first failed class, and one whose source elements meet a word in flight with
SCOREBOARD_UNDERSIZED in mode TRAP; a legal one is counted in CP with the copy. A copy's element goes from
its source to its destination, each byte as some write to it left it, zero from outside the source and dropped outside the
destination; after the last one the
copy is complete, in mode 2 with its signal word written as a release of the request's scope. -/
def Obligations.CopiesRunElementByElement : Prop :=
  (∀ (w : XN) (s : State), s.clear (.xkick w) w.h = true →
    let e := reads s (.xkick w) w.h
    let s1 := s.touch (.xkick w)
    let a := (e.uni w.a).toNat
    let at_ := fun (o n : Nat) => s1.issueBytes e.g (e.g.role * 2 ^ 20 + o) n
    let x := at_ a 128
    let inside := fun (o n : Nat) => o + n ≤ e.launch.hdr.scratch ∧ e.ready s1 o n = .go
    let xs := at_ (nbits x 31 0) 64
    let xd := at_ (nbits x 63 32) 64
    e.g.ctr .cp < 63 →
    (e.act = 0 → Issues (.xkick w) w.h unused s (fun s1 =>
      s1.addOp s.cur.gid e.pix .cp 0 [] [] 0 false 0 true (.matrix .none))) ∧
    (e.act ≠ 0 → e.launch.hdr.scratch < a + 128 → Traps (.xkick w) s
      { cause := if a % 128 ≠ 0 then .memAlign else .memBounds, faddr := BitVec.ofNat 64 a, lmask := e.act }) ∧
    (e.act ≠ 0 → inside a 128 → inside (nbits x 31 0) 64 → inside (nbits x 63 32) 64 →
      (requestIllegal x (some xs) (some xd) = true → Traps (.xkick w) s { cause := .illegalOperand, lmask := e.act }) ∧
      (requestIllegal x (some xs) (some xd) = false →
        (∀ f, requestMisaligned a x (some xs) (some xd) = some f →
          Traps (.xkick w) s { cause := .memAlign, faddr := BitVec.ofNat 64 f, lmask := e.act }) ∧
        (requestMisaligned a x (some xs) (some xd) = none →
          (∀ f, requestOutside e x (some xs) (some xd) = some f →
            Traps (.xkick w) s { cause := .memBounds, faddr := BitVec.ofNat 64 f, lmask := e.act }) ∧
          (requestOutside e x (some xs) (some xd) = none →
            let r := requestOf x (tsrOf xs) (tsrOf xd)
            (∀ f, e.copyFlight s1 r = some f → Traps (.xkick w) s
              { cause := .scoreboardUndersized, faddr := BitVec.ofNat 64 f, lmask := e.act }) ∧
            (e.copyFlight s1 r = none → Issues (.xkick w) w.h unused s (fun s1 =>
              s1.addOp s.cur.gid e.pix .cp e.act [] (e.g.depsOf e.pix 0 false) 0 false 0 false (.copy r [])))))))) ∧
  (∀ (s : State) (gid id n : Nat) (o : Op) (r : CopyReq) (done : List Nat),
    let g := s.grp gid
    g.op id = some o → o.kind = .copy r done → o.done = false → o.deps.any g.pending = false →
    let fmt := fmtBytes r.src.fmt
    let c := boxCoords r.box n
    let marked := fun (own : View) (s : State) => s.updGrp gid (fun g => { g with
      ops := updBy (fun x => x.id == id) (fun _ => { o with kind := .copy r (n :: done), own := own }) g.ops })
    let place := fun (s : State) (b : Nat) (need : Need) => s.targetIn g 2 .gbl b fmt need
    (n < boxSize r.box → n ∉ done → r.mode ≠ 1 → r.src.fmt ≠ 14 → r.dst.fmt = r.src.fmt → r.src.space = 0 → r.dst.space = 0 →
      (tsrElem r.src true (shifted c r.sorg) = none → tsrElem r.dst false (shifted c r.dorg) = none →
        ∃ own, Becomes (.tceCopy gid id [n]) s (marked own s)) ∧
      (∀ b s1 q y, tsrElem r.src true (shifted c r.sorg) = none →
        tsrElem r.dst false (shifted c r.dorg) = some (b, none) → place s b needW = (s1, .ok (.at_ q y)) →
        ∃ own, Becomes (.tceCopy gid id [n]) s (marked own (s1.wrLoc q (leBytes fmt 0)))) ∧
      (∀ a b s1 s2 p q x y, tsrElem r.src true (shifted c r.sorg) = some (a, none) →
        tsrElem r.dst false (shifted c r.dorg) = some (b, none) →
        place s a needR = (s1, .ok (.at_ p x)) → place s1 b needW = (s2, .ok (.at_ q y)) →
        s1.poisonedAt p fmt = false →
        ∃ own bs, bs.length = fmt ∧
          (∀ k, k < fmt → ∃ w ∈ s1.writesOf (p.cell + k), w.2 = getAt 0 bs k) ∧
          Becomes (.tceCopy gid id [n]) s (marked own (s2.wrLoc q (leBytes fmt (ofLe bs)))))) ∧
    (boxSize r.box ≤ n ∨ n ∈ done → Becomes (.tceCopy gid id [n]) s s) ∧
    (done.length < boxSize r.box → Becomes (.tceCopyComplete gid id) s s) ∧
    (boxSize r.box ≤ done.length →
      (r.mode ≠ 2 → Becomes (.tceCopyComplete gid id) s (s.copyDone gid o)) ∧
      (∀ s1 p x, r.mode = 2 → s.targetIn g 2 .gbl r.sigaddr 8 needW = (s1, .ok (.at_ p x)) →
        let s2 := s1.wrLoc p (leBytes 8 r.sigval.toNat)
        let wrote := viewOf (upFrom p.cell 8) (List.replicate 8 s2.stamp)
        let m : Msg :=
          { who := g.engineAgent, scope := r.scope, sk := r.sk, view := viewJoin (viewJoin o.view o.own) wrote }
        Becomes (.tceCopyComplete gid id) s
          (((s2.releasing (if s1.portReaches (.at_ p x) r.scope r.sk then [m] else [])).addOwn gid id wrote).copyDone gid o))))

/-- The drain words that compute (R181 to R183): each column's register takes the word's result on its own sources, with
FP32 results rounded once in the word's mode. The words of memory and the course of a drain (R184 to R195): a row
begins with its tile elements, its row and its column; `dld` loads a converted element into a column, and `dst` and
`dred` convert and keep theirs for later; a fault of a column stops the drain at its row, once no page of its accesses
is being moved; a program with a word that is not valid stops with KIND 2; `dend` ends a row, and the drain after row
31; its end performs what is left and completes the `tmov.drain` with its events. -/
def Obligations.DrainWordsComputeAndDrainsRun : Prop :=
  ((∀ w : DW, ∀ r ∈ ([(.dfadd w, fun m a b _ => numAdd m a b), (.dfsub w, fun m a b _ => numAdd m a (numNeg b)),
       (.dfmul w, fun _ a b _ => numMul a b),
       (.dfma w, fun m a b c => ((numAdd m (numMul a b).1 c).1, (numMul a b).2 ||| (numAdd m (numMul a b).1 c).2))] :
       List (Instr × (Nat → FNum → FNum → FNum → FNum × Events))),
     Drains r.1 w.d (fun en j v ev => Rounds 9 (en.mode w.r) w.s
       (r.2 (en.mode w.r) (en.num j w.a) (en.num j w.b) (fDecode (ffmt 9) (en.reg j w.d.toNat).toNat)) (v.setWidth 64) ev)) ∧
   (∀ w : DW, ∀ r ∈ ([(.dfmax w, true), (.dfmin w, false)] : List (Instr × Bool)),
     Drains r.1 w.d (fun en j v ev =>
       let a := en.num j w.a
       let b := en.num j w.b
       let below := numCmp a b = .lt ∨ (numCmp a b = .eq ∧ a.neg = true ∧ b.neg = false)
       ev = a.snv ||| b.snv ∧ (a.isNan → b.isNan → v = 0x7FC00000) ∧ (a.isNan → ¬b.isNan → v = en.src j w.b) ∧
       (b.isNan → ¬a.isNan → v = en.src j w.a) ∧
       (¬a.isNan → ¬b.isNan → (below → v = if r.2 then en.src j w.b else en.src j w.a) ∧
         (¬below → v = if r.2 then en.src j w.a else en.src j w.b)))) ∧
   (∀ w : DW, Drains (.drelu w) w.d (fun en j v ev =>
     let a := en.num j w.a
     ev = a.snv ∧ (a.isNan → v = 0x7FC00000) ∧ (¬a.isNan → v = if a.neg then 0 else en.src j w.a))) ∧
   (∀ w : DW, Drains (.dsel w) w.d (fun en j v ev =>
     ev = 0 ∧ v = if en.reg j w.d.toNat ≠ 0 then en.src j w.a else en.src j w.b)) ∧
   (∀ w : DW, Drains (.diadd w) w.d (fun en j v ev => ev = 0 ∧ v = en.src j w.a + en.src j w.b)) ∧
   (∀ w : DW, Drains (.dimad w) w.d (fun en j v ev =>
     ev = 0 ∧ v = en.src j w.a * en.src j w.b + en.reg j w.d.toNat)) ∧
   (∀ w : DW, Drains (.dand w) w.d (fun en j v ev => ev = 0 ∧ v = en.src j w.a &&& en.src j w.b)) ∧
   (∀ w : DW, Drains (.dmov w) w.d (fun en j v ev => ev = 0 ∧ v = en.src j w.a)) ∧
   (∀ w : DW, Drains (.dfcmp w) w.d (fun en j v ev =>
     let a := en.num j w.a
     let b := en.num j w.b
     let nan := a.isNan = true ∨ b.isNan = true
     let holds := (w.r = 0 ∧ ¬nan ∧ numCmp a b = .eq) ∨ (w.r = 1 ∧ (nan ∨ numCmp a b ≠ .eq)) ∨
       (w.r = 2 ∧ ¬nan ∧ numCmp a b = .lt) ∨ (w.r = 3 ∧ ¬nan ∧ numCmp a b ≠ .gt) ∨
       (w.r = 4 ∧ ¬nan ∧ numCmp a b = .gt) ∨ (w.r = 5 ∧ ¬nan ∧ numCmp a b ≠ .lt) ∨
       (w.r = 6 ∧ nan) ∨ (w.r = 7 ∧ ¬nan)
     (holds → v = 1) ∧ (¬holds → v = 0) ∧
     ev = if 2 ≤ w.r.toNat ∧ w.r.toNat ≤ 5 then (if a.isNan || b.isNan then evNV else 0) else a.snv ||| b.snv)) ∧
   (∀ w : DK, Drains (.dshl w) w.d (fun en j v ev => ev = 0 ∧ v = en.src j w.a <<< (w.k.toNat % 32))) ∧
   (∀ w : DK, Drains (.dmovi w) w.d (fun _ _ v ev => ev = 0 ∧ v = w.k.signExtend 32)) ∧
   (∀ w : DK, Drains (.dmovhi w) w.d (fun en j v ev =>
     ev = 0 ∧ v = w.k ++ (en.reg j w.d.toNat).extractLsb' 0 16))) ∧
  ((∀ (w : DM) (s s1 : State) (en en1 : Engine), s.engine s.eng = some en → en.active = true →
     (runCols (dldCol (s.grp en.gid) w) lanes s en = (s1, en1, [], false) →
       Becomes (.dld w) s (s1.updEngine s.eng (fun _ => { en1 with dpc := en.dpc + 1 }))) ∧
     (∀ b bad, runCols (dldCol (s.grp en.gid) w) lanes s en = (s1, en1, b :: bad, false) →
       Becomes (.dld w) s (if en1.acc.any s1.rowHeld then s1 else faultRow s1 en1 (b :: bad))) ∧
     (∀ r ∈ ([(.dst w, false), (.dred w, true)] : List (Instr × Bool)),
       (runCols (dstCol r.2 (s.grp en.gid) w) (freeCols s.tick) s en = (s1, en1, [], false) →
         Becomes r.1 s (s1.updEngine s.eng (fun _ => { en1 with dpc := en.dpc + 1 }))) ∧
       (∀ b bad, runCols (dstCol r.2 (s.grp en.gid) w) (freeCols s.tick) s en = (s1, en1, b :: bad, false) →
         Becomes r.1 s (if en1.acc.any s1.rowHeld then s1 else faultRow s1 en1 (b :: bad))))) ∧
   (∀ s : State, s.engine s.eng = none → ∀ w : DM, ∀ i ∈ [Instr.dld w, .dst w, .dred w], Becomes i s s) ∧
   (∀ (w : DM) (s s1 : State) (g : Group) (en : Engine) (o : Op) (j : Nat) (p : PLoc) (attr : BitVec 9),
     let a := ((pairOf (getAt 0 en.args (2 * w.p.toNat)) (getAt 0 en.args (2 * w.p.toNat + 1))).toNat % 2 ^ 57 +
       (en.src j w.o).toNat) % 2 ^ 57
     let n := fmtBytes w.f
     let rf := if w.g then 6 else 9
     w.x = false → g.op en.op = some o →
     (a % n ≠ 0 → dldCol g w s en j = .bad s .memAlign a ∧ ∀ red, dstCol red g w s en j = .bad s .memAlign a) ∧
     (a % n = 0 → s.target g .gbl a n needR = (s1, .ok (.at_ p attr)) → s1.poisonedAt p n = false → en.acc = [] →
       ∃ bs seen, bs.length = n ∧
         (∀ k, k < n → ∃ x ∈ s1.writesOf (p.cell + k), x.2 = getAt 0 bs k) ∧
         let c := convert w.f.toNat rf (en.mode w.r) w.s (ofLe bs)
         dldCol g w s en j = .ok (s1.addOwn en.gid en.op seen)
           { en with d := spSet 0 en.d (8 * j + w.d.toNat) (BitVec.ofNat 32 c.1), flags := en.flags ||| c.2 }) ∧
     (a % n = 0 →
       let c := convert rf w.f.toNat (en.mode w.r) w.s (en.src j w.v).toNat
       let kept := fun (s1 : State) (red : Bool) => ColRes.ok s1 { en with
         acc := en.acc ++ [{ row := en.row, col := j, red := red, mf := w.f, unit := (unitOf (.at_ p attr)).1,
                             addr := (unitOf (.at_ p attr)).2, val := BitVec.ofNat 64 c.1 }],
         flags := en.flags ||| c.2 }
       (s.target g .gbl a n needW = (s1, .ok (.at_ p attr)) → dstCol false g w s en j = kept s1 false) ∧
       (s.target g .gbl a n needW.asks = (s1, .ok (.at_ p attr)) →
         (atomicOk attr (some .add) w.f false = false → dstCol true g w s en j = .bad s1 .memProtection a) ∧
         (atomicOk attr (some .add) w.f false = true → s1.targetPoison g (.at_ p attr) n = false →
           dstCol true g w s en j = kept (s1.used g a needW) true)))) ∧
   (∀ (s : State) (en : Engine), s.engine s.eng = some en → en.active = true →
     ∃ t u, Becomes .dend s t ∧ Becomes .drst s u ∧ { t with engines := s.engines } = s ∧ { u with engines := s.engines } = s ∧
       t.engine s.eng = some (if en.row = 31 then { en with active := false, finished := true }
         else { en with active := false, row := en.row + 1 }) ∧
       u.engine s.eng = some { en with dpc := en.dpc + 1 }) ∧
   (∀ s : State, s.engine s.eng = none → Becomes .dend s s ∧ Becomes .drst s s) ∧
   (∀ (s : State) (e : EngRef) (en : Engine), s.engine e = some en → en.active = false → en.finished = false →
     ∃ t en', Becomes (.drainRow e) s t ∧ t.engine e = some en' ∧ en'.active = true ∧ en'.dpc = 0 ∧ en'.row = en.row ∧
       ∀ j, j < 32 → en'.reg j 0 = getAt 0 en.tile (32 * en.row + j) ∧ en'.reg j 1 = BitVec.ofNat 32 en.row ∧
         en'.reg j 2 = BitVec.ofNat 32 j ∧ ∀ k, 3 ≤ k → k < 8 → en'.reg j k = 0) ∧
   (∀ (s : State) (e : EngRef) (gid : Nat) (o : Op) (t p : Nat) (args : List Word) (rm : BitVec 3) (r : Addr),
     s.engine e = none → s.nextDrain e = some (gid, o) → o.kind = .matrix (.drain t p args rm r) →
     (∃ m, (s.grp gid).matrixOps.head? = some (o, m)) →
     (o.deps.any (s.grp gid).pending = true → Becomes (.drainRow e) s s) ∧
     (o.deps.any (s.grp gid).pending = false → (s.grp gid).stopped = none → (s.grp gid).poisonTiles.contains t = false →
       s.drainMemory (s.grp gid) true false = none →
       ((s.grp gid).programOk p = true → Becomes (.drainRow e) s
         { s.updGrp gid (fun g => { g with stopped := none }) with engines := (e,
           { gid := gid, op := o.id, t := t, p := p, row := 0, dpc := 0, active := true, d := rowStart ((s.grp gid).tileWords t) 0,
             args := args, rm := rm, tile := (s.grp gid).tileWords t, acc := [], flags := 0, ni := false,
             finished := false }) :: s.engines }) ∧
       ((s.grp gid).programOk p = false → Becomes (.drainRow e) s (stopDrain s gid o
         { op := o.id, path := o.path, tile := (s.grp gid).tileWords t, t := t, p := p, row := 0, args := args, rm := rm,
           kind := 2, ni := false, flags := 0, resumed := false } o.act 0)))) ∧
   (∀ (s : State) (e : EngRef), s.engine e = none → s.nextDrain e = none → Becomes (.drainRow e) s s) ∧
   (∀ (s : State) (e : EngRef), (∀ en, s.engine e = some en → en.finished = false) → Becomes (.drainComplete e) s s) ∧
   (∀ (s : State) (e : EngRef) (en : Engine) (o : Op) (t p : Nat) (args : List Word) (rm : BitVec 3) (r : Addr),
     s.engine e = some en → en.finished = true → en.acc = [] → (s.grp en.gid).op en.op = some o →
     o.kind = .matrix (.drain t p args rm r) → (s.grp en.gid).programCommits p = false ∨ r = 0 →
     ∃ s', Becomes (.drainComplete e) s s' ∧ s'.engine e = none ∧ s'.mem = s.mem ∧
       (s'.grp en.gid).regs = { (s.grp en.gid).regs with
         due := ((s.dieOf (s.grp en.gid).die).clk, en.flags) :: (s.grp en.gid).regs.due } ∧
       (s'.grp en.gid).pending en.op = false))

/-! ### Spawning, tasks, stages and promotion (R31, R298 to R328) -/

/-- `spawn` and `spawnx` (R310 to R314), with no grain ring at work: a class operand of 3 raises ILLEGAL_FIELD, and one above
the launch's own, a parameter block not at a multiple of 4, or a product of extents above 2^32 − 1 ILLEGAL_OPERAND; a
header not at a multiple of 64 raises MEM_ALIGN; a grid of no blocks creates nothing; otherwise a child launch with the
next LCHID of the die is created, unchecked, of that class and header, with the issuer as parent, whose count rises. -/
def Obligations.SpawningCreatesAChild : Prop :=
  ∀ w : XK, ∀ r ∈ ([(.spawn w, false), (.spawnx w, true)] : List (Instr × Bool)), ∀ (s : State) (b : BitVec 10),
    s.clear r.1 w.h = true → w.b = .s b →
    let e := reads s r.1 w.h
    let p := fun (k : Nat) => (e.g.rdS (b.toNat + k)).toNat
    let cls := match w.a with
      | .sr _ => e.launch.cls.toNat
      | _ => (e.uni w.a).toNat
    let sr := ∃ n, w.a = .sr n
    let hdr := (e.path.pc + w.k.signExtend 57).toNat
    let n := p 0 * p 1 * p 2
    let trap := fun (c : Cause) (f : Nat) => Traps r.1 s { cause := c, faddr := BitVec.ofNat 64 f, lmask := e.act }
    let badSr := sr ∧ w.a ≠ .sr 0x09
    let operands := ¬badSr ∧ cls ≤ e.launch.cls.toNat ∧ b.toNat % 4 = 0 ∧ b.toNat ≤ 1012 ∧ p 3 = 0 ∧
      (r.2 = false → n ≤ 2 ^ 32 - 1)
    (e.act = 0 → Runs r.1 w.h unused s (fun g => g)) ∧
    (e.act ≠ 0 → ¬badSr → cls = 3 → trap .illegalField 0) ∧
    (e.act ≠ 0 → badSr ∨ cls ≠ 3 → ¬operands → trap .illegalOperand 0) ∧
    (e.act ≠ 0 → cls ≠ 3 → operands →
      (hdr % 64 ≠ 0 → trap .memAlign hdr) ∧
      (hdr % 64 = 0 → r.2 = true → p 0 % 4 ≠ 0 → trap .memAlign (p 0 + p 1 * 2 ^ 32)) ∧
      (hdr % 64 = 0 → r.2 = false → n = 0 → Runs r.1 w.h unused s (fun g => g)) ∧
      (hdr % 64 = 0 → (r.2 = true → p 0 % 4 = 0) → (r.2 = false → n ≠ 0) → grainOn (s.touch r.1) e.g = false →
        ∃ c : Launch, Issues r.1 w.h unused s (fun s1 =>
            (s1.createLaunch c).updLaunch e.g.die e.g.lchid (fun l => { l with n := l.n + 1 })) ∧
          c.die = e.g.die ∧ c.pasid = e.g.pasid ∧ c.queue = e.launch.queue ∧ c.parent = some e.g.lchid ∧
          c.cls.toNat = cls % 4 ∧ c.hdrAddr = hdr ∧ c.unchecked = true ∧
          c.args = (upFrom 4 8).map (fun k => e.g.rdS (b.toNat + k)) ∧
          (r.2 = false → c.grid = (p 0, p 1, p 2) ∧ c.total = n ∧ c.n = n ∧ c.count = none) ∧
          (r.2 = true → c.total = 0 ∧ c.n = 1 ∧ c.count = some ((p 0 + p 1 * 2 ^ 32) % 2 ^ 57, p 2) ∧
            c.saw = e.path.view)))

/-- The life of a launch (R29, R33, R86, R309, R310, R313, R314): its checked header and count, the groups of a block as
they start, and the end of a record. The count is a relaxed load: each byte is one that some write left there. A group starts at HDR + ENTRY with the launch's eight arguments in S0 to S7, one path of all lanes,
or in compatibility mode one per half, and nothing else written. -/
def Obligations.LaunchesRunTheirBlocks : Prop :=
  (∀ (l : Launch) (gid ix grp image : Nat), l.args.length = 8 →
    let g := startGroup l gid ix grp image
    (∀ n, g.rdS n = if n < 8 then getAt 0 l.args n else 0) ∧ (∀ n k, g.rdV n k = 0) ∧
    g.regs = Group.blank.regs ∧ g.ops = [] ∧ g.tiles = [] ∧ g.slots = [] ∧ g.drains = [] ∧
    (g.path 0).pc = BitVec.ofNat 57 (l.hdrAddr + l.hdr.entry) ∧ (g.path 0).live = true ∧
    (l.hdr.compat = false → (g.path 0).mask = 0xFFFFFFFF ∧ g.live = [0]) ∧
    (l.hdr.compat = true → (g.path 0).mask = 0xFFFF ∧ (g.path 1).mask = 0xFFFF0000 ∧ g.live = [0, 1] ∧
      (g.path 1).pc = (g.path 0).pc)) ∧
  (∀ (die lchid : Nat) (places : List Place) (s s1 : State) (l : Launch),
    findBy (fun (l : Launch) => l.die == die && l.lchid == lchid) s.launches = some l → s.dispatching die l.pasid = true →
    replaying s l = false → s.promoting l.pasid = false → s.due l = true → l.unchecked = false → l.count = none →
    State.dispatchAll die lchid (if l.cls = 2 then s.waitingBlocks l else 1) places s = some s1 →
    Becomes (.blockDispatch die lchid places) s s1) ∧
  (∀ (die lchid : Nat) (places : List Place) (s : State),
    (∀ l, findBy (fun (l : Launch) => l.die == die && l.lchid == lchid) s.launches = some l →
      s.dispatching die l.pasid = false ∨
      (replaying s l = false ∧ (s.promoting l.pasid = true ∨ s.due l = false ∨ l.unchecked = true ∨ l.count ≠ none))) →
    Becomes (.blockDispatch die lchid places) s s) ∧
  (∀ (die lchid : Nat) (s s1 : State) (bs : List Byte), let l := s.launchOf die lchid
    l.unchecked = true → headRead s die l.pasid l.hdrAddr 64 = (s1, .ok bs) →
    let h := headerOf (ofLe bs)
    let fail := firstFail [headerCheck (ofLe bs) l.hdrAddr, gridCheck { h with cls := l.cls } l.grid.1 l.grid.2.1 l.grid.2.2,
      drainCheck h (s1.ctxOf l.pasid).draint]
    (fail = none → Becomes (.childHeaderCheck die lchid) s (acceptHeader s1 l h)) ∧
    (∀ f, fail = some f → Becomes (.childHeaderCheck die lchid) s (rejectChild s1 l 0x04 f.check f.value))) ∧
  (∀ (die lchid : Nat) (s s1 : State) (c : Cause), let l := s.launchOf die lchid
    (l.unchecked = true → headRead s die l.pasid l.hdrAddr 64 = (s1, .error (some c)) →
      Becomes (.childHeaderCheck die lchid) s (rejectChild s1 l 0x07 l.hdrAddr c.code.toNat)) ∧
    (l.unchecked = false → Becomes (.childHeaderCheck die lchid) s s) ∧
    (l.count = none → Becomes (.spawnxCountRead die lchid) s s)) ∧
  (∀ (die lchid a cap : Nat) (s s1 : State) (bs : List Byte), let l := s.launchOf die lchid
    l.count = some (a, cap) → l.unchecked = false → s.dispatching die l.pasid = true → s.due l = true →
    countRead s l a = (s1, .ok bs) →
    let m := min (ofLe bs) cap
    let b := (m + l.hdr.groups - 1) / l.hdr.groups
    gridCheck { l.hdr with cls := l.cls } b 1 1 = none → 0 < b →
    Becomes (.spawnxCountRead die lchid) s (s1.updLaunch die lchid (fun l =>
      { l with n := b, total := b, grid := (b, 1, 1), count := none, lastGroups := some (m - l.hdr.groups * (b - 1)) }))) ∧
  (∀ (a : Nat) (s s1 : State) (l : Launch) (bs : List Byte) (x : Xlat), headRead s l.die l.pasid a 4 = (s1, .ok bs) →
    (s1.translate l.die headCore 1 l.pasid (a % 2 ^ 57) needR).2 = .ok x →
    ∃ cs, countRead s l a = (s1, .ok cs) ∧ cs.length = 4 ∧
      ∀ k, k < 4 → ∃ y ∈ s1.writesOf (x.loc.cell + k), y.2 = getAt 0 cs k) ∧
  (∀ (gid : Nat) (s : State) (g : Group), findBy (fun (g : Group) => g.gid == gid) s.groups = some g → g.ended = true →
    g.ops = [] → g.faults = [] → ∃ t, Becomes (.groupRecordFree gid) s t ∧ t.has gid = false ∧
      (∀ r ∈ t.rest, r.who.gid ≠ gid) ∧ (∀ k, k ≠ gid → t.grp k = s.grp k) ∧ t.mem = s.mem) ∧
  (∀ (gid : Nat) (s : State), (∀ g, findBy (fun (g : Group) => g.gid == gid) s.groups = some g → g.ended = false ∨ g.ops ≠ []) →
    Becomes (.groupRecordFree gid) s s)

/-- `tasknew`, `taskget`, `taskdone`, `tasksync` and `stage` (R31, R322 to R328), with no grain ring at work: a task's
checks at issue and again at its acceptance, after which its path goes on; a receiver must be a worker of one live path
without a task, and receives the ready task or parks; the record of a task is written before it can be ready;
`taskdone` waits for the path's accesses, then takes the task out; `tasksync` closes the pool where B is
1; `stage` writes the old stage to D, or takes and writes the one that was pending before this clk, once the headstock has
written the table's counts. -/
def Obligations.TaskInstructions : Prop :=
  (∀ (w : XN) (s : State), s.clear (.tasknew w) w.h = true →
    let e := reads s (.tasknew w) w.h
    let s1 := s.touch (.tasknew w)
    let addr := (e.uni64 w.a).toNat % 2 ^ 57
    let o := (e.uni w.b).toNat
    let desc := e.scrRead s1 o 128
    let pool := poolRead s1 e.g addr
    (e.act = 0 → e.g.ctr .st < 63 → Issues (.tasknew w) w.h unused s (fun s1 =>
      s1.addOp s.cur.gid e.pix .st 0 [] [] 0 false 0 true (.matrix .none))) ∧
    (e.act ≠ 0 → e.g.ctr .st < 63 → e.ready s1 o 128 = .go →
      pool.2 ≠ .error none →
      (∀ t, taskTrap pool.1 e.g e.act addr o pool.2 desc = some t → Traps (.tasknew w) s t) ∧
      (∀ x, taskTrap pool.1 e.g e.act addr o pool.2 desc = none → desc = some x → Becomes (.tasknew w) s
        ({ pool.1 with nextId := pool.1.nextId + 1 }.waiting { gid := s.cur.gid, path := e.pix }
          (e.wait pool.1 w.h (.accept x pool.1.nextId) addr unused 0 0 false) .accepting 25)))) ∧
  (∀ (w : Who) (s s1 : State) (x : Wait) (desc d n id : Nat) (new : Pool), let g := s.grp w.gid
    (g.path w.path).wait = some x → x.kind = .accept desc n → (g.path w.path).stat = .accepting →
    (s.ctxOf g.pasid).on.contains g.die = true → poolRead s g x.addr = (s1, .ok d) →
    taskTrap s1 g x.act x.addr 0 (.ok d) (some desc) = none → s1.inFlightTasks g.die < Config.tasksInFlight →
    s1.postedBefore g.die n = false → g.ctr .st < 63 →
    ({ s1.poolNow g.pasid x.addr d with die := some g.die } : Pool).accept desc = some (new, id) →
    let s2 := s1.setPool (s1.poolNow g.pasid x.addr d) new
    Becomes (.taskAccept w) s ((s2.addOp w.gid w.path .st x.act [] ((s2.grp w.gid).depsOf w.path 0 true) 0 false 0 false
      (.taskrec x.addr id)).endWait w x false none)) ∧
  (∀ (w : Who) (s : State), ((s.grp w.gid).path w.path).wait = none ∨ ((s.grp w.gid).path w.path).stat ≠ .accepting →
    Becomes (.taskAccept w) s s) ∧
  (∀ (w : XN) (s : State), s.clear (.taskget w) w.h = true →
    let e := reads s (.taskget w) w.h
    let s1 := s.touch (.taskget w)
    let addr := (e.uni64 w.a).toNat % 2 ^ 57
    let who : Who := { gid := s.cur.gid, path := e.pix }
    let fit := e.launch.hdr.taskworker = true ∧ e.g.task = none ∧ e.g.live.length = 1
    (e.act = 0 → Runs (.taskget w) w.h unused s (fun g => g)) ∧
    (e.act ≠ 0 → ¬fit → Traps (.taskget w) s { cause := .illegalOperand, lmask := e.act }) ∧
    (e.act ≠ 0 → fit → addr % 256 ≠ 0 → Traps (.taskget w) s { cause := .memAlign, faddr := BitVec.ofNat 64 addr, lmask := e.act }) ∧
    (e.act ≠ 0 → fit → addr % 256 = 0 →
      let left : State := { s1 with pools := s1.pools.map (fun (p : Pool) => { p with waiters := p.waiters.filter (fun o => o != who) }) }
      let x := e.wait left w.h .task addr (.s 20) 4 0 true
      Becomes (.taskget w) s (left.carryWait who x) ∧
      (∀ s2 q attr, left.target e.g .gbl addr 4 needR = (s2, .ok (.at_ q attr)) → attrPbmt attr = 0 → attrKind attr ≠ 2 →
        s2.poisonedAt q 64 = false → grainOn s2 e.g = false →
        let p := s2.poolNow e.g.pasid addr (ofLe (s2.rdLoc q 64))
        (∀ t, p.nextTask = some t → s2.ahead p who = [] → Becomes (.taskget w) s (s2.giveTask who x p t)) ∧
        (p.nextTask = none → p.closed ≠ 0 → (∀ t ∈ p.tasks, t.taken = true) →
          Becomes (.taskget w) s (s2.endWait who x false (some 0)))))) ∧
  (∀ (g : Group) (p : Pool) (t : Task), t.args.length = 8 → (p.addrs t).length = 6 →
    let g' := g.takeTask p t
    (∀ k, k < 8 → g'.rdS k = getAt 0 t.args k) ∧
    (∀ k, k < 6 → g'.rdS (8 + 2 * k) = BitVec.ofNat 32 (getAt 0 (p.addrs t) k) ∧
      g'.rdS (9 + 2 * k) = BitVec.ofNat 32 (getAt 0 (p.addrs t) k / 2 ^ 32)) ∧
    g'.rdS 20 = BitVec.ofNat 32 t.id ∧ (∀ n, 21 ≤ n → g'.rdS n = g.rdS n) ∧ g'.task = some (p.addr, t.id) ∧
    { g' with s := g.s, task := g.task } = g) ∧
  (∀ (w : XN) (s : State), s.clear (.taskdone w) w.h = true →
    let e := reads s (.taskdone w) w.h
    (e.act = 0 → Runs (.taskdone w) w.h unused s (fun g => g)) ∧
    (e.act ≠ 0 → e.g.task = none ∨ e.launch.hdr.taskworker = false →
      Traps (.taskdone w) s { cause := .illegalOperand, lmask := e.act }) ∧
    (∀ addr id p, e.act ≠ 0 → e.g.task = some (addr, id) → e.launch.hdr.taskworker = true →
      ((e.g.before e.pix).any (fun o => o.isAccess) = true →
        Becomes (.taskdone w) s ((s.touch (.taskdone w)).heldFor s.cur.gid e.pix 4)) ∧
      ((e.g.before e.pix).any (fun o => o.isAccess) = false → (s.touch (.taskdone w)).poolOf e.g.pasid addr = some p →
        Issues (.taskdone w) w.h unused s (fun s1 => (s1.updGrp s.cur.gid (fun g => { g with task := none })).setPool p
          { p.release id (e.g.path e.pix).view with done := p.done + 1 })) ∧
      ((e.g.before e.pix).any (fun o => o.isAccess) = false → (s.touch (.taskdone w)).poolOf e.g.pasid addr = none →
        Runs (.taskdone w) w.h unused s (fun g => { g with task := none })))) ∧
  (∀ (w : XN) (s s1 : State) (x : Nat), s.clear (.tasksync w) w.h = true →
    let e := reads s (.tasksync w) w.h
    let addr := (e.uni64 w.a).toNat % 2 ^ 57
    let b := (e.uni w.b).toNat
    e.g.ctr .cp < 63 →
    (e.act = 0 → Issues (.tasksync w) w.h unused s (fun s1 =>
      s1.addOp s.cur.gid e.pix .cp 0 [] [] 0 false 0 true (.matrix .none))) ∧
    (e.act ≠ 0 → 2 ≤ b → Traps (.tasksync w) s { cause := .illegalOperand, lmask := e.act }) ∧
    (e.act ≠ 0 → b < 2 → addr % 256 ≠ 0 → Traps (.tasksync w) s { cause := .memAlign, faddr := BitVec.ofNat 64 addr, lmask := e.act }) ∧
    (e.act ≠ 0 → b < 2 → addr % 256 = 0 → poolRead (s.touch (.tasksync w)) e.g addr = (s1, .ok x) →
      let p := s1.poolNow e.g.pasid addr x
      let s2 := if b = 1 then s1.setPool p { p with closed := 1 } else s1
      exec (.tasksync w) s = .next (advance (.tasksync w) w.h unused e (s.touch (.tasksync w))
        (s2.addOp s.cur.gid e.pix .cp e.act [] (e.g.depsOf e.pix 0 false) 0 false 0 false (.tasksync addr p.nextid))))) ∧
  (∀ (gid op addr upto : Nat) (s : State) (o : Op) (p : Pool), let g := s.grp gid
    g.op op = some o → o.kind = .tasksync addr upto → o.done = false → o.deps.any g.pending = false →
    s.poolOf g.pasid addr = some p → p.tasks.any (fun t => decide (t.id ≤ upto)) = false →
    (p.toHome = [] → Becomes (.tasksyncCopy gid op) s (s.copyDone gid o)) ∧
    (∀ v r s1 did, p.toHome = v :: r →
      copyHome g { o with view := viewJoin o.view p.seen, ahead := true } (256 * v.range.len) (p.addrOf v.range (.buf v.start))
        (256 * v.range.base) s = (s1, .ok did) →
      Becomes (.tasksyncCopy gid op) s ((s1.setPool p ({ p with
        versions := p.versions.map (fun x => if x.start = v.start then { x with freed := true } else x) } : Pool).tidy).addOwn
          gid op did))) ∧
  (∀ (gid op addr upto : Nat) (s : State) (o : Op) (p : Pool), let g := s.grp gid
    g.op op = some o → o.kind = .tasksync addr upto →
    (o.done = true ∨ o.deps.any g.pending = true ∨
      (s.poolOf g.pasid addr = some p ∧ p.tasks.any (fun t => decide (t.id ≤ upto)) = true) →
      Becomes (.tasksyncCopy gid op) s s)) ∧
  (∀ (gid op addr id : Nat) (s s1 : State) (o : Op) (p : Pool) (t : Task), let g := s.grp gid
    g.op op = some o → o.kind = .taskrec addr id → o.done = false → o.deps.any g.pending = false →
    s.poolOf g.pasid addr = some p → findBy (fun (t : Task) => t.id == id) p.tasks = some t →
    headWriteAt s g.die g.pasid (p.tbase + 128 * t.slot) t.record = (s1, none) → ∀ ls,
    Becomes (.storeComplete gid op ls) s ((s1.setPool p (p.record id)).updGrp gid (fun g =>
      g.updOp o.id (fun o => { o with done := true })))) ∧
  (∀ (w : XN) (s : State), s.clear (.stage w) w.h = true →
    let e := reads s (.stage w) w.h
    let old := e.g.regs.stage
    (e.act = 0 → Runs (.stage w) w.h unused s (fun g => g)) ∧
    let now := e.g.regs.pendClk = (s.dieOf e.g.die).clk + 1
    (e.act ≠ 0 → e.g.regs.pendStage = none ∨ now ∨ e.launch.hdr.staged = false ∨ stageFused e = false → srValueBad w.d (old.setWidth 64) = false →
      Runs (.stage w) w.h unused s (fun g => g.writeDup e.pix e.act false w.h w.d unused (fun _ => old.setWidth 64))) ∧
    (e.act ≠ 0 → e.g.regs.pendStage ≠ none → ¬now → e.launch.hdr.staged = true → stageFused e = true →
      (s.touch (.stage w)).countsDue e.launch = true →
      Becomes (.stage w) s ((s.touch (.stage w)).heldFor s.cur.gid e.pix 26)) ∧
    (∀ v, e.act ≠ 0 → e.g.regs.pendStage = some v → ¬now → e.launch.hdr.staged = true → stageFused e = true →
      (s.touch (.stage w)).countsDue e.launch = false → grainOn (s.touch (.stage w)) e.g = false → srValueBad w.d (v.setWidth 64) = false →
      Issues (.stage w) w.h unused s (fun s1 => (s1.updGrp s.cur.gid (fun g =>
          if v = old && g.regs.pendStage.isNone then g
          else { g with regs := { g.regs with stage := v, pendStage := none } })).updGrp s.cur.gid
        (fun g => g.writeDup e.pix e.act false w.h w.d unused (fun _ => v.setWidth 64)))))

/-- `promote` and the promotion of a wait (R298 to R303, R307): the check on the line of a word; a target of a class as
high passes, one of another context or without a live launch raises PROGRESS_INVERSION, and else the path asks its
headstock. A request whose target already has the class is granted; one whose chain finds no room raises
PROGRESS_NOROOM in its path, after the reports of an image that does not hold the blocks' slots (R411) and of a want of
save slots (R417). -/
def Obligations.PromotionOfTargets : Prop :=
  (∀ (w : XN) (s s1 : State) (p : PLoc) (attr : BitVec 9), s.clear (.promote w) w.h = true →
    let e := reads s (.promote w) w.h
    let addr := (e.addr .gbl false w.a w.b (lowest e.act)).1
    let target := tagTarget s1 (if attrSync attr then spGet none s1.tags p.line else none)
    let who : Who := { gid := s.cur.gid, path := e.pix }
    (e.act = 0 ∨ e.launch.cls = 0 → Runs (.promote w) w.h unused s (fun g => g)) ∧
    (e.act ≠ 0 → e.launch.cls ≠ 0 → (s.touch (.promote w)).target e.g .gbl addr 1 needR = (s1, .ok (.at_ p attr)) →
      s1.poisonedAt p 1 = false →
      (e.launch.cls.toNat ≤ target.1.toNat →
        exec (.promote w) s = .next (advance (.promote w) w.h unused e (s.touch (.promote w)) s1)) ∧
      (target.1.toNat < e.launch.cls.toNat → (∀ l, target.2 = some l → l.pasid ≠ e.g.pasid) →
        Traps (.promote w) s { cause := .progressInversion, faddr := BitVec.ofNat 64 addr, lmask := e.act }) ∧
      (∀ l, target.1.toNat < e.launch.cls.toNat → target.2 = some l → l.pasid = e.g.pasid →
        Becomes (.promote w) s ((s1.waiting who (e.wait s1 w.h .promote addr unused 0 0 true) .promoting 24).requestPromotion who l)))) ∧
  (∀ (die : Nat) (s : State) (r : PromoReq) (l : Launch), s.nextRequest die = some r → r.plan = none →
    s.stillAsks r = true → replaying s (s.launchOf (s.grp r.who.gid).die (s.grp r.who.gid).lchid) = false →
    s.dies.any (fun d => d.promo.any (fun x => x.plan.isSome)) = false →
    findBy (fun (l : Launch) => l.die == r.tdie && l.lchid == r.target) s.launches = some l →
    let ch := chainOf s r l
    (r.cls.toNat ≤ l.cls.toNat → Becomes (.promotion die) s ((s.dropRequest die r).promoted r.who)) ∧
    (l.cls.toNat < r.cls.toNat →
      ch.links.any (fun k => k.l.unchecked || k.l.count.isSome || !s.dispatching k.l.die k.l.pasid) = false →
      (∀ x, ch.deep = some x → Becomes (.promotion die) s ((s.dropRequest die r).progressFault r.who .progressDepth (some x))) ∧
      (ch.deep = none → planChain s ch r.cls (s.freeSaves l.pasid).length = none →
        Becomes (.promotion die) s ((ch.links.foldl
          (fun (s : State) k => s.slotMet k.l ((s.toPlace k.l r.cls).length * k.l.hdr.groups))
          (planShort (s.dropRequest die r) ch r l.pasid none)).progressFault r.who .progressNoroom none)) ∧
      (∀ p s2, ch.deep = none → planChain s ch r.cls (s.freeSaves l.pasid).length = some p →
        commitPlan (planShort s ch r l.pasid (some p)) die r ch p = some s2 → Becomes (.promotion die) s s2))) ∧
  (∀ (die : Nat) (s : State) (r : PromoReq) (seats : List Seat) (vs : List (Nat × Nat × Nat)), s.nextRequest die = some r →
    r.plan = some (seats, vs) →
    (s.victimsOut vs = false → Becomes (.promotion die) s s) ∧
    (s.victimsOut vs = true → vs = [] → seats = [] → Becomes (.promotion die) s ((s.dropRequest die r).promoted r.who))) ∧
  (∀ (die : Nat) (s : State), s.nextRequest die = none → (∀ c ∈ s.ctxs, c.mode ≠ 2) → Becomes (.promotion die) s s)

/-! ### Translation, fetch and accesses from outside (R38, R216, R239, R352 to R366, R394) -/

/-- What a walk does (R353, R354, R357 to R359): where it finds a leaf that grants the access, the answer is the leaf's
frame with the page's offset, of which bits [47:0] name a PCIe address (R394), A is set in the entry and for a store
that uses the leaf D, and the TLB holds the page; an entry without V gives MEM_NOT_PRESENT, and a leaf that does not
grant the access MEM_PROTECTION, and neither changes anything but the places of the tables' pages (R362). A write of
the entry takes its place in the order of the writes to module memory (R226). The events of translation, fetch and of
accesses from outside (R38, R216, R239, R352, R358, R363, R394): a walk for a TLB that an access still misses; an ATS
reply kept for the request that it answers; a page whose move to a die with ready memory begins, holds its accesses,
and ends with its translations gone; a packet fetched into the buffers, or FETCH_FAULT, or a wait for the reply; other
modules' and the host's reads, of bytes that some write left there, writes and exchanges, on bytes that no map guards
and no entry of the object table, none of them on a page that moves; and a page request retired. -/
def Obligations.WalksFollowTheTables : Prop :=
  (∀ (s : State) (die core tlb pasid va : Nat) (n : Need) (l : Leaf), let c := s.ctxOf pasid
     (∀ e, walkFrom s.mem (va / 4096) 5 c.root = .error e →
       ∃ pl, s.walk die core tlb pasid va n = ({ s with place := pl }, .fault e)) ∧
     (walkFrom s.mem (va / 4096) 5 c.root = .ok l →
       let frame := nbits l.pte 53 10
       let vpn := va / 4096 / 512 ^ l.level * 512 ^ l.level
       let grants := (n.r → l.pte.testBit 1) ∧ (n.w → l.pte.testBit 2) ∧ (n.x → l.pte.testBit 3)
       let legal := l.pte.testBit 4 ∧ ¬l.pte.testBit 63 ∧ nbits l.pte 62 61 ≠ 3 ∧ nbits l.pte 60 58 ≤ 2
       (¬(grants ∧ legal) → ∃ pl, s.walk die core tlb pasid va n = ({ s with place := pl }, .fault .memProtection)) ∧
       (grants → legal → ∃ s' x, s.walk die core tlb pasid va n = (s', .ok x) ∧
         x.loc = (match nbits l.pte 60 58 with
           | 1 => PLoc.remote (4096 * (frame + (va / 4096 - vpn)) + va % 4096)
           | 2 => .host ((4096 * (frame + (va / 4096 - vpn)) + va % 4096) % 2 ^ 48)
           | _ => .mem (4096 * (frame + (va / 4096 - vpn)) + va % 4096)) ∧
         ofLe (rdBytes s'.mem l.at_ 8) = l.pte ||| 0x40 ||| (if n.d then 0x80 else 0) ∧
         (∀ a, a < l.at_ ∨ l.at_ + 8 ≤ a → spGet memDefault s'.mem a = spGet memDefault s.mem a) ∧
         (∃ e ∈ s'.tlb, e.hits die core tlb pasid c.gen (va / 4096) = true ∧ (n.d = true → e.dirty = true)) ∧
         { s' with mem := s.mem, poison := s.poison, rest := s.rest, tlb := s.tlb, place := s.place, stamp := s.stamp,
                   hist := s.hist } = s))) ∧
  ((∀ (die core tlb pasid : Nat) (va : BitVec 57) (write : Bool) (s : State),
     let missed := ∃ g ∈ s.groups, g.pasid = pasid ∧ g.die = die ∧ (∃ pl, g.place = some pl ∧ pl.core = core) ∧
       g.misses tlb (va.toNat / 4096) write = true
     (missed → Becomes (.pageWalk die core tlb pasid va write) s
       (s.translate die core tlb pasid va.toNat (if tlb = 0 then needX else if write then needW else needR)).1) ∧
     (¬missed → Becomes (.pageWalk die core tlb pasid va write) s s)) ∧
   (∀ (pasid : Nat) (va : BitVec 57) (r : Option AtsReply) (s : State), (∃ c ∈ s.ctxs, c.pasid = pasid) →
     (∀ pg, findBy (fun (a : AtsPage) => a.vpn == va.toNat / 4096) (s.ctxOf pasid).atsAsk = some pg →
       ∃ t, Becomes (.atsTranslationResponse pasid va r) s t ∧ { t with ctxs := s.ctxs } = s ∧ pg ∉ (t.ctxOf pasid).atsAsk ∧
         ∃ e, findBy (fun (a : AtsPage × Option TlbEntry) => a.1 == pg) (t.ctxOf pasid).ats = some (pg, e) ∧
           (r = none ↔ e = none) ∧ ∀ x y, r = some x → e = some y →
             y.vpn = va.toNat / 4096 ∧ y.pages = 1 ∧ y.ppn = (if x.inBar then x.ppn else 2 ^ 44 + x.ppn) ∧ y.r = x.r ∧ y.w = x.w ∧ y.x = (x.x && pg.tlb == 0) ∧
             (y.die, y.core, y.tlb) = (pg.die, pg.core, pg.tlb)) ∧
     (findBy (fun (a : AtsPage) => a.vpn == va.toNat / 4096) (s.ctxOf pasid).atsAsk = none →
       Becomes (.atsTranslationResponse pasid va r) s s)) ∧
   (∀ (page die : Nat) (s : State), (∀ m ∈ s.moving, m.1 ≠ page) →
     ((∃ e ∈ s.tlb, e.coversPhys page = true ∧ nbits e.attr.toNat 1 0 = 1) →
       spGet 0 s.place page ≠ 0 → die < 4 → s.memReady die = true →
       Becomes (.pageMigration page die) s { s with moving := (page, die) :: s.moving }) ∧
     (spGet 0 s.place page = 0 ∨ 4 ≤ die ∨ s.memReady die = false → Becomes (.pageMigration page die) s s)) ∧
   (∀ (page die onto : Nat) (s : State), (page, onto) ∈ s.moving → (∀ m ∈ s.moving, m.1 = page → m.2 = onto) →
     (∀ (x : Xlat) (a : Nat), x.loc = .mem a → a / 4096 = page → s.way x = .hold) ∧
     ∃ t, Becomes (.pageMigration page die) s t ∧ spGet 0 t.place page = onto + 1 ∧ (∀ m ∈ t.moving, m.1 ≠ page) ∧
       (∀ q, q ≠ page → spGet 0 t.place q = spGet 0 s.place q) ∧ (∀ e ∈ t.tlb, e.coversPhys page = false) ∧
       t.mem = s.mem ∧ t.poison = s.poison ∧ t.tags = s.tags ∧ t.rest = s.rest) ∧
   (∀ (w : Who) (s s1 s2 : State) (pl : Place) (n : Nat) (x : Xlat) (a : Nat) (attr : BitVec 9), let g := s.grp w.gid
     (g.place = none ∨ s.mayIssue w = false → Becomes (.instructionFetch w) s s) ∧
     (∀ bs, g.place = some pl → s.fetched g pl (g.path w.path).pc.toNat = .ok bs → Becomes (.instructionFetch w) s s) ∧
     (g.place = some pl → s.mayIssue w = true → s.fetched g pl (g.path w.path).pc.toNat = .error n →
     let va := max (g.path w.path).pc.toNat (16 * n)
     (s.translate pl.die pl.core 0 g.pasid va needX = (s1, .ok x) → s1.routed g va x = (s2, .ok (.at_ (.mem a) attr)) →
       s2.poisonedAt (.mem (a / 16 * 16)) 16 = false →
       Becomes (.instructionFetch w) s { s2 with packets :=
         { die := pl.die, core := pl.core, pasid := g.pasid, gen := (s2.ctxOf g.pasid).gen, packet := n, bytes := rdBytes s2.mem (a / 16 * 16) 16 } :: s2.packets }) ∧
     (∀ c, s.translate pl.die pl.core 0 g.pasid va needX = (s1, .fault c) →
       Becomes (.instructionFetch w) s (s1.precise w.gid w.path
         { cause := .fetchFault, faddr := BitVec.ofNat 64 va, lmask := g.enabled w.path })) ∧
     (s.translate pl.die pl.core 0 g.pasid va needX = (s1, .wait) →
       Becomes (.instructionFetch w) s (s1.heldFor w.gid w.path 12)))) ∧
   (∀ (sender agent addr : Nat) (x : OuterOp) (s : State), let op := x.op
     let plain := (∀ x ∈ s.mapRanges, addr + remoteBytes op ≤ x.2.1 ∨ x.2.1 + x.2.2 ≤ addr) ∧ s.entriesIn addr (remoteBytes op) = []
     let old := ofLe (rdBytes s.mem addr (remoteBytes op))
     let moves := (pagesOf addr (remoteBytes op)).any s.inMove = true
     let does := fun (i : Instr) => (moves → Becomes i s s) ∧ (¬moves → ∃ t, Becomes i s t ∧
       t.groups = s.groups ∧ t.dies = s.dies ∧ t.ctxs = s.ctxs ∧
       { t.module with hostReads := s.module.hostReads, outer := s.module.outer } = s.module ∧
       (∀ n, op = .read n → { t with module := s.module, sc := s.sc, place := s.place } = s ∧
         ∃ bs, bs.length = min n 8 ∧ (∀ k, k < min n 8 → ∃ y ∈ s.writesOf (addr + k), y.2 = getAt 0 bs k) ∧
           t.module.hostReads = BitVec.ofNat 64 (ofLe bs) :: s.module.hostReads) ∧
       (∀ bs, op = .write bs → plain → t.mem = wrBytes s.mem addr bs ∧ t.module.hostReads = s.module.hostReads) ∧
       (∀ mf v, op = .atomic .exch mf v → plain → t.mem = wrBytes s.mem addr (leBytes (fmtBytes mf) (v.toNat % 2 ^ fmtBits mf)) ∧
         t.module.hostReads = BitVec.ofNat 64 old :: s.module.hostReads))
     (sender < 256 → addr < 2 ^ 48 → does (.remoteAccess sender addr x)) ∧
     (256 ≤ sender ∨ 2 ^ 48 ≤ addr → Becomes (.remoteAccess sender addr x) s s) ∧
     (agent < 2 ^ 32 → addr < 2 ^ 56 → does (.hostMemoryAccess agent addr x)) ∧
     (2 ^ 32 ≤ agent ∨ 2 ^ 56 ≤ addr → Becomes (.hostMemoryAccess agent addr x) s s)) ∧
   (∀ (die pasid : Nat) (va : BitVec 57) (ok : Bool) (s : State), Becomes (.pageRequestResponse die pasid va ok) s
     (s.updDie die (fun d => { d with pgreqs := d.pgreqs.filter (fun r => r != (pasid, va.toNat / 4096)) }))))

/-! ### Queues, kicks, shootdowns and teardown (R364, R365, R370 to R386) -/

/-- Kicks and the headstock (R381, R382): an aperture without V counts in KDROP; a running headstock serves a kick at
once, and another keeps it, in its buffer of 64 or else in the bitmap; a wake, which commands left for a gated
headstock bring too, serves the buffer and then the bitmap; an idle headstock may be gated. Commands of a queue (R375
to R380), started when the queue's next command may start: NOP and a finished store count at once; SIGNAL stores its
value and TIMESTAMP RTIME; WAITWORD holds the queue until its word passes the test; a LAUNCH whose header fails its
check is rejected, also with an empty grid; one of an empty grid creates nothing that lasts, and another creates a
launch with the header's class and a count of its blocks; COPY copies its bytes and completes. -/
def Obligations.QueuesRunTheirCommands : Prop :=
  ((∀ (die a : Nat) (s : State), die < 4 → a < 65536 → let v := (s.apertureOf die a).testBit 31
     let run := (s.dieOf die).gating = .running ∧ s.serves die = true
     (v = false → Becomes (.kick die a) s (s.updDie die (fun d => { d with kdrop := d.kdrop + 1 }))) ∧
     (v = true → run → Becomes (.kick die a) s (serveKick s die a)) ∧
     (v = true → ¬run → Becomes (.kick die a) s (s.updDie die (fun d =>
       if d.pendBuf.length < 64 then { d with pendBuf := d.pendBuf ++ [a] }
       else { d with bitmap := spSet false d.bitmap a true })))) ∧
   (∀ (die : Nat) (s : State), die < 4 → s.serves die = true → let d := s.dieOf die
     d.pendBuf ≠ [] ∨ d.bitmap ≠ [] ∨ s.leftFor die = true → Becomes (.headstockWake die) s
       ((d.pendBuf ++ d.bitmap.map (fun x => x.1)).foldl (fun s a => serveKick s die a)
         (s.updDie die (fun d => { d with gating := .running, pendBuf := [], bitmap := [] })))) ∧
   (∀ (die : Nat) (power : Bool) (s : State), die < 4 → s.idle die = true → Becomes (.headstockGating die power) s
     (s.updDie die (fun d => { d with gating := if power then .powerGated else .clockGated }))) ∧
   (∀ (die a : Nat) (power : Bool) (s : State),
     (4 ≤ die ∨ 65536 ≤ a → Becomes (.kick die a) s s) ∧
     (4 ≤ die ∨ s.serves die = false ∨ ((s.dieOf die).pendBuf = [] ∧ (s.dieOf die).bitmap = [] ∧ s.leftFor die = false) →
       Becomes (.headstockWake die) s s) ∧
     (4 ≤ die ∨ s.idle die = false → Becomes (.headstockGating die power) s s))) ∧
  ((∀ (r : QRef) (b : Bool) (s : State) (q : Queue), s.startable r (.queueNop r b) b = some q →
     Becomes (.queueNop r b) s (settleBad (s.begin q none) r)) ∧
   (∀ (r : QRef) (c : WordCmd) (s s1 : State) (q : Queue),
     (let stores := fun (i : Instr) (bs : List Byte) (scope : BitVec 3) =>
         (∀ s2 x, headWrite s q.die q.ref.pasid c.addr.toNat bs = (s1, none) →
           s1.translate q.die headCore 1 q.ref.pasid (c.addr.toNat % 2 ^ 57) needW = (s2, .ok x) →
           Becomes i s (settleBad ((s2.releasing
             [{ who := headAgent q.die, scope := scope, sk := false, view := q.view }]).begin q none) q.ref)) ∧
         (∀ f, headWrite s q.die q.ref.pasid c.addr.toNat bs = (s1, some (some f)) →
           Becomes i s (commandFault (s1.begin q none) q (rptrOf s q) c.addr.toNat f)) ∧
         (headWrite s q.die q.ref.pasid c.addr.toNat bs = (s1, some none) → Becomes i s s1)
      (s.startable r (.signal r c) c.barrier = some q →
         stores (.signal r c) (leBytes (if c.width = 0 then 4 else 8) c.value.toNat) (c.scope.setWidth 3)) ∧
      (s.startable r (.timestamp r c) true = some q → stores (.timestamp r c) (leBytes 8 s.rtime) 6)) ∧
     (s.startable r (.signal r c) c.barrier = none → Becomes (.signal r c) s s) ∧
     (s.startable r (.timestamp r c) true = none → Becomes (.timestamp r c) s s) ∧
     (s.startable r (.waitword r c) c.barrier = none → Becomes (.waitword r c) s s) ∧
     (s.startable r (.copy r c) c.barrier = none → Becomes (.copy r c) s s) ∧
     (s.startable r (.waitword r c) c.barrier = some q →
       Becomes (.waitword r c) s (s.begin q (some { ix := rptrOf s q, cmd := .waitword r c, lchid := 0, moved := [] }))) ∧
     (s.startable r (.copy r c) c.barrier = some q →
       Becomes (.copy r c) s (settleBad (s.begin q (if c.count = 0 then none
         else some { ix := rptrOf s q, cmd := .copy r c, lchid := 0, moved := [] })) r))) ∧
   (∀ (r : QRef) (c : WordCmd) (s s1 : State) (q : Queue) (p : PendCmd) (bs : List Byte), s.queueOf r = some q →
     q.find (fun i => match i with
       | .waitword _ c => some c
       | _ => none) = some (p, c) →
     headRead s q.die r.pasid c.addr.toNat (if c.width = 0 then 4 else 8) = (s1, .ok bs) →
     let v := ofLe bs
     let k := c.value.toNat % 256 ^ (if c.width = 0 then 4 else 8)
     let pass := (c.test = 0 ∧ v = k) ∨ (c.test = 1 ∧ v ≠ k) ∨ (2 ≤ c.test.toNat ∧ k ≤ v)
     (pass → Becomes (.waitwordComplete r) s (settleBad ((queueHears s1 q c.addr.toNat (if c.width = 0 then 4 else 8)
       (c.scope.setWidth 3)).updQueue r (fun q => { q with started := q.started.filter (fun x => x.ix != p.ix) })) r)) ∧
     (¬pass → Becomes (.waitwordComplete r) s s1)) ∧
   (∀ (r : QRef) (s : State), s.queueOf r = none → Becomes (.waitwordComplete r) s s ∧ Becomes (.copyCommandComplete r) s s) ∧
   (∀ (r : QRef) (b : Bool) (s : State), s.startable r (.queueNop r b) b = none → Becomes (.queueNop r b) s s) ∧
   (∀ (r : QRef) (c : LaunchCmd) (s : State),
     (s.startable r (.launch r c) c.barrier = none → Becomes (.launch r c) s s) ∧
     (∀ q, s.startable r (.launch r c) c.barrier = some q → c.x = 0 ∨ c.y = 0 ∨ c.z = 0 →
       (∀ l ∈ s.launches, l.die = q.die → l.lchid ≠ s.nextLch q.die) →
       ∃ t, Becomes (.launch r c) s t ∧ t.launches = s.launches) ∧
     (∀ q s1 bs f, s.startable r (.launch r c) c.barrier = some q →
       headRead s q.die r.pasid (c.header.toNat % 2 ^ 57) 64 = (s1, .ok bs) →
       headerCheck (ofLe bs) (c.header.toNat % 2 ^ 57) = some f →
       Becomes (.launch r c) s (settleBad (rejectLaunch s1 q f) r))) ∧
   (∀ (r : QRef) (s s1 : State) (q : Queue) (p : PendCmd) (c : WordCmd), s.queueOf r = some q → q.copyCmd = some (p, c) →
     copyBytes q p c c.count.toNat (Config.pick s.tick) s = (s1, .ok ()) →
     Becomes (.copyCommandComplete r) s
       (s1.updQueue r (fun q => { q with started := q.started.filter (fun x => x.ix != p.ix) }))) ∧
   (∀ (r : QRef) (c : LaunchCmd) (s s1 : State) (q : Queue) (bs : List Byte),
     s.startable r (.launch r c) c.barrier = some q →
     headRead s q.die r.pasid (c.header.toNat % 2 ^ 57) 64 = (s1, .ok bs) → c.x ≠ 0 → c.y ≠ 0 → c.z ≠ 0 →
     let h := headerOf (ofLe bs)
     let n := c.x.toNat * c.y.toNat * c.z.toNat
     headerCheck (ofLe bs) (c.header.toNat % 2 ^ 57) = none → gridCheck h c.x.toNat c.y.toNat c.z.toNat = none →
     h.draintime ≤ s1.draintNow q.ref.pasid → h.staged = false → h.lattab = Config.latencyTable →
     let cb := qcb s1 q.die q.ref.pasid q.ref.q
     ∃ l : Launch, Becomes (.launch r c) s (settleBad ((s1.begin q (some
         { ix := rptrOf s1 q, cmd := .launch r c, lchid := s1.nextLch q.die, moved := [] })).createLaunch l) r) ∧
       l.die = q.die ∧ l.pasid = q.ref.pasid ∧ l.queue = q.ref.q ∧ l.cls = h.cls ∧ l.hdr = h ∧
       l.grid = (c.x.toNat, c.y.toNat, c.z.toNat) ∧ l.args = c.args ∧ l.n = n ∧ l.total = n ∧
       l.hdrAddr = c.header.toNat % 2 ^ 57 ∧ l.semBase = qcbSemBase cb ∧ l.semCnt = qcbSemCnt cb ∧
       l.sbmode = BitVec.ofNat 2 (max h.sbreq.toNat (qcbFloor cb))))

/-- Shootdowns, teardown and the registers of the host (R12, R364, R365, R383, R384, R386): START of SDCTL clears DONE; a
completed shootdown leaves no translation of its range, sets DONE and clears START; so does an ATS invalidation for an
external context; START of TDCTL stops the PASID, whose teardown ends with GEN advanced in its record and its drain
word, and nothing of it held, DONE set and START clear (log entry 24), and no write of TDCTL taken meanwhile; a write of a reserved field or offset changes no register and is reported, and a read of an offset without a
register gives 0. -/
def Obligations.ShootdownsTeardownAndRegisters : Prop :=
  (∀ (die : Nat) (v : BitVec 64) (s : State), die < 4 → v &&& 0x00000F00000000FC = 0 → (s.dieOf die).sdctl.getLsbD 0 = false →
    v.getLsbD 0 = true → Becomes (.shootdown die v) s (s.updDie die (fun d => { d with sdctl := v &&& 0xFFFFFFFFFFFFFFFD }))) ∧
  (∀ (die : Nat) (s : State), (s.dieOf die).sdctl.getLsbD 0 = true →
    let d := s.dieOf die
    let pasid := nbits d.sdctl.toNat 63 44
    let vpn := nbits d.sdaddr.toNat 56 12
    let pages := nbits d.sdctl.toNat 39 8
    s.drained pasid = true → ∃ t, Becomes (.shootdownComplete die) s t ∧
      (∀ e ∈ t.tlb, e.pasid ≠ pasid ∨ (pages ≠ 0 ∧ (e.vpn + e.pages ≤ vpn ∨ vpn + pages ≤ e.vpn))) ∧
      (∀ e ∈ s.tlb, e.pasid ≠ pasid → e ∈ t.tlb) ∧ t.mem = s.mem ∧ t.groups = s.groups) ∧
  (∀ (pasid vpn pages : Nat) (s : State), s.drained pasid = true → Becomes (.atsInvalidate pasid vpn pages) s
    ((s.shootRange pasid vpn pages).updCtx pasid (fun c =>
      { c with ats := c.ats.filter (fun a => !rangeMeets vpn pages a.1.vpn 1),
               atsAsk := c.atsAsk.filter (fun a => !rangeMeets vpn pages a.vpn 1) }))) ∧
  (∀ (die pasid vpn pages : Nat) (s : State),
    (s.drained pasid = false → Becomes (.atsInvalidate pasid vpn pages) s s) ∧
    ((s.dieOf die).sdctl.getLsbD 0 = false ∨ s.drained (nbits (s.dieOf die).sdctl.toNat 63 44) = false →
      Becomes (.shootdownComplete die) s s) ∧
    ((s.dieOf die).tdctl.getLsbD 0 = false ∨
      s.quiet (nbits (s.dieOf die).tdctl.toNat 63 44) = false → Becomes (.teardownComplete die) s s)) ∧
  (∀ (die : Nat) (v : BitVec 64) (s : State), die < 4 → (s.dieOf die).tdctl.getLsbD 0 = false →
    v &&& 0x00000FFFFFFFFFFC = 0 → v.getLsbD 0 = true → Becomes (.pasidTeardown die v) s
      ((s.updDie die (fun d => { d with tdctl := v &&& 0xFFFFFFFFFFFFFFFD })).updCtx
        (nbits v.toNat 63 44) (fun c => { c with teardown := true }))) ∧
  (∀ (die : Nat) (v : BitVec 64) (s : State), die < 4 → (s.dieOf die).tdctl.getLsbD 0 = true →
    Becomes (.pasidTeardown die v) s (logModule s
      { code := 0x08, die := die, queue := 0, rptr := 0, lchid := 0, d0 := 0x10000 * die + 0x48, d1 := v.toNat })) ∧
  (∀ (die : Nat) (s : State), die < 4 → s.dies.length = 4 → let pasid := nbits (s.dieOf die).tdctl.toNat 63 44
    (s.dieOf die).tdctl.getLsbD 0 = true → s.quiet pasid = true →
    ∃ t, Becomes (.teardownComplete die) s t ∧ (t.dieOf die).tdctl.getLsbD 1 = true ∧
      (t.dieOf die).tdctl.getLsbD 0 = false ∧
      (∀ g ∈ t.groups, g.pasid ≠ pasid) ∧ (∀ l ∈ t.launches, l.pasid ≠ pasid) ∧ (∀ c ∈ t.ctxs, c.pasid ≠ pasid) ∧
      (∀ q ∈ t.queues, q.ref.pasid ≠ pasid) ∧ ∀ g ∈ s.groups, g.pasid ≠ pasid → g ∈ t.groups) ∧
  (∀ (die o : Nat) (v : BitVec 64) (s : State), die < 4 → o < 0x10000 →
    (o = 0x010 → Becomes (.hostRegisterWrite (0x10000 * die + o) v) s (s.updDie die (fun d => { d with qtbase := v }))) ∧
    (o = 0x020 → v &&& 0xFFF = 0 →
      Becomes (.hostRegisterWrite (0x10000 * die + o) v) s { s with module := { s.module with otbase := v } }) ∧
    (o = 0x028 → v.toNat < 2 ^ 24 →
      Becomes (.hostRegisterWrite (0x10000 * die + o) v) s { s with module := { s.module with otlen := v.toNat } }) ∧
    (o = 0x050 → Becomes (.hostRegisterWrite (0x10000 * die + o) v) s (s.updDie die (fun d => { d with ecnt := v }))) ∧
    (o = 0x058 → Becomes (.hostRegisterWrite (0x10000 * die + o) v) s (s.updDie die (fun d => { d with kdrop := v }))) ∧
    (o = 0x000 ∨ o = 0x008 → v.toNat < 2 ^ 29 → Becomes (.hostRegisterWrite (0x10000 * die + o) v) s s) ∧
    ((0x070 ≤ o ∧ o < 0x400) ∨ 0x500 ≤ o ∨ ((o = 0x000 ∨ o = 0x008) ∧ 2 ^ 29 ≤ v.toNat) ∨ (o = 0x020 ∧ v &&& 0xFFF ≠ 0) ∨ (o = 0x068 ∧ (v.toNat < 9 ∨ 27 < v.toNat)) →
      Becomes (.hostRegisterWrite (0x10000 * die + o) v) s (logModule s
        { code := 0x08, die := die, queue := 0, rptr := 0, lchid := 0, d0 := 0x10000 * die + o, d1 := v.toNat }))) ∧
  (∀ (pasid o : Nat) (v : BitVec 64) (s : State), let c := s.ctxOf pasid
    (c.grain ≠ 0 → o % 8 = 0 → o < 256 → Becomes (.grainRingControlWrite pasid o v) s (s.ringStore (c.on.headD 0) c.grain o 8 v.toNat)) ∧
    (c.grain = 0 ∨ o % 8 ≠ 0 ∨ 256 ≤ o → Becomes (.grainRingControlWrite pasid o v) s s)) ∧
  (∀ (die o : Nat) (s : State), die < 4 → o < 0x10000 → let reg := s.hostRegister (0x10000 * die + o)
    (o = 0x000 → reg = s.module.ready.toNat) ∧ (o = 0x008 → reg = s.module.readyf.toNat) ∧
    (o = 0x020 → reg = s.module.otbase.toNat) ∧ (o = 0x028 → reg = s.module.otlen) ∧
    (o = 0x040 → reg = (s.dieOf die).sdctl.toNat) ∧ (o = 0x048 → reg = (s.dieOf die).tdctl.toNat) ∧
    (o = 0x058 → reg = (s.dieOf die).kdrop.toNat) ∧ (o = 0x060 → reg = s.module.melog.toNat) ∧
    ((0x070 ≤ o ∧ o < 0x400) ∨ 0x500 ≤ o → reg = 0))

/-! ### Debug requests and context switches (R405, R410 to R425) -/

/-- Debug requests (R420 to R424), each while its context image holds it unserved: one without a live target is
acknowledged with status 1 and one that its target refuses with 2, with no other effect; each DACK is a release of
what the request has written; otherwise its effect takes place with status 0: HALT reaches every path named, RESUME
and STEP continue them, FLUSH saves and drops lines, EXIT ends lanes, FORCE stops a path in its handler, and SWITCH
stops the context on the die, where no deferral holds it there, and is acknowledged when the context is back (log
entry 50). Where the image does not hold the request, or it has been served, or a SWITCH is being served, nothing
changes. What a halt and a resume do to one path (R422, R423): a path in its handler or at a join, or one that runs in
its record, keeps the halt pending until its next boundary; a waiting one, where no region is open and no fault is due
in it, takes DEBUG_HALT at once with PEND set and its mask kept; one stopped in its handler has NPC at its
instruction; one continued from PEND goes on at RPC with its frame's loop state, and one continued from STOP at NPC in
a handler and at RPC otherwise. A wait whose arrival is made is kept over the halt where the path goes on at it (the
model's reading, log entry 50). -/
def Obligations.DebugRequestsAreServed : Prop :=
  (∀ (r : DebugReq) (s : State),
     let ack := fun (t : State) (n : Nat) =>
       let u := t.imageWrite r.die r.pasid 192 (leBytes 4 r.seq.toNat ++ leBytes 1 n)
       if u.stamp = t.stamp then u else u.headTells r.die s.stamp
     let attached := (s.ctxOf r.pasid).attach = true
     let all := fun (f : Path → Bool) => ∀ w ∈ s.debugPaths r, f ((s.grp w.gid).path w.path) = true
     let serves := fun (i : Instr) (may : Prop) (act : State → State) =>
       (s.asks r i = false → Becomes i s s) ∧
       (s.asks r i = true → s.debugTarget r = false → Becomes i s (ack s 1)) ∧
       (s.asks r i = true → s.debugTarget r = true → ¬may → Becomes i s (ack s 2)) ∧
       (s.asks r i = true → s.debugTarget r = true → may → Becomes i s (ack (act s) 0))
     serves (.dreqHalt r) attached (fun s => (s.debugPaths r).foldl (fun s w => s.haltPath w) s) ∧
     serves (.dreqResume r) (all Path.stopped) (fun s => (s.debugPaths r).foldl (fun s w => s.resumePath w r.deliver false) s) ∧
     serves (.dreqStep r) (all Path.stopped ∧ attached) (fun s => (s.debugPaths r).foldl (fun s w => s.resumePath w false true) s) ∧
     serves (.dreqFlush r) (∀ g ∈ s.debugGroups r, ∀ k ∈ g.live, (g.path k).stopped = true)
       (fun s => (s.debugGroups r).foldl (fun s g =>
         let s1 := s.reloaded g.gid
         (s1.saveGroup (s1.grp g.gid) (fun _ => true)).updGrp g.gid (fun g => { g with
           lines := [], absent := (s.hdrOf g).footprint, dirty := [], flushed := true })) s) ∧
     serves (.dreqExit r) (all (fun p => p.frame.stop)) (fun s => (s.debugPaths r).foldl (fun s w => s.exitPath w) s) ∧
     serves (.dreqForce r) (all (fun p => p.frame.inH)) (fun s => (s.debugPaths r).foldl (fun s w => s.forcePath w) s) ∧
     (s.asks r (.dreqSwitch r) = false → Becomes (.dreqSwitch r) s s) ∧
     (s.asks r (.dreqSwitch r) = true → let c := s.ctxOf r.pasid
       let waits := fun (s : State) => s.updCtx r.pasid (fun c => { c with switching := some (r.die, r.seq.toNat) })
       (c.on.contains r.die = false → Becomes (.dreqSwitch r) s (ack s 0)) ∧
       (c.on.contains r.die = true → c.stopping.contains r.die = false → spGet 0 c.deferred r.die = 0 →
         Becomes (.dreqSwitch r) s (waits (s.stopContext r.die r.pasid))) ∧
       (c.on.contains r.die = true → (c.stopping.contains r.die = true ∨ spGet 0 c.deferred r.die ≠ 0) →
         Becomes (.dreqSwitch r) s (waits s)))) ∧
  ((∀ (s : State) (w : Who), let g := s.grp w.gid
     let p := g.path w.path
     s.has w.gid = true → p.live = true → p.stopped = false → w.path < g.paths.length →
     let t := s.haltPath w
     let p' := (t.grp w.gid).path w.path
     (p.frame.inH = true ∨ (∃ k, p.stat = .arrived k) ∨ (p.stat = .run ∧ s.resident g = true) →
       p' = { p with haltPend := true }) ∧
     (p.frame.inH = false → g.regions = [] → g.dueFault w.path = none → (∃ d, p.stat = .sleeping d) ∨ p.stat = .parked →
       p'.frame.pend = true ∧ p'.frame.cause = Cause.debugHalt.code ∧ p'.frame.rpc = p.pc.setWidth 64 ∧
       p'.frame.lmask = g.regs.emask &&& p.mask ∧ p'.frame.pmask = p.mask ∧ p'.pc = p.pc ∧ p'.mask = p.mask ∧
       p'.wait = p.wait.filter Wait.arrivalMade)) ∧
   (∀ (s : State) (w : Who), let g := s.grp w.gid
     let p := g.path w.path
     s.has w.gid = true → w.path < g.paths.length →
     let p' := ((s.forcePath w).grp w.gid).path w.path
     p'.frame = { p.frame with nested := true, ncause := Cause.debugHalt.code, npc := p.pc.setWidth 64, stop := true } ∧
       p'.pc = p.pc ∧ p'.mask = p.mask ∧ p'.live = p.live ∧ p'.wait = p.wait.filter Wait.arrivalMade) ∧
   (∀ p : Path, let q := p.continued
     let onto : Addr := (if p.frame.pend then p.frame.rpc else if p.frame.inH then p.frame.npc else p.frame.rpc).setWidth 57
     (p.wait = none ∨ onto ≠ p.pc → q.wait = none ∧ q.stat = p.stat) ∧
     (∀ x, p.wait = some x → onto = p.pc → q.wait = some x ∧
       q.stat = (match x.kind with | .arriving _ _ => .parked | _ => .replayHold)) ∧
     q.mask = p.mask ∧ q.slices = p.slices ∧ q.live = p.live ∧ q.exempt = true ∧
     (p.frame.pend = true → q.pc = p.frame.rpc.setWidth 57 ∧ q.frame.pend = false ∧ q.lp.loopc = p.frame.loopc ∧
       q.lp.loops = p.frame.loops.setWidth 57 ∧ q.lp.loope = p.frame.loope.setWidth 57 ∧ q.lp.loopp = p.frame.loopp) ∧
     (p.frame.pend = false → q.pc = (if p.frame.inH then p.frame.npc else p.frame.rpc).setWidth 57 ∧
       q.frame = { p.frame with stop := false, nested := false })))

/-- Slices, pre-emption and the switch of a context (R294, R410 to R420): a slice's stop request where another context is
ready, and no stop else; a group stopped leaves its record; a scratchpad is saved; a context whose groups are all out leaves the die with its
rest-table entries on its overflow list; and one switched in takes its header, or gives its slice up to what it owes, its
rest-table entries read their words again, and its groups resume in their records. -/
def Obligations.SlicesSwitchesAndResumption : Prop :=
  (∀ (die pasid : Nat) (s : State), let c := s.ctxOf pasid
    c.on.contains die = true → c.stopping.contains die = false → spGet 0 c.deferred die = 0 → c.slice ≠ 0 →
    spGet 0 c.sliceLen die - c.draint ≤ c.sliceClk die → s.otherReady die pasid = true → s.hasPend die pasid = false →
    Becomes (.sliceStopRequest die pasid) s (s.stopContext die pasid)) ∧
  (∀ (die pasid : Nat) (s : State), let c := s.ctxOf pasid
    c.on.contains die = true → c.stopping.contains die = false →
    (spGet 0 c.deferred die = 0 → c.slice ≠ 0 → spGet 0 c.sliceLen die - c.draint ≤ c.sliceClk die →
      s.otherReady die pasid = true → s.hasPend die pasid = true → s.pendsNow die pasid = true →
      Becomes (.sliceStopRequest die pasid) s (s.updCtx pasid (fun c => { c with deferred := spSet 0 c.deferred die (c.sliceClk die + 1) }))) ∧
    (spGet 0 c.deferred die ≠ 0 → (s.hasPend die pasid = true → Becomes (.sliceStopRequest die pasid) s s) ∧
      (s.hasPend die pasid = false → c.switching = none → Becomes (.sliceStopRequest die pasid) s (s.endDeferral die pasid)))) ∧
  (∀ (die pasid : Nat) (s : State), let c := s.ctxOf pasid
    (c.on.contains die = false ∨ c.stopping.contains die = true ∨ (spGet 0 c.deferred die = 0 ∧ (c.slice = 0 ∨
        c.sliceClk die < spGet 0 c.sliceLen die - c.draint ∨ s.otherReady die pasid = false)) →
      Becomes (.sliceStopRequest die pasid) s s) ∧
    (c.stopping.contains die = false ∨ s.allOut die pasid = false → Becomes (.contextSwitchComplete die pasid) s s) ∧
    (s.ctxs.any (fun c => c.on.contains die) = true ∨ 4 ≤ die → Becomes (.contextSwitchIn die pasid) s s)) ∧
  (∀ (gid : Nat) (pl : Place) (s : State), let waits := fun (i : Instr) => Becomes i s s
    (∀ g, findBy (fun (g : Group) => g.gid == gid) s.groups = some g → (g.stopReq = false → waits (.groupPreempt gid)) ∧
      (s.mustFinish g = true → waits (.groupPreempt gid)) ∧ (g.reserved ≠ some pl → waits (.groupResume gid pl))) ∧
    (findBy (fun (g : Group) => g.gid == gid) s.groups = none → waits (.groupPreempt gid) ∧ waits (.groupResume gid pl))) ∧
  (∀ (die pasid lchid block role : Nat) (s : State), s.blockOf die lchid block = none →
    Becomes (.scratchpadSave die pasid lchid block role) s s) ∧
  (∀ (die pasid : Nat) (s : State), let t := s.stopContext die pasid
    (s.freeSaves pasid).length ≥ ((s.blocks.filter (fun b => b.die == die && (s.launchOf b.die b.lchid).pasid == pasid)).map
      Block.unsaved).sum →
    t.groups = s.groups.map (fun g => if g.die == die && g.pasid == pasid then
      { g with stopReq := g.place.isSome, reserved := none } else g) ∧ t.mem = s.mem ∧
    (∀ c ∈ t.ctxs, c.pasid = pasid → die ∈ c.stopping)) ∧
  (∀ (gid : Nat) (s : State) (g : Group), findBy (fun (g : Group) => g.gid == gid) s.groups = some g → g.stopReq = true →
    g.place.isSome = true → s.mustFinish g = false → s.mayBegin g = true → g.flushed = false → (∀ k, g.dueFault k = none) →
    ∃ t, Becomes (.groupPreempt gid) s t ∧ (t.grp gid).place = none ∧ (t.grp gid).last = g.place ∧
      (t.grp gid).stopReq = false ∧ (t.grp gid).v = g.v ∧ (t.grp gid).s = g.s ∧ (t.grp gid).p = g.p ∧
      (t.grp gid).regs = g.regs ∧ (s.keepsTiles g = true → (t.grp gid).tiles = g.tiles ∧ (t.grp gid).ops = g.ops ∧
        ∀ i, i < 8 → (t.grp gid).path i = (g.path i).preempted (s.dieOf g.die).clk) ∧
      (s.keepsTiles g = false → (t.grp gid).tiles = [] ∧ (t.grp gid).slots = [] ∧ (t.grp gid).restarts = true ∧
        ∀ i, ((t.grp gid).path i).live = true → ((t.grp gid).path i).pc = g.regs.restart) ∧
      ∀ k, k ≠ gid → t.grp k = s.grp k) ∧
  (∀ (die pasid lchid block role k : Nat) (s : State) (b : Block) (a : Alloc) (r : List Nat),
    s.blockOf die lchid block = some b → b.stat = .evicting → (s.launchOf die lchid).pasid = pasid →
    findBy (fun (a : Alloc) => a.role == role && a.held) b.allocs = some a → s.freeSaves pasid = k :: r →
    (∀ g ∈ s.groups, g.die = die → g.lchid = lchid → g.block = block → g.spot = none ∧ g.ops = []) →
    s.objFault (s.ctxOf pasid).image ((s.ctxOf pasid).scrofs + 0x50000 * k) 0x50000 false true = none →
    Becomes (.scratchpadSave die pasid lchid block role) s
      (((s.objWrite (s.ctxOf pasid).image ((s.ctxOf pasid).scrofs + 0x50000 * k)
          (rdBytes a.bytes 0 (1024 * (((s.launchOf die lchid).hdr.scratch + 1023) / 1024)))).updBlock die lchid block
        (fun b => { b with allocs := updBy (fun (x : Alloc) => x.role == role) (fun (x : Alloc) => { x with saved := some k }) b.allocs })).blockLeft
        die lchid block)) ∧
  (∀ (die pasid : Nat) (s : State), let c := s.ctxOf pasid
    c.stopping.contains die = true → s.allOut die pasid = true → s.ctxs.any (fun x => x.pasid == pasid) = true →
    ∃ t, Becomes (.contextSwitchComplete die pasid) s t ∧ die ∉ (t.ctxOf pasid).on ∧ die ∉ (t.ctxOf pasid).stopping) ∧
  (∀ (gid : Nat) (pl : Place) (s : State) (g : Group), findBy (fun (g : Group) => g.gid == gid) s.groups = some g →
    g.reserved = some pl → g.place = none → (s.ctxOf g.pasid).on.contains g.die = true →
    (s.ctxOf g.pasid).stopping.contains g.die = false →
    Becomes (.groupResume gid pl) s ((s.resume g pl).switchedBack g.die g.pasid) ∧
    ((s.ctxOf g.pasid).switching = none → (s.resume g pl).switchedBack g.die g.pasid = s.resume g pl) ∧
    ((s.resume g pl).grp gid).restarts = false ∧
    (g.flushed = true → (s.ctxOf g.pasid).imageOff = false → ((s.resume g pl).grp gid).v = (s.reload g).v ∧
      ((s.resume g pl).grp gid).regs = (s.reload g).regs) ∧
    (g.flushed = false → ((s.resume g pl).grp gid).place = some pl ∧ ((s.resume g pl).grp gid).v = g.v ∧
      ((s.resume g pl).grp gid).s = g.s ∧ ((s.resume g pl).grp gid).regs = g.regs ∧ ((s.resume g pl).grp gid).reserved = none)) ∧
  (∀ (die pasid : Nat) (s : State), let s1 := readHeader s die pasid
    let c := s1.ctxOf pasid
    (∀ c ∈ s.ctxs, die ∉ c.on) → (∃ c ∈ s.ctxs, c.pasid = pasid ∧ c.teardown = false) → die < 4 → c.on ≠ [] →
    (c.slice ≠ 0 → c.slice ≤ s1.overrun pasid →
      Becomes (.contextSwitchIn die pasid) s (s1.setOverrun die pasid (s1.overrun pasid - c.slice))) ∧
    (c.slice = 0 ∨ s1.overrun pasid < c.slice → ∃ t, Becomes (.contextSwitchIn die pasid) s t ∧
      (t.ctxOf pasid).on = die :: c.on ∧ t.groups = s1.groups ∧ t.launches = s1.launches ∧
      spGet 0 (t.ctxOf pasid).sliceLen die = c.slice - s1.overrun pasid ∧
      (∀ e ∈ t.rest, e.die = die → (t.grp e.who.gid).pasid = pasid → e.woken = true ∧ e.overflow = false))) ∧
  (∀ (die pasid : Nat) (s : State), let s1 := readHeader s die pasid
    (∀ c ∈ s.ctxs, die ∉ c.on) → (∃ c ∈ s.ctxs, c.pasid = pasid ∧ c.teardown = false) → die < 4 →
    (s1.ctxOf pasid).on = [] → (s1.ctxOf pasid).grain = 0 → (s1.ctxOf pasid).slice = 0 →
    ∃ t, Becomes (.contextSwitchIn die pasid) s t ∧ (t.ctxOf pasid).on = [die] ∧ t.groups = s1.groups)

/-! ### Boot, measurements, clocks, errors and the sampler (R337 to R341, R387 to R396, R409) -/

/-- Boot (R387 to R391): at power-up every step whose image verifies runs after the step before it and extends its
measurement register, and the first that does not leaves its readiness bits failed, none verifying where the boot
flash cannot be read (a free value, log entry 28); a recovery image that verifies that NOR's 256 MiB hold replaces the
one in NOR, and where the steps before its own have verified boots again from its component on, and no other is
written; and an image verifies only with its magic number, its component, its length, its digest, a key of a fuse slot
in force and a security version no lower than the fuses'. Fuses, measurements and quotes (R389, R391, R392): the
owner's slot is programmed once, OWNERONLY and the security version never go back, and that rises only at a request
that the owner has signed (log entry 5); MR3 to MR7 extend by the SHA-256 of the old value and the digest once the
tailstock and the host complex are ready, and no other changes; a quote states MR0 to MR7 with the signature over the
nonce and them; and training a link sets its readiness. -/
def Obligations.BootMeasuresAndVerifies : Prop :=
  ((∀ s : State, ∃ t, Becomes .powerUp s t ∧ t.module.nor = s.module.nor ∧ t.module.fuse0 = s.module.fuse0 ∧
     t.module.fuse1 = s.module.fuse1 ∧ t.module.ownerOnly = s.module.ownerOnly ∧ t.module.svn = s.module.svn ∧
     t.groups = [] ∧ t.mem = [] ∧
     let nor := Config.freeBit s.tick 630021
     let ok := fun k => nor && s.module.verifies k (s.module.image k)
     t.module.ready.getLsbD 27 = nor ∧ t.module.readyf.getLsbD 27 = !nor ∧
     t.module.ready.getLsbD 0 = ok 0 ∧ t.module.readyf.getLsbD 0 = !ok 0 ∧
     t.module.ready.getLsbD 1 = (ok 0 && ok 1) ∧ t.module.readyf.getLsbD 1 = (ok 0 && !ok 1) ∧
     t.module.ready.getLsbD 13 = (ok 0 && ok 1 && ok 2) ∧ t.module.readyf.getLsbD 13 = (ok 0 && ok 1 && !ok 2) ∧
     getAt 0 t.module.mrs 0 =
       (if ok 0 then sha256 (digestBytes 0 ++ digestBytes (imgDigest (s.module.image 0))) else 0)) ∧
   (∀ (c : Nat) (img : List (BitVec 8)) (s : State),
     (3 ≤ c ∨ s.module.verifies c img = false → Becomes (.recoveryImage c img) s s) ∧
     (c < 3 → s.module.verifies c img = true →
       norFits ((c, img) :: s.module.nor.filter (fun x => x.1 != c)) = false → Becomes (.recoveryImage c img) s s) ∧
     (c < 3 → s.module.verifies c img = true → norFits ((c, img) :: s.module.nor.filter (fun x => x.1 != c)) = true → ∃ t, Becomes (.recoveryImage c img) s t ∧ t.module.image c = img ∧
       (∀ k, k ≠ c → t.module.image k = s.module.image k) ∧ { t with module := s.module } = s ∧
       let before := c = 0 ∨ (s.module.ready.getLsbD 0 = true ∧ (c = 1 ∨ s.module.ready.getLsbD 1 = true))
       (before → t.module.ready.getLsbD (match c with | 0 => 0 | 1 => 1 | _ => 13) = true) ∧
       (¬before → { t.module with nor := s.module.nor } = s.module))) ∧
   (∀ (m : Module) (c : Nat) (b : List Byte), m.verifies c b = true →
     128 ≤ b.length ∧ imgNum b 0 4 = 0x534D4657 ∧ imgNum b 4 1 = c ∧ (imgPayload b).length = imgNum b 8 8 ∧
     sha256 (imgPayload b) = imgDigest b ∧ m.svn ≤ imgNum b 6 2 ∧
     ((imgNum b 5 1 = 0 ∧ m.ownerOnly = false) ∨ (imgNum b 5 1 = 1 ∧ m.fuse1.isSome = true)))) ∧
  ((∀ (f : FuseOp) (s : State), ∃ t, Becomes (.fuseProgramming f) s t ∧ { t with module := s.module } = s ∧
     { t.module with fuse1 := s.module.fuse1, ownerOnly := s.module.ownerOnly, svn := s.module.svn } = s.module ∧
     (∀ h, s.module.fuse1 = some h → t.module.fuse1 = some h) ∧
     (s.module.ownerOnly = true → t.module.ownerOnly = true) ∧ s.module.svn ≤ t.module.svn ∧
     (∀ h, f = .programOwner h → s.module.fuse1 = none → t.module.fuse1 = some h) ∧
     (f = .blowOwnerOnly → t.module.ownerOnly = true) ∧ (∀ n sig h, f = .blowSvn n sig → s.module.fuse1 = some h →
       Config.ecdsaVerifies h sig (Config.svnDigest n) = true → n ≤ t.module.svn) ∧
     (∀ n sig, f = .blowSvn n sig → (∀ h, s.module.fuse1 = some h → Config.ecdsaVerifies h sig (Config.svnDigest n) = false) →
       t = s)) ∧
   (∀ (mr : Nat) (d : BitVec 256) (s : State),
     3 ≤ mr → mr ≤ 7 → s.module.ready.getLsbD 0 = true → s.module.ready.getLsbD 13 = true → s.module.mrs.length = 8 →
     ∃ t, Becomes (.measurementExtend mr d) s t ∧ { t with module := s.module } = s ∧
       { t.module with mrs := s.module.mrs } = s.module ∧
       getAt 0 t.module.mrs mr = sha256 (digestBytes (getAt 0 s.module.mrs mr) ++ digestBytes d) ∧
       ∀ k, k ≠ mr → getAt 0 t.module.mrs k = getAt 0 s.module.mrs k) ∧
   (∀ (mr : Nat) (d : BitVec 256) (s : State), mr < 3 ∨ 7 < mr → Becomes (.measurementExtend mr d) s s) ∧
   (∀ (nonce : BitVec 256) (s : State), s.module.ready.getLsbD 0 = true →
     Becomes (.quote nonce) s { s with module := { s.module with
       quotes := (s.module.mrs, Config.signDigest (sha256 (digestBytes nonce ++ s.module.mrs.flatMap digestBytes))) ::
         s.module.quotes } }) ∧
   (∀ (mr bit : Nat) (d nonce : BitVec 256) (ok : Bool) (s : State),
     (s.module.ready.getLsbD 0 = false → Becomes (.quote nonce) s s ∧ Becomes (.measurementExtend mr d) s s) ∧
     (s.module.ready.getLsbD 13 = false → Becomes (.measurementExtend mr d) s s) ∧
     (bit < 14 ∨ 26 < bit → Becomes (.linkTraining bit ok) s s)) ∧
   (∀ (bit : Nat) (ok : Bool) (s : State), 14 ≤ bit → bit ≤ 26 →
     ∃ t, Becomes (.linkTraining bit ok) s t ∧ { t with module := s.module } = s ∧
       t.module.ready.getLsbD bit = ok ∧ t.module.readyf.getLsbD bit = !ok ∧
       ∀ k, k ≠ bit → t.module.ready.getLsbD k = s.module.ready.getLsbD k ∧
         t.module.readyf.getLsbD k = s.module.readyf.getLsbD k))

/-- Clocks, resets, errors and samples (R259, R310, R337, R338, R341, R396, R409): a frequency at or below the ceiling
is taken; a die's reset clears CLK, the launch counter, the semaphores and their tags, and leaves groups and memory; a
corrected error counts, saturating, in its half of ECNT; an uncorrectable one poisons its line and is logged; and a due
sample of a partition writes its record, in the layout of R339, in its context's ring, or is counted lost where the ring
is full, and with no group there is none. -/
def Obligations.ResetsErrorsAndSamples : Prop :=
  (∀ (die f : Nat) (s : State), 9 ≤ f → f ≤ (s.dieOf die).fceil → s.module.ready.getLsbD 0 = true →
    Becomes (.frequencyStep die f) s (s.updDie die (fun d => { d with freq := f }))) ∧
  (∀ (die f : Nat) (e : EngRef) (s : State),
    (f < 9 ∨ (s.dieOf die).fceil < f ∨ s.module.ready.getLsbD 0 = false → Becomes (.frequencyStep die f) s s) ∧
    (4 ≤ die → Becomes (.dieReset die) s s) ∧ (s.sampleDue e = false → Becomes (.shavingsSample e) s s)) ∧
  (∀ (die : Nat) (s : State), die < s.dies.length → die < 4 → ∃ t, Becomes (.dieReset die) s t ∧
    (t.dieOf die).clk = 0 ∧ (t.dieOf die).lchNext = Die.reset.lchNext ∧ (t.dieOf die).ecnt = 0 ∧
    t.groups = s.groups ∧ t.mem = s.mem ∧ t.rtime = s.rtime ∧
    (∀ k, k < 256 → spGet 0 t.sems (256 * die + k) = 0) ∧
    (∀ k, k < 256 * die ∨ 256 * die + 256 ≤ k → spGet 0 t.sems k = spGet 0 s.sems k) ∧
    ∀ k, k ≠ die → t.dieOf k = s.dieOf k) ∧
  (∀ (die : Nat) (dram : Bool) (s : State), die < s.dies.length →
    let up := fun (c : Word) => if c = 0xFFFFFFFF then c else c + 1
    let e := (s.dieOf die).ecnt
    Becomes (.correctedError die dram) s (s.updDie die (fun d => { d with
      ecnt := if dram then up (d.ecnt.extractLsb' 32 32) ++ d.ecnt.setWidth 32
        else d.ecnt.extractLsb' 32 32 ++ up (d.ecnt.setWidth 32) })) ∧
    ∃ t, Becomes (.correctedError die dram) s t ∧ (t.dieOf die).ecnt.toNat =
      (if dram then min (e.toNat / 2 ^ 32 + 1) (2 ^ 32 - 1) * 2 ^ 32 + e.toNat % 2 ^ 32
       else e.toNat / 2 ^ 32 * 2 ^ 32 + min (e.toNat % 2 ^ 32 + 1) (2 ^ 32 - 1))) ∧
  (∀ (a b : Nat) (s : State), ∃ r : Report, r.code = 0x09 ∧ r.d0 = a / 64 * 64 ∧
    (spGet 0 s.place (a / 4096) ≠ 0 → r.die = spGet 0 s.place (a / 4096) - 1) ∧
    Becomes (.uncorrectableError 0 a b) s (logModule { s with poison := poisonLine s.poison a } r)) ∧
  (∀ (g k : Nat) (s : State), s.has g = true →
    (k < 528 → ∃ t, Becomes (.uncorrectableError 2 g k) s t ∧ k ∈ (t.grp g).poisonLines ∧ (t.grp g).v = (s.grp g).v) ∧
    (k < 8 → ∃ t, Becomes (.uncorrectableError 4 g k) s t ∧ k ∈ (t.grp g).poisonTiles ∧
      (t.grp g).tiles = (s.grp g).tiles)) ∧
  (∀ (e : EngRef) (s : State), e.die < 4 → e.core < headCore → e.part < 8 → s.sampleDue e = true →
    (∀ k, k < 16 → s.inSlot e k = none) →
    Becomes (.shavingsSample e) s (s.updDie e.die (fun d =>
      { d with shvPos := spSet 0 d.shvPos (shvKey e 1) (d.shv (shvKey e 1) + 1) }))) ∧
  (∀ (e : EngRef) (s : State) (slot pix : Nat) (g : Group), e.die < 4 → e.core < headCore → e.part < 8 →
    s.sampleDue e = true → nextInRotation (fun k => (s.inSlot e k).isSome) 16 ((s.dieOf e.die).shv (shvKey e 0)) = some slot →
    s.inSlot e slot = some g →
    nextInRotation (fun k => (g.path k).live) 8 ((s.dieOf e.die).shv (shvKey e (8 + slot))) = some pix →
    let bs := sampleBytes s g e slot pix
    let n := ofLe bs
    (∃ s1, { s1 with dies := s.dies } = s ∧ Becomes (.shavingsSample e) s (writeSample s1 e.die g.pasid bs)) ∧
    bs.length = 16 ∧ nbits n 14 0 = 0 ∧ nbits n 16 15 = e.die ∧ nbits n 22 17 = e.core ∧ nbits n 25 23 = e.part ∧
    nbits n 29 26 = slot ∧ nbits n 32 30 = pix ∧ nbits n 95 39 = (g.path pix).pc.toNat ∧
    nbits n 127 96 = (g.path pix).mask.toNat) ∧
  (∀ (s : State) (die pasid : Nat) (bs : List Byte), let id := (s.ctxOf pasid).shav
    let regs := s.objNum id 0 64
    let size := nbits regs 63 0
    let head := nbits regs 127 64
    let tail := nbits regs 191 128
    let lost := nbits regs 255 192
    id ≠ 0 → s.objFault id 0 64 true true = none →
    (size - 64 < head - tail + 16 → writeSample s die pasid bs = s.objWrite id 24 (leBytes 8 (lost + 1))) ∧
    (head - tail + 16 ≤ size - 64 → s.objFault id (64 + head % (size - 64)) 16 false true = none →
      writeSample s die pasid bs =
        (s.objWrite id (64 + head % (size - 64)) bs).objWrite id 8 (leBytes 8 (head + 16))))
end

