-- ==== Sys2Proof/Laws/Formats.lean ====
section
/-! SUPPORT. Integer formats: the value that an exact result comes to, and how a register holds it. -/

namespace Sys2Proof.Machine

open Stated

theorem int_formats (f : BitVec 4) (hf : f.toNat < 8) :
    f = 0 ∨ f = 1 ∨ f = 2 ∨ f = 3 ∨ f = 4 ∨ f = 5 ∨ f = 6 ∨ f = 7 := by
  revert f; decide

theorem wrapN_emod (w : Nat) (y : Int) : ((wrapN w y : Nat) : Int) = y % (2 ^ w : Nat) := by
  unfold wrapN
  rw [Int.toNat_of_nonneg]
  exact Int.emod_nonneg _ (by have := Nat.two_pow_pos w; omega)

/-- The integer of a format that an exact result comes to. -/
def fitted (f : BitVec 4) (sat : Bool) (y : Int) : Int :=
  if sat then max (intLo f.toNat) (min (intHi f.toNat) y)
  else if f.toNat < 4 then toSigned (fmtBits f) (wrapN (fmtBits f) y) else (wrapN (fmtBits f) y : Nat)

theorem fitted_range (f : BitVec 4) (hf : f.toNat < 8) (sat : Bool) (y : Int) :
    intLo f.toNat ≤ fitted f sat y ∧ fitted f sat y ≤ intHi f.toNat ∧
    (if sat then fitted f sat y = max (intLo f.toNat) (min (intHi f.toNat) y)
     else (2 ^ fmtBits f : Int) ∣ fitted f sat y - y) := by
  rcases int_formats f hf with rfl | rfl | rfl | rfl | rfl | rfl | rfl | rfl <;>
    cases sat <;>
    simp only [fitted, intLo, intHi, fmtBits, toSigned, wrapN, BitVec.ofNat_toNat] <;>
    simp <;> omega

theorem ofNat_wrap_narrow (w : Nat) (y : Int) (hw : w ≤ 64) :
    (BitVec.ofNat 64 (wrapN w y)).toNat = wrapN w y := by
  rw [BitVec.toNat_ofNat]
  refine Nat.mod_eq_of_lt (Nat.lt_of_lt_of_le ?_ (Nat.pow_le_pow_right (by omega) hw))
  unfold wrapN
  have := Int.emod_lt_of_pos y (b := ((2 ^ w : Nat) : Int)) (by have := Nat.two_pow_pos w; omega)
  have := Int.emod_nonneg y (b := ((2 ^ w : Nat) : Int)) (by have := Nat.two_pow_pos w; omega)
  omega

/-- The register image of that integer (R103). -/
theorem holds_fitted (f : BitVec 4) (hf : f.toNat < 8) (sat : Bool) (y : Int) :
    Holds f (extend f.toNat (intBits f.toNat sat y)) (fitted f sat y) := by
  unfold Holds
  rcases int_formats f hf with rfl | rfl | rfl | rfl | rfl | rfl | rfl | rfl <;>
    cases sat <;>
    simp only [wideFmt, fitted, intLo, intHi, fmtBits, toSigned, wrapN, BitVec.ofNat_toNat, extend, intBits, satI] <;>
    simp <;>
    apply BitVec.eq_of_toNat_eq <;>
    simp only [BitVec.toNat_ofNat, BitVec.toNat_ofInt] <;>
    omega

/-- R121's value: in range, the nearest or the congruent one, as a register holds it. -/
theorem fits_extend (f : BitVec 4) (hf : f.toNat < 8) (sat : Bool) (y : Int) :
    Fits f sat y (extend f.toNat (intBits f.toNat sat y)) :=
  ⟨fitted f sat y, (fitted_range f hf sat y).1, (fitted_range f hf sat y).2.1, holds_fitted f hf sat y,
    (fitted_range f hf sat y).2.2⟩

/-- R121's "wraps". -/
theorem wraps_extend (f : BitVec 4) (hf : f.toNat < 8) (sat : Bool) (y : Int) :
    Wraps f sat y (extend f.toNat (intBits f.toNat sat y)) (if outside f.toNat y then evOV else 0) :=
  ⟨fits_extend f hf sat y, by simp [outside]⟩

end Sys2Proof.Machine
end

