-- ==== Sys2Proof/Laws/Lists.lean ====
section
/-! SUPPORT. The list helpers of the model: replacing and finding elements. -/

namespace Sys2Proof.Machine

@[simp] theorem setAt_length {α : Type} (xs : List α) (i : Nat) (v : α) : (setAt xs i v).length = xs.length := by
  induction xs generalizing i with
  | nil => rfl
  | cons x r ih => cases i <;> simp [setAt, ih]

theorem getAt_setAt_same {α : Type} (d : α) (xs : List α) (i : Nat) (v : α) (h : i < xs.length) :
    getAt d (setAt xs i v) i = v := by
  induction xs generalizing i with
  | nil => simp at h
  | cons x r ih => cases i with
    | zero => rfl
    | succ i => exact ih i (by simpa using h)

theorem getAt_setAt_other {α : Type} (d : α) (xs : List α) (i j : Nat) (v : α) (h : i ≠ j) :
    getAt d (setAt xs i v) j = getAt d xs j := by
  induction xs generalizing i j with
  | nil => rfl
  | cons x r ih =>
    cases i <;> cases j
    · exact absurd rfl h
    · rfl
    · rfl
    · exact ih _ _ (by omega)

theorem findBy_mem {α : Type} {f : α → Bool} {xs : List α} {x : α} (h : findBy f xs = some x) :
    x ∈ xs ∧ f x = true := by
  induction xs with
  | nil => simp [findBy] at h
  | cons y r ih =>
    simp only [findBy] at h
    split at h
    · next hy => cases h; exact ⟨by simp, hy⟩
    · exact ⟨by simp [ih h], (ih h).2⟩

theorem findBy_isSome {α : Type} (f : α → Bool) (xs : List α) : (findBy f xs).isSome = xs.any f := by
  induction xs with
  | nil => rfl
  | cons x r ih => simp only [findBy]; split <;> simp_all

theorem findBy_eq_none {α : Type} {f : α → Bool} {xs : List α} :
    findBy f xs = none ↔ ∀ x ∈ xs, f x = false := by
  induction xs with
  | nil => simp [findBy]
  | cons x r ih => simp only [findBy]; split <;> simp_all

/-- Finding after an update by the same test, which the update keeps. -/
theorem findBy_updBy {α : Type} (f : α → Bool) (g : α → α) (h : ∀ x, f x = true → f (g x) = true) (xs : List α) :
    findBy f (updBy f g xs) = (findBy f xs).map g := by
  induction xs with
  | nil => rfl
  | cons x r ih =>
    simp only [updBy, findBy]
    by_cases hx : f x = true
    · simp [hx, h x hx]
    · simp [hx, ih]

/-- Finding by a test that the updated elements do not meet. -/
theorem findBy_updBy_other {α : Type} (p f : α → Bool) (g : α → α)
    (h : ∀ x, f x = true → p x = false ∧ p (g x) = false) (xs : List α) :
    findBy p (updBy f g xs) = findBy p xs := by
  induction xs with
  | nil => rfl
  | cons x r ih =>
    simp only [updBy, findBy]
    by_cases hx : f x = true
    · simp [hx, h x hx, ih]
    · simp [hx, ih]

@[simp] theorem updBy_length {α : Type} (f : α → Bool) (g : α → α) (xs : List α) :
    (updBy f g xs).length = xs.length := by
  induction xs with
  | nil => rfl
  | cons x r ih => simp [updBy, ih]

/-- Two updates by one test, the first of which keeps it, are one. -/
theorem updBy_updBy {α : Type} (f : α → Bool) (g k : α → α) (h : ∀ x, f x = true → f (g x) = true) (xs : List α) :
    updBy f k (updBy f g xs) = updBy f (fun x => k (g x)) xs := by
  induction xs with
  | nil => rfl
  | cons x r ih =>
    simp only [updBy, ih]
    by_cases hx : f x = true
    · simp [hx, h x hx]
    · simp [hx]

end Sys2Proof.Machine
end

