-- ==== Sys2Proof/Laws/State.lean ====
section
/-! SUPPORT. One lemma per field per update of the state, of a group and of a path: what an update leaves and
what it sets. -/

namespace Sys2Proof.Machine

/-! ### State.updGrp -/

@[simp] theorem State.updGrp_agenda (s : State) (gid : Nat) (f : Group → Group) : (s.updGrp gid f).agenda = s.agenda := rfl
@[simp] theorem State.updGrp_tick (s : State) (gid : Nat) (f : Group → Group) : (s.updGrp gid f).tick = s.tick := rfl
@[simp] theorem State.updGrp_cur (s : State) (gid : Nat) (f : Group → Group) : (s.updGrp gid f).cur = s.cur := rfl
@[simp] theorem State.updGrp_eng (s : State) (gid : Nat) (f : Group → Group) : (s.updGrp gid f).eng = s.eng := rfl
@[simp] theorem State.updGrp_nextId (s : State) (gid : Nat) (f : Group → Group) : (s.updGrp gid f).nextId = s.nextId := rfl
@[simp] theorem State.updGrp_nextPlace (s : State) (gid : Nat) (f : Group → Group) : (s.updGrp gid f).nextPlace = s.nextPlace := rfl
@[simp] theorem State.updGrp_dies (s : State) (gid : Nat) (f : Group → Group) : (s.updGrp gid f).dies = s.dies := rfl
@[simp] theorem State.updGrp_rtime (s : State) (gid : Nat) (f : Group → Group) : (s.updGrp gid f).rtime = s.rtime := rfl
@[simp] theorem State.updGrp_headDue (s : State) (gid : Nat) (f : Group → Group) : (s.updGrp gid f).headDue = s.headDue := rfl
@[simp] theorem State.updGrp_mem (s : State) (gid : Nat) (f : Group → Group) : (s.updGrp gid f).mem = s.mem := rfl
@[simp] theorem State.updGrp_hostMem (s : State) (gid : Nat) (f : Group → Group) : (s.updGrp gid f).hostMem = s.hostMem := rfl
@[simp] theorem State.updGrp_remoteMem (s : State) (gid : Nat) (f : Group → Group) : (s.updGrp gid f).remoteMem = s.remoteMem := rfl
@[simp] theorem State.updGrp_stamp (s : State) (gid : Nat) (f : Group → Group) : (s.updGrp gid f).stamp = s.stamp := rfl
@[simp] theorem State.updGrp_hist (s : State) (gid : Nat) (f : Group → Group) : (s.updGrp gid f).hist = s.hist := rfl
@[simp] theorem State.updGrp_msgs (s : State) (gid : Nat) (f : Group → Group) : (s.updGrp gid f).msgs = s.msgs := rfl
@[simp] theorem State.updGrp_objMsgs (s : State) (gid : Nat) (f : Group → Group) : (s.updGrp gid f).objMsgs = s.objMsgs := rfl
@[simp] theorem State.updGrp_sc (s : State) (gid : Nat) (f : Group → Group) : (s.updGrp gid f).sc = s.sc := rfl
@[simp] theorem State.updGrp_poison (s : State) (gid : Nat) (f : Group → Group) : (s.updGrp gid f).poison = s.poison := rfl
@[simp] theorem State.updGrp_tags (s : State) (gid : Nat) (f : Group → Group) : (s.updGrp gid f).tags = s.tags := rfl
@[simp] theorem State.updGrp_vers (s : State) (gid : Nat) (f : Group → Group) : (s.updGrp gid f).vers = s.vers := rfl
@[simp] theorem State.updGrp_place (s : State) (gid : Nat) (f : Group → Group) : (s.updGrp gid f).place = s.place := rfl
@[simp] theorem State.updGrp_moving (s : State) (gid : Nat) (f : Group → Group) : (s.updGrp gid f).moving = s.moving := rfl
@[simp] theorem State.updGrp_sems (s : State) (gid : Nat) (f : Group → Group) : (s.updGrp gid f).sems = s.sems := rfl
@[simp] theorem State.updGrp_semTags (s : State) (gid : Nat) (f : Group → Group) : (s.updGrp gid f).semTags = s.semTags := rfl
@[simp] theorem State.updGrp_groups (s : State) (gid : Nat) (f : Group → Group) : (s.updGrp gid f).groups = updBy (fun g => g.gid == gid) f s.groups := rfl
@[simp] theorem State.updGrp_launches (s : State) (gid : Nat) (f : Group → Group) : (s.updGrp gid f).launches = s.launches := rfl
@[simp] theorem State.updGrp_blocks (s : State) (gid : Nat) (f : Group → Group) : (s.updGrp gid f).blocks = s.blocks := rfl
@[simp] theorem State.updGrp_ctxs (s : State) (gid : Nat) (f : Group → Group) : (s.updGrp gid f).ctxs = s.ctxs := rfl
@[simp] theorem State.updGrp_queues (s : State) (gid : Nat) (f : Group → Group) : (s.updGrp gid f).queues = s.queues := rfl
@[simp] theorem State.updGrp_rest (s : State) (gid : Nat) (f : Group → Group) : (s.updGrp gid f).rest = s.rest := rfl
@[simp] theorem State.updGrp_tlb (s : State) (gid : Nat) (f : Group → Group) : (s.updGrp gid f).tlb = s.tlb := rfl
@[simp] theorem State.updGrp_packets (s : State) (gid : Nat) (f : Group → Group) : (s.updGrp gid f).packets = s.packets := rfl
@[simp] theorem State.updGrp_engines (s : State) (gid : Nat) (f : Group → Group) : (s.updGrp gid f).engines = s.engines := rfl
@[simp] theorem State.updGrp_pools (s : State) (gid : Nat) (f : Group → Group) : (s.updGrp gid f).pools = s.pools := rfl
@[simp] theorem State.updGrp_module (s : State) (gid : Nat) (f : Group → Group) : (s.updGrp gid f).module = s.module := rfl

/-! ### State.updDie -/

@[simp] theorem State.updDie_agenda (s : State) (d : Nat) (f : Die → Die) : (s.updDie d f).agenda = s.agenda := rfl
@[simp] theorem State.updDie_tick (s : State) (d : Nat) (f : Die → Die) : (s.updDie d f).tick = s.tick := rfl
@[simp] theorem State.updDie_cur (s : State) (d : Nat) (f : Die → Die) : (s.updDie d f).cur = s.cur := rfl
@[simp] theorem State.updDie_eng (s : State) (d : Nat) (f : Die → Die) : (s.updDie d f).eng = s.eng := rfl
@[simp] theorem State.updDie_nextId (s : State) (d : Nat) (f : Die → Die) : (s.updDie d f).nextId = s.nextId := rfl
@[simp] theorem State.updDie_nextPlace (s : State) (d : Nat) (f : Die → Die) : (s.updDie d f).nextPlace = s.nextPlace := rfl
@[simp] theorem State.updDie_dies (s : State) (d : Nat) (f : Die → Die) : (s.updDie d f).dies = setAt s.dies d (f (s.dieOf d)) := rfl
@[simp] theorem State.updDie_rtime (s : State) (d : Nat) (f : Die → Die) : (s.updDie d f).rtime = s.rtime := rfl
@[simp] theorem State.updDie_headDue (s : State) (d : Nat) (f : Die → Die) : (s.updDie d f).headDue = s.headDue := rfl
@[simp] theorem State.updDie_mem (s : State) (d : Nat) (f : Die → Die) : (s.updDie d f).mem = s.mem := rfl
@[simp] theorem State.updDie_hostMem (s : State) (d : Nat) (f : Die → Die) : (s.updDie d f).hostMem = s.hostMem := rfl
@[simp] theorem State.updDie_remoteMem (s : State) (d : Nat) (f : Die → Die) : (s.updDie d f).remoteMem = s.remoteMem := rfl
@[simp] theorem State.updDie_stamp (s : State) (d : Nat) (f : Die → Die) : (s.updDie d f).stamp = s.stamp := rfl
@[simp] theorem State.updDie_hist (s : State) (d : Nat) (f : Die → Die) : (s.updDie d f).hist = s.hist := rfl
@[simp] theorem State.updDie_msgs (s : State) (d : Nat) (f : Die → Die) : (s.updDie d f).msgs = s.msgs := rfl
@[simp] theorem State.updDie_objMsgs (s : State) (d : Nat) (f : Die → Die) : (s.updDie d f).objMsgs = s.objMsgs := rfl
@[simp] theorem State.updDie_sc (s : State) (d : Nat) (f : Die → Die) : (s.updDie d f).sc = s.sc := rfl
@[simp] theorem State.updDie_poison (s : State) (d : Nat) (f : Die → Die) : (s.updDie d f).poison = s.poison := rfl
@[simp] theorem State.updDie_tags (s : State) (d : Nat) (f : Die → Die) : (s.updDie d f).tags = s.tags := rfl
@[simp] theorem State.updDie_vers (s : State) (d : Nat) (f : Die → Die) : (s.updDie d f).vers = s.vers := rfl
@[simp] theorem State.updDie_place (s : State) (d : Nat) (f : Die → Die) : (s.updDie d f).place = s.place := rfl
@[simp] theorem State.updDie_moving (s : State) (d : Nat) (f : Die → Die) : (s.updDie d f).moving = s.moving := rfl
@[simp] theorem State.updDie_sems (s : State) (d : Nat) (f : Die → Die) : (s.updDie d f).sems = s.sems := rfl
@[simp] theorem State.updDie_semTags (s : State) (d : Nat) (f : Die → Die) : (s.updDie d f).semTags = s.semTags := rfl
@[simp] theorem State.updDie_groups (s : State) (d : Nat) (f : Die → Die) : (s.updDie d f).groups = s.groups := rfl
@[simp] theorem State.updDie_launches (s : State) (d : Nat) (f : Die → Die) : (s.updDie d f).launches = s.launches := rfl
@[simp] theorem State.updDie_blocks (s : State) (d : Nat) (f : Die → Die) : (s.updDie d f).blocks = s.blocks := rfl
@[simp] theorem State.updDie_ctxs (s : State) (d : Nat) (f : Die → Die) : (s.updDie d f).ctxs = s.ctxs := rfl
@[simp] theorem State.updDie_queues (s : State) (d : Nat) (f : Die → Die) : (s.updDie d f).queues = s.queues := rfl
@[simp] theorem State.updDie_rest (s : State) (d : Nat) (f : Die → Die) : (s.updDie d f).rest = s.rest := rfl
@[simp] theorem State.updDie_tlb (s : State) (d : Nat) (f : Die → Die) : (s.updDie d f).tlb = s.tlb := rfl
@[simp] theorem State.updDie_packets (s : State) (d : Nat) (f : Die → Die) : (s.updDie d f).packets = s.packets := rfl
@[simp] theorem State.updDie_engines (s : State) (d : Nat) (f : Die → Die) : (s.updDie d f).engines = s.engines := rfl
@[simp] theorem State.updDie_pools (s : State) (d : Nat) (f : Die → Die) : (s.updDie d f).pools = s.pools := rfl
@[simp] theorem State.updDie_module (s : State) (d : Nat) (f : Die → Die) : (s.updDie d f).module = s.module := rfl

/-! ### State.updCtx -/

@[simp] theorem State.updCtx_agenda (s : State) (pasid : Nat) (f : Ctx → Ctx) : (s.updCtx pasid f).agenda = s.agenda := rfl
@[simp] theorem State.updCtx_tick (s : State) (pasid : Nat) (f : Ctx → Ctx) : (s.updCtx pasid f).tick = s.tick := rfl
@[simp] theorem State.updCtx_cur (s : State) (pasid : Nat) (f : Ctx → Ctx) : (s.updCtx pasid f).cur = s.cur := rfl
@[simp] theorem State.updCtx_eng (s : State) (pasid : Nat) (f : Ctx → Ctx) : (s.updCtx pasid f).eng = s.eng := rfl
@[simp] theorem State.updCtx_nextId (s : State) (pasid : Nat) (f : Ctx → Ctx) : (s.updCtx pasid f).nextId = s.nextId := rfl
@[simp] theorem State.updCtx_nextPlace (s : State) (pasid : Nat) (f : Ctx → Ctx) : (s.updCtx pasid f).nextPlace = s.nextPlace := rfl
@[simp] theorem State.updCtx_dies (s : State) (pasid : Nat) (f : Ctx → Ctx) : (s.updCtx pasid f).dies = s.dies := rfl
@[simp] theorem State.updCtx_rtime (s : State) (pasid : Nat) (f : Ctx → Ctx) : (s.updCtx pasid f).rtime = s.rtime := rfl
@[simp] theorem State.updCtx_headDue (s : State) (pasid : Nat) (f : Ctx → Ctx) : (s.updCtx pasid f).headDue = s.headDue := rfl
@[simp] theorem State.updCtx_mem (s : State) (pasid : Nat) (f : Ctx → Ctx) : (s.updCtx pasid f).mem = s.mem := rfl
@[simp] theorem State.updCtx_hostMem (s : State) (pasid : Nat) (f : Ctx → Ctx) : (s.updCtx pasid f).hostMem = s.hostMem := rfl
@[simp] theorem State.updCtx_remoteMem (s : State) (pasid : Nat) (f : Ctx → Ctx) : (s.updCtx pasid f).remoteMem = s.remoteMem := rfl
@[simp] theorem State.updCtx_stamp (s : State) (pasid : Nat) (f : Ctx → Ctx) : (s.updCtx pasid f).stamp = s.stamp := rfl
@[simp] theorem State.updCtx_hist (s : State) (pasid : Nat) (f : Ctx → Ctx) : (s.updCtx pasid f).hist = s.hist := rfl
@[simp] theorem State.updCtx_msgs (s : State) (pasid : Nat) (f : Ctx → Ctx) : (s.updCtx pasid f).msgs = s.msgs := rfl
@[simp] theorem State.updCtx_objMsgs (s : State) (pasid : Nat) (f : Ctx → Ctx) : (s.updCtx pasid f).objMsgs = s.objMsgs := rfl
@[simp] theorem State.updCtx_sc (s : State) (pasid : Nat) (f : Ctx → Ctx) : (s.updCtx pasid f).sc = s.sc := rfl
@[simp] theorem State.updCtx_poison (s : State) (pasid : Nat) (f : Ctx → Ctx) : (s.updCtx pasid f).poison = s.poison := rfl
@[simp] theorem State.updCtx_tags (s : State) (pasid : Nat) (f : Ctx → Ctx) : (s.updCtx pasid f).tags = s.tags := rfl
@[simp] theorem State.updCtx_vers (s : State) (pasid : Nat) (f : Ctx → Ctx) : (s.updCtx pasid f).vers = s.vers := rfl
@[simp] theorem State.updCtx_place (s : State) (pasid : Nat) (f : Ctx → Ctx) : (s.updCtx pasid f).place = s.place := rfl
@[simp] theorem State.updCtx_moving (s : State) (pasid : Nat) (f : Ctx → Ctx) : (s.updCtx pasid f).moving = s.moving := rfl
@[simp] theorem State.updCtx_sems (s : State) (pasid : Nat) (f : Ctx → Ctx) : (s.updCtx pasid f).sems = s.sems := rfl
@[simp] theorem State.updCtx_semTags (s : State) (pasid : Nat) (f : Ctx → Ctx) : (s.updCtx pasid f).semTags = s.semTags := rfl
@[simp] theorem State.updCtx_groups (s : State) (pasid : Nat) (f : Ctx → Ctx) : (s.updCtx pasid f).groups = s.groups := rfl
@[simp] theorem State.updCtx_launches (s : State) (pasid : Nat) (f : Ctx → Ctx) : (s.updCtx pasid f).launches = s.launches := rfl
@[simp] theorem State.updCtx_blocks (s : State) (pasid : Nat) (f : Ctx → Ctx) : (s.updCtx pasid f).blocks = s.blocks := rfl
@[simp] theorem State.updCtx_ctxs (s : State) (pasid : Nat) (f : Ctx → Ctx) : (s.updCtx pasid f).ctxs = updBy (fun c => c.pasid == pasid) f s.ctxs := rfl
@[simp] theorem State.updCtx_queues (s : State) (pasid : Nat) (f : Ctx → Ctx) : (s.updCtx pasid f).queues = s.queues := rfl
@[simp] theorem State.updCtx_rest (s : State) (pasid : Nat) (f : Ctx → Ctx) : (s.updCtx pasid f).rest = s.rest := rfl
@[simp] theorem State.updCtx_tlb (s : State) (pasid : Nat) (f : Ctx → Ctx) : (s.updCtx pasid f).tlb = s.tlb := rfl
@[simp] theorem State.updCtx_packets (s : State) (pasid : Nat) (f : Ctx → Ctx) : (s.updCtx pasid f).packets = s.packets := rfl
@[simp] theorem State.updCtx_engines (s : State) (pasid : Nat) (f : Ctx → Ctx) : (s.updCtx pasid f).engines = s.engines := rfl
@[simp] theorem State.updCtx_pools (s : State) (pasid : Nat) (f : Ctx → Ctx) : (s.updCtx pasid f).pools = s.pools := rfl
@[simp] theorem State.updCtx_module (s : State) (pasid : Nat) (f : Ctx → Ctx) : (s.updCtx pasid f).module = s.module := rfl

/-! ### State.updLaunch -/

@[simp] theorem State.updLaunch_agenda (s : State) (die lchid : Nat) (f : Launch → Launch) : (s.updLaunch die lchid f).agenda = s.agenda := rfl
@[simp] theorem State.updLaunch_tick (s : State) (die lchid : Nat) (f : Launch → Launch) : (s.updLaunch die lchid f).tick = s.tick := rfl
@[simp] theorem State.updLaunch_cur (s : State) (die lchid : Nat) (f : Launch → Launch) : (s.updLaunch die lchid f).cur = s.cur := rfl
@[simp] theorem State.updLaunch_eng (s : State) (die lchid : Nat) (f : Launch → Launch) : (s.updLaunch die lchid f).eng = s.eng := rfl
@[simp] theorem State.updLaunch_nextId (s : State) (die lchid : Nat) (f : Launch → Launch) : (s.updLaunch die lchid f).nextId = s.nextId := rfl
@[simp] theorem State.updLaunch_nextPlace (s : State) (die lchid : Nat) (f : Launch → Launch) : (s.updLaunch die lchid f).nextPlace = s.nextPlace := rfl
@[simp] theorem State.updLaunch_dies (s : State) (die lchid : Nat) (f : Launch → Launch) : (s.updLaunch die lchid f).dies = s.dies := rfl
@[simp] theorem State.updLaunch_rtime (s : State) (die lchid : Nat) (f : Launch → Launch) : (s.updLaunch die lchid f).rtime = s.rtime := rfl
@[simp] theorem State.updLaunch_headDue (s : State) (die lchid : Nat) (f : Launch → Launch) : (s.updLaunch die lchid f).headDue = s.headDue := rfl
@[simp] theorem State.updLaunch_mem (s : State) (die lchid : Nat) (f : Launch → Launch) : (s.updLaunch die lchid f).mem = s.mem := rfl
@[simp] theorem State.updLaunch_hostMem (s : State) (die lchid : Nat) (f : Launch → Launch) : (s.updLaunch die lchid f).hostMem = s.hostMem := rfl
@[simp] theorem State.updLaunch_remoteMem (s : State) (die lchid : Nat) (f : Launch → Launch) : (s.updLaunch die lchid f).remoteMem = s.remoteMem := rfl
@[simp] theorem State.updLaunch_stamp (s : State) (die lchid : Nat) (f : Launch → Launch) : (s.updLaunch die lchid f).stamp = s.stamp := rfl
@[simp] theorem State.updLaunch_hist (s : State) (die lchid : Nat) (f : Launch → Launch) : (s.updLaunch die lchid f).hist = s.hist := rfl
@[simp] theorem State.updLaunch_msgs (s : State) (die lchid : Nat) (f : Launch → Launch) : (s.updLaunch die lchid f).msgs = s.msgs := rfl
@[simp] theorem State.updLaunch_objMsgs (s : State) (die lchid : Nat) (f : Launch → Launch) : (s.updLaunch die lchid f).objMsgs = s.objMsgs := rfl
@[simp] theorem State.updLaunch_sc (s : State) (die lchid : Nat) (f : Launch → Launch) : (s.updLaunch die lchid f).sc = s.sc := rfl
@[simp] theorem State.updLaunch_poison (s : State) (die lchid : Nat) (f : Launch → Launch) : (s.updLaunch die lchid f).poison = s.poison := rfl
@[simp] theorem State.updLaunch_tags (s : State) (die lchid : Nat) (f : Launch → Launch) : (s.updLaunch die lchid f).tags = s.tags := rfl
@[simp] theorem State.updLaunch_vers (s : State) (die lchid : Nat) (f : Launch → Launch) : (s.updLaunch die lchid f).vers = s.vers := rfl
@[simp] theorem State.updLaunch_place (s : State) (die lchid : Nat) (f : Launch → Launch) : (s.updLaunch die lchid f).place = s.place := rfl
@[simp] theorem State.updLaunch_moving (s : State) (die lchid : Nat) (f : Launch → Launch) : (s.updLaunch die lchid f).moving = s.moving := rfl
@[simp] theorem State.updLaunch_sems (s : State) (die lchid : Nat) (f : Launch → Launch) : (s.updLaunch die lchid f).sems = s.sems := rfl
@[simp] theorem State.updLaunch_semTags (s : State) (die lchid : Nat) (f : Launch → Launch) : (s.updLaunch die lchid f).semTags = s.semTags := rfl
@[simp] theorem State.updLaunch_groups (s : State) (die lchid : Nat) (f : Launch → Launch) : (s.updLaunch die lchid f).groups = s.groups := rfl
@[simp] theorem State.updLaunch_launches (s : State) (die lchid : Nat) (f : Launch → Launch) : (s.updLaunch die lchid f).launches = updBy (fun l => l.die == die && l.lchid == lchid) f s.launches := rfl
@[simp] theorem State.updLaunch_blocks (s : State) (die lchid : Nat) (f : Launch → Launch) : (s.updLaunch die lchid f).blocks = s.blocks := rfl
@[simp] theorem State.updLaunch_ctxs (s : State) (die lchid : Nat) (f : Launch → Launch) : (s.updLaunch die lchid f).ctxs = s.ctxs := rfl
@[simp] theorem State.updLaunch_queues (s : State) (die lchid : Nat) (f : Launch → Launch) : (s.updLaunch die lchid f).queues = s.queues := rfl
@[simp] theorem State.updLaunch_rest (s : State) (die lchid : Nat) (f : Launch → Launch) : (s.updLaunch die lchid f).rest = s.rest := rfl
@[simp] theorem State.updLaunch_tlb (s : State) (die lchid : Nat) (f : Launch → Launch) : (s.updLaunch die lchid f).tlb = s.tlb := rfl
@[simp] theorem State.updLaunch_packets (s : State) (die lchid : Nat) (f : Launch → Launch) : (s.updLaunch die lchid f).packets = s.packets := rfl
@[simp] theorem State.updLaunch_engines (s : State) (die lchid : Nat) (f : Launch → Launch) : (s.updLaunch die lchid f).engines = s.engines := rfl
@[simp] theorem State.updLaunch_pools (s : State) (die lchid : Nat) (f : Launch → Launch) : (s.updLaunch die lchid f).pools = s.pools := rfl
@[simp] theorem State.updLaunch_module (s : State) (die lchid : Nat) (f : Launch → Launch) : (s.updLaunch die lchid f).module = s.module := rfl

/-! ### State.updBlock -/

@[simp] theorem State.updBlock_agenda (s : State) (die lchid ix : Nat) (f : Block → Block) : (s.updBlock die lchid ix f).agenda = s.agenda := rfl
@[simp] theorem State.updBlock_tick (s : State) (die lchid ix : Nat) (f : Block → Block) : (s.updBlock die lchid ix f).tick = s.tick := rfl
@[simp] theorem State.updBlock_cur (s : State) (die lchid ix : Nat) (f : Block → Block) : (s.updBlock die lchid ix f).cur = s.cur := rfl
@[simp] theorem State.updBlock_eng (s : State) (die lchid ix : Nat) (f : Block → Block) : (s.updBlock die lchid ix f).eng = s.eng := rfl
@[simp] theorem State.updBlock_nextId (s : State) (die lchid ix : Nat) (f : Block → Block) : (s.updBlock die lchid ix f).nextId = s.nextId := rfl
@[simp] theorem State.updBlock_nextPlace (s : State) (die lchid ix : Nat) (f : Block → Block) : (s.updBlock die lchid ix f).nextPlace = s.nextPlace := rfl
@[simp] theorem State.updBlock_dies (s : State) (die lchid ix : Nat) (f : Block → Block) : (s.updBlock die lchid ix f).dies = s.dies := rfl
@[simp] theorem State.updBlock_rtime (s : State) (die lchid ix : Nat) (f : Block → Block) : (s.updBlock die lchid ix f).rtime = s.rtime := rfl
@[simp] theorem State.updBlock_headDue (s : State) (die lchid ix : Nat) (f : Block → Block) : (s.updBlock die lchid ix f).headDue = s.headDue := rfl
@[simp] theorem State.updBlock_mem (s : State) (die lchid ix : Nat) (f : Block → Block) : (s.updBlock die lchid ix f).mem = s.mem := rfl
@[simp] theorem State.updBlock_hostMem (s : State) (die lchid ix : Nat) (f : Block → Block) : (s.updBlock die lchid ix f).hostMem = s.hostMem := rfl
@[simp] theorem State.updBlock_remoteMem (s : State) (die lchid ix : Nat) (f : Block → Block) : (s.updBlock die lchid ix f).remoteMem = s.remoteMem := rfl
@[simp] theorem State.updBlock_stamp (s : State) (die lchid ix : Nat) (f : Block → Block) : (s.updBlock die lchid ix f).stamp = s.stamp := rfl
@[simp] theorem State.updBlock_hist (s : State) (die lchid ix : Nat) (f : Block → Block) : (s.updBlock die lchid ix f).hist = s.hist := rfl
@[simp] theorem State.updBlock_msgs (s : State) (die lchid ix : Nat) (f : Block → Block) : (s.updBlock die lchid ix f).msgs = s.msgs := rfl
@[simp] theorem State.updBlock_objMsgs (s : State) (die lchid ix : Nat) (f : Block → Block) : (s.updBlock die lchid ix f).objMsgs = s.objMsgs := rfl
@[simp] theorem State.updBlock_sc (s : State) (die lchid ix : Nat) (f : Block → Block) : (s.updBlock die lchid ix f).sc = s.sc := rfl
@[simp] theorem State.updBlock_poison (s : State) (die lchid ix : Nat) (f : Block → Block) : (s.updBlock die lchid ix f).poison = s.poison := rfl
@[simp] theorem State.updBlock_tags (s : State) (die lchid ix : Nat) (f : Block → Block) : (s.updBlock die lchid ix f).tags = s.tags := rfl
@[simp] theorem State.updBlock_vers (s : State) (die lchid ix : Nat) (f : Block → Block) : (s.updBlock die lchid ix f).vers = s.vers := rfl
@[simp] theorem State.updBlock_place (s : State) (die lchid ix : Nat) (f : Block → Block) : (s.updBlock die lchid ix f).place = s.place := rfl
@[simp] theorem State.updBlock_moving (s : State) (die lchid ix : Nat) (f : Block → Block) : (s.updBlock die lchid ix f).moving = s.moving := rfl
@[simp] theorem State.updBlock_sems (s : State) (die lchid ix : Nat) (f : Block → Block) : (s.updBlock die lchid ix f).sems = s.sems := rfl
@[simp] theorem State.updBlock_semTags (s : State) (die lchid ix : Nat) (f : Block → Block) : (s.updBlock die lchid ix f).semTags = s.semTags := rfl
@[simp] theorem State.updBlock_groups (s : State) (die lchid ix : Nat) (f : Block → Block) : (s.updBlock die lchid ix f).groups = s.groups := rfl
@[simp] theorem State.updBlock_launches (s : State) (die lchid ix : Nat) (f : Block → Block) : (s.updBlock die lchid ix f).launches = s.launches := rfl
@[simp] theorem State.updBlock_blocks (s : State) (die lchid ix : Nat) (f : Block → Block) : (s.updBlock die lchid ix f).blocks = updBy (fun b => b.die == die && b.lchid == lchid && b.ix == ix) f s.blocks := rfl
@[simp] theorem State.updBlock_ctxs (s : State) (die lchid ix : Nat) (f : Block → Block) : (s.updBlock die lchid ix f).ctxs = s.ctxs := rfl
@[simp] theorem State.updBlock_queues (s : State) (die lchid ix : Nat) (f : Block → Block) : (s.updBlock die lchid ix f).queues = s.queues := rfl
@[simp] theorem State.updBlock_rest (s : State) (die lchid ix : Nat) (f : Block → Block) : (s.updBlock die lchid ix f).rest = s.rest := rfl
@[simp] theorem State.updBlock_tlb (s : State) (die lchid ix : Nat) (f : Block → Block) : (s.updBlock die lchid ix f).tlb = s.tlb := rfl
@[simp] theorem State.updBlock_packets (s : State) (die lchid ix : Nat) (f : Block → Block) : (s.updBlock die lchid ix f).packets = s.packets := rfl
@[simp] theorem State.updBlock_engines (s : State) (die lchid ix : Nat) (f : Block → Block) : (s.updBlock die lchid ix f).engines = s.engines := rfl
@[simp] theorem State.updBlock_pools (s : State) (die lchid ix : Nat) (f : Block → Block) : (s.updBlock die lchid ix f).pools = s.pools := rfl
@[simp] theorem State.updBlock_module (s : State) (die lchid ix : Nat) (f : Block → Block) : (s.updBlock die lchid ix f).module = s.module := rfl

/-! ### State.passClk -/

@[simp] theorem State.passClk_agenda (s : State) (die n : Nat) : (s.passClk die n).agenda = s.agenda := rfl
@[simp] theorem State.passClk_tick (s : State) (die n : Nat) : (s.passClk die n).tick = s.tick := rfl
@[simp] theorem State.passClk_cur (s : State) (die n : Nat) : (s.passClk die n).cur = s.cur := rfl
@[simp] theorem State.passClk_eng (s : State) (die n : Nat) : (s.passClk die n).eng = s.eng := rfl
@[simp] theorem State.passClk_nextId (s : State) (die n : Nat) : (s.passClk die n).nextId = s.nextId := rfl
@[simp] theorem State.passClk_nextPlace (s : State) (die n : Nat) : (s.passClk die n).nextPlace = s.nextPlace := rfl
@[simp] theorem State.passClk_rtime (s : State) (die n : Nat) : (s.passClk die n).rtime = s.rtime := rfl
@[simp] theorem State.passClk_headDue (s : State) (die n : Nat) : (s.passClk die n).headDue = s.headDue := rfl
@[simp] theorem State.passClk_mem (s : State) (die n : Nat) : (s.passClk die n).mem = s.mem := rfl
@[simp] theorem State.passClk_hostMem (s : State) (die n : Nat) : (s.passClk die n).hostMem = s.hostMem := rfl
@[simp] theorem State.passClk_remoteMem (s : State) (die n : Nat) : (s.passClk die n).remoteMem = s.remoteMem := rfl
@[simp] theorem State.passClk_stamp (s : State) (die n : Nat) : (s.passClk die n).stamp = s.stamp := rfl
@[simp] theorem State.passClk_hist (s : State) (die n : Nat) : (s.passClk die n).hist = s.hist := rfl
@[simp] theorem State.passClk_msgs (s : State) (die n : Nat) : (s.passClk die n).msgs = s.msgs := rfl
@[simp] theorem State.passClk_objMsgs (s : State) (die n : Nat) : (s.passClk die n).objMsgs = s.objMsgs := rfl
@[simp] theorem State.passClk_sc (s : State) (die n : Nat) : (s.passClk die n).sc = s.sc := rfl
@[simp] theorem State.passClk_poison (s : State) (die n : Nat) : (s.passClk die n).poison = s.poison := rfl
@[simp] theorem State.passClk_tags (s : State) (die n : Nat) : (s.passClk die n).tags = s.tags := rfl
@[simp] theorem State.passClk_vers (s : State) (die n : Nat) : (s.passClk die n).vers = s.vers := rfl
@[simp] theorem State.passClk_place (s : State) (die n : Nat) : (s.passClk die n).place = s.place := rfl
@[simp] theorem State.passClk_moving (s : State) (die n : Nat) : (s.passClk die n).moving = s.moving := rfl
@[simp] theorem State.passClk_sems (s : State) (die n : Nat) : (s.passClk die n).sems = s.sems := rfl
@[simp] theorem State.passClk_semTags (s : State) (die n : Nat) : (s.passClk die n).semTags = s.semTags := rfl
@[simp] theorem State.passClk_groups (s : State) (die n : Nat) : (s.passClk die n).groups = s.groups := rfl
@[simp] theorem State.passClk_launches (s : State) (die n : Nat) : (s.passClk die n).launches = s.launches := rfl
@[simp] theorem State.passClk_blocks (s : State) (die n : Nat) : (s.passClk die n).blocks = s.blocks := rfl
@[simp] theorem State.passClk_queues (s : State) (die n : Nat) : (s.passClk die n).queues = s.queues := rfl
@[simp] theorem State.passClk_rest (s : State) (die n : Nat) : (s.passClk die n).rest = s.rest := rfl
@[simp] theorem State.passClk_tlb (s : State) (die n : Nat) : (s.passClk die n).tlb = s.tlb := rfl
@[simp] theorem State.passClk_packets (s : State) (die n : Nat) : (s.passClk die n).packets = s.packets := rfl
@[simp] theorem State.passClk_engines (s : State) (die n : Nat) : (s.passClk die n).engines = s.engines := rfl
@[simp] theorem State.passClk_pools (s : State) (die n : Nat) : (s.passClk die n).pools = s.pools := rfl
@[simp] theorem State.passClk_module (s : State) (die n : Nat) : (s.passClk die n).module = s.module := rfl

/-! ### Group.updPath and Group.raise -/

@[simp] theorem Group.updPath_gid (g : Group) (i : Nat) (f : Path → Path) : (g.updPath i f).gid = g.gid := rfl
@[simp] theorem Group.updPath_die (g : Group) (i : Nat) (f : Path → Path) : (g.updPath i f).die = g.die := rfl
@[simp] theorem Group.updPath_lchid (g : Group) (i : Nat) (f : Path → Path) : (g.updPath i f).lchid = g.lchid := rfl
@[simp] theorem Group.updPath_block (g : Group) (i : Nat) (f : Path → Path) : (g.updPath i f).block = g.block := rfl
@[simp] theorem Group.updPath_grpid (g : Group) (i : Nat) (f : Path → Path) : (g.updPath i f).grpid = g.grpid := rfl
@[simp] theorem Group.updPath_role (g : Group) (i : Nat) (f : Path → Path) : (g.updPath i f).role = g.role := rfl
@[simp] theorem Group.updPath_pasid (g : Group) (i : Nat) (f : Path → Path) : (g.updPath i f).pasid = g.pasid := rfl
@[simp] theorem Group.updPath_image (g : Group) (i : Nat) (f : Path → Path) : (g.updPath i f).image = g.image := rfl
@[simp] theorem Group.updPath_place (g : Group) (i : Nat) (f : Path → Path) : (g.updPath i f).place = g.place := rfl
@[simp] theorem Group.updPath_reserved (g : Group) (i : Nat) (f : Path → Path) : (g.updPath i f).reserved = g.reserved := rfl
@[simp] theorem Group.updPath_last (g : Group) (i : Nat) (f : Path → Path) : (g.updPath i f).last = g.last := rfl
@[simp] theorem Group.updPath_byPromo (g : Group) (i : Nat) (f : Path → Path) : (g.updPath i f).byPromo = g.byPromo := rfl
@[simp] theorem Group.updPath_dispatched (g : Group) (i : Nat) (f : Path → Path) : (g.updPath i f).dispatched = g.dispatched := rfl
@[simp] theorem Group.updPath_age (g : Group) (i : Nat) (f : Path → Path) : (g.updPath i f).age = g.age := rfl
@[simp] theorem Group.updPath_ended (g : Group) (i : Nat) (f : Path → Path) : (g.updPath i f).ended = g.ended := rfl
@[simp] theorem Group.updPath_v (g : Group) (i : Nat) (f : Path → Path) : (g.updPath i f).v = g.v := rfl
@[simp] theorem Group.updPath_s (g : Group) (i : Nat) (f : Path → Path) : (g.updPath i f).s = g.s := rfl
@[simp] theorem Group.updPath_q (g : Group) (i : Nat) (f : Path → Path) : (g.updPath i f).q = g.q := rfl
@[simp] theorem Group.updPath_x (g : Group) (i : Nat) (f : Path → Path) : (g.updPath i f).x = g.x := rfl
@[simp] theorem Group.updPath_p (g : Group) (i : Nat) (f : Path → Path) : (g.updPath i f).p = g.p := rfl
@[simp] theorem Group.updPath_regs (g : Group) (i : Nat) (f : Path → Path) : (g.updPath i f).regs = g.regs := rfl
@[simp] theorem Group.updPath_paths (g : Group) (i : Nat) (f : Path → Path) : (g.updPath i f).paths = setAt g.paths i (f (g.path i)) := rfl
@[simp] theorem Group.updPath_deferrals (g : Group) (i : Nat) (f : Path → Path) : (g.updPath i f).deferrals = g.deferrals := rfl
@[simp] theorem Group.updPath_regions (g : Group) (i : Nat) (f : Path → Path) : (g.updPath i f).regions = g.regions := rfl
@[simp] theorem Group.updPath_held (g : Group) (i : Nat) (f : Path → Path) : (g.updPath i f).held = g.held := rfl
@[simp] theorem Group.updPath_exited (g : Group) (i : Nat) (f : Path → Path) : (g.updPath i f).exited = g.exited := rfl
@[simp] theorem Group.updPath_ops (g : Group) (i : Nat) (f : Path → Path) : (g.updPath i f).ops = g.ops := rfl
@[simp] theorem Group.updPath_faults (g : Group) (i : Nat) (f : Path → Path) : (g.updPath i f).faults = g.faults := rfl
@[simp] theorem Group.updPath_sb (g : Group) (i : Nat) (f : Path → Path) : (g.updPath i f).sb = g.sb := rfl
@[simp] theorem Group.updPath_lines (g : Group) (i : Nat) (f : Path → Path) : (g.updPath i f).lines = g.lines := rfl
@[simp] theorem Group.updPath_absent (g : Group) (i : Nat) (f : Path → Path) : (g.updPath i f).absent = g.absent := rfl
@[simp] theorem Group.updPath_dirty (g : Group) (i : Nat) (f : Path → Path) : (g.updPath i f).dirty = g.dirty := rfl
@[simp] theorem Group.updPath_used (g : Group) (i : Nat) (f : Path → Path) : (g.updPath i f).used = g.used := rfl
@[simp] theorem Group.updPath_missing (g : Group) (i : Nat) (f : Path → Path) : (g.updPath i f).missing = g.missing := rfl
@[simp] theorem Group.updPath_issues (g : Group) (i : Nat) (f : Path → Path) : (g.updPath i f).issues = g.issues := rfl
@[simp] theorem Group.updPath_issuedClk (g : Group) (i : Nat) (f : Path → Path) : (g.updPath i f).issuedClk = g.issuedClk := rfl
@[simp] theorem Group.updPath_issuedPaths (g : Group) (i : Nat) (f : Path → Path) : (g.updPath i f).issuedPaths = g.issuedPaths := rfl
@[simp] theorem Group.updPath_views (g : Group) (i : Nat) (f : Path → Path) : (g.updPath i f).views = g.views := rfl
@[simp] theorem Group.updPath_recent (g : Group) (i : Nat) (f : Path → Path) : (g.updPath i f).recent = g.recent := rfl
@[simp] theorem Group.updPath_lateS (g : Group) (i : Nat) (f : Path → Path) : (g.updPath i f).lateS = g.lateS := rfl
@[simp] theorem Group.updPath_tiles (g : Group) (i : Nat) (f : Path → Path) : (g.updPath i f).tiles = g.tiles := rfl
@[simp] theorem Group.updPath_slots (g : Group) (i : Nat) (f : Path → Path) : (g.updPath i f).slots = g.slots := rfl
@[simp] theorem Group.updPath_drains (g : Group) (i : Nat) (f : Path → Path) : (g.updPath i f).drains = g.drains := rfl
@[simp] theorem Group.updPath_stopped (g : Group) (i : Nat) (f : Path → Path) : (g.updPath i f).stopped = g.stopped := rfl
@[simp] theorem Group.updPath_arrival (g : Group) (i : Nat) (f : Path → Path) : (g.updPath i f).arrival = g.arrival := rfl
@[simp] theorem Group.updPath_task (g : Group) (i : Nat) (f : Path → Path) : (g.updPath i f).task = g.task := rfl
@[simp] theorem Group.updPath_stopReq (g : Group) (i : Nat) (f : Path → Path) : (g.updPath i f).stopReq = g.stopReq := rfl
@[simp] theorem Group.updPath_restarts (g : Group) (i : Nat) (f : Path → Path) : (g.updPath i f).restarts = g.restarts := rfl
@[simp] theorem Group.updPath_flushed (g : Group) (i : Nat) (f : Path → Path) : (g.updPath i f).flushed = g.flushed := rfl
@[simp] theorem Group.updPath_poisonLines (g : Group) (i : Nat) (f : Path → Path) : (g.updPath i f).poisonLines = g.poisonLines := rfl
@[simp] theorem Group.updPath_poisonTiles (g : Group) (i : Nat) (f : Path → Path) : (g.updPath i f).poisonTiles = g.poisonTiles := rfl
@[simp] theorem Group.raise_gid (g : Group) (clk : Nat) (ev : BitVec 8) : (g.raise clk ev).gid = g.gid := rfl
@[simp] theorem Group.raise_die (g : Group) (clk : Nat) (ev : BitVec 8) : (g.raise clk ev).die = g.die := rfl
@[simp] theorem Group.raise_lchid (g : Group) (clk : Nat) (ev : BitVec 8) : (g.raise clk ev).lchid = g.lchid := rfl
@[simp] theorem Group.raise_block (g : Group) (clk : Nat) (ev : BitVec 8) : (g.raise clk ev).block = g.block := rfl
@[simp] theorem Group.raise_grpid (g : Group) (clk : Nat) (ev : BitVec 8) : (g.raise clk ev).grpid = g.grpid := rfl
@[simp] theorem Group.raise_role (g : Group) (clk : Nat) (ev : BitVec 8) : (g.raise clk ev).role = g.role := rfl
@[simp] theorem Group.raise_pasid (g : Group) (clk : Nat) (ev : BitVec 8) : (g.raise clk ev).pasid = g.pasid := rfl
@[simp] theorem Group.raise_image (g : Group) (clk : Nat) (ev : BitVec 8) : (g.raise clk ev).image = g.image := rfl
@[simp] theorem Group.raise_place (g : Group) (clk : Nat) (ev : BitVec 8) : (g.raise clk ev).place = g.place := rfl
@[simp] theorem Group.raise_reserved (g : Group) (clk : Nat) (ev : BitVec 8) : (g.raise clk ev).reserved = g.reserved := rfl
@[simp] theorem Group.raise_last (g : Group) (clk : Nat) (ev : BitVec 8) : (g.raise clk ev).last = g.last := rfl
@[simp] theorem Group.raise_byPromo (g : Group) (clk : Nat) (ev : BitVec 8) : (g.raise clk ev).byPromo = g.byPromo := rfl
@[simp] theorem Group.raise_dispatched (g : Group) (clk : Nat) (ev : BitVec 8) : (g.raise clk ev).dispatched = g.dispatched := rfl
@[simp] theorem Group.raise_age (g : Group) (clk : Nat) (ev : BitVec 8) : (g.raise clk ev).age = g.age := rfl
@[simp] theorem Group.raise_ended (g : Group) (clk : Nat) (ev : BitVec 8) : (g.raise clk ev).ended = g.ended := rfl
@[simp] theorem Group.raise_v (g : Group) (clk : Nat) (ev : BitVec 8) : (g.raise clk ev).v = g.v := rfl
@[simp] theorem Group.raise_s (g : Group) (clk : Nat) (ev : BitVec 8) : (g.raise clk ev).s = g.s := rfl
@[simp] theorem Group.raise_q (g : Group) (clk : Nat) (ev : BitVec 8) : (g.raise clk ev).q = g.q := rfl
@[simp] theorem Group.raise_x (g : Group) (clk : Nat) (ev : BitVec 8) : (g.raise clk ev).x = g.x := rfl
@[simp] theorem Group.raise_p (g : Group) (clk : Nat) (ev : BitVec 8) : (g.raise clk ev).p = g.p := rfl
@[simp] theorem Group.raise_paths (g : Group) (clk : Nat) (ev : BitVec 8) : (g.raise clk ev).paths = g.paths := rfl
@[simp] theorem Group.raise_deferrals (g : Group) (clk : Nat) (ev : BitVec 8) : (g.raise clk ev).deferrals = g.deferrals := rfl
@[simp] theorem Group.raise_regions (g : Group) (clk : Nat) (ev : BitVec 8) : (g.raise clk ev).regions = g.regions := rfl
@[simp] theorem Group.raise_held (g : Group) (clk : Nat) (ev : BitVec 8) : (g.raise clk ev).held = g.held := rfl
@[simp] theorem Group.raise_exited (g : Group) (clk : Nat) (ev : BitVec 8) : (g.raise clk ev).exited = g.exited := rfl
@[simp] theorem Group.raise_ops (g : Group) (clk : Nat) (ev : BitVec 8) : (g.raise clk ev).ops = g.ops := rfl
@[simp] theorem Group.raise_faults (g : Group) (clk : Nat) (ev : BitVec 8) : (g.raise clk ev).faults = g.faults := rfl
@[simp] theorem Group.raise_sb (g : Group) (clk : Nat) (ev : BitVec 8) : (g.raise clk ev).sb = g.sb := rfl
@[simp] theorem Group.raise_lines (g : Group) (clk : Nat) (ev : BitVec 8) : (g.raise clk ev).lines = g.lines := rfl
@[simp] theorem Group.raise_absent (g : Group) (clk : Nat) (ev : BitVec 8) : (g.raise clk ev).absent = g.absent := rfl
@[simp] theorem Group.raise_dirty (g : Group) (clk : Nat) (ev : BitVec 8) : (g.raise clk ev).dirty = g.dirty := rfl
@[simp] theorem Group.raise_used (g : Group) (clk : Nat) (ev : BitVec 8) : (g.raise clk ev).used = g.used := rfl
@[simp] theorem Group.raise_missing (g : Group) (clk : Nat) (ev : BitVec 8) : (g.raise clk ev).missing = g.missing := rfl
@[simp] theorem Group.raise_issues (g : Group) (clk : Nat) (ev : BitVec 8) : (g.raise clk ev).issues = g.issues := rfl
@[simp] theorem Group.raise_issuedClk (g : Group) (clk : Nat) (ev : BitVec 8) : (g.raise clk ev).issuedClk = g.issuedClk := rfl
@[simp] theorem Group.raise_issuedPaths (g : Group) (clk : Nat) (ev : BitVec 8) : (g.raise clk ev).issuedPaths = g.issuedPaths := rfl
@[simp] theorem Group.raise_views (g : Group) (clk : Nat) (ev : BitVec 8) : (g.raise clk ev).views = g.views := rfl
@[simp] theorem Group.raise_recent (g : Group) (clk : Nat) (ev : BitVec 8) : (g.raise clk ev).recent = g.recent := rfl
@[simp] theorem Group.raise_lateS (g : Group) (clk : Nat) (ev : BitVec 8) : (g.raise clk ev).lateS = g.lateS := rfl
@[simp] theorem Group.raise_tiles (g : Group) (clk : Nat) (ev : BitVec 8) : (g.raise clk ev).tiles = g.tiles := rfl
@[simp] theorem Group.raise_slots (g : Group) (clk : Nat) (ev : BitVec 8) : (g.raise clk ev).slots = g.slots := rfl
@[simp] theorem Group.raise_drains (g : Group) (clk : Nat) (ev : BitVec 8) : (g.raise clk ev).drains = g.drains := rfl
@[simp] theorem Group.raise_stopped (g : Group) (clk : Nat) (ev : BitVec 8) : (g.raise clk ev).stopped = g.stopped := rfl
@[simp] theorem Group.raise_arrival (g : Group) (clk : Nat) (ev : BitVec 8) : (g.raise clk ev).arrival = g.arrival := rfl
@[simp] theorem Group.raise_task (g : Group) (clk : Nat) (ev : BitVec 8) : (g.raise clk ev).task = g.task := rfl
@[simp] theorem Group.raise_stopReq (g : Group) (clk : Nat) (ev : BitVec 8) : (g.raise clk ev).stopReq = g.stopReq := rfl
@[simp] theorem Group.raise_restarts (g : Group) (clk : Nat) (ev : BitVec 8) : (g.raise clk ev).restarts = g.restarts := rfl
@[simp] theorem Group.raise_flushed (g : Group) (clk : Nat) (ev : BitVec 8) : (g.raise clk ev).flushed = g.flushed := rfl
@[simp] theorem Group.raise_poisonLines (g : Group) (clk : Nat) (ev : BitVec 8) : (g.raise clk ev).poisonLines = g.poisonLines := rfl
@[simp] theorem Group.raise_poisonTiles (g : Group) (clk : Nat) (ev : BitVec 8) : (g.raise clk ev).poisonTiles = g.poisonTiles := rfl
@[simp] theorem Group.raise_astat (g : Group) (clk : Nat) (ev : BitVec 8) : (g.raise clk ev).regs.astat = g.regs.astat := rfl
@[simp] theorem Group.raise_due (g : Group) (clk : Nat) (ev : BitVec 8) :
    (g.raise clk ev).regs.due = (clk, ev) :: g.regs.due := rfl

end Sys2Proof.Machine
end

