-- ==== Sys2Proof/Laws/Issue.lean ====
section
/-! SUPPORT. The issue of an instruction: the group that an update reaches, and the checks before an
instruction's own effect, said once. -/

namespace Sys2Proof.Machine

/-! ### Groups -/

/-- The group of an identity after its update. -/
theorem State.grp_updGrp (s : State) (gid : Nat) (f : Group → Group) (hf : ∀ g, (f g).gid = g.gid)
    (hh : s.has gid = true) : (s.updGrp gid f).grp gid = f (s.grp gid) := by
  have hs : (findBy (fun g => g.gid == gid) s.groups).isSome = true := by
    rw [findBy_isSome]; exact hh
  obtain ⟨g, hg⟩ := Option.isSome_iff_exists.mp hs
  have := findBy_updBy (fun g => g.gid == gid) f (fun x hx => by simpa [hf] using hx) s.groups
  simp only [State.grp, State.updGrp, this, hg, Option.map]

/-- Another group after an update. -/
theorem State.grp_updGrp_other (s : State) (gid k : Nat) (f : Group → Group) (hf : ∀ g, (f g).gid = g.gid)
    (hk : k ≠ gid) : (s.updGrp gid f).grp k = s.grp k := by
  simp only [State.grp, State.updGrp]
  rw [findBy_updBy_other]
  intro x hx
  have hx' : x.gid = gid := by simpa using hx
  constructor
  · simp [hx', Ne.symm hk]
  · simp [hf, hx', Ne.symm hk]

theorem State.has_updGrp (s : State) (gid k : Nat) (f : Group → Group) (hf : ∀ g, (f g).gid = g.gid) :
    (s.updGrp gid f).has k = s.has k := by
  simp only [State.has, State.updGrp]
  induction s.groups with
  | nil => rfl
  | cons x r ih =>
    simp only [updBy, List.any_cons, ih]
    by_cases hx : (x.gid == gid) = true <;> simp [hx, hf]

/-- Two updates of one group, the first of which keeps its identity, are one. -/
theorem State.updGrp_updGrp (s : State) (gid : Nat) (f k : Group → Group) (hf : ∀ g, (f g).gid = g.gid) :
    (s.updGrp gid f).updGrp gid k = s.updGrp gid (fun g => k (f g)) := by
  simp only [State.updGrp]
  rw [updBy_updBy]
  intro x hx
  simpa [hf] using hx

/-! ### The use of register lines -/

theorem State.touch_eq (s : State) (i : Instr) :
    s.touch i = s.updGrp s.cur.gid
      (fun g => g.touched (g.namedLines i) (writtenLines i) s.tick (s.dieOf g.die).clk) := rfl

theorem State.touch_grp (s : State) (i : Instr) (hh : s.has s.cur.gid = true) :
    (s.touch i).grp s.cur.gid =
      (s.grp s.cur.gid).touched ((s.grp s.cur.gid).namedLines i) (writtenLines i) s.tick
        (s.dieOf (s.grp s.cur.gid).die).clk :=
  State.grp_updGrp _ _ _ (fun _ => rfl) hh

@[simp] theorem State.touch_cur (s : State) (i : Instr) : (s.touch i).cur = s.cur := rfl
@[simp] theorem State.touch_mem (s : State) (i : Instr) : (s.touch i).mem = s.mem := rfl
@[simp] theorem State.touch_dies (s : State) (i : Instr) : (s.touch i).dies = s.dies := rfl
@[simp] theorem State.touch_rtime (s : State) (i : Instr) : (s.touch i).rtime = s.rtime := rfl
@[simp] theorem State.touch_ctxs (s : State) (i : Instr) : (s.touch i).ctxs = s.ctxs := rfl
@[simp] theorem State.touch_launches (s : State) (i : Instr) : (s.touch i).launches = s.launches := rfl

@[simp] theorem Group.touched_die (g : Group) (n w : List Nat) (t k : Nat) : (g.touched n w t k).die = g.die := rfl
@[simp] theorem Group.touched_gid (g : Group) (n w : List Nat) (t k : Nat) : (g.touched n w t k).gid = g.gid := rfl
@[simp] theorem Group.touched_paths (g : Group) (n w : List Nat) (t k : Nat) : (g.touched n w t k).paths = g.paths := rfl
@[simp] theorem Group.touched_path (g : Group) (n w : List Nat) (t k pix : Nat) :
    (g.touched n w t k).path pix = g.path pix := rfl
@[simp] theorem Group.touched_ops (g : Group) (n w : List Nat) (t k : Nat) : (g.touched n w t k).ops = g.ops := rfl

/-! ### The checks before an instruction's own effect -/

theorem clockRead_quiet (s : State) (g : Group) (pix : Nat) (reads : Bool) (typ : Nat) (now : DWord)
    (h : (grainOn s g && reads) = false) : clockRead s g pix reads typ now = (.run s none, now) := by
  unfold clockRead
  cases reads with
  | false => rfl
  | true =>
    have hg : grainOn s g = false := by simpa using h
    simp [grainEvent, hg]

theorem clockGate_quiet (i : Instr) (s : State) (g : Group) (mix : List SbEntry) (pix : Nat) (act : Mask)
    (h : (grainOn s g && (readsSr i 0x18 || readsSr i 0x19)) = false) :
    clockGate i s g mix pix act = .pass s
      { s := s, g := g, pix := pix, act := act,
        clk := BitVec.ofNat 64 (s.dieOf g.die).clk, rtime := BitVec.ofNat 64 s.rtime, mix := mix,
        fin := (s.dieOf g.die).clk + latency i } := by
  have h1 : (grainOn s g && (decide (act ≠ 0) && readsSr i 0x18)) = false := by
    cases hg : grainOn s g <;> simp_all
  have h2 : (grainOn s g && (decide (act ≠ 0) && readsSr i 0x19)) = false := by
    cases hg : grainOn s g <;> simp_all
  unfold clockGate
  simp only [clockRead_quiet _ _ _ _ _ _ h1, clockRead_quiet _ _ _ _ _ _ h2]

/-- Where nothing stands before an instruction, its checks pass, and it reads the state as it stands. -/
theorem gate_clear (i : Instr) (h : Hdr) (s : State) (hc : s.clear i h = true) :
    gate i h s = .pass (s.touch i) ((s.touch i).view i h) := by
  simp only [State.clear, Bool.and_eq_true, Bool.not_eq_true'] at hc
  obtain ⟨⟨⟨⟨⟨⟨⟨⟨hhas, hck⟩, hpriv⟩, hmma⟩, hblk⟩, hlines⟩, hpois⟩, hsb⟩, hclk⟩ := hc
  have hck' : check i = none := by simpa using hck
  have hl : s.missingLines i = [] := by simpa using hlines
  have hp : findBy (fun (r : Operand × Operand) => (s.grp s.cur.gid).poisonLines.contains (poisonKey r.2))
      ((s.grp s.cur.gid).readRegs i h) = none := by
    rw [findBy_eq_none]
    intro r hr
    simpa using List.all_eq_true.mp hpois r hr
  have hpr : (privInstr i && !(s.ctxOf (s.grp s.cur.gid).pasid).priv) = false := by
    cases hq : privInstr i <;> simp_all
  have hbl : (decide ((s.grp s.cur.gid).active s.cur.path h ≠ 0) && (s.grp s.cur.gid).blockPast i) = false := by
    by_cases ha : (s.grp s.cur.gid).active s.cur.path h = 0 <;> simp_all
  have hsb' : (s.grp s.cur.gid).sbHits i h ((s.grp s.cur.gid).unfinished s.cur.path (s.dieOf (s.grp s.cur.gid).die).clk) = [] := by
    simpa using hsb
  have hd : ((s.touch i).grp s.cur.gid).die = (s.grp s.cur.gid).die := by rw [State.touch_grp s i hhas]; rfl
  have hg : (grainOn (s.touch i) (((s.touch i).grp s.cur.gid).seen ((s.touch i).dieOf (s.grp s.cur.gid).die).clk) &&
      (readsSr i 0x18 || readsSr i 0x19)) = false := by
    rw [State.touch_grp s i hhas]; exact hclk
  unfold gate
  simp only [hck', hpr, hmma, hbl, hl, hp, Bool.false_eq_true, if_false]
  unfold scoreGate
  simp only [hsb']
  rw [← hd] at hg ⊢
  rw [clockGate_quiet _ _ _ _ _ _ hg]
  rfl

/-- An instruction whose effect is `s2` completes sequentially. -/
theorem issueC_adv (i : Instr) (h : Hdr) (c : Operand) (body : Env → State → Res) (s s2 : State)
    (hc : s.clear i h = true) (hb : body ((s.touch i).view i h) (s.touch i) = .adv s2) :
    issueC i h c body s = .next (advance i h c ((s.touch i).view i h) (s.touch i) s2) := by
  unfold issueC; simp only [gate_clear i h s hc, hb]

theorem issueC_jump (i : Instr) (h : Hdr) (c : Operand) (body : Env → State → Res) (s s2 : State)
    (hc : s.clear i h = true) (hb : body ((s.touch i).view i h) (s.touch i) = .jump s2) :
    issueC i h c body s = .next (jumped i h c ((s.touch i).view i h) (s.touch i) s2) := by
  unfold issueC; simp only [gate_clear i h s hc, hb]

theorem issueC_hold (i : Instr) (h : Hdr) (c : Operand) (body : Env → State → Res) (s s2 : State)
    (hc : s.clear i h = true) (hb : body ((s.touch i).view i h) (s.touch i) = .hold s2) :
    issueC i h c body s = .next s2 := by
  have he : ((s.touch i).view i h).s = s.touch i := rfl
  unfold issueC; simp only [gate_clear i h s hc, hb]; unfold heldClocks
  simp only [he, hb, ite_self]

theorem issueC_trap (i : Instr) (h : Hdr) (c : Operand) (body : Env → State → Res) (s : State) (t : Trap)
    (hc : s.clear i h = true) (hb : body ((s.touch i).view i h) (s.touch i) = .trap t) :
    issueC i h c body s =
      .next ((s.noteFault (s.grp s.cur.gid) t.faddr.toNat t.cause).precise s.cur.gid s.cur.path t) := by
  unfold issueC; simp only [gate_clear i h s hc, hb]

/-- Only MEM_NOT_PRESENT is recorded when it is raised (R395). -/
theorem State.noteFault_other (s : State) (g : Group) (addr : Nat) (c : Cause) (h : c ≠ .memNotPresent) :
    s.noteFault g addr c = s := by
  simp [State.noteFault, h]

end Sys2Proof.Machine
end

