-- ==== Sys2Proof/Laws/Sparse.lean ====
section
/-! SUPPORT. Sparse maps: reading after writing, and that a write keeps the canonical form. -/

namespace Sys2Proof.Machine

variable {β : Type}

theorem spGet_erase_same (d : β) (m : Sparse β) (a : Nat) : spGet d (spErase m a) a = d := by
  induction m with
  | nil => rfl
  | cons x r ih =>
    obtain ⟨k, v⟩ := x
    simp only [spErase]
    by_cases h : a = k
    · simp [h]; simpa [h] using ih
    · simp [h, spGet, ih]

theorem spGet_erase_other (d : β) (m : Sparse β) (a b : Nat) (h : a ≠ b) :
    spGet d (spErase m a) b = spGet d m b := by
  induction m with
  | nil => rfl
  | cons x r ih =>
    obtain ⟨k, v⟩ := x
    simp only [spErase]
    by_cases hk : a = k
    · have : b ≠ k := fun e => h (hk.trans e.symm)
      simp [hk, spGet, this]; simpa [hk] using ih
    · simp [hk, spGet, ih]

theorem spGet_insert_same (d : β) (m : Sparse β) (a : Nat) (v : β) (h : spGet d m a = d)
    (hm : ∀ x ∈ m, x.1 ≠ a) : spGet d (spInsert m a v) a = v := by
  induction m with
  | nil => simp [spInsert, spGet]
  | cons x r ih =>
    obtain ⟨k, w⟩ := x
    have hk : a ≠ k := fun e => hm (k, w) (by simp) e.symm
    simp only [spInsert]
    split
    · simp [spGet]
    · simp only [spGet, hk, if_false] at h ⊢
      exact ih h (fun x hx => hm x (by simp [hx]))

theorem spGet_insert_other (d : β) (m : Sparse β) (a b : Nat) (v : β) (h : a ≠ b) :
    spGet d (spInsert m a v) b = spGet d m b := by
  induction m with
  | nil => simp [spInsert, spGet, Ne.symm h]
  | cons x r ih =>
    obtain ⟨k, w⟩ := x
    simp only [spInsert]
    split
    · simp [spGet, Ne.symm h]
    · simp [spGet, ih]

theorem spErase_keys (m : Sparse β) (a : Nat) : ∀ x ∈ spErase m a, x.1 ≠ a := by
  induction m with
  | nil => simp [spErase]
  | cons x r ih =>
    obtain ⟨k, v⟩ := x
    simp only [spErase]
    by_cases h : a = k
    · simpa only [if_pos h] using ih
    · intro x hx
      simp only [h, if_false, List.mem_cons] at hx
      rcases hx with rfl | hx
      · exact fun e => h e.symm
      · exact ih x hx

variable [DecidableEq β]

/-- A read after a write to the same key gives the value written. -/
@[simp] theorem spGet_set_same (d : β) (m : Sparse β) (a : Nat) (v : β) : spGet d (spSet d m a v) a = v := by
  unfold spSet
  split
  · next h => rw [spGet_erase_same, h]
  · exact spGet_insert_same d _ a v (spGet_erase_same d m a) (spErase_keys m a)

/-- A write leaves every other key alone. -/
theorem spGet_set_other (d : β) (m : Sparse β) (a b : Nat) (v : β) (h : a ≠ b) :
    spGet d (spSet d m a v) b = spGet d m b := by
  unfold spSet
  split
  · exact spGet_erase_other d m a b h
  · rw [spGet_insert_other d _ a b v h, spGet_erase_other d m a b h]

/-- Both laws in one. -/
theorem spGet_set (d : β) (m : Sparse β) (a b : Nat) (v : β) :
    spGet d (spSet d m a v) b = if b = a then v else spGet d m b := by
  by_cases h : b = a
  · subst h; simp
  · simp [h, spGet_set_other d m a b v (Ne.symm h)]

/-! ### The canonical form -/

theorem spWfFrom_mono (d : β) (m : Sparse β) (lo hi : Nat) (h : lo ≤ hi) (hw : spWfFrom d hi m = true) :
    spWfFrom d lo m = true := by
  cases m with
  | nil => rfl
  | cons x r =>
    obtain ⟨k, v⟩ := x
    simp only [spWfFrom, Bool.and_eq_true, decide_eq_true_eq] at hw ⊢
    exact ⟨⟨by omega, hw.1.2⟩, hw.2⟩

theorem spWfFrom_erase (d : β) (m : Sparse β) (lo a : Nat) (hw : spWfFrom d lo m = true) :
    spWfFrom d lo (spErase m a) = true := by
  induction m generalizing lo with
  | nil => rfl
  | cons x r ih =>
    obtain ⟨k, v⟩ := x
    simp only [spWfFrom, Bool.and_eq_true, decide_eq_true_eq] at hw
    simp only [spErase]
    split
    · exact spWfFrom_mono d _ lo (k + 1) (by omega) (ih _ hw.2)
    · simp only [spWfFrom, Bool.and_eq_true, decide_eq_true_eq]
      exact ⟨hw.1, ih _ hw.2⟩

theorem spWfFrom_insert (d : β) (m : Sparse β) (lo a : Nat) (v : β) (hw : spWfFrom d lo m = true)
    (hm : ∀ x ∈ m, x.1 ≠ a) (hl : lo ≤ a) (hv : v ≠ d) : spWfFrom d lo (spInsert m a v) = true := by
  induction m generalizing lo with
  | nil => simp [spInsert, spWfFrom, hl, hv]
  | cons x r ih =>
    obtain ⟨k, w⟩ := x
    have hk : k ≠ a := hm (k, w) (by simp)
    simp only [spWfFrom, Bool.and_eq_true, decide_eq_true_eq] at hw
    simp only [spInsert]
    split
    · simp only [spWfFrom, Bool.and_eq_true, decide_eq_true_eq]
      exact ⟨⟨hl, hv⟩, ⟨by omega, hw.1.2⟩, hw.2⟩
    · simp only [spWfFrom, Bool.and_eq_true, decide_eq_true_eq]
      exact ⟨hw.1, ih _ hw.2 (fun x hx => hm x (by simp [hx])) (by omega)⟩

/-- A write keeps the canonical form. -/
theorem spWf_set (d : β) (m : Sparse β) (a : Nat) (v : β) (h : spWf d m = true) : spWf d (spSet d m a v) = true := by
  unfold spSet
  split
  · exact spWfFrom_erase d m 0 a h
  · next hv => exact spWfFrom_insert d _ 0 a v (spWfFrom_erase d m 0 a h) (spErase_keys m a) (by omega) hv

end Sys2Proof.Machine
end

