-- ==== Sys2Proof/Laws/Memory.lean ====
section
/-! SUPPORT. Memory: a read after a write, what a write leaves alone, and that every write keeps the
canonical form. -/

namespace Sys2Proof.Machine

/-- A byte that a write does not reach. -/
theorem spGet_wrBytes_outside (m : Sparse Byte) (a : Nat) (bs : List Byte) (b : Nat)
    (h : b < a ∨ a + bs.length ≤ b) : spGet memDefault (wrBytes m a bs) b = spGet memDefault m b := by
  induction bs generalizing m a with
  | nil => rfl
  | cons x r ih =>
    simp only [wrBytes]
    simp only [List.length_cons] at h
    rw [ih _ _ (by omega), spGet_set_other _ _ _ _ _ (by omega)]

/-- The bytes of a write as read back. -/
theorem rdBytes_wrBytes (m : Sparse Byte) (a : Nat) (bs : List Byte) :
    rdBytes (wrBytes m a bs) a bs.length = bs := by
  induction bs generalizing m a with
  | nil => rfl
  | cons x r ih =>
    simp only [wrBytes, List.length_cons, rdBytes, ih]
    rw [spGet_wrBytes_outside _ _ _ _ (by omega)]
    simp

/-- A byte of a write by its place in it. -/
theorem spGet_wrBytes_inside (m : Sparse Byte) (a : Nat) (bs : List Byte) (k : Nat) (h : k < bs.length) :
    spGet memDefault (wrBytes m a bs) (a + k) = bs[k] := by
  induction bs generalizing m a k with
  | nil => simp at h
  | cons x r ih =>
    simp only [wrBytes]
    cases k with
    | zero => rw [spGet_wrBytes_outside _ _ _ _ (by omega)]; simp
    | succ k =>
      have h2 : k < r.length := by simpa using h
      have := ih (spSet memDefault m a x) (a + 1) k h2
      simpa [Nat.add_assoc, Nat.add_comm 1 k] using this

/-- A write keeps the canonical form of a memory. -/
theorem wf_wrBytes (m : Sparse Byte) (a : Nat) (bs : List Byte) (h : Memory.wf m = true) :
    Memory.wf (wrBytes m a bs) = true := by
  induction bs generalizing m a with
  | nil => exact h
  | cons x r ih => exact ih _ _ (spWf_set memDefault m a x h)

theorem State.memWf_iff (s : State) :
    s.memWf = true ↔ Memory.wf s.mem = true ∧ Memory.wf s.hostMem = true ∧ Memory.wf s.remoteMem = true := by
  simp [State.memWf, and_assoc]

/-- A write at a place keeps the canonical form. -/
theorem State.memWf_wrLoc (s : State) (p : PLoc) (bs : List Byte) (h : s.memWf = true) :
    (s.wrLoc p bs).memWf = true := by
  rw [State.memWf_iff] at h ⊢
  cases p with
  | mem a => exact ⟨wf_wrBytes _ _ _ h.1, h.2⟩
  | host a => exact ⟨h.1, wf_wrBytes _ _ _ h.2.1, h.2.2⟩
  | remote a => exact ⟨h.1, h.2.1, wf_wrBytes _ _ _ h.2.2⟩

/-- A write of module memory byte by byte keeps the canonical form. -/
theorem State.memWf_wrMem (s : State) (a : Nat) (bs : List Byte) (h : s.memWf = true) :
    (s.wrMem a bs).memWf = true := by
  induction bs generalizing s a with
  | nil => exact h
  | cons x r ih => exact ih _ _ (State.memWf_wrLoc s _ _ h)

/-- A write of scattered bytes keeps the canonical form. -/
theorem State.memWf_wrScattered (s : State) (as : List Nat) (bs : List Byte) (h : s.memWf = true) :
    (s.wrScattered as bs).memWf = true := by
  unfold State.wrScattered
  have h0 : (s.ordered as bs).memWf = true := h
  generalize as.zip bs = ps at *
  generalize s.ordered as bs = t at *
  induction ps generalizing t with
  | nil => exact h0
  | cons x r ih =>
    rw [State.memWf_iff] at h0
    exact ih _ (by rw [State.memWf_iff]; exact ⟨wf_wrBytes _ _ _ h0.1, h0.2⟩)

/-- The touch of pages leaves memory alone. -/
theorem State.touchPages_mem (s : State) (ps : List Nat) :
    (s.touchPages ps).mem = s.mem ∧ (s.touchPages ps).hostMem = s.hostMem ∧ (s.touchPages ps).remoteMem = s.remoteMem := by
  induction ps generalizing s with
  | nil => exact ⟨rfl, rfl, rfl⟩
  | cons p r ih =>
    have h := ih (s.placePage 0 p 0)
    have k : (s.placePage 0 p 0).mem = s.mem ∧ (s.placePage 0 p 0).hostMem = s.hostMem ∧
        (s.placePage 0 p 0).remoteMem = s.remoteMem := by
      unfold State.placePage; dsimp only; repeat' split
      all_goals exact ⟨rfl, rfl, rfl⟩
    exact ⟨h.1.trans k.1, h.2.1.trans k.2.1, h.2.2.trans k.2.2⟩

/-- A write of an object keeps the canonical form. -/
theorem State.memWf_objStore (s : State) (id o : Nat) (w : Bool) (bs : List Byte) (h : s.memWf = true) :
    (s.objStore id w o bs).memWf = true := by
  unfold State.objStore
  dsimp only
  split
  · exact h
  · have k := State.memWf_wrScattered s ((s.objPlaces id w o bs).map (fun x => x.1))
      ((s.objPlaces id w o bs).map (fun x => x.2)) h
    rw [State.memWf_iff] at k ⊢
    simpa [State.touchPages_mem] using k

/-- What a place reads after a write of the same place. -/
theorem State.rdLoc_wrLoc (s : State) (p : PLoc) (bs : List Byte) : (s.wrLoc p bs).rdLoc p bs.length = bs := by
  cases p <;> exact rdBytes_wrBytes _ _ _

end Sys2Proof.Machine
end

