-- ==== Sys2Proof/Laws/Registers.lean ====
section
/-! SUPPORT. Registers: what a write of each file leaves to be read, and that it leaves everything else. -/

namespace Sys2Proof.Machine

/-! ### Lanes -/

theorem mem_lanes (l : Nat) : l ∈ lanes ↔ l < 32 := by
  have h : lanes = List.range 32 := by decide
  rw [h, List.mem_range]

theorem lanes_nodup : lanes.Nodup := by decide

theorem mem_lanesOf (m : Mask) (l : Nat) : l ∈ lanesOf m ↔ l < 32 ∧ m.getLsbD l = true := by
  simp [lanesOf, mem_lanes]

theorem lanesOf_nodup (m : Mask) : (lanesOf m).Nodup := lanes_nodup.filter _

theorem getLsbD_laneBit (k l : Nat) : (laneBit k).getLsbD l = (decide (l < 32) && decide (k = l)) := by
  have h1 : ∀ j, (1 : Mask).getLsbD j = decide (j = 0) := by
    intro j; cases j with
    | zero => decide
    | succ j => simp [BitVec.getLsbD_one]
  unfold laneBit
  rw [BitVec.getLsbD_shiftLeft, h1]
  by_cases h : l < 32 <;> by_cases h2 : k = l <;> by_cases h3 : l < k <;> simp [h, h2, h3] <;> omega

theorem maskOf_foldl (f : Nat → Bool) (xs : List Nat) (m : Mask) (l : Nat) :
    (xs.foldl (fun m l => if f l then m ||| laneBit l else m) m).getLsbD l =
      (m.getLsbD l || (decide (l < 32) && decide (l ∈ xs) && f l)) := by
  induction xs generalizing m with
  | nil => simp
  | cons x r ih =>
    simp only [List.foldl_cons, ih]
    by_cases hf : f x = true
    · simp only [hf, if_true, BitVec.getLsbD_or, getLsbD_laneBit, List.mem_cons]
      by_cases hx : x = l
      · subst hx; cases m.getLsbD x <;> by_cases hl : x < 32 <;> simp [hf, hl]
      · have : l ≠ x := fun e => hx e.symm
        simp [hx, this]
    · simp only [hf, List.mem_cons]
      by_cases hx : l = x
      · subst hx; simp [hf]
      · simp [hx]

/-- Which lanes a mask built lane by lane holds. -/
theorem getLsbD_maskOf (f : Nat → Bool) (l : Nat) : (maskOf f).getLsbD l = (decide (l < 32) && f l) := by
  unfold maskOf
  rw [maskOf_foldl]
  by_cases h : l < 32 <;> simp [h, mem_lanes]

/-! ### Per-lane files -/

theorem laneWrite_foldl (wide : Bool) (n : Nat) (f : Nat → DWord) (k l : Nat) (hl : l < 32) (xs : List Nat)
    (hx : ∀ x ∈ xs, x < 32) (m : Sparse Word) :
    spGet 0 (xs.foldl (fun m l =>
      let m := spSet 0 m (32 * n + l) ((f l).setWidth 32)
      if wide then spSet 0 m (32 * (n + 1) + l) ((f l).extractLsb' 32 32) else m) m) (32 * k + l) =
      if l ∈ xs ∧ k = n then (f l).setWidth 32
      else if l ∈ xs ∧ wide = true ∧ k = n + 1 then (f l).extractLsb' 32 32
      else spGet 0 m (32 * k + l) := by
  induction xs generalizing m with
  | nil => simp
  | cons x r ih =>
    have hr : ∀ y ∈ r, y < 32 := fun y hy => hx y (by simp [hy])
    have hx0 : x < 32 := hx x (by simp)
    simp only [List.foldl_cons, ih hr]
    by_cases hin : l ∈ r
    · simp only [hin, true_and, List.mem_cons, or_true]
      by_cases h1 : k = n
      · simp [h1]
      · by_cases h2 : wide = true ∧ k = n + 1
        · simp [h2]
        · simp only [h1, h2, if_false]
          cases wide
          · simp only [Bool.false_eq_true, if_false]
            rw [spGet_set_other _ _ _ _ _ (by omega)]
          · simp only [true_and] at h2
            simp only [if_true]
            rw [spGet_set_other _ _ _ _ _ (by omega), spGet_set_other _ _ _ _ _ (by omega)]
    · simp only [hin, false_and, if_false, List.mem_cons, or_false]
      by_cases hlx : l = x
      · subst hlx
        by_cases h1 : k = n
        · subst h1
          cases wide
          · simp
          · simp only [if_true, true_and]
            rw [spGet_set_other _ _ _ _ _ (by omega)]; simp
        · cases wide
          · simp only [Bool.false_eq_true, if_false, h1, and_false, false_and]
            rw [spGet_set_other _ _ _ _ _ (by omega)]
          · by_cases h2 : k = n + 1
            · subst h2; simp
            · simp only [if_true, h1, h2, and_false, if_false]
              rw [spGet_set_other _ _ _ _ _ (by omega), spGet_set_other _ _ _ _ _ (by omega)]
      · simp only [hlx, false_and, if_false]
        cases wide
        · simp only [Bool.false_eq_true, if_false]
          rw [spGet_set_other _ _ _ _ _ (by omega)]
        · simp only [if_true]
          rw [spGet_set_other _ _ _ _ _ (by omega), spGet_set_other _ _ _ _ _ (by omega)]

/-- A register of a lane after a write of a per-lane file: its own in the written lanes, and the one above it for a
pair; every other register, and every other lane, as before (R77). -/
theorem spGet_laneWrite (wide : Bool) (n : Nat) (act : Mask) (f : Nat → DWord) (m : Sparse Word) (k l : Nat)
    (hl : l < 32) :
    spGet 0 (laneWrite wide n act f m) (32 * k + l) =
      if act.getLsbD l = true ∧ k = n then (f l).setWidth 32
      else if act.getLsbD l = true ∧ wide = true ∧ k = n + 1 then (f l).extractLsb' 32 32
      else spGet 0 m (32 * k + l) := by
  unfold laneWrite
  rw [laneWrite_foldl wide n f k l hl (lanesOf act) (fun x hx => ((mem_lanesOf act x).mp hx).1)]
  simp only [mem_lanesOf, hl, true_and]

theorem laneWrite_nil (wide : Bool) (n : Nat) (f : Nat → DWord) (m : Sparse Word) : laneWrite wide n 0 f m = m := by
  have : lanesOf (0 : Mask) = [] := by decide
  unfold laneWrite
  rw [this]; rfl

/-- A register of the S file after a write (R77). -/
theorem spGet_uniWrite (wide : Bool) (n : Nat) (v : DWord) (m : Sparse Word) (k : Nat) :
    spGet 0 (uniWrite wide n v m) k =
      if k = n then v.setWidth 32
      else if wide = true ∧ k = n + 1 then v.extractLsb' 32 32
      else spGet 0 m k := by
  unfold uniWrite
  cases wide
  · simp [spGet_set]
  · simp only [if_true, spGet_set, true_and]
    by_cases h1 : k = n
    · subst h1; simp
    · simp [h1]

/-- A predicate after a write (R78). -/
theorem getLsbD_predMask (act old : Mask) (f : Nat → DWord) (l : Nat) (hl : l < 32) :
    (predMask act old f).getLsbD l =
      if act.getLsbD l then decide ((f l).setWidth 32 ≠ (0 : Word)) else old.getLsbD l := by
  unfold predMask
  rw [BitVec.getLsbD_or, BitVec.getLsbD_and, BitVec.getLsbD_not, getLsbD_maskOf]
  by_cases h : act.getLsbD l = true
  · simp only [h, hl, if_true]
    cases old.getLsbD l <;> simp [bne] <;> rfl
  · have h' : act.getLsbD l = false := by simpa using h
    simp only [h', hl]
    cases old.getLsbD l <;> simp

end Sys2Proof.Machine
end

