-- ==== Sys2Proof/Laws/Results.lean ====
section
/-! SUPPORT. Instructions whose own effect is a result: from a meaning written with `writeRes` or `arithRes` to
what `exec` answers. -/

namespace Sys2Proof.Machine

open Stated

/-- In a state that is clear, the word's own checks hold. -/
theorem State.clear_check {s : State} {i : Instr} {h : Hdr} (hc : s.clear i h = true) : check i = none := by
  simp only [State.clear, Bool.and_eq_true] at hc
  simpa using hc.1.1.1.1.1.1.1.2

theorem State.clear_has {s : State} {i : Instr} {h : Hdr} (hc : s.clear i h = true) : s.has s.cur.gid = true := by
  simp only [State.clear, Bool.and_eq_true] at hc
  exact hc.1.1.1.1.1.1.1.1

/-- An instruction that writes a result without events. -/
theorem results_of {i : Instr} {h : Hdr} {d c : Operand} {wide : Bool} {P : Env → Nat → DWord → Prop}
    {body : Env → State → Res} (f : Env → State → Nat → DWord)
    (hx : ∀ s, exec i s = issueC i h c body s)
    (hb : ∀ e s, body e s = writeRes e wide h d c (f e s) s)
    (hP : ∀ s, s.clear i h = true → ∀ l, (reads s i h).act.getLsbD l = true → P (reads s i h) l (f (reads s i h) (s.touch i) l)) :
    Results i h d c wide P := by
  intro s hc
  refine ⟨f (reads s i h) (s.touch i), hP s hc, ?_⟩
  by_cases hbad : (reads s i h).act ≠ 0 ∧ srValueBad d (f (reads s i h) (s.touch i) (lowest (reads s i h).act)) = true
  · rw [if_pos hbad]
    unfold Traps
    rw [hx]
    refine issueC_trap i h c body s _ hc ?_
    show body (reads s i h) (s.touch i) = _
    rw [hb]; unfold writeRes
    rw [if_pos (by simpa using hbad)]
  · rw [if_neg hbad]
    unfold Runs
    rw [hx]
    have := issueC_adv i h c body s ((s.touch i).updGrp s.cur.gid (fun g => g.writeDup (reads s i h).pix (reads s i h).act wide h d c (f (reads s i h) (s.touch i)))) hc ?_
    · exact this
    · show body (reads s i h) (s.touch i) = _
      rw [hb]; unfold writeRes
      rw [if_neg (by simpa using hbad)]
      simp

/-- An instruction that writes a result with events. -/
theorem computes_of {i : Instr} {h : Hdr} {d c : Operand} {wide : Bool} {P : Env → Nat → DWord → Events → Prop}
    {body : Env → State → Res} (f : Env → State → Nat → DWord) (ev : Env → State → Nat → Events)
    (hx : ∀ s, exec i s = issueC i h c body s)
    (hb : ∀ e s, body e s = arithRes e wide h d c (f e s) (ev e s) s)
    (hP : ∀ s, s.clear i h = true → ∀ l, (reads s i h).act.getLsbD l = true →
      P (reads s i h) l (f (reads s i h) (s.touch i) l) (ev (reads s i h) (s.touch i) l)) :
    Computes i h d c wide P := by
  intro s hc
  refine ⟨f (reads s i h) (s.touch i), ev (reads s i h) (s.touch i), hP s hc, ?_⟩
  have hbody : body (reads s i h) (s.touch i) = _ := hb (reads s i h) (s.touch i)
  unfold arithRes at hbody
  cases ht : trapOf (reads s i h).g.regs.astat (eventsOf (reads s i h).act (ev (reads s i h) (s.touch i))) with
  | some p =>
    obtain ⟨cause, bit⟩ := p
    simp only [ht] at hbody ⊢
    unfold Traps
    rw [hx]
    exact issueC_trap i h c body s _ hc hbody
  | none =>
    simp only [ht] at hbody ⊢
    by_cases hbad : (reads s i h).act ≠ 0 ∧ srValueBad d (f (reads s i h) (s.touch i) (lowest (reads s i h).act)) = true
    · rw [if_pos hbad]
      rw [if_pos (by simpa using hbad)] at hbody
      unfold Traps
      rw [hx]
      exact issueC_trap i h c body s _ hc hbody
    · rw [if_neg hbad]
      rw [if_neg (by simpa using hbad)] at hbody
      unfold Runs
      rw [hx]
      have := issueC_adv i h c body s _ hc hbody
      rw [State.touch_cur] at this
      exact this

end Sys2Proof.Machine
end

