-- ==== Sys2Proof/Tests/Slice0.lean ====
section
/-! SUPPORT. The model's own tests: words written out from the manual's encodings and the instructions that they stand
for; an ill-formed term for each check of WellFormed; results that the manual's worked examples state; and for each
statement of Certificates/Slice0/Obligations.lean with hypotheses a state that meets them. -/

namespace Sys2Proof.Tests

open Sys2Proof Sys2Proof.Machine Sys2Proof.Stated

set_option maxRecDepth 100000
set_option exponentiation.threshold 4096

/-- The hint and guard fields of a word with every default. -/
def h7 : Hdr := { gn := false, gp := 7, stall := 0, yield := false, dup := 0 }
def tN (d a b : Operand) : XN := { h := h7, d := d, a := a, b := b, x := 0 }
def tK (d a b : Operand) (k : Int) : XK := { h := h7, d := d, a := a, b := b, k := BitVec.ofInt 32 k }
def tF (d a b c : Operand) (df sf : BitVec 4) (rnd : BitVec 3) (sat : Bool) (sub : BitVec 8) : XF :=
  { h := h7, d := d, a := a, b := b, c := c, df := df, sf := sf, rnd := rnd, sat := sat, sub := sub }
def tA (d a b c : Operand) (mf rf : BitVec 4) (rnd : BitVec 3) (sat : Bool) (scope : BitVec 3) (sk : Bool)
    (ord : BitVec 3) (prb : Bool) : XA :=
  { h := h7, d := d, a := a, b := b, c := c, mf := mf, rf := rf, rnd := rnd, sat := sat, scope := scope, sk := sk,
    ord := ord, prb := prb }
def tW (d a b c : Operand) (n : BitVec 6) (ctr scope : BitVec 3) (sk : Bool) : XW :=
  { h := h7, d := d, a := a, b := b, c := c, n := n, ctr := ctr, scope := scope, sk := sk, low := 0 }
def tT (d a b c : Operand) (af bf : BitVec 4) (td : BitVec 3) (spr : BitVec 2) (sub : BitVec 7) : XT :=
  { h := h7, d := d, a := a, b := b, c := c, af := af, bf := bf, td := td, spr := spr, sub := sub }

/-! ### Words written out from R39, R41, R44, R68 and R181 to R184 -/

/-- Family 0x0: words and the instructions that they stand for. -/
def wordsControl : List (Word96 × Instr) := [
  (0x001C00000000000000000000, .nop (tN (.v 0) (.v 0) (.v 0))),
  (0x005C00000000000000060000, .bra (tK (.v 0) (.v 0) (.v 0) 24)),
  (0x009C00001000000000000000, .brx (tN (.v 0) (.v 4) (.v 0))),
  (0x00DD01800000000000090000, .call (tK (.s 6) (.v 0) (.v 0) 36)),
  (0x011D01902000000000000000, .callx (tN (.s 6) (.s 8) (.v 0))),
  (0x015C00101800000000000000, .ret (tN (.v 0) (.s 6) (.v 0))),
  (0x019C00300C00000000120000, .loop (tK (.v 0) (.imm 3) (.v 0) 72)),
  (0x01DC00100EC0800000060000, .loopx (tK (.v 0) (.s 3) (.p 2) 24)),
  (0x021C000000000000000C0000, .join (tK (.v 0) (.v 0) (.v 0) 48)),
  (0x025C00000000000000000000, .exit (tN (.v 0) (.v 0) (.v 0))),
  (0x029C00000000000000000000, .yield (tN (.v 0) (.v 0) (.v 0))),
  (0x02DC00000000000000190000, .sleep (tK (.v 0) (.v 0) (.v 0) 100)),
  (0x031C0000000000000001C000, .brk (tK (.v 0) (.v 0) (.v 0) 7))]

theorem test_decode_control : wordsControl.all (fun x => (decode x.1).toOption == some x.2) = true := by decide

/-- Family 0x1: words and the instructions that they stand for. -/
def wordsInteger : List (Word96 × Instr) := [
  (0x101C01500E01000080400000, .add (tF (.v 5) (.s 3) (.q 4) (.v 0) 2 0 0 true 0)),
  (0x109C01500E01000080400000, .sub (tF (.v 5) (.s 3) (.q 4) (.v 0) 2 0 0 true 0)),
  (0x119C01500E01000080400000, .mul (tF (.v 5) (.s 3) (.q 4) (.v 0) 2 0 0 true 0)),
  (0x12DC01400C01000080000000, .div (tF (.v 5) (.v 3) (.v 4) (.v 0) 2 0 0 false 0)),
  (0x131C01400C01000080000000, .rem (tF (.v 5) (.v 3) (.v 4) (.v 0) 2 0 0 false 0)),
  (0x135C01400C01000080000000, .min (tF (.v 5) (.v 3) (.v 4) (.v 0) 2 0 0 false 0)),
  (0x139C01400C01000080000000, .max (tF (.v 5) (.v 3) (.v 4) (.v 0) 2 0 0 false 0)),
  (0x11DC018008010000C0000000, .mulhi (tF (.v 6) (.v 2) (.v 4) (.v 0) 3 0 0 false 0)),
  (0x105C01400C012C0580000000, .addc (tF (.v 5) (.v 3) (.v 4) (.p 1) 6 0 0 false 0)),
  (0x10DC01400C012C0580000000, .subb (tF (.v 5) (.v 3) (.v 4) (.p 1) 6 0 0 false 0)),
  (0x111C01640C00000040400000, .neg (tF (.v 5) (.x 3) (.v 0) (.v 0) 1 0 0 true 0)),
  (0x115C01640C00000040400000, .abs (tF (.v 5) (.x 3) (.v 0) (.v 0) 1 0 0 true 0)),
  (0x121C01800C010000C8000000, .mulw (tF (.v 6) (.v 3) (.v 4) (.v 0) 3 2 0 false 0)),
  (0x125C01400C013FDC80000000, .mad (tF (.v 5) (.v 3) (.v 4) (.imm 1015) 2 0 0 false 0)),
  (0x13DC01400C013FDC80000000, .sad (tF (.v 5) (.v 3) (.v 4) (.imm 1015) 2 0 0 false 0)),
  (0x129C01400C01001D80000000, .madhi (tF (.v 5) (.v 3) (.v 4) (.v 7) 6 0 0 false 0)),
  (0x141C01400C01001C80400000, .dp4 (tF (.v 5) (.v 3) (.v 4) (.v 7) 2 0 0 true 0)),
  (0x145C01400C01001D94000000, .dp2 (tF (.v 5) (.v 3) (.v 4) (.v 7) 6 5 0 false 0))]

theorem test_decode_integer : wordsInteger.all (fun x => (decode x.1).toOption == some x.2) = true := by decide

/-- Family 0x2: words and the instructions that they stand for. -/
def wordsLogic : List (Word96 × Instr) := [
  (0x201C03000E01400000000000, .and (tN (.v 12) (.v 3) (.q 5))),
  (0x205C03000E01400000000000, .or (tN (.v 12) (.v 3) (.q 5))),
  (0x209C03000E01400000000000, .xor (tN (.v 12) (.v 3) (.q 5))),
  (0x211C03000E01400000000000, .andn (tN (.v 12) (.v 3) (.q 5))),
  (0x219C03000E01400000000000, .shl (tN (.v 12) (.v 3) (.q 5))),
  (0x21DC03000E01400000000000, .shr (tN (.v 12) (.v 3) (.q 5))),
  (0x221C03000E01400000000000, .sar (tN (.v 12) (.v 3) (.q 5))),
  (0x225C03000E01400000000000, .rotl (tN (.v 12) (.v 3) (.q 5))),
  (0x20DC03100C00000000000000, .not (tN (.v 12) (.s 3) (.v 0))),
  (0x22DC03100C00000000000000, .popc (tN (.v 12) (.s 3) (.v 0))),
  (0x231C03100C00000000000000, .clz (tN (.v 12) (.s 3) (.v 0))),
  (0x235C03100C00000000000000, .ctz (tN (.v 12) (.s 3) (.v 0))),
  (0x239C03100C00000000000000, .brev (tN (.v 12) (.s 3) (.v 0))),
  (0x215C01400C01001C003A0000, .lop3 (tF (.v 5) (.v 3) (.v 4) (.v 7) 0 0 0 false 232)),
  (0x229C01400C01001C00004000, .fsh (tF (.v 5) (.v 3) (.v 4) (.v 7) 0 0 0 false 1)),
  (0x23DC01400C01000180000000, .bfe (tF (.v 5) (.v 3) (.v 4) (.v 0) 6 0 0 false 0)),
  (0x241C01400C01001C00000000, .bfi (tF (.v 5) (.v 3) (.v 4) (.v 7) 0 0 0 false 0)),
  (0x245C01400C01001C00000000, .bperm (tF (.v 5) (.v 3) (.v 4) (.v 7) 0 0 0 false 0))]

theorem test_decode_logic : wordsLogic.all (fun x => (decode x.1).toOption == some x.2) = true := by decide

/-- Family 0x3: words and the instructions that they stand for. -/
def wordsMove : List (Word96 × Instr) := [
  (0x301EC0400C0100001800C000, .cmp (tF (.p 1) (.v 3) (.v 4) (.v 0) 0 6 0 false 3)),
  (0x305C01800801001DC0000000, .sel (tF (.v 6) (.v 2) (.v 4) (.v 7) 7 0 0 false 0)),
  (0x309C00680000000000000000, .mov (tN (.v 1) (.sr 0) (.v 0))),
  (0x30DC0040000037AB6FBBC000, .movi (tK (.v 1) (.v 0) (.v 0) 3735928559)),
  (0x311D00C01301400000000000, .movs (tN (.s 3) (.v 4) (.imm 5))),
  (0x315C01100F07C00000000000, .movv (tN (.v 4) (.s 3) (.imm 31))),
  (0x319C01286000000000000000, .mvsp (tN (.v 4) (.sr 24) (.v 0))),
  (0x31DE88901000000000000000, .stsp (tN (.sr 34) (.s 4) (.v 0))),
  (0x321EC06C0AC0C00000000000, .pand (tN (.p 1) (.p 2) (.p 3))),
  (0x325EC06C0AC0C00000000000, .por (tN (.p 1) (.p 2) (.p 3))),
  (0x329EC06C0AC0C00000000000, .pxor (tN (.p 1) (.p 2) (.p 3))),
  (0x32DEC06C0800000000000000, .pnot (tN (.p 1) (.p 2) (.v 0))),
  (0x331D006C0800000000000000, .pmov (tN (.s 1) (.p 2) (.v 0)))]

theorem test_decode_move : wordsMove.all (fun x => (decode x.1).toOption == some x.2) = true := by decide

/-- Family 0x4: words and the instructions that they stand for. -/
def wordsLane : List (Word96 × Instr) := [
  (0x401C04403B0080000000C000, .shfl (tF (.v 17) (.v 14) (.imm 2) (.v 0) 0 0 0 false 3)),
  (0x405D0040080000000000C000, .vote (tF (.s 1) (.v 2) (.v 0) (.v 0) 0 0 0 false 3)),
  (0x409D00400800000080004000, .redux (tF (.s 1) (.v 2) (.v 0) (.v 0) 2 0 0 false 1)),
  (0x40DC00400800000180400000, .scan (tF (.v 1) (.v 2) (.v 0) (.v 0) 6 0 0 true 0)),
  (0x411C00400900C00000000000, .bcast (tN (.v 1) (.v 2) (.s 3))),
  (0x415C00400800000080000000, .matchLanes (tF (.v 1) (.v 2) (.v 0) (.v 0) 2 0 0 false 0))]

theorem test_decode_lane : wordsLane.all (fun x => (decode x.1).toOption == some x.2) = true := by decide

/-- Family 0x5: words and the instructions that they stand for. -/
def wordsFloat : List (Word96 × Instr) := [
  (0x501C01400C01000240C00000, .fadd (tF (.v 5) (.v 3) (.v 4) (.v 0) 9 0 1 true 0)),
  (0x505C01400C01000240C00000, .fsub (tF (.v 5) (.v 3) (.v 4) (.v 0) 9 0 1 true 0)),
  (0x509C01400C01000240C00000, .fmul (tF (.v 5) (.v 3) (.v 4) (.v 0) 9 0 1 true 0)),
  (0x50DC01800801002202800000, .fma (tF (.v 6) (.v 2) (.v 4) (.v 8) 8 0 5 false 0)),
  (0x511C01400C01000280000000, .fmin (tF (.v 5) (.v 3) (.v 4) (.v 0) 10 0 0 false 0)),
  (0x515C01400C01000280000000, .fmax (tF (.v 5) (.v 3) (.v 4) (.v 0) 10 0 0 false 0)),
  (0x519C01400C01000280000000, .fminn (tF (.v 5) (.v 3) (.v 4) (.v 0) 10 0 0 false 0)),
  (0x51DC01400C01000280000000, .fmaxn (tF (.v 5) (.v 3) (.v 4) (.v 0) 10 0 0 false 0)),
  (0x521EC0800C01000024018000, .fcmp (tF (.p 2) (.v 3) (.v 4) (.v 0) 0 9 0 false 6)),
  (0x525C01400C00000030000000, .fclass (tF (.v 5) (.v 3) (.v 0) (.v 0) 0 12 0 false 0)),
  (0x529C01400C01000241000000, .fscale (tF (.v 5) (.v 3) (.v 4) (.v 0) 9 0 2 false 0)),
  (0x52DC01400C000002C1800000, .frnd (tF (.v 5) (.v 3) (.v 0) (.v 0) 11 0 3 false 0))]

theorem test_decode_float : wordsFloat.all (fun x => (decode x.1).toOption == some x.2) = true := by decide

/-- Family 0x6: words and the instructions that they stand for. -/
def wordsSpecial : List (Word96 × Instr) := [
  (0x601C01400C00000240400000, .rcp (tF (.v 5) (.v 3) (.v 0) (.v 0) 9 0 0 true 0)),
  (0x605C01400C00000240400000, .rsq (tF (.v 5) (.v 3) (.v 0) (.v 0) 9 0 0 true 0)),
  (0x611C01400C00000240400000, .ex2 (tF (.v 5) (.v 3) (.v 0) (.v 0) 9 0 0 true 0)),
  (0x615C01400C00000240400000, .lg2 (tF (.v 5) (.v 3) (.v 0) (.v 0) 9 0 0 true 0)),
  (0x625C01400C00000240400000, .tanh (tF (.v 5) (.v 3) (.v 0) (.v 0) 9 0 0 true 0)),
  (0x619C01400C00000242000000, .sinpi (tF (.v 5) (.v 3) (.v 0) (.v 0) 9 0 4 false 0)),
  (0x61DC01400C00000242000000, .cospi (tF (.v 5) (.v 3) (.v 0) (.v 0) 9 0 4 false 0)),
  (0x609C01800800000200800000, .sqrt (tF (.v 6) (.v 2) (.v 0) (.v 0) 8 0 1 false 0)),
  (0x60DC01400C01000240000000, .fdiv (tF (.v 5) (.v 3) (.v 4) (.v 0) 9 0 0 false 0)),
  (0x621C01800800001E40000000, .sincospi (tF (.v 6) (.v 2) (.v 0) (.v 7) 9 0 0 false 0))]

theorem test_decode_special : wordsSpecial.all (fun x => (decode x.1).toOption == some x.2) = true := by decide

/-- Family 0x7: words and the instructions that they stand for. -/
def wordsConvert : List (Word96 × Instr) := [
  (0x701C01400800000260C00000, .cvt (tF (.v 5) (.v 2) (.v 0) (.v 0) 9 8 1 true 0)),
  (0x705C01400C01000324004000, .cvtpk (tF (.v 5) (.v 3) (.v 4) (.v 0) 12 9 0 false 1)),
  (0x709C01400D0200027801C000, .cvtcb (tF (.v 5) (.v 3) (.s 8) (.v 0) 9 14 0 false 7)),
  (0x70DC01000500800C00000000, .rng (tF (.v 4) (.v 1) (.s 2) (.v 3) 0 0 0 false 0)),
  (0x711C00400000000000000000, .trng (tN (.v 1) (.v 0) (.v 0))),
  (0x715C00400900C00000000000, .sampleCat (tF (.v 1) (.v 2) (.s 3) (.v 0) 0 0 0 false 0))]

theorem test_decode_convert : wordsConvert.all (fun x => (decode x.1).toOption == some x.2) = true := by decide

/-- Family 0x8: words and the instructions that they stand for. -/
def wordsMemory : List (Word96 × Instr) := [
  (0x801C008013022C0EE4284000, .ldGbl (tA (.v 2) (.v 4) (.imm 8) (.p 3) 11 9 0 false 5 false 0 true)),
  (0x80DC008013022C0EE4284000, .ldObj (tA (.v 2) (.v 4) (.imm 8) (.p 3) 11 9 0 false 5 false 0 true)),
  (0x805C00801302000008180000, .ldScr (tA (.v 2) (.v 4) (.imm 8) (.v 0) 0 2 0 false 3 false 0 false)),
  (0x809C00801302000008180000, .ldCls (tA (.v 2) (.v 4) (.imm 8) (.v 0) 0 2 0 false 3 false 0 false)),
  (0x811C008013FE000364D40000, .stGbl (tA (.v 2) (.v 4) (.imm 1016) (.v 0) 13 9 1 true 2 true 0 false)),
  (0x81DC008013FE000364D40000, .stObj (tA (.v 2) (.v 4) (.imm 1016) (.v 0) 13 9 1 true 2 true 0 false)),
  (0x815C00801302000088000000, .stScr (tA (.v 2) (.v 4) (.imm 8) (.v 0) 2 2 0 false 0 false 0 false)),
  (0x819C00801302000088000000, .stCls (tA (.v 2) (.v 4) (.imm 8) (.v 0) 2 2 0 false 0 false 0 false)),
  (0x821C009010020000A4080000, .ldt (tA (.v 2) (.s 4) (.v 8) (.v 0) 2 9 0 false 1 false 0 false)),
  (0x825C009010020001D8000000, .stt (tA (.v 2) (.s 4) (.v 8) (.v 0) 7 6 0 false 0 false 0 false)),
  (0x829C00001300400000000000, .prf (tN (.v 0) (.v 4) (.imm 1))),
  (0x82DEC0401300800000000000, .probe (tN (.p 1) (.v 4) (.imm 2))),
  (0x831C00001300C00000000000, .pgreq (tN (.v 0) (.v 4) (.imm 3))),
  (0x835C00400B01000198180000, .peerst (tA (.v 1) (.v 2) (.imm 4) (.v 0) 6 6 0 false 3 false 0 false))]

theorem test_decode_memory : wordsMemory.all (fun x => (decode x.1).toOption == some x.2) = true := by decide

/-- Family 0x9: words and the instructions that they stand for. -/
def wordsAtomic : List (Word96 × Instr) := [
  (0x901C01D00310300488288000, .atomAdd (tA (.v 7) (.s 0) (.imm 64) (.imm 1) 2 2 0 false 5 false 1 false)),
  (0x905C01D00310300488288000, .atomSub (tA (.v 7) (.s 0) (.imm 64) (.imm 1) 2 2 0 false 5 false 1 false)),
  (0x909C01D00310300488288000, .atomMin (tA (.v 7) (.s 0) (.imm 64) (.imm 1) 2 2 0 false 5 false 1 false)),
  (0x90DC01D00310300488288000, .atomMax (tA (.v 7) (.s 0) (.imm 64) (.imm 1) 2 2 0 false 5 false 1 false)),
  (0x911C01D00310300488288000, .atomAnd (tA (.v 7) (.s 0) (.imm 64) (.imm 1) 2 2 0 false 5 false 1 false)),
  (0x915C01D00310300488288000, .atomOr (tA (.v 7) (.s 0) (.imm 64) (.imm 1) 2 2 0 false 5 false 1 false)),
  (0x919C01D00310300488288000, .atomXor (tA (.v 7) (.s 0) (.imm 64) (.imm 1) 2 2 0 false 5 false 1 false)),
  (0x91DC01D00310300488288000, .atomExch (tA (.v 7) (.s 0) (.imm 64) (.imm 1) 2 2 0 false 5 false 1 false)),
  (0x921C01D003103005982A0000, .atomIncw (tA (.v 7) (.s 0) (.imm 64) (.imm 1) 6 6 0 false 5 false 4 false)),
  (0x925C01D003103005982A0000, .atomDecw (tA (.v 7) (.s 0) (.imm 64) (.imm 1) 6 6 0 false 5 false 4 false)),
  (0x929C019000008011DC318000, .cas (tA (.v 6) (.s 0) (.v 2) (.v 4) 7 7 0 false 6 false 3 false)),
  (0x92DC01D00310000088210000, .redAdd (tA (.v 7) (.s 0) (.imm 64) (.v 0) 2 2 0 false 4 false 2 false)),
  (0x931C01D00310000088210000, .redSub (tA (.v 7) (.s 0) (.imm 64) (.v 0) 2 2 0 false 4 false 2 false)),
  (0x935C01D00310000088210000, .redMin (tA (.v 7) (.s 0) (.imm 64) (.v 0) 2 2 0 false 4 false 2 false)),
  (0x939C01D00310000088210000, .redMax (tA (.v 7) (.s 0) (.imm 64) (.v 0) 2 2 0 false 4 false 2 false)),
  (0x93DC01D00310000088210000, .redAnd (tA (.v 7) (.s 0) (.imm 64) (.v 0) 2 2 0 false 4 false 2 false)),
  (0x941C01D00310000088210000, .redOr (tA (.v 7) (.s 0) (.imm 64) (.v 0) 2 2 0 false 4 false 2 false)),
  (0x945C01D00310000088210000, .redXor (tA (.v 7) (.s 0) (.imm 64) (.v 0) 2 2 0 false 4 false 2 false)),
  (0x949C01D00310000198200000, .redIncw (tA (.v 7) (.s 0) (.imm 64) (.v 0) 6 6 0 false 4 false 0 false)),
  (0x94DC01D00310000198200000, .redDecw (tA (.v 7) (.s 0) (.imm 64) (.v 0) 6 6 0 false 4 false 0 false)),
  (0x951C01D00301000198280000, .ldacq (tA (.v 7) (.s 0) (.imm 4) (.v 0) 6 6 0 false 5 false 0 false)),
  (0x955C01D003010001980C0000, .strel (tA (.v 7) (.s 0) (.imm 4) (.v 0) 6 6 0 false 1 true 0 false))]

theorem test_decode_atomic : wordsAtomic.all (fun x => (decode x.1).toOption == some x.2) = true := by decide

/-- Family 0xA: words and the instructions that they stand for. -/
def wordsSync : List (Word96 × Instr) := [
  (0xA01C000000000000002A0000, .fence (tA (.v 0) (.v 0) (.v 0) (.v 0) 0 0 0 false 5 false 4 false)),
  (0xA05C00304000000000C00000, .bar (tW (.v 0) (.imm 16) (.v 0) (.v 0) 0 0 3 false)),
  (0xA09D00500900C00011000000, .bararv (tW (.s 1) (.s 2) (.s 3) (.v 0) 1 0 4 false)),
  (0xA0DC00101100C00021400000, .barwt (tW (.v 0) (.s 4) (.s 3) (.v 0) 2 0 5 false)),
  (0xA11C00308302400000C00000, .barinit (tW (.v 0) (.imm 32) (.imm 9) (.v 0) 0 0 3 false)),
  (0xA15C00000000000017400000, .waitc (tW (.v 0) (.v 0) (.v 0) (.v 0) 1 3 5 false)),
  (0xA19D02501301F19198280000, .waitw (tA (.s 9) (.s 4) (.imm 7) (.imm 100) 6 6 0 false 5 false 0 false)),
  (0xA1DD02101000100DDC280000, .waitf (tA (.s 8) (.s 4) (.v 0) (.s 3) 7 7 0 false 5 false 0 false)),
  (0xA21F00500310000198280000, .fill (tA (.imm 1) (.s 0) (.imm 64) (.v 0) 6 6 0 false 5 false 0 false)),
  (0xA25D00500310000198280000, .syncinit (tA (.s 1) (.s 0) (.imm 64) (.v 0) 6 6 0 false 5 false 0 false)),
  (0xA29D00701700800001400000, .semop (tW (.s 1) (.imm 5) (.imm 2) (.v 0) 0 0 5 false)),
  (0xA2DD00701700B0C801400000, .semwait (tW (.s 1) (.imm 5) (.imm 2) (.imm 50) 0 0 5 false))]

theorem test_decode_sync : wordsSync.all (fun x => (decode x.1).toOption == some x.2) = true := by decide

/-- Family 0xB: words and the instructions that they stand for. -/
def wordsAsync : List (Word96 × Instr) := [
  (0xB01C00100400000000000000, .xkick (tN (.v 0) (.s 1) (.v 0))),
  (0xB05C00002400000001800000, .cbld (tT (.v 0) (.v 9) (.v 0) (.v 0) 0 0 3 0 0)),
  (0xB09C00100800000000240000, .drainld (tK (.v 0) (.s 2) (.v 0) 144))]

theorem test_decode_async : wordsAsync.all (fun x => (decode x.1).toOption == some x.2) = true := by decide

/-- Family 0xC: words and the instructions that they stand for. -/
def wordsMatrix : List (Word96 × Instr) := [
  (0xC01C000000040002ED000000, .mma (tT (.v 0) (.v 0) (.v 16) (.v 0) 11 11 2 0 0)),
  (0xC05D04D05105800338004000, .mmloop (tT (.s 19) (.s 20) (.s 22) (.v 0) 12 14 0 0 1)),
  (0xC09C00000000000002800000, .tzero (tT (.v 0) (.v 0) (.v 0) (.v 0) 0 0 5 0 0)),
  (0xC0DC08000000000000800000, .tmovGet (tT (.v 32) (.v 0) (.v 0) (.v 0) 0 0 1 0 0)),
  (0xC0DC00008000000000804000, .tmovPut (tT (.v 0) (.v 32) (.v 0) (.v 0) 0 0 1 0 1)),
  (0xC0DC00300D02000000808000, .tmovDrain (tT (.v 0) (.imm 3) (.s 8) (.v 0) 0 0 1 0 2)),
  (0xC11C00000500800264810000, .tsacc (tT (.v 0) (.v 1) (.s 2) (.v 0) 9 9 1 0 4)),
  (0xC15C000000003FFFFFFA0000, .rstlbl (tK (.v 0) (.v 0) (.v 0) (-24)))]

theorem test_decode_matrix : wordsMatrix.all (fun x => (decode x.1).toOption == some x.2) = true := by decide

/-- Family 0xD: words and the instructions that they stand for. -/
def wordsProgress : List (Word96 × Instr) := [
  (0xD01C003005040000004E0000, .spawn (tK (.v 0) (.imm 1) (.s 16) 312)),
  (0xD05C002825043FFFFFB20000, .spawnx (tK (.v 0) (.sr 9) (.s 16) (-312))),
  (0xD09C0010AB00000000000000, .tasknew (tN (.v 0) (.s 42) (.imm 0))),
  (0xD0DC00101000000000000000, .taskget (tN (.v 0) (.s 4) (.v 0))),
  (0xD11C00000000000000000000, .taskdone (tN (.v 0) (.v 0) (.v 0))),
  (0xD15C0010AB00400000000000, .tasksync (tN (.v 0) (.s 42) (.imm 1))),
  (0xD19D02400000000000000000, .stage (tN (.s 9) (.v 0) (.v 0))),
  (0xD1DC00101310000000000000, .promote (tN (.v 0) (.s 4) (.imm 64)))]

theorem test_decode_progress : wordsProgress.all (fun x => (decode x.1).toOption == some x.2) = true := by decide

/-- Family 0xE: words and the instructions that they stand for. -/
def wordsSystem : List (Word96 × Instr) := [
  (0xE01C000000000000000A8000, .trap (tK (.v 0) (.v 0) (.v 0) 42)),
  (0xE05C00000000000000000000, .rte (tN (.v 0) (.v 0) (.v 0))),
  (0xE09D01000000000000408000, .csrrd (tK (.s 4) (.v 0) (.v 0) 258)),
  (0xE0DC00101000000000408000, .csrwr (tK (.v 0) (.s 4) (.v 0) 258)),
  (0xE11C0010140000000001C000, .logmark (tK (.v 0) (.s 5) (.v 0) 7)),
  (0xE15C00000000000000000000, .trcon (tN (.v 0) (.v 0) (.v 0))),
  (0xE19C00000000000000000000, .trcoff (tN (.v 0) (.v 0) (.v 0))),
  (0xE1DC00000000000000000000, .halt (tN (.v 0) (.v 0) (.v 0)))]

theorem test_decode_system : wordsSystem.all (fun x => (decode x.1).toOption == some x.2) = true := by decide

/-- Drain words. -/
def wordsDrain : List (Word × Instr) := [
  (0x00000000, .dend),
  (0x0B08B000, .dfadd { d := 3, a := 0, b := 8, r := 5, s := true }),
  (0x1309B000, .dfsub { d := 3, a := 0, b := 9, r := 5, s := true }),
  (0x1B0AB000, .dfmul { d := 3, a := 0, b := 10, r := 5, s := true }),
  (0x230BB000, .dfma { d := 3, a := 0, b := 11, r := 5, s := true }),
  (0x29290000, .dfmax { d := 1, a := 2, b := 9, r := 0, s := false }),
  (0x31290000, .dfmin { d := 1, a := 2, b := 9, r := 0, s := false }),
  (0x3B300000, .drelu { d := 3, a := 3, b := 0, r := 0, s := false }),
  (0x41230000, .dsel { d := 1, a := 2, b := 3, r := 0, s := false }),
  (0x4C460000, .diadd { d := 4, a := 4, b := 6, r := 0, s := false }),
  (0x54150000, .dimad { d := 4, a := 1, b := 5, r := 0, s := false }),
  (0x5E200001, .dshl { d := 6, a := 2, k := 1 }),
  (0x61230000, .dand { d := 1, a := 2, b := 3, r := 0, s := false }),
  (0x6B900000, .dmov { d := 3, a := 9, b := 0, r := 0, s := false }),
  (0x75000040, .dmovi { d := 5, a := 0, k := 64 }),
  (0x7D00FFFF, .dmovhi { d := 5, a := 0, k := 65535 }),
  (0x81230004, .dfcmp { d := 1, a := 2, b := 3, r := 4, s := false }),
  (0x8B40B280, .dld { d := 3, v := 0, o := 4, f := 11, r := 1, s := false, p := 2, x := false, g := false }),
  (0x9034B060, .dst { d := 0, v := 3, o := 4, f := 11, r := 0, s := false, p := 1, x := true, g := false }),
  (0x983491C0, .dred { d := 0, v := 3, o := 4, f := 9, r := 0, s := true, p := 3, x := false, g := false }),
  (0xA0000000, .drst)]

theorem test_decode_drain : wordsDrain.all (fun x => decodeDrain x.1 == some x.2) = true := by decide

/-! ### Ill-formed terms, one for each check -/

/-- Instructions that the checks of steps 2 and 3 of R52 refuse, with the cause of each. -/
def illFields : List Instr := [
  .nop { tN (.v 0) (.v 0) (.v 0) with x := 1 }, .nop (tN (.v 1) (.v 0) (.v 0)),
  .nop { tN (.v 0) (.v 0) (.v 0) with h := { h7 with gn := true } }, .and { tN (.v 1) (.v 2) (.v 3) with h := { h7 with dup := 2 } },
  .add { tF (.v 1) (.v 2) (.v 3) (.v 32) 2 0 0 false 0 with h := { h7 with dup := 2 } },
  .bra (tK (.v 1) (.v 0) (.v 0) 12), .loop (tK (.v 0) (.imm 3) (.v 0) (-12)), .join (tK (.v 0) (.v 0) (.v 0) 13),
  .brk (tK (.v 0) (.v 0) (.v 0) 256), .add (tF (.v 1) (.v 2) (.v 3) (.v 0) 9 0 0 false 0),
  .neg (tF (.v 1) (.v 2) (.v 3) (.v 0) 2 0 0 false 0), .mad (tF (.v 1) (.v 2) (.v 3) (.v 4) 2 0 1 false 0),
  .addc (tF (.v 1) (.v 2) (.v 3) (.p 1) 2 0 0 true 0), .mulw (tF (.v 2) (.v 3) (.v 4) (.v 0) 3 1 0 false 0),
  .dp4 (tF (.v 1) (.v 2) (.v 3) (.v 4) 2 4 0 false 0), .dp2 (tF (.v 1) (.v 2) (.v 3) (.v 4) 2 0 0 false 0),
  .fsh (tF (.v 1) (.v 2) (.v 3) (.v 4) 0 0 0 false 2), .bfe (tF (.v 1) (.v 2) (.v 3) (.v 0) 0 0 0 false 0),
  .cmp (tF (.v 1) (.v 2) (.v 3) (.v 0) 0 9 0 false 0), .sel (tF (.v 1) (.v 2) (.v 3) (.v 4) 0 0 0 false 0),
  .shfl (tF (.v 1) (.v 2) (.v 3) (.v 0) 0 0 0 false 4), .vote (tF (.v 1) (.v 2) (.v 3) (.v 0) 0 0 0 false 0),
  .redux (tF (.v 1) (.v 2) (.v 0) (.v 0) 2 0 0 true 1), .matchLanes (tF (.v 1) (.v 2) (.v 0) (.v 0) 2 0 0 false 2),
  .fadd (tF (.v 1) (.v 2) (.v 3) (.v 0) 9 0 6 false 0), .fmin (tF (.v 1) (.v 2) (.v 3) (.v 0) 9 0 0 true 0),
  .fcmp (tF (.v 1) (.v 2) (.v 3) (.v 0) 0 9 0 false 8), .fclass (tF (.v 1) (.v 2) (.v 0) (.v 0) 0 14 0 false 0),
  .rcp (tF (.v 1) (.v 2) (.v 0) (.v 0) 8 0 0 false 0), .sqrt (tF (.v 1) (.v 2) (.v 0) (.v 0) 10 0 0 false 0),
  .cvt (tF (.v 1) (.v 2) (.v 0) (.v 0) 14 9 0 false 0), .cvtpk (tF (.v 1) (.v 2) (.v 3) (.v 0) 10 9 0 false 1),
  .cvtcb (tF (.v 1) (.v 2) (.s 8) (.v 0) 9 14 0 false 8), .rng (tF (.v 4) (.v 1) (.s 2) (.v 3) 2 0 0 false 0),
  .ldGbl (tA (.v 1) (.v 2) (.imm 0) (.v 0) 14 9 0 false 0 false 0 false), .stGbl (tA (.v 1) (.v 2) (.imm 0) (.v 0) 6 6 0 false 7 false 0 false),
  .ldScr (tA (.v 1) (.v 2) (.imm 0) (.v 0) 6 6 0 false 0 true 0 false), .ldt (tA (.v 1) (.s 2) (.v 4) (.v 0) 0 6 0 false 0 false 0 false),
  .peerst (tA (.v 1) (.v 2) (.imm 0) (.v 0) 2 6 0 false 0 false 0 false), .atomAdd (tA (.v 1) (.s 2) (.imm 0) (.v 3) 6 2 0 false 0 false 0 false),
  .atomMin (tA (.v 1) (.s 2) (.imm 0) (.v 3) 9 9 0 false 0 false 0 false), .cas (tA (.v 1) (.s 2) (.v 4) (.v 3) 6 6 0 false 0 false 5 false),
  .redAdd (tA (.v 1) (.s 2) (.imm 0) (.v 0) 6 6 0 false 0 false 1 false), .ldacq (tA (.v 1) (.s 2) (.imm 0) (.v 0) 6 6 0 false 0 false 1 false),
  .fence (tA (.v 0) (.v 0) (.v 0) (.v 0) 0 0 0 false 0 false 5 false), .fill (tA (.imm 1) (.s 2) (.imm 0) (.v 0) 2 2 0 false 0 false 0 false),
  .waitf (tA (.s 1) (.s 2) (.imm 1) (.imm 0) 6 6 0 false 0 false 0 false), .bar (tW (.v 0) (.imm 0) (.v 0) (.v 0) 3 0 0 false),
  .waitc (tW (.v 0) (.v 0) (.v 0) (.v 0) 0 6 0 false), .semop (tW (.s 1) (.imm 0) (.imm 0) (.v 0) 1 0 0 false),
  .mma (tT (.v 0) (.v 0) (.v 16) (.v 0) 15 11 0 0 0), .tzero (tT (.v 0) (.v 0) (.v 0) (.v 0) 1 0 0 0 0),
  .tmovPut (tT (.v 0) (.v 32) (.v 0) (.v 0) 0 0 0 0 0), .tsacc (tT (.v 0) (.v 1) (.v 2) (.v 0) 9 9 0 0 8),
  .drainld (tK (.v 0) (.s 2) (.v 0) 0x410), .drainld (tK (.v 0) (.s 2) (.v 0) 3), .rstlbl (tK (.v 0) (.v 0) (.v 0) 13),
  .spawn (tK (.v 0) (.imm 3) (.s 16) 0), .csrrd (tK (.s 4) (.v 0) (.v 0) 0x1000), .rte (tN (.v 0) (.v 1) (.v 0)),
  .dfadd { d := 0, a := 0, b := 0, r := 6, s := false }, .dfmax { d := 0, a := 0, b := 0, r := 1, s := false },
  .dmov { d := 0, a := 0, b := 1, r := 0, s := false }, .dshl { d := 0, a := 0, k := 32 }, .dmovi { d := 0, a := 1, k := 0 },
  .dfcmp { d := 0, a := 0, b := 0, r := 0, s := true }, .dld { d := 0, v := 1, o := 0, f := 0, r := 0, s := false, p := 0, x := false, g := false },
  .dst { d := 1, v := 0, o := 0, f := 0, r := 0, s := false, p := 0, x := false, g := false },
  .dred { d := 0, v := 0, o := 0, f := 2, r := 0, s := false, p := 0, x := false, g := false },
  .launch default { barrier := false, x := 1, y := 1, z := 1, header := 0, stages := 0, args := [] },
  .signal default { barrier := false, addr := 4, value := 0, count := 0, scope := 0, width := 0, test := 0 },
  .waitword default { barrier := false, addr := 8, value := 0, count := 0, scope := 0, width := 0, test := 3 },
  .copy default { barrier := false, addr := 0, value := 0, count := 0x10000000000, scope := 0, width := 0, test := 0 },
  .timestamp default { barrier := false, addr := 4, value := 0, count := 0, scope := 0, width := 0, test := 0 }]

theorem test_ill_formed_fields : illFields.all (fun i => check i == some .illegalField) = true := by decide

/-- Instructions whose operands are refused (R42). -/
def illOperands : List Instr := [
  .add (tF (.imm 1) (.v 2) (.v 3) (.v 0) 2 0 0 false 0), .add (tF (.v 1) (.v 2) (.v 4) (.v 0) 3 0 0 false 0),
  .and (tN (.sr 0) (.v 2) (.v 3)), .and (tN (.p 7) (.v 2) (.v 3)), .mov (tN (.v 1) (.sr 0x12) (.v 0)),
  .addc (tF (.v 1) (.v 2) (.v 3) (.p 7) 2 0 0 false 0), .movs (tN (.v 1) (.v 2) (.imm 0)), .movv (tN (.s 1) (.s 2) (.imm 0)),
  .mvsp (tN (.v 1) (.v 2) (.v 0)), .stsp (tN (.sr 0x10) (.s 2) (.v 0)), .pand (tN (.p 1) (.v 2) (.p 3)), .pmov (tN (.p 1) (.v 2) (.v 0)),
  .scan (tF (.s 1) (.v 2) (.v 0) (.v 0) 2 0 0 false 0), .bcast (tN (.v 1) (.v 2) (.v 3)),
  .sincospi (tF (.v 6) (.v 2) (.v 0) (.v 6) 9 0 0 false 0), .rng (tF (.v 5) (.v 1) (.s 2) (.v 3) 0 0 0 false 0),
  .callx (tN (.s 7) (.s 8) (.v 0)), .loop (tK (.v 0) (.imm (-1)) (.v 0) 12), .loopx (tK (.v 0) (.imm 1) (.v 2) 12),
  .ldGbl (tA (.p 1) (.v 2) (.imm 0) (.v 0) 6 6 0 false 0 false 0 false), .ldGbl (tA (.v 1) (.v 3) (.imm 0) (.v 0) 6 6 0 false 0 false 0 false),
  .ldt (tA (.v 1) (.s 2) (.v 1023) (.v 0) 2 6 0 false 0 false 0 false), .atomAdd (tA (.imm 1) (.s 2) (.imm 0) (.v 3) 6 6 0 false 0 false 0 false),
  .fill (tA (.imm 1) (.v 2) (.imm 0) (.v 0) 6 6 0 false 0 false 0 false), .barwt (tW (.v 0) (.imm 0) (.imm 1) (.v 0) 0 0 0 false),
  .semwait (tW (.s 1) (.v 0) (.imm 0) (.imm 0) 0 0 0 false), .xkick (tN (.v 0) (.v 1) (.v 0)), .mma (tT (.v 0) (.s 1) (.v 16) (.v 0) 11 11 0 0 0),
  .mmloop (tT (.imm (-1)) (.s 0) (.v 16) (.v 0) 11 11 0 0 0), .tmovGet (tT (.v 993) (.v 0) (.v 0) (.v 0) 0 0 0 0 0),
  .tmovDrain (tT (.v 0) (.imm 16) (.s 8) (.v 0) 0 0 0 0 2), .spawn (tK (.v 0) (.imm 1) (.v 16) 0), .tasknew (tN (.v 0) (.s 5) (.imm 0)),
  .csrrd (tK (.s 4) (.v 0) (.v 0) 0x120), .csrwr (tK (.v 0) (.s 5) (.v 0) 0x102)]

theorem test_ill_formed_operands : illOperands.all (fun i => check i == some .illegalOperand) = true := by decide

/-! ### Witnesses: states that meet the hypotheses of the statements -/

/-- A group of one path of all lanes, in a privileged context on die 0, whose path runs. -/
def base : State :=
  { State.reset.placeGroup with cur := { gid := 1, path := 0 }, ctxs := [{ placedCtx with priv := true }] }

/-- The same with the 16 pages from address 0 in the data TLB of its core, placed on die 0. -/
def paged : State :=
  { base with
    place := (upFrom 16 16).map (fun p => (p, 1)),
    tlb := [{ die := 0, core := 0, tlb := 1, pasid := 0, gen := 0, vpn := 0, pages := 16, ppn := 16, attr := 8,
              r := true, w := true, x := true, dirty := true, since := 0 }] }

/-- The state with its group changed. -/
def withG (s : State) (f : Group → Group) : State := s.updGrp 1 f

/-- The state with its path changed. -/
def withP (s : State) (f : Path → Path) : State := s.updGrp 1 (fun g => g.updPath 0 f)

/-- The state with its launch changed. -/
def withL (s : State) (f : Launch → Launch) : State := { s with launches := s.launches.map f }

/-- The scalar registers of the group as a list of numbers and words. -/
def withS (s : State) (l : List (Nat × Word)) : State := withG s (fun g => { g with s := l })

theorem test_witness_clear_control : wordsControl.all (fun x => base.clear x.2 h7) = true := by decide
theorem test_witness_clear_integer : wordsInteger.all (fun x => base.clear x.2 h7) = true := by decide
theorem test_witness_clear_logic : wordsLogic.all (fun x => base.clear x.2 h7) = true := by decide
theorem test_witness_clear_move : wordsMove.all (fun x => base.clear x.2 h7) = true := by decide
theorem test_witness_clear_lane : wordsLane.all (fun x => base.clear x.2 h7) = true := by decide
theorem test_witness_clear_float : wordsFloat.all (fun x => base.clear x.2 h7) = true := by decide
theorem test_witness_clear_special : wordsSpecial.all (fun x => base.clear x.2 h7) = true := by decide
theorem test_witness_clear_convert : wordsConvert.all (fun x => base.clear x.2 h7) = true := by decide
theorem test_witness_clear_memory : wordsMemory.all (fun x => base.clear x.2 h7) = true := by decide
theorem test_witness_clear_atomic : wordsAtomic.all (fun x => base.clear x.2 h7) = true := by decide
theorem test_witness_clear_sync : wordsSync.all (fun x => base.clear x.2 h7) = true := by decide
theorem test_witness_clear_async : wordsAsync.all (fun x => base.clear x.2 h7) = true := by decide
theorem test_witness_clear_matrix : wordsMatrix.all (fun x => base.clear x.2 h7) = true := by decide
theorem test_witness_clear_progress : wordsProgress.all (fun x => base.clear x.2 h7) = true := by decide
theorem test_witness_clear_system : wordsSystem.all (fun x => base.clear x.2 h7) = true := by decide

/-- Every instruction of the list ends in a next state in `base`. -/
def allNext (l : List (Word96 × Instr)) : Bool :=
  l.all (fun x => match exec x.2 base with
    | .next _ => true
    | _ => false)


/-! ### Witnesses of statements whose one hypothesis is that the instruction is clear -/

theorem test_witness_IntegerRowsWrapOrSaturate : wordsInteger.all (fun x => base.clear x.2 h7) = true := test_witness_clear_integer
theorem test_witness_LogicAndShiftRows : wordsLogic.all (fun x => base.clear x.2 h7) = true := test_witness_clear_logic
theorem test_witness_BitCountAndFieldRows : wordsLogic.all (fun x => base.clear x.2 h7) = true := test_witness_clear_logic
theorem test_witness_MoveRows : wordsMove.all (fun x => base.clear x.2 h7) = true := test_witness_clear_move
theorem test_witness_FloatArithmeticRoundsOnce : wordsFloat.all (fun x => base.clear x.2 h7) = true := test_witness_clear_float
theorem test_witness_FloatSelectionsReturnAnOperand : wordsFloat.all (fun x => base.clear x.2 h7) = true := test_witness_clear_float
theorem test_witness_FloatCompareClassScaleRound : wordsFloat.all (fun x => base.clear x.2 h7) = true := test_witness_clear_float
theorem test_witness_ConversionRows : wordsConvert.all (fun x => base.clear x.2 h7) = true := test_witness_clear_convert


/-- A next state, or the state before where there is none. -/
def nextOf (r : Host.Outcome State Fault Refusal) (s : State) : State :=
  match r with
  | .next t => t
  | _ => s

def isNext (r : Host.Outcome State Fault Refusal) : Bool :=
  match r with
  | .next _ => true
  | _ => false

theorem test_witness_InstructionWordsRoundTrip :
    encode (.and (tN (.v 12) (.v 3) (.q 5))) = some 0x201C03000E01400000000000 ∧
    wellFormed (.and (tN (.v 12) (.v 3) (.q 5))) = true := by decide

theorem test_witness_DrainWordsAndCommandsRoundTrip :
    let c : WordCmd := { barrier := true, addr := 64, value := 7, count := 0, scope := 6, width := 1, test := 0 }
    let l : LaunchCmd := { barrier := false, x := 1, y := 1, z := 1, header := 64, stages := 0, args := [1, 2, 3, 4, 5, 6, 7, 8] }
    encodeDrain (.dmovi { d := 5, a := 0, k := 64 }) = some 0x75000040 ∧ wellFormed (.dmovi { d := 5, a := 0, k := 64 }) = true ∧
    wellFormed (.signal default c) = true ∧ wellFormed (.launch default l) = true ∧
    (decodeCommand default 0x105).isSome = true := by decide

theorem test_witness_IllegalWordsAreRefused :
    let family := fun (w : Word96) => w.toNat / 2 ^ 92
    let member := fun (w : Word96) => w.toNat / 2 ^ 86 % 64
    family 0xF00000000000000000000000 = 15 ∧ member 0x035C00000000000000000000 = 13 ∧
    member 0x031C00000000000000000001 = 12 ∧ (0x031C00000000000000000001 : Word96).toNat % 2 ^ 7 ≠ 0 ∧
    (0x001FFF800000000000000000 : Word96).toNat / 2 ^ 82 % 16 = 7 := by decide

theorem test_witness_StepRunsTheDecodedInstruction :
    (let s := State.reset.withFetchWord 96 0x202803000E01400000001000
     match s.nextChoice with
     | some (.issue w, rest) =>
       let s2 := { s.passTime.arriveDue with agenda := rest, cur := w }
       let g := s2.grp w.gid
       let p := g.path w.path
       s2.mayIssue w && p.mayFault && (g.faultOf w.path).isNone && !p.haltPend && !p.stepping &&
       (comparator (s2.ctxOf g.pasid) p).isNone &&
       (match g.place with
        | some pl =>
          match s2.fetched g pl p.pc.toNat with
          | .ok b => (decode (word96Of b)).toOption.isSome
          | .error _ => false
        | none => false)
     | _ => false) = true := by decide

theorem test_witness_StepRunsTheDecodedInstruction_drain :
    (let s := State.reset.withFetchWord 32 0x75000040
     match s.nextChoice with
     | some (.drainWord e, rest) =>
       let s1 := { s.passTime.arriveDue with agenda := rest }
       match s1.engine e with
       | some en => en.active && (decodeDrain ((s1.grp en.gid).drainWord en.p en.dpc)).isSome
       | none => false
     | _ => false) = true := by decide

theorem test_witness_StepRunsTheDecodedInstruction_event :
    (match (State.reset.withFetchWord 512 0).nextChoice with
     | some (.event _, _) => true
     | _ => false) = true := by decide

theorem test_witness_EveryStepKeepsMemoryCanonical :
    (State.reset.withFetchWord 96 0x202803000E01400000001000).memWf = true ∧
    isNext (step (State.reset.withFetchWord 96 0x202803000E01400000001000)) = true := by decide

theorem test_witness_OperandsReadTheirForms :
    let e := (withL base (fun l => { l with grid := (4, 2, 3), hdr := { l.hdr with compat := true } })).view (.nop (tN (.v 0) (.v 0) (.v 0))) h7
    e.mix = [] ∧ e.launch.hdr.compat = true ∧ 0 < e.launch.grid.1 ∧ 0 < e.launch.grid.2.1 ∧
    e.g.block < e.launch.grid.1 * e.launch.grid.2.1 * e.launch.grid.2.2 := by decide

theorem test_witness_WritesReachTheirDestinations :
    let h : Hdr := { h7 with dup := 2 }
    h.dup = 2 ∧ (1 : Mask) ≠ 0 ∧ (31 : Nat) < 32 ∧ (6 : BitVec 3) ≠ 7 := by decide

theorem test_witness_SpecialRegisterWrites : 0 < (base.grp 1).paths.length := by decide

theorem test_witness_AdvanceChangesOnlyThePath :
    base.has base.cur.gid = true ∧ (base.grp 1).regions = [] ∧ 0 < (base.grp 1).paths.length := by decide

theorem test_witness_RegisterFamiliesFrame :
    let i := Instr.add (tF (.v 5) (.s 3) (.q 4) (.v 0) 2 0 0 true 0)
    (match encode i with
     | some wd => decide (1 ≤ (wd.extractLsb' 92 4).toNat) && decide ((wd.extractLsb' 92 4).toNat ≤ 7)
     | none => false) = true ∧
    base.has base.cur.gid = true ∧ grainOn base (base.grp base.cur.gid) = false ∧ isNext (exec i base) = true := by decide

/-- `base` with V2 of path 0 unfinished until clk 9, in a scoreboard mode. -/
def boarded (m : BitVec 2) : State :=
  withG (withL base (fun l => { l with sbmode := m })) (fun g =>
    { g with sb := [{ path := 0, reg := .v 2, done := 9, old := [] }] })

theorem test_witness_ScoreboardAndPrivilegeTraps :
    let w := tF (.v 5) (.v 2) (.v 3) (.v 0) 2 0 0 false 0
    [boarded 1, boarded 2].all (fun s =>
      let g := s.grp s.cur.gid
      s.has s.cur.gid && (check (.add w)).isNone && (s.missingLines (.add w)).isEmpty &&
      (g.readRegs (.add w) w.h).all (fun x => !g.poisonLines.contains (poisonKey x.2)) && !privInstr (.add w) &&
      !(g.sbHits (.add w) w.h (g.unfinished s.cur.path (s.dieOf g.die).clk)).isEmpty && !grainOn s g) = true ∧
    ((boarded 2).grp 1 |>.path 0).reason ≠ 2 ∧ ((withP (boarded 2) (fun p => { p with reason := 2 })).grp 1 |>.path 0).reason = 2 ∧
    ((boarded 1).launchOf 0 1).sbmode = 1 ∧ ((boarded 2).launchOf 0 1).sbmode = 2 := by decide

theorem test_witness_ScoreboardAndPrivilegeTraps_privilege :
    let s : State := { base with ctxs := [placedCtx] }
    s.has s.cur.gid = true ∧ (s.ctxOf (s.grp s.cur.gid).pasid).priv = false ∧
    check (.mov (tN (.v 2) (.sr 0x30) (.v 0))) = none ∧ check (.stsp (tN (.sr 0x30) (.s 2) (.v 0))) = none ∧
    check (.csrrd (tK (.s 4) (.v 0) (.v 0) 0x30)) = none ∧
    check (.ldObj (tA (.v 1) (.v 2) (.imm 0) (.v 0) 6 6 0 false 0 false 0 false)) = none := by decide

theorem test_witness_WideProductsAndCarriesAreExact :
    wellFormed (.mulhi (tF (.v 6) (.v 2) (.v 4) (.v 0) 3 0 0 false 0)) = true ∧
    wellFormed (.mulw (tF (.v 6) (.v 2) (.v 4) (.v 0) 3 2 0 false 0)) = true ∧
    base.clear (.addc (tF (.v 5) (.v 3) (.v 4) (.p 1) 6 0 0 false 0)) h7 = true := by decide

theorem test_witness_DivisionTruncatesTowardsZero :
    (tF (.v 5) (.v 3) (.v 4) (.v 0) 2 0 0 true 0).sat = true ∧
    base.clear (.rem (tF (.v 5) (.v 3) (.v 4) (.v 0) 2 0 0 false 0)) h7 = true := by decide

theorem test_witness_CompareAndSelect :
    let w := tF (.v 5) (.v 3) (.v 4) (.v 0) 0 8 0 false 6
    5 < w.sub.toNat ∧ 7 < w.sf.toNat ∧ w.df.toNat ∉ [2, 3, 6, 7] := by decide

theorem test_witness_LaneExchanges :
    let s := withL base (fun l => { l with hdr := { l.hdr with compat := true } })
    (reads s (.nop (tN (.v 0) (.v 0) (.v 0))) h7).launch.hdr.compat = true ∧ s.clear (.shfl (tF (.v 17) (.v 14) (.imm 2) (.v 0) 0 0 0 false 1)) h7 = true ∧
    s.clear (.vote (tF (.s 1) (.v 2) (.v 0) (.v 0) 0 0 0 false 3)) h7 = true := by decide

theorem test_witness_SpecialFunctionAndRandomRows :
    let e := reads base (.sincospi (tF (.v 6) (.v 2) (.v 0) (.v 7) 9 0 0 false 0)) h7
    trapOf e.g.regs.astat (eventsOf e.act (fun _ => 0)) = none ∧
    grainOn (base.touch (.trng (tN (.v 1) (.v 0) (.v 0)))) e.g = false ∧ e.act ≠ 0 := by decide

theorem test_witness_BranchesAndCallsTransfer :
    let e := reads base (.bra (tK (.v 0) (.v 0) (.v 0) 24)) h7
    e.act ≠ 0 ∧ (e.path.pc + (24 : BitVec 32).signExtend 57).toNat % 12 = 0 ∧
    (e.path.pc + (20 : BitVec 32).signExtend 57).toNat % 12 ≠ 0 ∧
    (reads base (.bra { tK (.v 0) (.v 0) (.v 0) 24 with h := { h7 with gp := 0 } }) { h7 with gp := 0 }).act = 0 ∧
    base.clear (.bra { tK (.v 0) (.v 0) (.v 0) 24 with h := { h7 with gp := 0 } }) { h7 with gp := 0 } = true := by decide

theorem test_witness_TransfersPartitionTheLanes :
    let g := base.grp 1
    let active : Mask := 0xFFFFFFFF
    let taken : Mask := 0x000000F3
    (g.path 0).live = true ∧ g.paths.length = 8 ∧ (g.path 7).live = false ∧ taken &&& ~~~active = 0 ∧ taken ≠ 0 ∧
    active &&& ~~~taken ≠ 0 ∧ active &&& ~~~sliceLanes (g.path 0).slices = 0 ∧
    ([{ pc := 24, lanes := 3, seq := false }] : List Dest).filter (fun d => d.lanes != 0) = [{ pc := 24, lanes := 3, seq := false }] := by
  decide

theorem test_witness_LoopsRunTheirTest :
    let lp : LoopSt := { loopc := 2, loops := 24, loope := 48, loopp := 3 }
    lp.loopc ≠ 0 ∧ lp.loopp ≠ 7 ∧ (base.grp 1).rdP 3 = 0 ∧
    (reads base (.loop (tK (.v 0) (.imm 3) (.v 0) 72)) h7).act ≠ 0 := by decide

/-- `base` with all its join regions open. -/
def crowded : State :=
  withG base (fun g => { g with regions := (upFrom 0 16).map (fun k => { ix := k, pc := 12000, lanes := 1, came := 0, opener := none }) })

theorem test_witness_JoinExitYieldSleepBreak :
    (reads base (.join (tK (.v 0) (.v 0) (.v 0) 48)) h7).g.freeRegion = some 0 ∧
    (reads crowded (.join (tK (.v 0) (.v 0) (.v 0) 48)) h7).g.freeRegion = none ∧
    crowded.clear (.join (tK (.v 0) (.v 0) (.v 0) 48)) h7 = true ∧
    grainOn (base.touch (.exit (tN (.v 0) (.v 0) (.v 0)))) (base.grp 1) = false ∧
    ((base.grp 1).path 0).mask &&& ~~~(reads base (.exit (tN (.v 0) (.v 0) (.v 0))) h7).act = 0 ∧
    (reads base (.sleep (tK (.v 0) (.v 0) (.v 0) 100)) h7).act ≠ 0 := by decide

theorem test_witness_JoinExitYieldSleepBreak_expiry :
    let s := withP base (fun p => { p with stat := .sleeping 0 })
    ((s.grp 1).path 0).stat = .sleeping 0 ∧ 0 ≤ (s.dieOf 0).clk ∧ (s.ctxOf (s.grp 1).pasid).on.contains 0 = true := by decide

theorem test_witness_JoinExitYieldSleepBreak_deferral :
    let d : Deferral := { owner := 0, pc := 24, mask := 1, region := none, lp := LoopSt.reset }
    let g := { base.grp 1 with deferrals := [d] }
    g.paths.length = 8 ∧ (g.path 0).mask &&& ~~~(0xFFFFFFFF : Mask) = 0 ∧ g.deferrals = [d] ∧ d.owner = 0 ∧
    (g.path 0).mask &&& ~~~(1 : Mask) ≠ 0 := by decide

/-- A fault held for path 0 of the group. -/
def heldFault : HeldFault := { op := 5, path := 0, cause := .memBounds, fpc := 0, faddr := 0, lmask := 1, issuedAt := 0 }

theorem test_witness_TrapsEnterWithTheirFrame :
    let s := withG base (fun g => { g with faults := [heldFault], missing := some 600 })
    s.resident (s.grp 1) = true ∧ ((s.grp 1).path 0).mayFault = true ∧ (s.grp 1).faultOf 0 = some heldFault ∧
    (s.grp 1).missing = some 600 ∧ ((s.grp 1).path 0).frame.inH = false := by decide

/-- `base` with its path in a handler whose frame resumes at 48. -/
def handling : State := withP base (fun p => { p with frame := { p.frame with inH := true, rpc := 48 } })

theorem test_witness_TrapEntryVectorsOrStopsThePath :
    handling.has 1 = true ∧ ((handling.grp 1).path 0).frame.inH = true ∧ 0 < (handling.grp 1).paths.length ∧
    ((base.grp 1).path 0).haltPend = false ∧ (24 : BitVec 64) ≠ 0 ∧ (24 : BitVec 64).toNat % 12 = 0 ∧
    (base.grp 1).regs.trapvec = 0 := by decide

theorem test_witness_ControlRegistersAndFrameWords :
    let i := Instr.csrwr (tK (.v 0) (.s 4) (.v 0) 0x102)
    let s := withS handling [(4, 60)]
    s.clear i h7 = true ∧ (reads s i h7).act ≠ 0 ∧ (reads s i h7).path.frame.inH = true ∧
    (let v := (reads s i h7).read true (.s 4) 0
     v &&& frameReserved 2 = 0 ∧ (v ^^^ frameWord (reads s i h7).path.frame 2) &&& ~~~frameRw 2 = 0 ∧ v.toNat % 12 = 0) ∧
    (let t := withS handling [(4, 61)]
     ((reads t i h7).read true (.s 4) 0).toNat % 12 ≠ 0) ∧
    (let t := withS handling [(5, 0x80000000)]
     ((reads t i h7).read true (.s 4) 0) &&& frameReserved 2 ≠ 0) ∧
    base.clear i h7 = true ∧ (reads base i h7).path.frame.inH = false ∧
    srValueBad (.sr 0x11) 0 = false ∧ srValueBad (.sr 0x11) 0xFFFFFFFF = true := by decide

theorem test_witness_TrapHaltAndGates :
    let s := withP handling (fun p => { p with haltPend := true })
    s.clear (.halt (tN (.v 0) (.v 0) (.v 0))) h7 = true ∧
    (let e := reads s (.halt (tN (.v 0) (.v 0) (.v 0))) h7
     e.act ≠ 0 ∧ e.path.haltPend = true ∧ e.path.frame.inH = true) ∧
    grainOn (base.touch (.logmark (tK (.v 0) (.s 5) (.v 0) 7))) (base.grp 1) = false := by decide

theorem test_witness_ReturnFromTrap :
    let i := Instr.rte (tN (.v 0) (.v 0) (.v 0))
    handling.clear i h7 = true ∧ (reads handling i h7).act ≠ 0 ∧ (reads handling i h7).path.frame.inH = true ∧
    (reads handling i h7).path.frame.dcur.getLsbD 63 = false ∧ (reads handling i h7).g.faults = [] ∧
    (let s := withP handling (fun p => { p with frame := { p.frame with dcur := 0xA000000000000000 } })
     s.clear i h7 = true ∧ (reads s i h7).path.frame.dcur.getLsbD 63 = true ∧
     2 ≤ ((reads s i h7).path.frame.dcur.extractLsb' 60 2).toNat) := by decide


/-! ### Witnesses: memory, waits and barriers -/

/-- Whether an access to global memory finds its place. -/
def reaches (s : State) (addr n : Nat) (need : Need) : Bool :=
  match (s.target (s.grp s.cur.gid) .gbl addr n need).2 with
  | .ok (.at_ _ _) => true
  | _ => false

/-- The element of lane 0 at address 64. -/
def anElem : Elem := { lane := 0, addr := 64, nib := none, val := 7, val2 := 0, ver := none }
def oneElem : List Elem := [anElem]

/-- An operation of the kind, issued by path 0. -/
def anOp (c : Ctr) (k : OpKind) : Op :=
  { id := 5, ctr := c, path := 0, issuer := 0, past := 1, pc := 0, issuedAt := 1, act := 1, todo := oneElem, done := false,
    deps := [], olds := [], rel := 0, full := 0, view := [], own := [], fences := [], bad := [], ev := 0, scope := 0, sk := false,
    ord := 0, kind := k, started := false, ahead := false, since := 0, stale := false }

/-- The state with an operation of the kind in flight for path 0, its element that of lane 0 at address 64. -/
def flying (s : State) (c : Ctr) (k : OpKind) : State :=
  withG s (fun g => { g with ops := [anOp c k] })

theorem test_witness_AddressesAndTheirBounds :
    let e := base.view (.nop (tN (.v 0) (.v 0) (.v 0))) h7
    (e.scrAddr .scr 327676 4).isSome = true ∧ e.scrAddr .scr 327677 4 = none ∧ e.scrAddr .cls (2 ^ 20) 4 = none ∧
    (e.scrAddr .cls 0 4).isSome = true := by decide

theorem test_witness_LoadsAndStoresIssue :
    let w := tA (.v 1) (.v 2) (.imm 0) (.v 0) 6 6 0 false 0 false 0 false
    let off := { w with b := .imm 2 }
    let far := { w with b := .imm (-4) }
    let e := reads base (.ldScr w) h7
    base.clear (.ldScr w) h7 = true ∧ e.g.ctr .sp < 63 ∧ e.g.acquiring e.pix = false ∧ e.launch.sbmode ≠ 1 ∧
    failing (lanesOf e.act) (fun l => (e.scrAddr .scr (e.addr .scr false off.a off.b l).1 4).isNone) = 0 ∧
    failing (lanesOf e.act) (fun l => decide ((e.addr .scr false off.a off.b l).1 % 4 ≠ 0)) ≠ 0 ∧
    failing (lanesOf e.act) (fun l => (e.scrAddr .scr (e.addr .scr false far.a far.b l).1 4).isNone) ≠ 0 ∧
    base.clear (.stGbl w) h7 = true ∧ base.clear (.strel w) h7 = true ∧ base.clear (.ldacq w) h7 = true ∧
    (let s := withL (withG base (fun g => { g with ops := [{ anOp .sp (.peer [(0, 0)]) with path := 1, past := 2, todo := [{ anElem with addr := 0 }] }] }))
       (fun l => { l with sbmode := 1 })
     let e := reads s (.ldScr w) h7
     s.clear (.ldScr w) h7 = true ∧ e.g.ctr .sp < 63 ∧ e.launch.sbmode = 1 ∧
     ((s.touch (.ldScr w)).inFlight e.g [] 0 4).length = 1 ∧
     (((s.touch (.ldScr w)).grp 1).before e.pix).map (fun o => o.id) = []) := by decide

/-- A legal record of one dimension at offset 64 of the scratchpad: base 0, one element of FP32, extent 4, stride 1. -/
def tensorRecord : Tsr := { base := 0, space := 0, fmt := 9, ndim := 1, clip := 1, rot := 0, ext := [4], str := [1] }

theorem test_witness_TensorAccesses :
    let w := tA (.v 1) (.s 2) (.v 4) (.v 0) 1 9 0 false 0 false 0 false
    let e := reads base (.ldt w) h7
    base.clear (.ldt w) h7 = true ∧ e.act ≠ 0 ∧ (e.uni w.a).toNat % 64 = 0 ∧
    tensorRecord.fmt ≠ 14 ∧ tensorRecord.rot = 0 ∧ tensorRecord.ndim ≤ tensorRecord.ext.length ∧
    getAt 0 (e.coords w tensorRecord 0) 0 = 0 ∧ e.launch.hdr.scratch ≤ 327680 ∧
    ((reads (withS base [(2, 32)]) (.ldt w) h7).uni w.a).toNat % 64 ≠ 0 ∧
    ((reads (withS base [(2, 327680)]) (.ldt w) h7).uni w.a).toNat % 64 = 0 := by decide

/-- `base` with bytes in its scratchpad. -/
def holding (bs : Sparse Byte) : State :=
  let a : Alloc := { role := 0, core := 0, base := 0, bytes := bs, poison := [], saved := none, freed := false }
  { base with blocks := [{ placedBlock with allocs := [a] }] }

/-- `base` with the bytes of a legal record at the start of its scratchpad. -/
def recorded : State :=
  holding [(8, 9), (9, 1), (10, 1), (12, 4)]

theorem test_witness_TensorAccesses_record :
    let w := tA (.v 1) (.s 2) (.v 4) (.v 0) 1 9 0 false 0 false 0 false
    (match (reads recorded (.ldt w) h7).readTsr (recorded.touch (.ldt w)) 0 1 9 with
     | .ok t => decide (t.space = 0)
     | _ => false) = true := by decide

theorem test_witness_AtomicsIssueAndCompute :
    let w := tA (.v 1) (.v 2) (.imm 0) (.v 4) 6 6 0 false 0 false 0 false
    let e := reads base (.atomAdd w) h7
    base.clear (.atomAdd w) h7 = true ∧ e.g.ctr .at < 63 ∧ e.g.acquiring e.pix = false ∧
    grainOn (base.touch (.atomAdd w)) e.g = false ∧ base.clear (.redAdd { w with c := .v 0 }) h7 = true ∧ base.clear (.cas w) h7 = true ∧
    failing (lanesOf e.act) (fun l => decide ((e.addr .gbl false w.a w.b l).1 % 4 ≠ 0)) = 0 ∧
    failing (lanesOf e.act) (fun l => decide ((e.addr .gbl false w.a (.imm 1) l).1 % 4 ≠ 0)) ≠ 0 := by decide

theorem test_witness_PrefetchProbeRequestAndPeerStore :
    let w := tA (.v 1) (.v 2) (.imm 0) (.v 0) 6 6 0 false 0 false 0 false
    let e := reads base (.peerst w) h7
    base.clear (.prf (tN (.v 0) (.v 2) (.imm 0))) h7 = true ∧ base.clear (.probe (tN (.p 1) (.v 2) (.imm 0))) h7 = true ∧
    base.clear (.pgreq (tN (.v 0) (.v 2) (.imm 0))) h7 = true ∧ base.clear (.peerst w) h7 = true ∧ e.g.ctr .sp < 63 ∧
    failing (lanesOf e.act) (fun l => (e.scrAddr .cls (e.addr .cls false w.a w.b l).1 4).isNone) = 0 ∧
    base.reserved e.g.die = [] ∧ (base.dieOf 0).pgreqs = [] := by decide

theorem test_witness_ElementsReadAndLandAtTheirPlaces :
    let may := fun (s : State) (n : Need) =>
      match (s.grp 1).op 5, s.target (s.grp 1) .gbl 64 4 n with
      | some o, (s1, .ok (.at_ p attr)) =>
        (match findBy (fun (e : Elem) => e.lane == 0) o.todo with
         | some el => !(s.grp 1).blocked o el && el.nib.isNone && el.val2 == 0
         | none => false) && attrPbmt attr == 0 && attrKind attr != 2 && !s1.poisonedAt p 4 && !grainOn s1 (s1.grp 1)
      | _, _ => false
    may (flying paged .ld (.load .gbl (.v 1) 6 6 0 false none false)) needR = true ∧
    may (flying paged .st (.store .gbl 6 false false)) needW = true ∧
    may (flying paged .at (.atomic .add 6 (some (.v 1)))) needRW = true ∧
    may (flying paged .at (.cas 6 (.v 1))) needRW = true := by decide

theorem test_witness_ElementsReadAndLandAtTheirPlaces_scratchpad :
    let s := flying base .sp (.load .scr (.v 1) 6 6 0 false none false)
    let t := flying base .sp (.peer [(0, 0)])
    s.inFlight (s.grp 1) [] 64 4 = [] ∧
    (match s.alloc 0 1 0 0 with
     | some a => !poisoned a.poison 64 4
     | none => false) = true ∧
    (∀ o, (t.grp 1).op 5 = some o → o.todo.all (fun el => !(t.grp 1).blocked o el) = true) ∧ 0 ≤ (t.dieOf 0).clk := by decide

theorem test_witness_FencesCountersAndFills :
    let f := fun (o : BitVec 3) => Instr.fence (tA (.v 0) (.v 0) (.v 0) (.v 0) 0 0 0 false 6 false o false)
    let acc := fun (s : State) (i : Instr) => let e := reads s i h7; (e.g.before e.pix).filter (fun o => o.isAccess)
    let ld := flying base .ld (.load .gbl (.v 1) 6 6 0 false none false)
    let st := flying base .st (.store .gbl 6 false false)
    base.clear (f 4) h7 = true ∧ acc base (f 4) = [] ∧ (acc ld (f 1)).any (fun o => o.reads) = true ∧
    (acc st (f 4)).any (fun o => o.reads) = false ∧ acc st (f 4) ≠ [] ∧ ld.clear (f 1) h7 = true ∧
    (let w : XW := tW (.v 0) (.v 0) (.v 0) (.v 0) 0 1 0 false
     base.clear (.waitc w) h7 = true ∧ ¬w.n.toNat < (reads base (.waitc w) h7).g.ctr (ctrOf w.ctr) ∧
     w.n.toNat < (reads st (.waitc w) h7).g.ctr (ctrOf w.ctr)) ∧
    (let w := tA (.s 4) (.s 2) (.imm 0) (.v 0) 6 6 0 false 0 false 0 false
     base.clear (.fill w) h7 = true ∧ base.clear (.syncinit w) h7 = true ∧
     (reads base (.fill w) h7).g.acquiring 0 = false ∧
     ((reads base (.fill w) h7).addr .gbl false w.a w.b 0).1 % 4 = 0 ∧
     ((reads base (.fill w) h7).addr .gbl false w.a (.imm 2) 0).1 % 4 ≠ 0) := by decide

/-- `paged` with the word 7 at the place of virtual address 0, and T and the comparand in S4 and S6. -/
def worded (t c : Word) : State := withS { paged with mem := wrBytes paged.mem 65536 [7, 0, 0, 0] } [(4, c), (6, t)]

theorem test_witness_WordWaits :
    let w := tA (.s 8) (.s 2) (.s 4) (.s 6) 6 6 0 false 6 false 0 false
    let found := fun (s : State) =>
      match (s.touch (.waitw w)).target ((reads s (.waitw w) h7).g) .gbl 0 4 needR with
      | (s1, .ok (.at_ p attr)) =>
        attrPbmt attr == 0 && attrKind attr != 2 && !s1.poisonedAt p 4 && !grainOn s1 (s1.grp 1) && ofLe (s1.rdLoc p 4) == 7
      | _ => false
    let target := fun (s : State) =>
      match s.target (s.grp 1) .gbl 0 4 needR with
      | (s1, .ok (.at_ p attr)) => (tagTarget s1 (if attrSync attr then spGet none s1.tags p.line else none)).1
      | _ => 0
    let up := fun (s : State) => withL s (fun l => { l with cls := 2 })
    [worded 0 7, worded 5 7, worded 0 0, up (worded 0 7)].all (fun s => found s && s.clear (.waitw w) h7) = true ∧
    ((worded 0 7).launchOf 0 1).cls.toNat ≤ (target (worded 0 7)).toNat ∧
    (target (up (worded 0 7))).toNat < ((up (worded 0 7)).launchOf 0 1).cls.toNat := by decide

/-- A wait for the word at 0, with a deadline. -/
def aWait (k : WaitKind) (d : Option Nat) : Wait :=
  { kind := k, addr := 0, dst := .s 8, act := 1, scope := 6, deadline := d, timeout := 5, checked := false, hdr := h7, sk := false, spot := none, met := false }

theorem test_witness_WaitsEndWakeAndTimeOut :
    let x := aWait (.word true 7 false) (some 0)
    let s := withP (worded 0 7) (fun p => { p with stat := .parked, wait := some x })
    let r : RestEntry := { die := 0, who := { gid := 1, path := 0 }, key := .line 1024, woken := true, overflow := false }
    let t := { s with rest := [r] }
    s.has 1 = true ∧ ((s.grp 1).path 0).wait = some x ∧ (s.grp 1).place.isSome = true ∧
    (s.ctxOf (s.grp 1).pasid).on.contains (s.grp 1).die = true ∧ (s.grp 1).regions = [] ∧
    t.rest.any (fun e => e.who == { gid := 1, path := 0 } && e.woken) = true ∧ 0 ≤ (s.dieOf 0).clk ∧ reaches s 0 4 needR = true := by
  decide

theorem test_witness_WaitsEndWakeAndTimeOut_replay :
    let s := withP paged (fun p => { p with stat := .replayHold, wait := some (aWait (.op 5) none) })
    let t := withP paged (fun p => { p with holdSince := some 0 })
    ((s.grp 1).path 0).stat = .replayHold ∧ ((t.grp 1).path 0).holdSince = some 0 ∧ ((t.grp 1).path 0).stat = .run ∧
    ((t.grp 1).path 0).wait = none := by decide

theorem test_witness_BarriersAndSemaphores :
    let n0 := tW (.v 0) (.s 2) (.s 4) (.v 0) 0 0 6 false
    let s := withS base [(4, 1)]
    let e := reads s (.barinit n0) h7
    s.clear (.barinit n0) h7 = true ∧ (e.uni n0.b).toNat = 1 ∧ (e.scrAddr .scr 0 16).isSome = true ∧
    ((s.alloc 0 1 0 0).map (fun a => !poisoned a.poison 0 16 && decide (ofLe (rdBytes a.bytes 0 16) < 2 ^ 98))) = some true ∧
    ((reads base (.barinit n0) h7).uni n0.b).toNat = 0 ∧
    65535 < ((reads (withS base [(4, 65536)]) (.barinit n0) h7).uni n0.b).toNat := by decide

/-- `base` with a barrier object of one participant at the start of its scratchpad, and a token in S4. -/
def barred (token : Word) : State := withS (holding [(0, 1)]) [(4, token)]

theorem test_witness_BarriersAndSemaphores_barriers :
    let n0 := tW (.s 8) (.s 2) (.s 4) (.v 0) 0 0 6 false
    let n1 := { n0 with d := .v 0 }
    let n2 := { n1 with b := .v 0 }
    let ok := fun (s : State) (i : Instr) => s.clear i h7 && ((reads s i h7).barAddr n0).toOption == some 0 &&
      ((s.touch i).recordArrival { gid := 1, path := 0 } .scr 0).isSome
    ok (barred 0) (.barwt n1) = true ∧ ok (barred 0) (.bar n2) = true ∧ ok (barred 0) (.bararv n0) = true ∧
    (let d := fun (t : Word) => (BitVec.ofNat 32 (barPhase 1) - t).toNat
     ¬1 ≤ d 0 ∧ 1 ≤ d 0xFFFFFFFF ∧ d 0xFFFFFFFF ≤ 2 ^ 31 ∧ d 0x80000000 = 2 ^ 31 ∧ 2 ^ 31 < d 1) := by decide

theorem test_witness_BarriersAndSemaphores_arrival :
    let n0 := tW (.s 8) (.s 2) (.s 4) (.v 0) 0 0 6 false
    let a : BarArrival := { half := 0, sp := .scr, addr := 0, paths := [0] }
    let s := withG (barred 0) (fun g => { g with arrival := [a] })
    let other : BarArrival := { a with addr := 16 }
    let x := (s.alloc 0 1 0 0).map (fun al => ofLe (rdBytes al.bytes 0 16))
    (match (barred 0).alloc 0 1 0 0 with
     | some al => !poisoned al.poison 0 16 && !srValueBad n0.d (BitVec.ofNat 64 (barPhase (ofLe (rdBytes al.bytes 0 16))))
     | none => false) = true ∧
    x.map barArrived = some 0 ∧ x.map (s.barCount (s.grp 1)) = some 1 ∧ s.allArrived (s.grp 1) a = true ∧
    (s.grp 1).releasable a = true ∧
    ((withG (barred 0) (fun g => { g with arrival := [other] })).recordArrival { gid := 1, path := 0 } .scr 0).isNone = true := by
  decide

theorem test_witness_BarriersAndSemaphores_semaphores :
    let w := tW (.s 8) (.s 2) (.s 4) (.s 6) 0 0 6 false
    let own := fun (s : State) => withL s (fun l => { l with semBase := 0, semCnt := 4 })
    let s := own (withS base [(4, 1)])
    let e := reads s (.semwait w) h7
    s.clear (.semop { w with c := .v 0 }) h7 = true ∧ s.clear (.semwait w) h7 = true ∧ (e.uni w.a).toNat < e.launch.semBase + e.launch.semCnt ∧
    e.g.ctr .at < 63 ∧ grainOn (s.touch (.semop w)) e.g = false ∧ (s.sem 0).toInt < 1 ∧
    1 ≤ ({ s with sems := [(0, 1)] }.sem 0).toInt ∧
    1023 < ((reads (own (withS base [(2, 1024)])) (.semop w) h7).uni w.a).toNat ∧
    ((reads (own (withS base [(2, 4)])) (.semop w) h7).uni w.a).toNat = 4 := by decide


/-! ### Witnesses: matrix operations, copies and drains -/

/-- The state with a context image of 256 MiB from 0x200000, object 1 of the table at 0x100000. -/
def imaged (s : State) : State :=
  let entry : List Byte := [7, 0, 0, 0, 0, 0, 0, 0, 0, 0, 0, 0, 0, 0, 1, 0, 0, 0x10, 0, 0, 0, 0, 0x10, 0, 0, 2, 0x10]
  let extent : List Byte := [0, 0, 0, 0x10, 0, 0, 0, 0, 0, 0, 0x20]
  { s with
    mem := wrBytes (wrBytes (wrBytes s.mem 0x100020 entry) 0x100200 extent) 0x200020 [16],
    module := { s.module with otbase := 0x100000, otlen := 16 }, ctxs := s.ctxs.map (fun c => { c with image := 1 }) }

/-- A path held in replay for a record that is still to come, with HOLDLIM 1. -/
theorem test_witness_WaitsEndWakeAndTimeOut_held :
    let s0 := imaged (withP base (fun p => { p with holdSince := some 0 }))
    let s : State := { s0 with
      mem := wrBytes s0.mem 0x200004 [1]
      ctxs := s0.ctxs.map (fun c => { c with grain := 1, mode := 2, runClk := [(0, 1024)] }) }
    ((s.grp 1).path 0).holdSince = some 0 ∧ s.heldRecord (s.grp 1) 0 = some none ∧ ((s.grp 1).path 0).mayHold = true ∧
    (s.grp 1).place.isSome = true ∧ grainHoldLim s (s.ctxOf 0) = 1 ∧ 0 + 1 * 1024 ≤ spGet 0 (s.ctxOf 0).runClk 0 := by decide

/-- Waits on a page of PBMT 1, on a poisoned line, and on a tagged line whose launch is of a lower class. -/
theorem test_witness_WordWaits_pages :
    let i := Instr.waitw (tA (.s 8) (.s 2) (.s 4) (.s 6) 6 6 0 false 6 false 0 false)
    let at_ := fun (s : State) => match (s.touch i).target (reads s i h7).g .gbl 0 4 needR with
      | (s1, .ok (.at_ p attr)) => some (attrPbmt attr, s1.poisonedAt p 4, attrSync attr, (spGet none s1.tags p.line).isSome, p.line)
      | _ => none
    let w := withL (worded 7 0) (fun l => { l with cls := 2 })
    let low : Launch := { placedLaunch with lchid := 2 }
    let tag : Tag := { ctx := 0, die := 0, cls := 0, lch := 2 }
    (at_ { w with tlb := w.tlb.map (fun e => { e with attr := 0x88 }) } == some (1, false, true, false, 1024) &&
     at_ { w with poison := [(1024, 1)] } == some (0, true, true, false, 1024) &&
     at_ { w with tags := [(1024, some tag)] } == some (0, false, true, true, 1024) &&
     (tagTarget { w with launches := low :: w.launches } (some tag)).2.any (fun l => l.lchid == 2 && l.pasid == 0 && l.cls == 0)) =
      true := by decide

theorem test_witness_MatrixInstructionsIssue :
    let w := tT (.v 0) (.v 0) (.v 16) (.v 0) 11 11 2 0 0
    let k := tT (.v 32) (.v 32) (.s 8) (.v 0) 0 0 1 0 0
    let put := { k with d := .v 0, b := .v 0, sub := 1 }
    let dr := { k with d := .v 0, a := .imm 3, sub := 2 }
    let few := fun (s : State) => withL s (fun l => { l with hdr := { l.hdr with tiles := 1, drains := 1 } })
    base.clear (.mma w) h7 = true ∧ mmaShape w.af w.bf w.spr = some (32, 64, 64, 0) ∧ mmaShape 11 12 0 = none ∧
    (1024 : Nat) < 1016 + 16 ∧ ¬(1024 : Nat) < 1008 + 16 ∧ w.td.toNat < (reads base (.mma w) h7).launch.hdr.tiles ∧
    ¬w.td.toNat < (reads (few base) (.mma w) h7).launch.hdr.tiles ∧ (few base).clear (.mma w) h7 = true ∧
    (reads base (.mma w) h7).g.ctr .mx < 63 ∧ base.clear (.tmovPut put) h7 = true ∧
    base.clear (.tmovGet { k with a := .v 0, b := .v 0 }) h7 = true ∧ base.clear (.tmovDrain dr) h7 = true ∧
    ((reads base (.tmovDrain dr) h7).uni dr.a).toNat < (reads base (.tmovDrain dr) h7).launch.hdr.drains ∧
    (reads (few base) (.tmovDrain dr) h7).launch.hdr.drains ≤ ((reads (few base) (.tmovDrain dr) h7).uni dr.a).toNat ∧
    base.clear (.rstlbl (tK (.v 0) (.v 0) (.v 0) (-24))) h7 = true ∧
    (reads base (.rstlbl (tK (.v 0) (.v 0) (.v 0) (-24))) h7).launch.hdr.recomputable = false ∧
    base.clear (.drainld (tK (.v 0) (.s 2) (.v 0) 144)) h7 = true := by decide

theorem test_witness_MatrixOperationsPerform :
    let may := fun (m : MatOp) =>
      let s := flying base .mx (.matrix m)
      let g := s.grp 1
      match s.nextMatrix g with
      | some (o, m') => m' == m && !o.deps.any g.pending
      | none => false
    ([.tzero 7, .put 0 1 (List.replicate 4 1), .tsacc 0 7 [1] [1], .mma 0 1 (.regs []) (.regs []) [] 11 11 false true 0 0,
      .get 1 992 1 [], .cbld 3 (.regs [5])] : List MatOp).all may = true ∧ base.has 1 = true ∧
    (base.grp 1).poisonTiles = [] ∧ mmaShape 11 11 0 = some (32, 64, 64, 0) := by decide

theorem test_witness_MatrixOperationsPerform_sums :
    let one := FNum.fin false 1 0 false
    one.isNan = false ∧ (FNum.nan true).isNan = true ∧ FNum.inf true ∈ [one, .inf true] ∧
    FNum.inf false ∉ [one, .inf true] := by decide

/-- A copy of one element of FP32 from global memory to global memory, and its mode. -/
def aCopy (mode : Nat) : CopyReq :=
  { src := { tensorRecord with clip := 0 }, dst := { tensorRecord with base := 64, clip := 0 }, ndim := 1, mode := mode, scope := 6, sk := false, barobj := 0,
    sigaddr := 128, sigval := 9, box := [4], sorg := [1], dorg := [2] }

theorem test_witness_CopiesRunElementByElement :
    let x := tN (.v 0) (.s 1) (.v 0)
    base.clear (.xkick x) h7 = true ∧ (reads base (.xkick x) h7).g.ctr .cp < 63 ∧
    (let s := flying paged .cp (.copy (aCopy 2) [])
     ((s.grp 1).op 5).map (fun o => o.kind) = some (.copy (aCopy 2) []) ∧ boxSize (aCopy 2).box = 4 ∧
     (tsrElem (aCopy 2).src true (shifted (boxCoords [4] 0) (aCopy 2).sorg)).isSome = true ∧
     (tsrElem (aCopy 2).dst false (shifted (boxCoords [4] 0) (aCopy 2).dorg)).isSome = true ∧
     tsrElem (aCopy 2).src true (shifted (boxCoords [4] 3) (aCopy 2).sorg) = none ∧
     tsrElem (aCopy 2).dst false (shifted (boxCoords [4] 3) (aCopy 2).dorg) = none ∧
     reaches s 4 4 needR = true ∧ reaches s 72 4 needW = true ∧ reaches s 128 8 needW = true) := by decide

/-- `base` with a request of mode 0 at 0 and its two records at 128 and 192 of its scratchpad. -/
def requested : State :=
  holding [(0, 128), (4, 192), (8, 1), (10, 6), (32, 1), (136, 9), (137, 1), (140, 4), (200, 9), (201, 1), (204, 4)]

theorem test_witness_CopiesRunElementByElement_request :
    let i := Instr.xkick (tN (.v 0) (.s 1) (.v 0))
    let e := reads requested i h7
    let s1 := requested.touch i
    let at_ := fun (o n : Nat) => s1.issueBytes e.g (e.g.role * 2 ^ 20 + o) n
    e.ready s1 0 128 = .go ∧ nbits (at_ 0 128) 31 0 = 128 ∧ nbits (at_ 0 128) 63 32 = 192 ∧
    requestIllegal (at_ 0 128) (some (at_ 128 64)) (some (at_ 192 64)) = false ∧
    requestMisaligned 0 (at_ 0 128) (some (at_ 128 64)) (some (at_ 192 64)) = none ∧
    requestOutside e (at_ 0 128) (some (at_ 128 64)) (some (at_ 192 64)) = none := by decide

/-- `paged` with a drain's row run by the engine of partition 0. -/
def draining (f : Engine → Engine) : State :=
  let e : EngRef := { die := 0, core := 0, part := 0 }
  let en : Engine :=
    { gid := 1, op := 5, t := 0, p := 0, row := 31, dpc := 0, active := true, d := [], args := [0, 0], rm := 0, tile := [],
      acc := [], flags := 0, ni := false, finished := false }
  { flying paged .mx (.matrix (.drain 0 0 [] 0 0)) with eng := e, engines := [(e, f en)] }

theorem test_witness_DrainWordsComputeAndDrainsRun :
    let s := draining (fun en => en)
    (s.engine s.eng).map (fun en => (en.active, en.row)) = some (true, 31) ∧
    ((draining (fun en => { en with active := false })).engine s.eng).map (fun en => (en.active, en.finished)) =
      some (false, false) ∧
    ((draining (fun en => { en with finished := true })).engine s.eng).map (fun en => en.acc.isEmpty) = some true ∧
    ((s.grp 1).op 5).map (fun o => o.kind) = some (.matrix (.drain 0 0 [] 0 0)) ∧
    reaches s 0 4 needR = true ∧ reaches s 0 4 needW = true ∧
    (let t := flying paged .mx (.matrix (.drain 0 0 [] 0 0))
     t.engine s.eng = none ∧ (t.nextDrain s.eng).isSome = true ∧ (t.grp 1).matrixOps.head?.isSome = true) := by decide

theorem test_witness_DrainWordsComputeAndDrainsRun_start :
    let t := imaged (flying paged .mx (.matrix (.drain 0 0 [] 0 0)))
    let s : State := { t with ctxs := t.ctxs.map (fun c => { c with drainmem := 1 }) }
    let bad : Group := { s.grp 1 with drains := [(0, 0xF0000000)] }
    s.drainMemory (s.grp 1) true false = none ∧ (s.grp 1).stopped = none ∧ (s.grp 1).poisonTiles = [] ∧
    (s.grp 1).programOk 0 = true ∧ bad.programOk 0 = false ∧ (s.grp 1).programCommits 0 = false ∧
    (s.grp 1).matrixOps.head?.isSome = true ∧ base.nextDrain base.eng = none := by decide

theorem test_witness_DrainWordsComputeAndDrainsRun_columns :
    let w : DM := { d := 3, v := 3, o := 8, f := 9, r := 0, s := false, p := 0, x := false, g := false }
    let s : State := { draining (fun en => en) with tlb := paged.tlb.map (fun e => { e with attr := 0x88 }) }
    (match s.engine s.eng with
     | some en =>
       (let r := runCols (dldCol (s.grp 1) w) lanes s en; r.2.2 == ([], false)) &&
       (let r := runCols (dstCol false (s.grp 1) w) lanes s en; r.2.2 == ([], false)) &&
       (let r := runCols (dldCol (s.grp 1) { w with o := 9 }) lanes s { en with args := [1, 0] }; !r.2.2.1.isEmpty && !r.2.2.2)
     | none => false) = true := by decide

/-! ### Witnesses: launches, tasks and promotion -/

theorem test_witness_SpawningCreatesAChild :
    let w := tK (.v 0) (.imm 1) (.s 16) 320
    let up := withL (withS base [(16, 2), (17, 1), (18, 1)]) (fun l => { l with cls := 2 })
    up.clear (.spawn w) h7 = true ∧ (reads up (.spawn w) h7).act ≠ 0 ∧
    ((reads up (.spawn w) h7).uni w.a).toNat ≤ (reads up (.spawn w) h7).launch.cls.toNat ∧
    ((reads up (.spawn w) h7).path.pc + w.k.signExtend 57).toNat % 64 = 0 ∧ (reads up (.spawn w) h7).g.rdS 19 = 0 ∧
    grainOn (up.touch (.spawn w)) (reads up (.spawn w) h7).g = false ∧
    ¬((reads base (.spawn w) h7).uni w.a).toNat ≤ (reads base (.spawn w) h7).launch.cls.toNat ∧
    (let x := { w with a := .sr 9 }
     base.clear (.spawnx x) h7 = true ∧ ((reads up (.spawnx x) h7).g.rdS 16).toNat % 4 = 2 ∧
     ((reads base (.spawnx x) h7).g.rdS 16).toNat % 4 = 0) ∧
    up.clear (.spawn { w with k := 312 }) h7 = true ∧ (312 : Nat) % 64 ≠ 0 := by decide

/-- `base` with its group, launch and block as given. -/
def withGroups (s : State) (gs : List Group) (ls : List Launch) (bs : List Block) : State :=
  { s with groups := gs, launches := ls, blocks := bs }

/-- A launch with blocks left to start. -/
def waitingLaunch : Launch :=
  { placedLaunch with
    n := 2, total := 2, next := 0, grid := (2, 1, 1), args := [1, 2, 3, 4, 5, 6, 7, 8],
    hdr := { placedLaunch.hdr with scratch := 0, vregs := 16, tiles := 0, groups := 1, roles := 1 } }

theorem test_witness_LaunchesRunTheirBlocks :
    let s := imaged (withGroups base [] [waitingLaunch] [])
    waitingLaunch.args.length = 8 ∧ s.dispatching 0 0 = true ∧ replaying s waitingLaunch = false ∧ s.promoting 0 = false ∧
    s.due waitingLaunch = true ∧ waitingLaunch.unchecked = false ∧ waitingLaunch.count = none ∧
    (State.dispatchAll 0 1 1 [{ die := 0, core := 0, part := 0, slot := 0 }] s).isSome = true := by decide

/-- `base` in which every virtual address is its physical address, with bytes in memory. -/
def mapped (s : State) (bs : Sparse Byte) : State :=
  { s with
    place := [(0, 1), (1, 1)],
    mem := wrBytes bs 4096 [0xDF, 0, 0, 0, 0, 0, 0x40, 0], ctxs := s.ctxs.map (fun c => { c with root := 1 }) }

/-- The bytes of a header at 64 that passes its checks. -/
def aHeader : Sparse Byte :=
  [(64, 0x48), (65, 0x4B), (66, 0x4D), (67, 0x53), (68, 2), (71, 0x21), (82, 1), (84, 1), (88, 8)]

theorem test_witness_LaunchesRunTheirBlocks_child :
    let l := { waitingLaunch with unchecked := true, hdrAddr := 64 }
    let s := mapped (withGroups base [] [l] []) aHeader
    (match headRead s 0 0 64 64 with
     | (s1, .ok bs) => headerCheck (ofLe bs) 64 == none && gridCheck (headerOf (ofLe bs)) 2 1 1 == none &&
         drainCheck (headerOf (ofLe bs)) (s1.ctxOf 0).draint == none
     | _ => false) = true ∧
    headerCheck 0 64 ≠ none := by decide

theorem test_witness_LaunchesRunTheirBlocks_count :
    let l := { waitingLaunch with count := some (64, 4), total := 0, n := 1 }
    let s := mapped (withGroups base [] [l] []) [(64, 3)]
    l.unchecked = false ∧ s.dispatching 0 0 = true ∧ s.due l = true ∧
    (match headRead s 0 0 64 4 with
     | (_, .ok bs) => ofLe bs == 3
     | _ => false) = true ∧ gridCheck { l.hdr with cls := l.cls } 3 1 1 = none := by decide

theorem test_witness_LaunchesRunTheirBlocks_freed :
    let s := withG base (fun g => { g with ended := true })
    (findBy (fun (g : Group) => g.gid == 1) s.groups).map (fun g => (g.ended, g.ops.isEmpty, g.faults.isEmpty)) =
      some (true, true, true) := by decide

/-- A ready task without ranges. -/
def aTask : Task :=
  { id := 1, slot := 0, entry := 0, args := [1, 2, 3, 4, 5, 6, 7, 8], rd := List.replicate 4 { base := 0, len := 0 },
    wr := List.replicate 2 { base := 0, len := 0 }, rdLoc := List.replicate 4 .home, wrLoc := List.replicate 2 .home,
    hold := [], holdHome := [], taken := false, recorded := true, view := [] }

/-- A pool with one task ready. -/
def aPool : Pool :=
  { pasid := 0, addr := 256, die := some 0, tbase := 512, tcount := 4, rbase := 8192, rgran := 2, nextid := 1, done := 0,
    closed := 0, rhead := 0, rtail := 0, tasks := [aTask], versions := [], waiters := [], seen := [] }

theorem test_witness_TaskInstructions :
    let n := tN (.v 0) (.s 42) (.imm 0)
    let s := mapped (withS base [(42, 256)]) [(256 + 24, 4)]
    let worker := withL s (fun l => { l with hdr := { l.hdr with taskworker := true, staged := true } })
    s.clear (.tasknew n) h7 = true ∧ (reads s (.tasknew n) h7).g.ctr .st < 63 ∧
    (reads s (.tasknew n) h7).ready (s.touch (.tasknew n)) 0 128 = .go ∧
    (let e := reads s (.tasknew n) h7
     let p := poolRead (s.touch (.tasknew n)) e.g 256
     taskTrap p.1 e.g e.act 256 0 p.2 (e.scrRead (s.touch (.tasknew n)) 0 128) = none) ∧
    worker.clear (.taskget (tN (.v 0) (.s 42) (.v 0))) h7 = true ∧
    (let e := reads worker (.taskget (tN (.v 0) (.s 42) (.v 0))) h7
     e.launch.hdr.taskworker = true ∧ e.g.task = none ∧ e.g.live.length = 1 ∧ (e.uni64 (.s 42)).toNat % 256 = 0) ∧
    s.clear (.tasksync (tN (.v 0) (.s 42) (.imm 1))) h7 = true ∧
    (match (poolRead s (s.grp 1) 256).2 with
     | .ok _ => true
     | .error _ => false) = true ∧
    (reads s (.taskget (tN (.v 0) (.s 42) (.v 0))) h7).launch.hdr.taskworker = false := by decide

theorem test_witness_TaskInstructions_held :
    let held := withG (withL base (fun l => { l with hdr := { l.hdr with taskworker := true, staged := true } }))
      (fun g => { g with task := some (256, 1), regs := { g.regs with pendStage := some 3 } })
    let s := { held with pools := [aPool] }
    let e := reads s (.taskdone (tN (.v 0) (.v 0) (.v 0))) h7
    s.clear (.taskdone (tN (.v 0) (.v 0) (.v 0))) h7 = true ∧ e.g.task = some (256, 1) ∧ e.launch.hdr.taskworker = true ∧
    (e.g.before e.pix).any (fun o => o.isAccess) = false ∧
    ((s.touch (.taskdone (tN (.v 0) (.v 0) (.v 0)))).poolOf 0 256) = some aPool ∧
    (aPool.addrs aTask).length = 6 ∧ aTask.args.length = 8 ∧
    s.clear (.stage (tN (.s 9) (.v 0) (.v 0))) h7 = true ∧ (reads s (.stage (tN (.s 9) (.v 0) (.v 0))) h7).g.regs.pendStage = some 3 ∧
    stageFused (reads s (.stage (tN (.s 9) (.v 0) (.v 0))) h7) = true ∧ srValueBad (.s 9) 3 = false := by decide

theorem test_witness_TaskInstructions_accept :
    let x := aWait (.accept 0 0) none
    let s := mapped (withP base (fun p => { p with stat := .accepting, wait := some { x with addr := 256 } })) [(256 + 24, 4)]
    (match poolRead s (s.grp 1) 256 with
     | (s1, .ok d) => taskTrap s1 (s.grp 1) 1 256 0 (.ok d) (some 0) == none && decide (s1.inFlightTasks 0 < Config.tasksInFlight) &&
         !s1.postedBefore 0 0 && decide ((s.grp 1).ctr .st < 63) &&
         (({ s1.poolNow 0 256 d with die := some 0 } : Pool).accept 0).isSome
     | _ => false) = true := by decide

theorem test_witness_TaskInstructions_get :
    let worker := withL (withS base [(42, 256)]) (fun l => { l with hdr := { l.hdr with taskworker := true } })
    let s : State := { mapped worker [(256 + 4, 1), (256 + 24, 4)] with pools := [aPool] }
    let i := Instr.taskget (tN (.v 0) (.s 42) (.v 0))
    let e := reads s i h7
    let found := fun (pools : List Pool) (f : State → Pool → Bool) =>
      match ({ s.touch i with pools := pools } : State).target e.g .gbl 256 4 needR with
      | (s2, .ok (.at_ q attr)) =>
        attrPbmt attr == 0 && attrKind attr != 2 && !s2.poisonedAt q 64 && !grainOn s2 e.g &&
        f s2 (s2.poolNow 0 256 (ofLe (s2.rdLoc q 64)))
      | _ => false
    s.clear i h7 = true ∧ e.act ≠ 0 ∧
    found [aPool] (fun s2 p => p.nextTask == some aTask && (s2.ahead p { gid := 1, path := 0 }).isEmpty) = true ∧
    found [] (fun _ p => p.nextTask.isNone && p.closed != 0 && p.tasks.isEmpty) = true := by
  decide

theorem test_witness_TaskInstructions_record :
    let s : State := { flying (mapped base []) .st (.taskrec 256 1) with pools := [aPool] }
    (s.poolOf 0 256).isSome = true ∧ ((s.grp 1).op 5).map (fun o => (o.done, o.deps)) = some (false, []) ∧
    (headWriteAt s 0 0 512 aTask.record).2 = none := by decide

theorem test_witness_TaskInstructions_copies :
    let s := flying paged .cp (.tasksync 256 0)
    let free : Pool := { aPool with tasks := [], versions := [] }
    let kept : Pool := { free with versions := [{ writer := 1, range := { base := 0, len := 1 }, start := 0, freed := false }], rhead := 1 }
    ((s.grp 1).op 5).map (fun o => (o.done, o.deps.any (s.grp 1).pending)) = some (false, false) ∧
    free.toHome = [] ∧ kept.toHome.length = 1 ∧ free.tasks.any (fun t => decide (t.id ≤ 0)) = false ∧
    aPool.tasks.any (fun t => decide (t.id ≤ 0)) = false := by decide

theorem test_witness_PromotionOfTargets :
    let up := withL paged (fun l => { l with cls := 2 })
    let i := Instr.promote (tN (.v 0) (.s 4) (.imm 64))
    let found := fun (s : State) =>
      match (s.touch i).target (reads s i h7).g .gbl 64 1 needR with
      | (s1, .ok (.at_ p _)) => !s1.poisonedAt p 1
      | _ => false
    up.clear i h7 = true ∧ (reads up i h7).act ≠ 0 ∧ (reads up i h7).launch.cls ≠ 0 ∧ found up = true := by decide

/-- Two launches: that of the group, which waits for a promotion, and one of a lower class. -/
def asking (cls : BitVec 2) (r : Nat) : State :=
  let low := { waitingLaunch with lchid := 2, cls := BitVec.ofNat 2 r }
  let s := withL (withP base (fun p => { p with stat := .promoting })) (fun l => { l with cls := cls })
  let q : PromoReq := { who := { gid := 1, path := 0 }, target := 2, tdie := 0, cls := cls, clk := 0, plan := none, evs := [] }
  { s with launches := low :: s.launches }.updDie 0 (fun d => { d with promo := [q] })

theorem test_witness_PromotionOfTargets_requests :
    let may := fun (s : State) =>
      match s.nextRequest 0 with
      | some r => r.plan.isNone && s.stillAsks r && !replaying s (s.launchOf 0 1) &&
          (findBy (fun (l : Launch) => l.die == r.tdie && l.lchid == r.target) s.launches).isSome
      | none => false
    may (asking 1 1) = true ∧ may (asking 2 1) = true ∧
    ((asking 1 0).dies.any (fun d => d.promo.any (fun x => x.plan.isSome))) = false ∧
    (match (asking 1 0).nextRequest 0 with
     | some r =>
       let s := { asking 1 0 with blocks := [{ placedBlock with lchid := 2 }] }
       let l := s.launchOf 0 2
       let ch := chainOf s r l
       !(ch.links.any (fun k => k.l.unchecked || k.l.count.isSome || !s.dispatching k.l.die k.l.pasid)) && ch.deep.isNone &&
       (match planChain s ch r.cls l.pasid with
        | some p => (commitPlan (planShort s ch r l.pasid (some p)) 0 r ch p).isSome
        | none => false)
     | none => false) = true := by decide

/-- A chain of waits: the path of launch k waits for semaphore k, which launch k + 1 signalled last. -/
def chained : State :=
  let wait := fun (k : Nat) => ({ aWait (.sem k 1) none with checked := true } : Wait)
  let p := fun (k : Nat) => ({ (base.grp 1).path 0 with stat := .parked, wait := some (wait k) } : Path)
  let g := fun (k : Nat) => ({ base.grp 1 with gid := k, lchid := k, paths := [p k] } : Group)
  { asking 2 1 with
    launches := (upFrom 1 11).map (fun k => { placedLaunch with lchid := k }), groups := (upFrom 1 11).map g,
    semTags := (upFrom 1 11).map (fun k => (k, some { ctx := 0, die := 0, cls := 0, lch := k + 1 })) }

theorem test_witness_PromotionOfTargets_deep :
    (match (asking 2 1).nextRequest 0 with
     | some r => (chainOf chained r (chained.launchOf 0 2)).deep.isSome
     | none => false) = true := by decide


/-! ### Witnesses: translation, queues and registers -/

/-- A page of PLACE 01 that every access may use, at every virtual address. -/
def aLeaf : List Byte := [0xDF, 0, 0, 0, 0, 0, 0x40, 0]

theorem test_witness_WalksFollowTheTables :
    let s := mapped base []
    (match walkFrom s.mem 0 5 1 with
     | .ok l => l.pte.testBit 1 && l.pte.testBit 2 && l.pte.testBit 3 && l.pte.testBit 4 && !l.pte.testBit 63 &&
         nbits l.pte 62 61 == 0 && nbits l.pte 60 58 == 0
     | .error _ => false) = true ∧
    (match walkFrom [] 0 5 1 with
     | .ok _ => false
     | .error c => c == .memNotPresent) = true ∧
    (match walkFrom (wrBytes [] 4096 [0x11, 0, 0, 0, 0, 0, 0, 0]) 0 5 1 with
     | .ok _ => false
     | .error _ => true) = true ∧
    (match walkFrom (wrBytes [] 4096 [0x13, 0, 0, 0, 0, 0, 0, 0]) 0 5 1 with
     | .ok l => !l.pte.testBit 2
     | .error _ => false) = true ∧
    (∃ c ∈ s.ctxs, c.pasid = 0 ∧ c.ext = false) := by decide

theorem test_witness_WalksFollowTheTables_events :
    let ext := { base with ctxs := [{ placedCtx with ext := true }] }
    let e : TlbEntry := { die := 0, core := 0, tlb := 1, pasid := 0, gen := 0, vpn := 0, pages := 1, ppn := 5, attr := 1,
                          r := true, w := true, x := true, dirty := true, since := 0 }
    let moved := { base with tlb := [e], place := [(5, 1)], module := { base.module with ready := 0xFFF } }
    let pg : AtsPage := { die := 0, core := 0, tlb := 1, vpn := 3 }
    let asked := { ext with ctxs := [{ placedCtx with ext := true, atsAsk := [pg] }] }
    (asked.ctxOf 0).atsAsk = [pg] ∧ base.mapRanges = [] ∧ base.entriesIn 64 8 = [] ∧
    (let s := flying base .ld (.load .gbl (.v 1) 6 6 0 false none false)
     (s.grp 1).misses 1 0 false = true ∧ (s.grp 1).misses 1 0 true = false ∧ (base.grp 1).misses 1 0 false = false) ∧
    (∃ c ∈ ext.ctxs, c.pasid = 0 ∧ c.ext = true) ∧
    (∃ x ∈ moved.tlb, x.coversPhys 5 = true ∧ nbits x.attr.toNat 1 0 = 1) ∧ spGet 0 moved.place 5 ≠ 0 ∧ moved.memReady 1 = true := by
  decide

theorem test_witness_WalksFollowTheTables_fetch :
    let s := mapped base []
    let pl : Place := { die := 0, core := 0, part := 0, slot := 0 }
    (s.grp 1).place = some pl ∧ s.mayIssue { gid := 1, path := 0 } = true ∧
    (match s.fetched (s.grp 1) pl 0 with
     | .error n => n == 0
     | .ok _ => false) = true ∧
    (match s.translate 0 0 0 0 0 needX with
     | (s1, .ok x) =>
       (match s1.routed (s.grp 1) 0 x with
        | (s2, .ok (.at_ (.mem a) _)) => !s2.poisonedAt (.mem (a / 16 * 16)) 16
        | _ => false)
     | _ => false) = true ∧
    (match base.translate 0 0 0 0 0 needX with
     | (_, .fault _) => true
     | _ => false) = true := by decide

/-- A queue of die 0 with a command at its front. -/
def queued (s : State) (waiting : List Instr) (started : List PendCmd) : State :=
  let q : Queue := { ref := { pasid := 0, q := 0 }, die := 0, waiting := waiting, bad := none, started := started, view := [] }
  { s with queues := [q] }

/-- A command of a word. -/
def wordCmd (b : Bool) (n : Nat) : WordCmd :=
  { barrier := b, addr := 64, value := 7, count := BitVec.ofNat _ n, scope := 6, width := 0, test := 0 }

theorem test_witness_QueuesRunTheirCommands :
    let r : QRef := { pasid := 0, q := 0 }
    let on := fun (s : State) => s.updDie 0 (fun d => { d with gating := .running })
    let s := on (mapped { base with module := { base.module with ready := 0xFFF } } [(64, 7)])
    let pend := fun (i : Instr) => ({ ix := 0, cmd := i, lchid := 0, moved := [] } : PendCmd)
    [(Instr.queueNop r true, true), (.signal r (wordCmd true 0), true), (.timestamp r (wordCmd false 0), true),
      (.waitword r (wordCmd false 0), false), (.copy r (wordCmd true 8), true)].all
      (fun (x : Instr × Bool) => ((queued s [x.1] []).startable r x.1 x.2).isSome) = true ∧
    (match headWrite s 0 0 64 [1, 0, 0, 0], headRead s 0 0 64 4 with
     | (_, none), (_, .ok bs) => ofLe bs == 7
     | _, _ => false) = true ∧
    ((queued s [] [pend (.waitword r (wordCmd false 0))]).queueOf r).isSome = true ∧
    s.serves 0 = true ∧ (s.apertureOf 0 3).testBit 31 = false ∧
    ((s.updDie 0 (fun d => { d with apertures := [(3, 0x80000000)] })).apertureOf 0 3).testBit 31 = true ∧
    (withGroups s [] [] []).idle 0 = true ∧ (s.updDie 0 (fun d => { d with pendBuf := [3] })).serves 0 = true := by decide

theorem test_witness_QueuesRunTheirCommands_launch :
    let r : QRef := { pasid := 0, q := 0 }
    let c : LaunchCmd := { barrier := false, x := 2, y := 1, z := 1, header := 64, stages := 0, args := [1, 2, 3, 4, 5, 6, 7, 8] }
    let s := (mapped { base with module := { base.module with ready := 0xFFF } } aHeader).updDie 0 (fun d => { d with gating := .running })
    ((queued s [.launch r c] []).startable r (.launch r c) false).isSome = true ∧
    (match headRead (queued s [.launch r c] []) 0 0 64 64 with
     | (s1, .ok bs) => headerCheck (ofLe bs) 64 == none && gridCheck (headerOf (ofLe bs)) 2 1 1 == none &&
         decide ((headerOf (ofLe bs)).draintime ≤ s1.draintNow 0) && !(headerOf (ofLe bs)).staged &&
         (headerOf (ofLe bs)).lattab == Config.latencyTable
     | _ => false) = true := by decide

theorem test_witness_QueuesRunTheirCommands_copy :
    let r : QRef := { pasid := 0, q := 0 }
    let c := wordCmd false 1
    let p : PendCmd := { ix := 0, cmd := .copy r c, lchid := 0, moved := [] }
    (match (queued (mapped base []) [] [p]).queueOf r with
     | some q => q.copyCmd == some (p, c) && q.started.length == 1
     | none => false) = true := by decide

theorem test_witness_ShootdownsTeardownAndRegisters :
    let down := base.updDie 0 (fun d => { d with sdctl := 1, tdctl := 1 })
    (base.dieOf 0).sdctl.getLsbD 0 = false ∧ (1 : BitVec 64) &&& 0x00000F00000000FC = 0 ∧
    (1 : BitVec 64) &&& 0x00000FFFFFFFFFFC = 0 ∧ (down.dieOf 0).sdctl.getLsbD 0 = true ∧ down.drained 0 = true ∧
    (base.dieOf 0).tdctl.getLsbD 0 = false ∧ (down.dieOf 0).tdctl.getLsbD 0 = true ∧ down.quiet 0 = true ∧
    down.dies.length = 4 ∧
    ({ base with ctxs := [{ placedCtx with grain := 2 }] }.ctxOf 0).grain ≠ 0 := by decide

/-! ### Witnesses: debugging, slices, boot, errors and samples -/

/-- A context image that holds a debug request of an operation and a level for the group of `base`. -/
def requesting (s : State) (op level path : Byte) : State :=
  let s1 := imaged s
  { s1 with mem := wrBytes s1.mem 0x200080 [1, 0, 0, 0, op, level, 0, path, 1, 0, 0, 0] }

/-- The request that `requesting` holds. -/
def aRequest (level : BitVec 8) (path : Nat) : DebugReq :=
  { seq := 1, level := level, die := 0, path := path, lchid := 1, block := 0, grpid := 0, deliver := false, pasid := 0 }

theorem test_witness_DebugRequestsAreServed :
    [(Instr.dreqHalt (aRequest 0 0), (1, 0, 0)), (.dreqResume (aRequest 0 0), (2, 0, 0)), (.dreqStep (aRequest 0 0), (3, 0, 0)),
      (.dreqFlush (aRequest 1 0), (4, 1, 0)), (.dreqExit (aRequest 0 0), (5, 0, 0)), (.dreqForce (aRequest 0 0), (6, 0, 0)),
      (.dreqSwitch (aRequest 4 0), (7, 4, 0)), (.dreqHalt (aRequest 0 5), (1, 0, 5))].all
      (fun (x : Instr × Byte × Byte × Byte) => match x.1 with
        | .dreqHalt r | .dreqResume r | .dreqStep r | .dreqFlush r | .dreqExit r | .dreqForce r | .dreqSwitch r =>
          (requesting base x.2.1 x.2.2.1 x.2.2.2).asks r x.1
        | _ => false) = true ∧
    (requesting base 1 0 0).debugTarget (aRequest 0 0) = true ∧ (requesting base 1 0 5).debugTarget (aRequest 0 5) = false ∧
    (requesting base 7 4 0).debugTarget (aRequest 4 0) = true := by decide

theorem test_witness_DebugRequestsAreServed_paths :
    let parked := withP base (fun p => { p with stat := .parked, wait := some (aWait (.sem 0 1) none) })
    (base.grp 1).path 0 = { (base.grp 1).path 0 with live := true } ∧ ((base.grp 1).path 0).stopped = false ∧
    base.resident (base.grp 1) = true ∧ ((base.grp 1).path 0).stat = .run ∧
    ((parked.grp 1).path 0).stat = .parked ∧ ((parked.grp 1).path 0).frame.inH = false ∧ (parked.grp 1).regions = [] ∧
    0 < (parked.grp 1).paths.length := by decide

/-- `base` with a second context that has work on the die, and a slice for its own. -/
def sliced : State :=
  let own := { placedCtx with slice := 10, sliceLen := [(0, 10)], runClk := [(0, 10)] }
  { base with
    ctxs := [own, { Ctx.blank with pasid := 1 }],
    launches := { placedLaunch with pasid := 1, lchid := 2 } :: base.launches }

theorem test_witness_SlicesSwitchesAndResumption :
    let c := sliced.ctxOf 0
    c.on.contains 0 = true ∧ c.stopping.contains 0 = false ∧ spGet 0 c.deferred 0 = 0 ∧ c.slice ≠ 0 ∧
    spGet 0 c.sliceLen 0 - c.draint ≤ c.sliceClk 0 ∧ sliced.otherReady 0 0 = true ∧ sliced.hasPend 0 0 = false ∧
    (let s := withG { base with blocks := [{ placedBlock with allocs := [] }] } (fun g => { g with stopReq := true })
     (s.grp 1).place.isSome = true ∧ s.mustFinish (s.grp 1) = false ∧ s.mayBegin (s.grp 1) = true) := by decide

theorem test_witness_SlicesSwitchesAndResumption_saves :
    let b : Block := { placedBlock with stat := .evicting }
    let s : State := imaged { base with groups := [], blocks := [b] }
    let t : State := { s with ctxs := s.ctxs.map (fun c => { c with scrofs := 0x100000, scrmax := 2 }) }
    (t.freeSaves 0).head? = some 0 ∧ t.blockOf 0 1 0 = some b ∧
    (findBy (fun (a : Alloc) => a.role == 0 && a.held) b.allocs).isSome = true ∧
    t.objFault 1 0x100000 0x50000 false true = none := by decide

theorem test_witness_SlicesSwitchesAndResumption_switches :
    let out := { base with groups := [], blocks := [], launches := [], ctxs := [{ placedCtx with stopping := [0] }] }
    let back := withG base (fun g => { g with place := none, reserved := some { die := 0, core := 1, part := 0, slot := 0 } })
    let off := imaged { base with ctxs := [{ Ctx.blank with on := [1] }] }
    let none_ := imaged { base with ctxs := [Ctx.blank] }
    out.allOut 0 0 = true ∧ (out.ctxOf 0).stopping.contains 0 = true ∧
    (back.grp 1).place = none ∧ (back.grp 1).restarts = false ∧ (back.grp 1).flushed = false ∧
    (∀ c ∈ off.ctxs, 0 ∉ c.on) ∧ ((readHeader off 0 0).ctxOf 0).on ≠ [] ∧ ((readHeader off 0 0).ctxOf 0).slice = 0 ∧
    ((readHeader none_ 0 0).ctxOf 0).on = [] ∧ ((readHeader none_ 0 0).ctxOf 0).grain = 0 ∧
    ((readHeader none_ 0 0).ctxOf 0).slice = 0 := by decide

/-- An image of component 0 with no payload, slot 0 and security version 0: its digest is that of no bytes. -/
def anImage : List Byte :=
  leBytes 4 0x534D4657 ++ List.replicate 12 0 ++
  leBytes 32 0x55B852781B9995A44C939B64E441AE2724B96F99C8F4FB9A141CFC9842C4B0E3 ++ List.replicate 80 0

theorem test_sha256_of_nothing :
    sha256 [] = 0x55B852781B9995A44C939B64E441AE2724B96F99C8F4FB9A141CFC9842C4B0E3 := by decide

theorem test_witness_BootMeasuresAndVerifies :
    (anImage.length, imgNum anImage 0 4, imgNum anImage 4 1, imgPayload anImage, imgNum anImage 8 8, imgNum anImage 112 16) =
      (128, 0x534D4657, 0, [], 0, 0) ∧
    (State.reset.module.keyHash (imgNum anImage 5 1)).isSome = true ∧ State.reset.module.svn ≤ imgNum anImage 6 2 ∧
    State.reset.module.verifies 0 [] = false ∧ State.reset.module.mrs.length = 8 ∧
    (let s := { base with module := { base.module with ready := 0x2001 } }
     s.module.ready.getLsbD 0 = true ∧ s.module.ready.getLsbD 13 = true) := by decide

theorem test_witness_BootMeasuresAndVerifies_flash (n : Nat) (h : 2 ^ 28 < n) :
    norFits [(0, anImage)] = true ∧ norFits [(0, List.replicate n 0)] = false := by
  refine ⟨by decide, ?_⟩
  simp only [norFits, List.map_cons, List.map_nil, List.length_replicate, List.sum_cons, List.sum_nil, decide_eq_false_iff_not]
  omega

theorem test_witness_ResetsErrorsAndSamples :
    let s := { base with module := { base.module with ready := 1 } }
    let e : EngRef := { die := 0, core := 0, part := 0 }
    let due := base.updDie 0 (fun d => { d with shvctl := 1 })
    9 ≤ (s.dieOf 0).fceil ∧ s.module.ready.getLsbD 0 = true ∧ 0 < s.dies.length ∧ s.has 1 = true ∧
    due.sampleDue e = true ∧ due.sampleDue { e with part := 1 } = true ∧
    (∀ k, k < 16 → due.inSlot { e with part := 1 } k = none) ∧
    nextInRotation (fun k => (due.inSlot e k).isSome) 16 ((due.dieOf 0).shv (shvKey e 0)) = some 0 ∧
    (due.inSlot e 0).isSome = true ∧
    nextInRotation (fun k => ((due.grp 1).path k).live) 8 ((due.dieOf 0).shv (shvKey e 8)) = some 0 := by decide

theorem test_witness_ResetsErrorsAndSamples_ring :
    let s0 := imaged base
    let s : State := { s0 with ctxs := s0.ctxs.map (fun c => { c with shav := 1 }), mem := wrBytes s0.mem 0x200000 (leBytes 8 96) }
    (s.ctxOf 0).shav ≠ 0 ∧
    s.objFault 1 0 64 true true = none ∧ s.objFault 1 64 16 false true = none ∧
    (let regs := s.objNum 1 0 64
     nbits regs 127 64 - nbits regs 191 128 + 16 ≤ nbits regs 63 0 - 64) := by decide


/-! ### Witnesses of single clauses -/

theorem test_witness_TrapsEnterWithTheirFrame_due :
    ((withG base (fun g => { g with faults := [heldFault] })).grp 1).dueFault 0 = some heldFault ∧ (base.grp 1).dueFault 0 = none ∧
    (base.ctxOf 0).ext = false := by decide

theorem test_witness_ScoreboardAndPrivilegeTraps_late :
    let w := tA (.sr 0x30) (.s 2) (.s 4) (.s 6) 6 6 0 false 6 false 0 false
    let v := { w with a := .v 2, b := .imm 0, c := .v 4 }
    check (.waitw w) = none ∧ check (.waitf { w with b := .v 0 }) = none ∧ check (.ldacq { v with c := .v 0 }) = none ∧
    check (.cas v) = none ∧ check (.atomAdd v) = none := by decide

theorem test_witness_PrefetchProbeRequestAndPeerStore_due :
    let w := tA (.v 1) (.v 2) (.imm 0) (.v 0) 6 6 0 false 0 false 0 false
    let s := withG base (fun g => { g with ops := [{ anOp .ld (.load .gbl (.v 1) 6 6 0 false none true) with full := 1 }] })
    s.clear (.peerst w) h7 = true ∧ ((s.touch (.peerst w)).grp 1).depsOf 0 0 true ≠ [] ∧
    ((base.touch (.peerst w)).grp 1).depsOf 0 0 true = [] := by decide

theorem test_witness_ElementsReadAndLandAtTheirPlaces_restarted :
    let o := { anOp .ld (.load .gbl (.v 1) 6 6 0 false none false) with stale := true }
    let g := { base.grp 1 with ops := [o, { o with id := 6, stale := false, todo := [] }] }
    g.superseded o 0 = true ∧ ({ g with ops := [o] }).superseded o 0 = false := by decide

theorem test_witness_WaitsEndWakeAndTimeOut_rematch :
    let s := flying paged .at (.cas 6 (.v 1))
    (s.rematch 1 5).2 = none ∧ (s.grp 1).outranked 0 0 (.s 8) = false := by decide

theorem test_witness_BarriersAndSemaphores_full :
    let s := withS (holding [(0, 1), (4, 1)]) [(4, 0)]
    let n0 := tW (.s 8) (.s 2) (.s 4) (.v 0) 0 0 6 false
    let s1 := s.touch (.bararv n0)
    let count := fun (s : State) => (s.alloc 0 1 0 0).map (fun al =>
      let x := ofLe (rdBytes al.bytes 0 16)
      decide (s.barCount (s.grp 1) x ≤ barArrived x))
    s.clear (.bararv n0) h7 = true ∧ s1.arrivesNow { gid := 1, path := 0 } .scr 0 = true ∧ s1.inFlight (s1.grp 1) [] 0 16 = [] ∧
    count (holding [(0, 1)]) = some false ∧ count (holding [(0, 1), (2, 1)]) = some true := by decide

theorem test_witness_BarriersAndSemaphores_poison :
    let s := ({ base with blocks := base.blocks.map (fun (b : Block) => { b with allocs := b.allocs.map (fun (a : Alloc) => { a with poison := poisonLine a.poison 0 }) }) } : State)
    (s.alloc 0 1 0 0).map (fun al => poisoned al.poison 0 16) = some true ∧ s.inFlight (s.grp 1) [] 0 16 = [] ∧
    (base.alloc 0 1 0 0).map (fun al => poisoned al.poison 0 16) = some false := by decide

theorem test_witness_CopiesRunElementByElement_flight :
    let r := { aCopy 0 with src := { tensorRecord with space := 1, clip := 0 }, box := [1], sorg := [0] }
    let s := withL (withG base (fun g => { g with ops := [{ anOp .sp (.peer [(0, 0)]) with path := 1, past := 2, todo := [{ anElem with addr := 0 }] }] }))
      (fun l => { l with sbmode := 1 })
    (s.view (.xkick (tN (.v 0) (.s 1) (.v 0))) h7).copyFlight s r = some 0 ∧
    (base.view (.xkick (tN (.v 0) (.s 1) (.v 0))) h7).copyFlight base r = none := by decide

theorem test_witness_TaskInstructions_counts :
    let s := withL base (fun l => { l with stages := 4096 })
    let t : State := { s with headDue := [.bytes 0 0 4100 [0]] }
    t.countsDue (t.launchOf 0 1) = true ∧ s.countsDue (s.launchOf 0 1) = false := by decide

theorem test_witness_WalksFollowTheTables_moves :
    let s : State := { base with moving := [(5, 1)] }
    (∀ m ∈ s.moving, m.1 = 5 → m.2 = 1) ∧ (pagesOf 0x5000 8).any s.inMove = true ∧ (pagesOf 0x6000 8).any s.inMove = false ∧
    (∀ m ∈ base.moving, m.1 ≠ 5) := by decide

theorem test_witness_QueuesRunTheirCommands_rejected :
    let r : QRef := { pasid := 0, q := 0 }
    let c : LaunchCmd := { barrier := false, x := 0, y := 1, z := 1, header := 0, stages := 0, args := [] }
    let s := (mapped { base with module := { base.module with ready := 0xFFF } } []).updDie 0 (fun d => { d with gating := .running })
    let left := (queued s [.launch r c] []).updDie 0 (fun d => { d with gating := .clockGated })
    ((queued s [.launch r c] []).startable r (.launch r c) false).isSome = true ∧
    (match headRead (queued s [.launch r c] []) 0 0 0 64 with
     | (_, .ok bs) => (headerCheck (ofLe bs) 0).isSome
     | _ => false) = true ∧
    left.leftFor 0 = true ∧ left.serves 0 = true ∧ s.leftFor 0 = false := by decide

theorem test_witness_DebugRequestsAreServed_handler :
    handling.has 1 = true ∧ 0 < (handling.grp 1).paths.length ∧ (base.grp 1).dueFault 0 = none ∧
    (let kept : Path := { (base.grp 1).path 0 with pc := 24, stat := .run, wait := some (aWait (.arriving .scr true) none),
                                                   frame := { Frame.reset with pend := true, rpc := 24 } }
     kept.wait.any Wait.arrivalMade = true ∧ kept.frame.rpc.setWidth 57 = kept.pc) := by decide

theorem test_witness_SlicesSwitchesAndResumption_deferral :
    let s := withP sliced (fun p => { p with frame := { p.frame with pend := true }, pendAt := (sliced.dieOf 0).clk + 1 })
    let d : State := { sliced with ctxs := sliced.ctxs.map (fun c => { c with deferred := [(0, 5)] }) }
    s.hasPend 0 0 = true ∧ s.pendsNow 0 0 = true ∧ spGet 0 (s.ctxOf 0).deferred 0 = 0 ∧
    spGet 0 (d.ctxOf 0).deferred 0 ≠ 0 ∧ d.hasPend 0 0 = false ∧ (d.ctxOf 0).switching = none ∧ (d.ctxOf 0).on.contains 0 = true ∧
    (d.ctxOf 0).stopping.contains 0 = false := by decide

theorem test_witness_SlicesSwitchesAndResumption_groups :
    let tiled := withL (withG base (fun g => { g with regs := { g.regs with restart := 24 } })) (fun l => { l with hdr := { l.hdr with recomputable := true } })
    base.keepsTiles (base.grp 1) = true ∧ tiled.keepsTiles (tiled.grp 1) = false ∧ (base.grp 1).flushed = false ∧
    (∀ k, k < 8 → (base.grp 1).dueFault k = none) ∧
    (let f := withG base (fun g => { g with flushed := true }); (f.grp 1).flushed = true ∧ (f.ctxOf 0).imageOff = false) := by decide

theorem test_witness_BootMeasuresAndVerifies_owner :
    let m := { State.reset.module with fuse1 := some 7 }
    m.fuse1.isSome = true ∧ State.reset.module.fuse1 = none ∧ m.mayBoot 0 = true ∧ m.mayBoot 1 = false ∧
    ({ m with ready := 3 }).mayBoot 2 = true := by decide


/-! ### Effects: results that the manual's worked examples state -/

/-- `base` with V2 and V3 of every lane as given, its path issuing lane 0 alone. -/
def withV (a b : Word) : State :=
  withP (withG base (fun g => { g with v := [(64, a), (96, b)] })) (fun p => { p with mask := 1, slices := 1 })

/-- Register Vn of lane 0, and the flags of ASTAT, after an instruction. -/
def after (i : Instr) (s : State) (n : Nat) : Word × Word :=
  let g := (nextOf (exec i s) s).grp 1
  (g.rdV n 0, g.regs.astat)

/-- An instruction of class XF with its result in V6 and sources V2 and V3. -/
def x3 (df sf : BitVec 4) (rnd : BitVec 3) : XF := tF (.v 6) (.v 2) (.v 3) (.v 0) df sf rnd false 0
/-- The same with the one source V2. -/
def x2 (df sf : BitVec 4) (rnd : BitVec 3) : XF := tF (.v 6) (.v 2) (.v 0) (.v 0) df sf rnd false 0

/-- R123: 7/0, −2^31/−1 and −7/2. -/
theorem test_div :
    (after (.div (x3 2 0 0)) (withV 7 0) 6).1 = 0xFFFFFFFF ∧
    (after (.div (x3 2 0 0)) (withV 0x80000000 0xFFFFFFFF) 6).1 = 0x80000000 ∧
    (after (.div (x3 2 0 0)) (withV 0xFFFFFFF9 2) 6).1 = 0xFFFFFFFD := by decide

/-- R123: the remainders of the same. -/
theorem test_rem :
    (after (.rem (x3 2 0 0)) (withV 7 0) 6).1 = 7 ∧ (after (.rem (x3 2 0 0)) (withV 0x80000000 0xFFFFFFFF) 6).1 = 0 ∧
    (after (.rem (x3 2 0 0)) (withV 0xFFFFFFF9 2) 6).1 = 0xFFFFFFFF := by decide

/-- "Three results worked": 1/3 under RNE. -/
theorem test_fdiv_third : (after (.fdiv (x3 9 0 0)) (withV 0x3F800000 0x40400000) 6).1 = 0x3EAAAAAB := by decide
theorem test_rcp_third : (after (.rcp (x2 9 0 0)) (withV 0x40400000 0) 6).1 = 0x3EAAAAAA := by decide

/-- "Three results worked": √2 with its last fraction bit cleared. -/
theorem test_ex2_half : (after (.ex2 (x2 9 0 0)) (withV 0x3F000000 0) 6).1 = 0x3FB504F2 := by decide

/-- "Three results worked": sin and cos of π/4 under RNE, RUP, and of −π/4 under RDN. -/
theorem test_sincospi :
    let w := fun (r : BitVec 3) => Instr.sincospi (tF (.v 6) (.v 2) (.v 0) (.v 7) 9 0 r false 0)
    (after (w 0) (withV 0x3E800000 0) 6).1 = 0x3F3504F3 ∧ (after (w 0) (withV 0x3E800000 0) 7).1 = 0x3F3504F3 ∧
    (after (w 3) (withV 0x3E800000 0) 6).1 = 0x3F3504F4 ∧ (after (w 2) (withV 0xBE800000 0) 6).1 = 0xBF3504F4 ∧
    (after (w 2) (withV 0xBE800000 0) 7).1 = 0x3F3504F3 := by decide

/-- R142: the class of the F8E4 pattern that an immediate 500 gives. -/
theorem test_fclass_f8e4 : (after (.fclass (tF (.v 6) (.imm 500) (.v 0) (.v 0) 0 12 0 false 0)) (withV 0 0) 6).1 = 0x100 := by decide

/-- R117: 3.5, −200 and −∞ to I8, with their flags in NV (bit 0) and NX (bit 4). -/
theorem test_cvt_i8 :
    (after (.cvt (x2 0 9 0)) (withV 0x40600000 0) 6).1 = 4 ∧ (after (.cvt (x2 0 9 1)) (withV 0x40600000 0) 6).1 = 3 ∧
    (after (.cvt (x2 0 9 0)) (withV 0xC3480000 0) 6).1 = 0xFFFFFF80 ∧ (after (.cvt (x2 0 9 0)) (withV 0xFF800000 0) 6).1 = 0xFFFFFF80 ∧
    (after (.cvt { x2 0 9 0 with sat := true }) (withV 0xFF800000 0) 6) = (0xFFFFFF80, 0) := by decide

/-- Family 0x0: `and p1, v0, 4` sets the predicate where bit 2 is set. -/
theorem test_and_predicate :
    let s := withG base (fun g => { g with v := [(0, 4), (1, 3), (2, 7)] })
    ((nextOf (exec (.and (tN (.p 1) (.v 0) (.imm 4))) s) s).grp 1).rdP 1 = 5 := by decide

/-- R112: `fmul` that overflows in lane 4 and is inexact in lane 9, with TOF set: FP_OVERFLOW with lane mask 0x10. -/
theorem test_fmul_traps :
    let s := withG base (fun g => { g with
      v := [(68, 0x7F000000), (73, 0x3F800001), (100, 0x7F000000), (105, 0x3F800001)], regs := { g.regs with astat := 0x1000 } })
    let t := nextOf (exec (.fmul (x3 9 0 0)) s) s
    let f := ((t.grp 1).path 0).frame
    f.cause = Cause.fpOverflow.code ∧ f.lmask = 0x10 ∧ (t.grp 1).rdV 6 9 = 0 ∧ (t.grp 1).regs.astat = 0x1000 := by decide

/-- "Words and a frame worked through": word 0 of the frame. -/
theorem test_frame_word0 :
    frameWord { Frame.reset with cause := 0x18, path := 2, imp := true, inH := true, skid := 2 } 0 = 0x0002000300000218 := by decide

/-- "One step worked through": the sum of group 0, which is 16,777,228. -/
theorem test_group_sum :
    let one := FNum.fin false 1 0 false
    fEncode (ffmt 9) (groupSum (FNum.fin false 1 24 false :: List.replicate 13 one ++ [.fin false 1 (-7) false, .zero false])).1 = 0x4B800006 := by decide

/-- "A drain worked through": column 10 of row 0 of the program gives 2.0, and column 5 gives +0. -/
theorem test_drain_relu :
    let run := fun (s : State) (i : Instr) => nextOf (exec i s) s
    let s0 := draining (fun en => { en with row := 0, d := [(80, 0x40000000), (40, 0xC0400000)],
                                            args := [0x3F000000, 0x3F800000, 0, 0] })
    let s := ([Instr.dmov { d := 3, a := 9, b := 0, r := 0, s := false }, .dfma { d := 3, a := 0, b := 8, r := 0, s := false },
      .drelu { d := 3, a := 3, b := 0, r := 0, s := false }] : List Instr).foldl run s0
    (s.engine s.eng).map (fun en => (en.reg 10 3, en.reg 5 3)) = some (0x40000000, 0) := by decide

/-- R314: G = 8, cap 20 and a count word of 37 give 3 blocks, the last of 4 groups. -/
theorem test_spawnx_count :
    let l := { waitingLaunch with count := some (64, 20), total := 0, n := 1, hdr := { waitingLaunch.hdr with groups := 8 } }
    let s := mapped (withGroups base [] [l] []) [(64, 37)]
    let t := nextOf (exec (.spawnxCountRead 0 1) s) s
    ((t.launchOf 0 1).total, (t.launchOf 0 1).lastGroups, (t.launchOf 0 1).grid) = (3, some 4, (3, 1, 1)) := by decide

/-- R34: a block of 5 groups with 4 roles: groups 0 and 1 in role 0, 2 and 3 in role 1, 4 in role 2. -/
theorem test_roles :
    (upFrom 0 5).map (roleOf { KHeader.blank with groups := 5, roles := 4 }) = [0, 0, 1, 1, 2] := by decide

/-- Words that the manual's worked examples print, and the instructions that they stand for. -/
def wordsPrinted : List (Word96 × Instr) := [
  (0x202803000E01400000001000, .and { tN (.v 12) (.v 3) (.q 5) with h := { h7 with gn := true, gp := 2, stall := 4 } }),
  (0x219C01C00B01400000000000, .shl (tN (.v 7) (.v 2) (.imm 5))),
  (0x12DC01400C01000080000000, .div (tF (.v 5) (.v 3) (.v 4) (.v 0) 2 0 0 false 0)),
  (0x621C01800800001E40000000, .sincospi (tF (.v 6) (.v 2) (.v 0) (.v 7) 9 0 0 false 0)),
  (0xC01C000000040002EC000000, .mma (tT (.v 0) (.v 0) (.v 16) (.v 0) 11 11 0 0 0)),
  (0x801C008003022C0EE4284000, .ldGbl (tA (.v 2) (.v 0) (.imm 8) (.p 3) 11 9 0 false 5 false 0 true)),
  (0xA15C00000000000011400000, .waitc (tW (.v 0) (.v 0) (.v 0) (.v 0) 1 0 5 false)),
  (0x901C00500300300598280000, .atomAdd (tA (.v 1) (.s 0) (.imm 0) (.imm 1) 6 6 0 false 5 false 0 false)),
  (0xE09D01000000000000408000, .csrrd (tK (.s 4) (.v 0) (.v 0) 0x102))]

theorem test_decode_printed : wordsPrinted.all (fun x => (decode x.1).toOption == some x.2) = true := by decide

/-- R52, R75: an unassigned member, and the order of the checks of `ld.obj` with RND = 7. -/
theorem test_decode_refused :
    (match decode 0x341C00000000000000000000 with
     | .error r => r == .illegalOpcode
     | .ok _ => false) = true ∧
    check (.ldObj (tA (.v 1) (.v 2) (.imm 0) (.v 0) 6 6 7 false 0 false 0 false)) = some .illegalField ∧
    check (.ldObj (tA (.v 1) (.v 2) (.imm 0) (.v 0) 6 6 0 false 0 false 0 false)) = none := by decide

end Sys2Proof.Tests
end

section
/-! Proofs of the family of `00_scope.md`: what each operand form reads (O8), and what a write of a destination and of
its duplicate changes (O9). -/

namespace Sys2Proof.Machine

/-! ### Reads of the registers (R43, R77, R78, R80) -/

@[simp] theorem Env.rd_v (e : Env) (n : BitVec 10) (l : Nat) : e.rd (.v n) l = e.g.rdV n.toNat l := by
  simp [Env.rd, Env.read]

@[simp] theorem Env.rd_s (e : Env) (n : BitVec 10) (l : Nat) : e.rd (.s n) l = e.rdS n.toNat l := by
  simp [Env.rd, Env.read]

@[simp] theorem Env.rd_q (e : Env) (n : BitVec 5) (l : Nat) : e.rd (.q n) l = e.g.rdQ n.toNat l := by
  simp [Env.rd, Env.read]

@[simp] theorem Env.rd_x (e : Env) (n : BitVec 2) (l : Nat) : e.rd (.x n) l = e.g.rdX n.toNat l := by
  simp [Env.rd, Env.read]

@[simp] theorem Env.rd_imm (e : Env) (k : BitVec 10) (l : Nat) : e.rd (.imm k) l = k.signExtend 32 := by
  simp [Env.rd, Env.read]

@[simp] theorem Env.rd_sr (e : Env) (n : BitVec 8) (l : Nat) :
    e.rd (.sr n) l = (e.read true (.sr n) l).setWidth 32 := by
  simp [Env.rd, Env.read]

theorem Env.read_v_pair (e : Env) (n : BitVec 10) (l : Nat) :
    e.read true (.v n) l = e.g.rdV (n.toNat + 1) l ++ e.g.rdV n.toNat l := rfl

theorem Env.read_s_pair (e : Env) (n : BitVec 10) (l : Nat) :
    e.read true (.s n) l = e.rdS (n.toNat + 1) l ++ e.rdS n.toNat l := rfl

theorem Env.read_imm_wide (e : Env) (k : BitVec 10) (l : Nat) : e.read true (.imm k) l = k.signExtend 64 := rfl

/-- P7 reads 1 in every lane (R78). -/
theorem Group.getLsbD_rdP (g : Group) (n l : Nat) (hl : l < 32) :
    (g.rdP n).getLsbD l = true ↔ n = 7 ∨ (spGet 0 g.p n).getLsbD l = true := by
  unfold Group.rdP
  by_cases h7 : n = 7
  · have hones : (0xFFFFFFFF : Mask) = BitVec.allOnes 32 := by decide
    rw [if_pos h7, hones, BitVec.getLsbD_allOnes]
    simp [h7, hl]
  · simp [h7]

theorem Env.rd_p (e : Env) (n : BitVec 3) (l : Nat) (hl : l < 32) :
    e.rd (.p n) l = if n = 7 ∨ (spGet 0 e.g.p n.toNat).getLsbD l = true then 1 else 0 := by
  have h7 : n = 7 ↔ n.toNat = 7 := BitVec.toNat_inj.symm
  simp only [Env.rd, Env.read, Group.getLsbD_rdP e.g n.toNat l hl, h7]
  split <;> rfl

/-! ### Unfinished registers with the scoreboard OFF (R49) -/

theorem Env.mixOf_of_mix_nil {e : Env} (h : e.mix = []) (o : Operand) : e.mixOf o = none := by
  simp [Env.mixOf, h, findBy]

/-- A producer that is found is one of those that the instruction's lanes may read either way, and writes the
register that was asked for. -/
theorem Env.mixOf_some {e : Env} {o : Operand} {x : SbEntry} {k : Nat} (h : e.mixOf o = some (x, k)) :
    x ∈ e.mix ∧ x.reg = o := by
  obtain ⟨hmem, hreg⟩ := findBy_mem h
  exact ⟨(List.of_mem_zip hmem).1, by simpa using hreg⟩

theorem Env.rdS_of_mix_nil {e : Env} (h : e.mix = []) (n l : Nat) : e.rdS n l = e.g.rdS n := by
  simp [Env.rdS, Env.mixOf_of_mix_nil h]

/-- What a lane may read of an S register: the value of the scoreboard's view, the one that its unfinished producer
has written, or the one that stood there before that producer. -/
theorem Env.rdS_cases (e : Env) (n : BitVec 10) (l : Nat) :
    e.rdS n.toNat l = e.g.rdS n.toNat ∨ e.rdS n.toNat l = (e.s.grp e.g.gid).rdS n.toNat ∨
      ∃ x ∈ e.mix, x.reg = .s n ∧ e.rdS n.toNat l = getAt 0 x.old 0 := by
  unfold Env.rdS
  rw [BitVec.ofNat_toNat, BitVec.setWidth_eq]
  cases hm : e.mixOf (.s n) with
  | none => exact .inl rfl
  | some p =>
    obtain ⟨x, k⟩ := p
    obtain ⟨hmem, hreg⟩ := Env.mixOf_some hm
    cases hb : Config.freeBit e.s.tick (64 * k + l) with
    | true => exact .inr (.inr ⟨x, hmem, hreg, by simp [hb]⟩)
    | false => exact .inr (.inl (by simp [hb]))

/-! ### Block coordinates (R30, R79) -/

/-- A block number below the size of the grid splits into its three coordinates, x fastest. -/
theorem block_coordinates {gx gy gz b : Nat} (hx : 0 < gx) (hy : 0 < gy) (hb : b < gx * gy * gz) :
    b % gx < gx ∧ b / gx % gy < gy ∧ b / gx / gy < gz ∧ b = b % gx + gx * (b / gx % gy + gy * (b / gx / gy)) := by
  refine ⟨Nat.mod_lt _ hx, Nat.mod_lt _ hy, ?_, ?_⟩
  · rw [Nat.div_div_eq_div_mul]
    exact Nat.div_lt_of_lt_mul hb
  · rw [Nat.mod_add_div, Nat.mod_add_div]

/-! ### Writes of a destination (R11, R77, R78) -/

@[simp] theorem Group.write_empty (g : Group) (pix : Nat) (wide : Bool) (d : Operand) (f : Nat → DWord) :
    g.write pix 0 wide d f = g := if_pos rfl

/-- A write of a per-lane file is one `laneWrite`, an empty Active() included. -/
theorem Group.write_v (g : Group) (pix : Nat) (act : Mask) (wide : Bool) (n : BitVec 10) (f : Nat → DWord) :
    g.write pix act wide (.v n) f = { g with v := laneWrite wide n.toNat act f g.v } := by
  by_cases h : act = 0
  · rw [h, Group.write_empty, laneWrite_nil]
  · exact if_neg h

theorem Group.write_q (g : Group) (pix : Nat) (act : Mask) (wide : Bool) (n : BitVec 5) (f : Nat → DWord) :
    g.write pix act wide (.q n) f = { g with q := laneWrite wide n.toNat act f g.q } := by
  by_cases h : act = 0
  · rw [h, Group.write_empty, laneWrite_nil]
  · exact if_neg h

theorem Group.write_x (g : Group) (pix : Nat) (act : Mask) (wide : Bool) (n : BitVec 2) (f : Nat → DWord) :
    g.write pix act wide (.x n) f = { g with x := laneWrite wide n.toNat act f g.x } := by
  by_cases h : act = 0
  · rw [h, Group.write_empty, laneWrite_nil]
  · exact if_neg h

theorem Group.write_s {act : Mask} (h : act ≠ 0) (g : Group) (pix : Nat) (wide : Bool) (n : BitVec 10)
    (f : Nat → DWord) :
    g.write pix act wide (.s n) f = { g with s := uniWrite wide n.toNat (f (lowest act)) g.s } := if_neg h

theorem Group.write_p {act : Mask} {n : BitVec 3} (h : act ≠ 0) (hn : n ≠ 7) (g : Group) (pix : Nat) (wide : Bool)
    (f : Nat → DWord) :
    g.write pix act wide (.p n) f = { g with p := spSet 0 g.p n.toNat (predMask act (g.rdP n.toNat) f) } :=
  (if_neg h).trans (if_neg hn)

@[simp] theorem Group.write_p7 (g : Group) (pix : Nat) (act : Mask) (wide : Bool) (f : Nat → DWord) :
    g.write pix act wide (.p 7) f = g := by
  simp [Group.write]

theorem Group.write_s_frame (g : Group) (pix : Nat) (act : Mask) (wide : Bool) (n : BitVec 10) (f : Nat → DWord) :
    { g.write pix act wide (.s n) f with s := g.s } = g := by
  by_cases h : act = 0
  · rw [h, Group.write_empty]
  · rw [Group.write_s h]

theorem Group.write_p_frame (g : Group) (pix : Nat) (act : Mask) (wide : Bool) (n : BitVec 3) (f : Nat → DWord) :
    { g.write pix act wide (.p n) f with p := g.p } = g := by
  by_cases h : act = 0
  · rw [h, Group.write_empty]
  · by_cases hn : n = 7
    · rw [hn, Group.write_p7]
    · rw [Group.write_p h hn]

/-- A predicate register but P7 after a write. -/
theorem Group.getLsbD_rdP_write (g : Group) (pix : Nat) (act : Mask) (wide : Bool) {n : BitVec 3} (hn : n ≠ 7)
    (f : Nat → DWord) (m : Nat) {l : Nat} (hl : l < 32) :
    ((g.write pix act wide (.p n) f).rdP m).getLsbD l =
      if m = n.toNat ∧ act.getLsbD l = true then decide ((f l).setWidth 32 ≠ (0 : Word))
      else (g.rdP m).getLsbD l := by
  by_cases hact : act = 0
  · rw [hact, Group.write_empty]
    simp
  · have hn7 : n.toNat ≠ 7 := fun e => hn (BitVec.eq_of_toNat_eq e)
    rw [Group.write_p hact hn]
    by_cases hm : m = n.toNat
    · have hread : (Group.rdP { g with p := spSet 0 g.p n.toNat (predMask act (g.rdP n.toNat) f) } m) =
          predMask act (g.rdP n.toNat) f := by
        simp [Group.rdP, hm, hn7]
      rw [hread, getLsbD_predMask _ _ _ _ hl, hm]
      simp only [true_and]
    · simp [Group.rdP, hm, spGet_set]

/-! ### The lowest lane of a mask (R77) -/

theorem lanes_sorted : lanes.Pairwise (· < ·) := by decide

theorem lanesOf_sorted (m : Mask) : (lanesOf m).Pairwise (· < ·) := lanes_sorted.filter _

theorem mem_lanesOf_of_getLsbD {m : Mask} {l : Nat} (h : m.getLsbD l = true) : l ∈ lanesOf m :=
  (mem_lanesOf m l).mpr ⟨BitVec.lt_of_getLsbD h, h⟩

/-- A mask that is not empty has a lane. -/
theorem lanesOf_ne_nil {m : Mask} (h : m ≠ 0) : lanesOf m ≠ [] := by
  intro hnil
  refine h (BitVec.eq_of_getLsbD_eq fun l _ => ?_)
  cases hl : m.getLsbD l with
  | false => simp
  | true => simpa [hnil] using mem_lanesOf_of_getLsbD hl

/-- The lowest lane of a mask that is not empty is in it, and no lane of it is below. -/
theorem lowest_spec {m : Mask} (h : m ≠ 0) :
    m.getLsbD (lowest m) = true ∧ ∀ k, m.getLsbD k = true → lowest m ≤ k := by
  obtain ⟨x, r, hxr⟩ := List.exists_cons_of_ne_nil (lanesOf_ne_nil h)
  have hlow : lowest m = x := by simp [lowest, hxr]
  have hsorted := lanesOf_sorted m
  rw [hxr, List.pairwise_cons] at hsorted
  rw [hlow]
  constructor
  · exact ((mem_lanesOf m x).mp (by simp [hxr])).2
  · intro k hk
    have hmem := mem_lanesOf_of_getLsbD hk
    rw [hxr, List.mem_cons] at hmem
    rcases hmem with rfl | hmem
    · exact Nat.le_refl _
    · exact Nat.le_of_lt (hsorted.1 k hmem)

/-! ### Writes of a duplicate (R47) -/

theorem Group.writeDup_none {h : Hdr} {act : Mask} (hd : h.dup = 0 ∨ act = 0) (g : Group) (pix : Nat) (wide : Bool)
    (d c : Operand) (f : Nat → DWord) : g.writeDup pix act wide h d c f = g.write pix act wide d f := by
  rcases hd with hd | hd <;> simp [Group.writeDup, hd]

theorem Group.writeDup_x {h : Hdr} {act : Mask} (hd : h.dup = 1) (ha : act ≠ 0) (g : Group) (pix : Nat) (wide : Bool)
    (d c : Operand) (f : Nat → DWord) :
    g.writeDup pix act wide h d c f =
      let g1 := g.write pix act wide d f
      { g1 with x := laneWrite false g1.regs.xp.toNat act (dupValue act d f) g1.x,
                regs := { g1.regs with xp := g1.regs.xp + 1 } } :=
  (if_neg ha).trans (if_pos hd)

theorem Group.writeDup_q {h : Hdr} {act : Mask} (hd : h.dup = 2) (ha : act ≠ 0) (g : Group) (pix : Nat) (wide : Bool)
    (d : Operand) (n : BitVec 10) (f : Nat → DWord) :
    g.writeDup pix act wide h d (.v n) f =
      let g1 := g.write pix act wide d f
      { g1 with q := laneWrite false n.toNat act (dupValue act d f) g1.q } := by
  have hne : h.dup ≠ 1 := by simp [hd]
  exact (if_neg ha).trans ((if_neg hne).trans (if_pos hd))

/-- A word of a per-lane file after a duplicate's write, which is never a pair. -/
theorem spGet_laneWrite_single (n : Nat) (act : Mask) (f : Nat → DWord) (m : Sparse Word) (k : Nat) {l : Nat}
    (hl : l < 32) :
    spGet 0 (laneWrite false n act f m) (32 * k + l) =
      if act.getLsbD l = true ∧ k = n then (f l).setWidth 32 else spGet 0 m (32 * k + l) := by
  rw [spGet_laneWrite false n act f m k l hl]
  simp only [Bool.false_eq_true, false_and, and_false, if_false]

end Sys2Proof.Machine

namespace Sys2Proof.Proofs

open Sys2Proof Sys2Proof.Machine

/-- Settles O8: register by register from the equations of `Env.rd` and `Env.read`; an unfinished S register by
the cases of `Env.rdS_cases`, and the coordinates by splitting the block number. -/
theorem operandsReadTheirForms : Obligations.OperandsReadTheirForms := by
  unfold Obligations.OperandsReadTheirForms
  refine ⟨fun e l hl => ⟨?v, ?s, ?sMixed, ?q, ?x, ?imm, ?p, ?sr⟩,
    fun e l hl => ⟨?plain, ?compat, rfl, rfl, ?block, rfl, rfl, rfl, rfl⟩⟩
  case v => exact fun n => ⟨e.rd_v n l, e.read_v_pair n l⟩
  case s =>
    intro n hmix
    rw [e.rd_s, e.read_s_pair, Env.rdS_of_mix_nil hmix, Env.rdS_of_mix_nil hmix]
    exact ⟨rfl, rfl⟩
  case sMixed =>
    intro n
    rw [e.rd_s]
    exact e.rdS_cases n l
  case q => exact fun n => e.rd_q n l
  case x => exact fun n => e.rd_x n l
  case imm => exact fun k => ⟨e.rd_imm k l, e.read_imm_wide k l⟩
  case p => exact fun n => e.rd_p n l hl
  case sr => exact fun n => e.rd_sr n l
  case plain =>
    intro hcompat
    simp [Env.sr, hcompat]
  case compat =>
    intro hcompat
    simp [Env.sr, hcompat]
  case block =>
    intro hx hy hb
    obtain ⟨hxlt, hylt, hzlt, hsplit⟩ := block_coordinates hx hy hb
    exact ⟨_, _, _, hxlt, hylt, hzlt, hsplit, rfl, rfl, rfl⟩

/-- Settles O9: each write is one write of its register file (`Group.write_v` and its kin), of which the file's law
says what it leaves to be read; a duplicate is one more such write. -/
theorem writesReachTheirDestinations : Obligations.WritesReachTheirDestinations := by
  unfold Obligations.WritesReachTheirDestinations
  refine ⟨fun g pix act wide f m l hl => ⟨?v, ?q, ?x⟩,
    fun g pix act wide f m l hl => ⟨?s, ?sFrame, ?empty, ?lowest, ?p, ?pFrame, ?p7⟩,
    fun g pix act wide h d c f => ⟨?dupNone, ?dupX, ?dupQ⟩⟩
  case v =>
    intro n
    rw [Group.write_v]
    exact ⟨spGet_laneWrite wide n.toNat act f g.v m l hl, rfl⟩
  case q =>
    intro n
    rw [Group.write_q]
    exact ⟨spGet_laneWrite wide n.toNat act f g.q m l hl, rfl⟩
  case x =>
    intro n
    rw [Group.write_x]
    exact ⟨spGet_laneWrite wide n.toNat act f g.x m l hl, rfl⟩
  case s =>
    intro n hact
    rw [Group.write_s hact]
    exact spGet_uniWrite wide n.toNat (f (lowest act)) g.s m
  case sFrame => exact fun n => g.write_s_frame pix act wide n f
  case empty => exact fun d => g.write_empty pix wide d f
  case lowest => exact lowest_spec
  case p => exact fun n hn => g.getLsbD_rdP_write pix act wide hn f m hl
  case pFrame => exact fun n => g.write_p_frame pix act wide n f
  case p7 => rfl
  case dupNone => exact fun hd => Group.writeDup_none hd g pix wide d c f
  case dupX =>
    intro hd hact
    rw [Group.writeDup_x hd hact]
    refine ⟨rfl, fun m l hl => ?_, rfl⟩
    exact (spGet_laneWrite_single _ act _ _ m hl).trans (by cases d <;> rfl)
  case dupQ =>
    intro hd hact n hc
    rw [hc, Group.writeDup_q hd hact]
    refine ⟨fun m l hl => ?_, rfl⟩
    exact (spGet_laneWrite_single _ act _ _ m hl).trans (by cases d <;> rfl)

end Sys2Proof.Proofs
end

section
/-! Proofs of the family of `05_control_flow.md`: writes of special registers (O10), branches and calls (O27), hardware
loops (O29), and the control-register instructions with the words of a trap frame (O33). -/

namespace Sys2Proof.Machine

/-! ### Paths after an update -/

theorem Group.path_updPath {g : Group} {i : Nat} (h : i < g.paths.length) (f : Path → Path) :
    (g.updPath i f).path i = f (g.path i) :=
  getAt_setAt_same _ _ _ _ h

theorem Group.path_updPath_other (g : Group) {i k : Nat} (h : k ≠ i) (f : Path → Path) :
    (g.updPath i f).path k = g.path k :=
  getAt_setAt_other _ _ _ _ _ (Ne.symm h)

/-! ### Writes of special registers (R81) -/

/-- A lane is among the lanes of a slice set where its slice is in the set (R16). -/
theorem getLsbD_sliceLanes (sl : BitVec 8) {l : Nat} (hl : l < 32) :
    (sliceLanes sl).getLsbD l = sl.getLsbD (l / 4) := by
  rw [sliceLanes, getLsbD_maskOf, decide_eq_true hl, Bool.true_and]

theorem Group.getLsbD_srWrite_emask (g : Group) (pix : Nat) (v : DWord) {l : Nat} (hl : l < 32) :
    (g.srWrite pix 0x10 v).regs.emask.getLsbD l =
      if (g.path pix).slices.getLsbD (l / 4) then v.getLsbD l else g.regs.emask.getLsbD l := by
  simp only [Group.srWrite, BitVec.getLsbD_or, BitVec.getLsbD_and, BitVec.getLsbD_not, getLsbD_sliceLanes _ hl,
    BitVec.getLsbD_setWidth, hl]
  cases (g.path pix).slices.getLsbD (l / 4) <;> simp

/-- A write of a special register leaves the path table as it is, or changes the writing path alone. -/
theorem Group.srWrite_paths (g : Group) (pix n : Nat) (v : DWord) :
    (g.srWrite pix n v).paths = g.paths ∨ ∃ f, g.srWrite pix n v = g.updPath pix f := by
  unfold Group.srWrite
  split
  case h_1 | h_2 | h_7 | h_8 => exact .inl rfl
  all_goals exact .inr ⟨_, rfl⟩

theorem Group.path_srWrite_other (g : Group) (pix n : Nat) (v : DWord) {k : Nat} (hk : k ≠ pix) :
    (g.srWrite pix n v).path k = g.path k := by
  rcases g.srWrite_paths pix n v with h | ⟨f, h⟩
  · rw [Group.path, h, Group.path]
  · rw [h, Group.path_updPath_other g hk]

@[simp] theorem Group.srWrite_gid (g : Group) (pix n : Nat) (v : DWord) : (g.srWrite pix n v).gid = g.gid := by
  unfold Group.srWrite
  split <;> rfl

@[simp] theorem Group.write_gid (g : Group) (pix : Nat) (act : Mask) (wide : Bool) (d : Operand) (f : Nat → DWord) :
    (g.write pix act wide d f).gid = g.gid := by
  unfold Group.write
  split
  · rfl
  · cases d with
    | sr n => exact g.srWrite_gid pix n.toNat _
    | p n => dsimp only; split <;> rfl
    | _ => rfl

/-! ### Outcomes of an instruction in whose way nothing stands -/

theorem State.updGrp_id (s : State) (gid : Nat) : s.updGrp gid (fun g => g) = s := by
  have hupd : ∀ gs : List Group, updBy (fun g => g.gid == gid) (fun g => g) gs = gs := by
    intro gs
    induction gs with
    | nil => rfl
    | cons x r ih => simp [updBy, ih]
  rw [State.updGrp, hupd]

section
open Stated

variable {i : Instr} {h : Hdr} {c : Operand} {body : Env → State → Res} {s : State}
  (hx : exec i s = issueC i h c body s) (hc : s.clear i h = true)
include hx hc

theorem runs_of {f : Group → Group}
    (hb : body (reads s i h) (s.touch i) = .adv ((s.touch i).updGrp s.cur.gid f)) : Runs i h c s f :=
  hx.trans (issueC_adv i h c body s _ hc hb)

/-- An instruction whose own effect is nothing leaves its group to the end of the instruction. -/
theorem runs_idle (hb : body (reads s i h) (s.touch i) = .adv (s.touch i)) : Runs i h c s (fun g => g) :=
  runs_of hx hc (hb.trans (by rw [State.updGrp_id]))

theorem jumps_of {f : Group → Group}
    (hb : body (reads s i h) (s.touch i) = .jump ((s.touch i).updGrp s.cur.gid f)) : Jumps i h c s f :=
  hx.trans (issueC_jump i h c body s _ hc hb)

theorem traps_of {t : Trap} (hb : body (reads s i h) (s.touch i) = .trap t) : Traps i s t :=
  hx.trans (issueC_trap i h c body s t hc hb)

end

/-! ### Transfers (R87 to R89) -/

theorem is12_iff (a : Addr) : is12 a = true ↔ a.toNat % 12 = 0 := by simp [is12]

/-- The group with the link of a call written, and for a branch as it is (R89). -/
def Env.linkInto (e : Env) (link : Bool) (d : Operand) (g : Group) : Group :=
  if link then g.write e.pix e.act true d (fun _ => (e.path.pc + 12).setWidth 64) else g

theorem Env.linkInto_gid (e : Env) (link : Bool) (d : Operand) (g : Group) : (e.linkInto link d g).gid = g.gid := by
  cases link
  · rfl
  · exact Group.write_gid ..

/-- What precedes the transfer: a call's link, or nothing. -/
def linked (link : Bool) (e : Env) (d : Operand) (s : State) : State := if link then writeLink e d s else s

theorem linked_eq (link : Bool) (e : Env) (d : Operand) (s : State) :
    linked link e d s = s.updGrp s.cur.gid (e.linkInto link d) := by
  cases link
  · exact (State.updGrp_id s s.cur.gid).symm
  · rfl

/-- The meaning of `bra` and `call`. -/
def directBody (link : Bool) (w : XK) (e : Env) (s : State) : Res :=
  if e.act = 0 then .adv s else braTo e (offsetOf e.path.pc w.k) (linked link e w.d s)

/-- The meaning of `brx`, `callx` and `ret`. -/
def indirectBody (link : Bool) (w : XN) (e : Env) (s : State) : Res :=
  if e.act = 0 then .adv s else xferTo e w.a (linked link e w.d s)

/-- Where a direct transfer sends the path's enabled lanes (R87). -/
def Env.braDests (e : Env) (t : Addr) : List Dest :=
  [{ pc := e.path.pc + 12, lanes := e.g.enabled e.pix &&& ~~~e.act, seq := true },
   { pc := t, lanes := e.act, seq := false }]

theorem braTo_misaligned {e : Env} {t : Addr} (ha : e.act ≠ 0) (ht : t.toNat % 12 ≠ 0) (s : State) :
    braTo e t s = .trap { cause := .memAlign, faddr := t.setWidth 64, lmask := e.act } :=
  if_pos (by simpa [is12, ht] using ha)

theorem braTo_aligned {e : Env} {t : Addr} (ht : t.toNat % 12 = 0) (link : Bool) (d : Operand) (s : State) :
    braTo e t (linked link e d s) = .jump (s.updGrp s.cur.gid (fun g =>
      (e.linkInto link d g).transfer e.pix e.path.pc (e.g.enabled e.pix) (e.braDests t))) := by
  rw [linked_eq, braTo]
  simp only [(is12_iff t).mpr ht, Bool.not_true, Bool.and_false, Bool.false_eq_true, if_false]
  exact congrArg Res.jump (State.updGrp_updGrp s s.cur.gid _ _ (e.linkInto_gid link d))

/-- A target pair that gives one target for all lanes of Active() (R88). -/
def oneTarget : Operand → Bool
  | .v _ => false
  | _ => true

/-- The target of each lane of an indirect transfer (R88). -/
def Env.xferTarget (e : Env) (a : Operand) (l : Nat) : Addr := targetOf e a (if oneTarget a then lowest e.act else l)

/-- Where an indirect transfer sends the path's enabled lanes (R88). -/
def Env.xferDests (e : Env) (a : Operand) : List Dest :=
  if oneTarget a then e.braDests (e.xferTarget a 0)
  else brxDests e.path.pc (e.g.enabled e.pix) e.act (e.xferTarget a)

theorem xferTo_one {a : Operand} (h : oneTarget a = true) (e : Env) (s : State) :
    xferTo e a s = braTo e (e.xferTarget a 0) s := by
  rw [Env.xferTarget, h]
  cases a with
  | v n => cases h
  | _ => rfl

theorem xferTo_perLane {a : Operand} (h : oneTarget a = false) (e : Env) (s : State) :
    xferTo e a s = brxTo e (e.xferTarget a) s := by
  cases a with
  | v n => rfl
  | _ => cases h

theorem Env.xferTarget_one {a : Operand} (h : oneTarget a = true) (e : Env) (l : Nat) :
    e.xferTarget a l = e.xferTarget a 0 := by
  simp [Env.xferTarget, h]

/-- The lanes of Active() whose target is no multiple of 12 (R88). -/
def Env.misLanes (e : Env) (a : Operand) : Mask :=
  maskOf (fun l => e.act.getLsbD l && decide ((e.xferTarget a l).toNat % 12 ≠ 0))

theorem misTargets_xferTarget (e : Env) (a : Operand) : misTargets e.act (e.xferTarget a) = e.misLanes a := by
  unfold misTargets Env.misLanes is12
  congr 1
  funext l
  by_cases h : (e.xferTarget a l).toNat % 12 = 0 <;> simp [h]

theorem Env.misLanes_of_idle {e : Env} (ha : e.act = 0) (a : Operand) : e.misLanes a = 0 := by
  apply BitVec.eq_of_getLsbD_eq
  intro l hl
  simp [Env.misLanes, getLsbD_maskOf, ha]

/-- Where all lanes have one target, all of Active() is misaligned or none. -/
theorem Env.misLanes_one {a : Operand} (h : oneTarget a = true) (e : Env) :
    e.misLanes a = if (e.xferTarget a 0).toNat % 12 = 0 then 0 else e.act := by
  apply BitVec.eq_of_getLsbD_eq
  intro l hl
  rw [Env.misLanes, getLsbD_maskOf, Env.xferTarget_one h]
  by_cases ht : (e.xferTarget a 0).toNat % 12 = 0 <;> simp [ht, hl]

/-- A misaligned target of an indirect transfer traps with the lowest such lane's target and every such lane (R88). -/
theorem xferTo_misaligned {e : Env} {a : Operand} (hbad : e.misLanes a ≠ 0) (s : State) :
    xferTo e a s = .trap { cause := .memAlign, faddr := (e.xferTarget a (lowest (e.misLanes a))).setWidth 64,
                           lmask := e.misLanes a } := by
  cases h : oneTarget a with
  | true =>
    have ha : e.act ≠ 0 := fun ha => hbad (Env.misLanes_of_idle ha a)
    have ht : (e.xferTarget a 0).toNat % 12 ≠ 0 := fun ht => hbad ((Env.misLanes_one h e).trans (if_pos ht))
    rw [xferTo_one h, braTo_misaligned ha ht, Env.xferTarget_one h e (lowest _), Env.misLanes_one h, if_neg ht]
  | false =>
    rw [xferTo_perLane h, brxTo, misTargets_xferTarget]
    exact if_pos hbad

theorem xferTo_aligned {e : Env} {a : Operand} (ha : e.act ≠ 0) (hbad : e.misLanes a = 0)
    (link : Bool) (d : Operand) (s : State) :
    xferTo e a (linked link e d s) = .jump (s.updGrp s.cur.gid (fun g =>
      (e.linkInto link d g).transfer e.pix e.path.pc (e.g.enabled e.pix) (e.xferDests a))) := by
  cases h : oneTarget a with
  | true =>
    have ht : (e.xferTarget a 0).toNat % 12 = 0 :=
      Decidable.byContradiction fun hne => ha ((if_neg hne).symm.trans ((Env.misLanes_one h e).symm.trans hbad))
    rw [xferTo_one h, braTo_aligned ht, Env.xferDests, if_pos h]
  | false =>
    have hmany : ¬oneTarget a = true := by rw [h]; exact Bool.false_ne_true
    rw [xferTo_perLane h, linked_eq, brxTo, misTargets_xferTarget, if_neg (fun hne => hne hbad), Env.xferDests,
      if_neg hmany]
    exact congrArg Res.jump (State.updGrp_updGrp s s.cur.gid _ _ (e.linkInto_gid link d))

/-! ### Loops (R90, R91) -/

/-- Two masks without a common lane. -/
theorem mask_and_eq_zero_iff (p live : Mask) :
    p &&& live = 0 ↔ ∀ l, l < 32 → live.getLsbD l = true → p.getLsbD l = false := by
  constructor
  · intro h l _ hlive
    have hl : (p &&& live).getLsbD l = false := by simp [h]
    simpa [hlive] using hl
  · intro h
    apply BitVec.eq_of_getLsbD_eq
    intro l hl
    cases hlive : live.getLsbD l with
    | false => simp [hlive]
    | true => simp [h l hl hlive]

/-- When the loop test leaves the loop (R91). -/
def Group.loopStops (g : Group) (lp : LoopSt) (mask : Mask) : Prop :=
  lp.loopc = 1 ∨ (lp.loopp ≠ 7 ∧ ∀ l, l < 32 → (g.regs.emask &&& mask).getLsbD l = true →
    (g.rdP lp.loopp.toNat).getLsbD l = false)

theorem Group.loopStops_iff (g : Group) (lp : LoopSt) (mask : Mask) :
    g.loopStops lp mask ↔
      lp.loopc = 1 ∨ (lp.loopp ≠ 7 ∧ g.rdP lp.loopp.toNat &&& (g.regs.emask &&& mask) = 0) := by
  rw [mask_and_eq_zero_iff, Group.loopStops]

theorem Group.seqNext_outside {pc : Addr} {lp : LoopSt} (h : lp.loopc = 0 ∨ pc ≠ lp.loope) (g : Group)
    (mask : Mask) : g.seqNext pc lp mask = (pc + 12, lp) :=
  if_pos (by simpa using h)

theorem Group.seqNext_stop {g : Group} {lp : LoopSt} {mask : Mask} (h0 : lp.loopc ≠ 0) (h : g.loopStops lp mask) :
    g.seqNext lp.loope lp mask = (lp.loope + 12, { lp with loopc := 0 }) :=
  (if_neg (by simpa using h0)).trans (if_pos (by simpa [Group.loopStops_iff] using h))

theorem Group.seqNext_again {g : Group} {lp : LoopSt} {mask : Mask} (h0 : lp.loopc ≠ 0) (h : ¬g.loopStops lp mask) :
    g.seqNext lp.loope lp mask = (lp.loops, { lp with loopc := lp.loopc - 1 }) :=
  (if_neg (by simpa using h0)).trans (if_neg (by simpa [Group.loopStops_iff] using h))

/-! ### The words of a frame (R399) -/

theorem toNat_append_add {n m : Nat} (x : BitVec n) (y : BitVec m) : (x ++ y).toNat = x.toNat * 2 ^ m + y.toNat := by
  rw [BitVec.toNat_append, ← Nat.shiftLeft_add_eq_or_of_lt y.isLt, Nat.shiftLeft_eq]

theorem bitAt_eq (b : Bool) (k : Nat) : bitAt b k = (BitVec.ofBool b).toNat * 2 ^ k := by
  cases b <;> simp [bitAt]

/-- The number that 64-bit words make, the first one lowest. -/
def ofWords : List DWord → Nat
  | [] => 0
  | w :: r => w.toNat + ofWords r * 2 ^ 64

theorem word_ofWords (ws : List DWord) (k : Nat) :
    BitVec.ofNat 64 (nbits (ofWords ws) (64 * k + 63) (64 * k)) = getAt 0 ws k := by
  have hwidth : 64 * k + 63 + 1 - 64 * k = 64 := by omega
  rw [nbits, hwidth, Nat.shiftRight_eq_div_pow, Nat.pow_mul]
  apply BitVec.eq_of_toNat_eq
  rw [BitVec.toNat_ofNat, Nat.mod_mod]
  induction ws generalizing k with
  | nil => simp [ofWords, getAt]
  | cons w r ih =>
    have hw : w.toNat < 2 ^ 64 := w.isLt
    cases k with
    | zero => simp only [ofWords, getAt, Nat.pow_zero]; omega
    | succ k =>
      have hdrop : ofWords (w :: r) / 2 ^ 64 = ofWords r := by simp only [ofWords]; omega
      rw [Nat.pow_succ', ← Nat.div_div_eq_div_mul, hdrop]
      exact ih k (by omega)

/-- The four words of a 256-bit record. -/
def quarters (x : BitVec 256) : List DWord :=
  [x.extractLsb' 0 64, x.extractLsb' 64 64, x.extractLsb' 128 64, x.extractLsb' 192 64]

theorem ofWords_quarters (x : BitVec 256) : ofWords (quarters x) = x.toNat := by
  have hx : x.toNat < 2 ^ 256 := x.isLt
  simp only [quarters, ofWords, BitVec.extractLsb'_toNat, Nat.shiftRight_eq_div_pow]
  omega

theorem ofWords_append (xs ys : List DWord) : ofWords (xs ++ ys) = ofWords xs + ofWords ys * 2 ^ (64 * xs.length) := by
  induction xs with
  | nil => simp [ofWords]
  | cons x r ih =>
    have hpow : 2 ^ (64 * (r.length + 1)) = 2 ^ (64 * r.length) * 2 ^ 64 := by
      rw [Nat.mul_add, Nat.mul_one, Nat.pow_add]
    rw [List.cons_append, ofWords, ih, ofWords, List.length_cons, hpow, Nat.add_mul, Nat.mul_assoc, Nat.add_assoc]

/-- Word 0 of a frame. -/
def frameStatus (f : Frame) : DWord :=
  f.skid ++ f.held ++ (0 : BitVec 2) ++ BitVec.ofBool f.pend ++ BitVec.ofBool f.stop ++ BitVec.ofBool f.nested ++
    BitVec.ofBool f.inH ++ BitVec.ofBool f.imp ++ f.ncause ++ (0 : BitVec 13) ++ f.path ++ f.cause

/-- The words of a frame in order; those beyond the list are 0. -/
def frameWords (f : Frame) : List DWord :=
  [frameStatus f, f.fpc, f.rpc, f.faddr, f.pmask ++ f.lmask, f.info ++ f.loopc, f.loops, f.loope, f.npc,
    (0 : BitVec 25) ++ f.loopp ++ f.ctrs, f.dcur, 0, 0, 0, 0, 0] ++ (quarters f.exprec ++ quarters f.fndrec)

theorem frameBits_eq (f : Frame) : frameBits f = ofWords (frameWords f) := by
  rw [frameWords, ofWords_append, ofWords_append, ofWords_quarters, ofWords_quarters]
  simp only [frameBits, ofWords, frameStatus, toNat_append_add, bitAt_eq, quarters, List.length_cons, List.length_nil,
    BitVec.ofNat_eq_ofNat, BitVec.toNat_ofNat, Nat.zero_mod]
  -- Both sides become sums of a field times a power, which differ in their order alone; over a named base no power of 2
  -- has to be evaluated.
  simp only [Nat.add_mul, Nat.mul_assoc, ← Nat.pow_add, Nat.zero_mul, Nat.zero_add, Nat.add_zero, Nat.reduceAdd,
    Nat.reduceMul]
  generalize 2 = b
  omega

theorem frameWord_eq (f : Frame) (k : Nat) : frameWord f k = getAt 0 (frameWords f) k := by
  rw [frameWord, frameBits_eq, word_ofWords]

/-! ### Control registers (R407) -/

theorem frameTrap_reserved {k : Nat} {v : DWord} (h : v &&& frameReserved k ≠ 0) (f : Frame) (act : Mask) :
    frameTrap f k v act = some { cause := .illegalField, lmask := act } :=
  if_pos h

theorem frameTrap_locked {f : Frame} {k : Nat} {v : DWord} (hres : v &&& frameReserved k = 0)
    (h : f.inH = false ∨ (v ^^^ frameWord f k) &&& ~~~frameRw k ≠ 0) (act : Mask) :
    frameTrap f k v act = some { cause := .illegalOperand, lmask := act } :=
  (if_neg (Decidable.not_not.mpr hres)).trans (if_pos (by simpa using h))

/-- A write of writable fields in a handler traps for the alignment of RPC alone. -/
theorem frameTrap_writable {f : Frame} {k : Nat} {v : DWord} (hres : v &&& frameReserved k = 0) (hin : f.inH = true)
    (hrw : (v ^^^ frameWord f k) &&& ~~~frameRw k = 0) (act : Mask) :
    frameTrap f k v act =
      if k = 2 ∧ v.toNat % 12 ≠ 0 then some { cause := .memAlign, faddr := v, lmask := act } else none := by
  have hopen : ¬((!f.inH || (v ^^^ frameWord f k) &&& ~~~frameRw k != 0) = true) := by simp [hin, hrw]
  exact (if_neg (Decidable.not_not.mpr hres)).trans ((if_neg hopen).trans (by simp))

theorem ck_fields {fields operands : Bool} (h : ck fields operands = none) : fields = true := by
  cases fields with
  | true => rfl
  | false => cases h

/-- `csrwr` takes no duplicate (R47). -/
theorem dup_eq_zero_of_check_csrwr {w : XK} (h : check (.csrwr w) = none) : w.h.dup = 0 := by
  have hfields := ck_fields h
  simp only [xkFields, hdrOk, Bool.and_eq_true, and_assoc] at hfields
  obtain ⟨-, hdup, -⟩ := hfields
  exact eq_of_beq hdup

theorem Group.write_sr {act : Mask} (h : act ≠ 0) (g : Group) (pix : Nat) (wide : Bool) (n : BitVec 8)
    (f : Nat → DWord) : g.write pix act wide (.sr n) f = g.srWrite pix n.toNat (f (lowest act)) :=
  if_neg h

/-- Whether a control register has 64 bits. -/
def csrWide (n : Nat) : Bool := decide (0x100 ≤ n) || sr64 (BitVec.ofNat 8 n)

theorem Env.csr_wide (e : Env) (n l : Nat) : (e.csr n l).2 = csrWide n := by
  unfold Env.csr csrWide
  by_cases hn : n < 0x100
  · simp [hn, Nat.not_le.mpr hn]
  · simp [hn, Nat.le_of_not_lt hn]

theorem Env.csr_value (e : Env) (n l : Nat) :
    (e.csr n l).1 = if n < 0x100 then e.sr n l else frameWord (e.g.frameNow e.pix) (n - 0x100) := by
  unfold Env.csr
  split <;> rfl

/-- What `csrwr` writes. -/
def Env.csrSource (e : Env) (w : XK) : DWord := e.read (csrWide w.k.toNat) w.a (lowest e.act)

section
open Stated

variable {w : XK} {s : State} (hc : s.clear (.csrwr w) w.h = true) (ha : (reads s (.csrwr w) w.h).act ≠ 0)
include hc ha

theorem csrwr_writes_register (hn : w.k.toNat < 0x100)
    (hv : srValueBad (.sr (BitVec.ofNat 8 w.k.toNat)) ((reads s (.csrwr w) w.h).csrSource w) = false) :
    Runs (.csrwr w) w.h unused s (fun g =>
      g.srWrite (reads s (.csrwr w) w.h).pix w.k.toNat ((reads s (.csrwr w) w.h).csrSource w)) := by
  refine runs_of rfl hc ((if_neg ha).trans ((if_pos hn).trans ((if_neg ?_).trans ?_)))
  · rw [Bool.and_eq_true, not_and, Bool.not_eq_true]
    exact fun _ => hv
  · have hdup := dup_eq_zero_of_check_csrwr (State.clear_check hc)
    have hk : (BitVec.ofNat 8 w.k.toNat).toNat = w.k.toNat := by rw [BitVec.toNat_ofNat]; omega
    simp only [Group.writeDup_none (.inl hdup), Group.write_sr ha, hk]
    rfl

theorem csrwr_refuses_value (hn : w.k.toNat < 0x100)
    (hv : srValueBad (.sr (BitVec.ofNat 8 w.k.toNat)) ((reads s (.csrwr w) w.h).csrSource w) = true) :
    Traps (.csrwr w) s { cause := .illegalField, lmask := (reads s (.csrwr w) w.h).act } := by
  refine traps_of rfl hc ((if_neg ha).trans ((if_pos hn).trans (if_pos ?_)))
  exact Bool.and_eq_true_iff.mpr ⟨decide_eq_true ha, hv⟩

theorem csrwr_traps_on_frame (hn : 0x100 ≤ w.k.toNat) {t : Trap}
    (ht : frameTrap ((reads s (.csrwr w) w.h).g.frameNow (reads s (.csrwr w) w.h).pix) (w.k.toNat - 0x100)
      ((reads s (.csrwr w) w.h).csrSource w) (reads s (.csrwr w) w.h).act = some t) : Traps (.csrwr w) s t := by
  refine traps_of rfl hc ((if_neg ha).trans ((if_neg (Nat.not_lt.mpr hn)).trans ?_))
  simp only [Env.csrSource, csrWide] at ht
  rw [ht]

theorem csrwr_writes_frame (hn : 0x100 ≤ w.k.toNat)
    (ht : frameTrap ((reads s (.csrwr w) w.h).g.frameNow (reads s (.csrwr w) w.h).pix) (w.k.toNat - 0x100)
      ((reads s (.csrwr w) w.h).csrSource w) (reads s (.csrwr w) w.h).act = none) :
    Runs (.csrwr w) w.h unused s (fun g => g.updPath (reads s (.csrwr w) w.h).pix (fun p =>
      { p with frame := frameSet p.frame (w.k.toNat - 0x100) ((reads s (.csrwr w) w.h).csrSource w) })) := by
  refine runs_of rfl hc ((if_neg ha).trans ((if_neg (Nat.not_lt.mpr hn)).trans ?_))
  simp only [Env.csrSource, csrWide] at ht ⊢
  rw [ht]
  rfl

end

end Sys2Proof.Machine

namespace Sys2Proof.Proofs

open Sys2Proof Sys2Proof.Machine Sys2Proof.Stated

/-- Settles O10: EMASK lane by lane, every other register by what its write replaces; no path but the writing one
changes, by the two cases of `Group.srWrite_paths`. -/
theorem specialRegisterWrites : Obligations.SpecialRegisterWrites := by
  unfold Obligations.SpecialRegisterWrites
  intro g pix v hpix
  refine ⟨fun l hl => g.getLsbD_srWrite_emask pix v hl, rfl, rfl, rfl, ?own, ?frame,
    fun n k hk => g.path_srWrite_other pix n v hk⟩
  case own =>
    exact ⟨Group.path_updPath hpix _, Group.path_updPath hpix _, Group.path_updPath hpix _,
      Group.path_updPath hpix _⟩
  case frame =>
    intro n hn
    simp only [List.mem_cons, List.not_mem_nil, or_false] at hn
    rcases hn with rfl | rfl | rfl | rfl <;> rfl

/-- Settles O27: `bra` and `call` are one direct transfer, with or without a link, and `brx`, `callx` and `ret` one
indirect transfer; each is idle, traps or moves its lanes by the alignment of its targets. -/
theorem branchesAndCallsTransfer : Obligations.BranchesAndCallsTransfer := by
  unfold Obligations.BranchesAndCallsTransfer
  refine ⟨fun w r hr s hc => ?direct, fun w r hr s hc => ?indirect⟩
  case direct =>
    have hx : exec r.1 s = issueC r.1 w.h unused (directBody r.2 w) s := by
      simp only [List.mem_cons, List.not_mem_nil, or_false] at hr
      rcases hr with rfl | rfl <;> rfl
    refine ⟨fun ha => ?idle, fun ha ht => ?misaligned, fun ha ht => ?aligned⟩
    case idle => exact runs_idle hx hc (if_pos ha)
    case misaligned => exact traps_of hx hc ((if_neg ha).trans (braTo_misaligned ha ht _))
    case aligned => exact jumps_of hx hc ((if_neg ha).trans (braTo_aligned ht r.2 w.d _))
  case indirect =>
    have hx : exec r.1 s = issueC r.1 w.h unused (indirectBody r.2 w) s := by
      simp only [List.mem_cons, List.not_mem_nil, or_false] at hr
      rcases hr with rfl | rfl | rfl <;> rfl
    refine ⟨fun ha => ?idle, fun hbad => ?misaligned, fun ha hbad => ?aligned⟩
    case idle => exact runs_idle hx hc (if_pos ha)
    case misaligned =>
      have ha : (reads s r.1 w.h).act ≠ 0 := fun ha => hbad (Env.misLanes_of_idle ha w.a)
      exact traps_of hx hc ((if_neg ha).trans (xferTo_misaligned hbad _))
    case aligned => exact jumps_of hx hc ((if_neg ha).trans (xferTo_aligned ha hbad r.2 w.d _))

/-- Settles O29: `loop` and `loopx` differ in their exit predicate alone; the test by the three cases of
`Group.seqNext`. -/
theorem loopsRunTheirTest : Obligations.LoopsRunTheirTest := by
  unfold Obligations.LoopsRunTheirTest
  refine ⟨fun w r hr s hc => ?loops, fun g pc lp mask => ⟨?outside, ?stop, ?again⟩⟩
  case loops =>
    have hx : exec r.1 s =
        issueC r.1 w.h unused (fun e s => loopTo e w.k (e.uni w.a) r.2 s) s := by
      simp only [List.mem_cons, List.not_mem_nil, or_false] at hr
      rcases hr with rfl | rfl <;> rfl
    exact ⟨fun ha => runs_idle hx hc (if_pos ha), fun ha => jumps_of hx hc (if_neg ha)⟩
  case outside => exact fun h => Group.seqNext_outside h g mask
  case stop =>
    rintro h0 rfl h
    exact Group.seqNext_stop h0 h
  case again =>
    rintro h0 rfl h
    exact Group.seqNext_again h0 h

/-- Settles O33: the words of a frame from its list of words (`frameWord_eq`); `csrrd` as a result; `csrwr` by the
outcomes of `frameTrap`, in the order of its traps. -/
theorem controlRegistersAndFrameWords : Obligations.ControlRegistersAndFrameWords := by
  unfold Obligations.ControlRegistersAndFrameWords
  refine ⟨fun f => ?words, fun w => ?csrrd, fun w s hc => ?csrwr⟩
  case words =>
    simp only [frameWord_eq]
    refine ⟨rfl, rfl, rfl, rfl, rfl, rfl, rfl, rfl, rfl, rfl, rfl, ?zero, ?exprec, ?fndrec⟩
    case zero =>
      simp only [List.forall_mem_cons, List.not_mem_nil, false_implies, implies_true, and_true]
      exact ⟨rfl, rfl, rfl, rfl, rfl, rfl, rfl, rfl, rfl, rfl, rfl, rfl, rfl⟩
    case exprec =>
      intro k hk
      obtain rfl | rfl | rfl | rfl : k = 0 ∨ k = 1 ∨ k = 2 ∨ k = 3 := by omega
      all_goals rfl
    case fndrec =>
      intro k hk
      obtain rfl | rfl | rfl | rfl : k = 0 ∨ k = 1 ∨ k = 2 ∨ k = 3 := by omega
      all_goals rfl
  case csrrd =>
    refine results_of (fun e _ l => (e.csr w.k.toNat l).1) (fun _ => rfl) (fun e s => ?body)
      (fun s _ l _ => Env.csr_value _ _ _)
    case body => exact congrArg (fun b => writeRes e (b && pairDest w.d) _ _ _ _ s) (e.csr_wide w.k.toNat 0)
  case csrwr =>
    refine ⟨fun ha => runs_idle rfl hc (if_pos ha), csrwr_writes_register hc, csrwr_refuses_value hc,
      fun ha hn hres => csrwr_traps_on_frame hc ha hn (frameTrap_reserved hres _ _),
      fun ha hn hres hlock => csrwr_traps_on_frame hc ha hn (frameTrap_locked (f := Group.frameNow _ _) hres hlock _),
      fun ha hn hres hin hrw => ?writable⟩
    have htrap := frameTrap_writable (f := (reads s (.csrwr w) w.h).g.frameNow (reads s (.csrwr w) w.h).pix) hres hin
      hrw (reads s (.csrwr w) w.h).act
    refine ⟨fun hk hv => csrwr_traps_on_frame hc ha hn (htrap.trans (if_pos ⟨by rw [hk], hv⟩)),
      fun hv => csrwr_writes_frame hc ha hn (htrap.trans (if_neg ?_))⟩
    rintro ⟨hk, hmis⟩
    exact hv.elim (fun hne => hne (by omega)) hmis

end Sys2Proof.Proofs
end

section
/-! Proofs of the family of `06_number_formats.md`: the integer rows (O14), floating arithmetic (O22), the floating
selections (O23) and the conversions (O26). -/

namespace Sys2Proof.Machine

open Stated

/-! ### The formats that a word's checks leave (R52) -/

theorem xfFields_formats {w : XF} {useB useC rnd sat pair : Bool} {df sf : List Nat} {sub : Nat → Bool}
    (h : xfFields w useB useC df sf rnd sat sub pair = true) : w.df.toNat ∈ df ∧ w.sf.toNat ∈ sf := by
  simp only [xfFields, Bool.and_eq_true, and_assoc, List.contains_iff_mem] at h
  obtain ⟨-, -, -, hdf, hsf, -⟩ := h
  exact ⟨hdf, hsf⟩

theorem lt_eight_of_mem_ints {n : Nat} (h : n ∈ ints) : n < 8 := by
  revert n
  decide

theorem eight_le_of_mem_floats {n : Nat} (h : n ∈ floats) : 8 ≤ n := by
  revert n
  decide

theorem ints_of_ck {w : XF} {useB useC rnd sat pair operands : Bool} {sf : List Nat} {sub : Nat → Bool}
    (h : ck (xfFields w useB useC ints sf rnd sat sub pair) operands = none) : w.df.toNat < 8 :=
  lt_eight_of_mem_ints (xfFields_formats (ck_fields h)).1

theorem floats_of_ck {w : XF} {useB useC rnd sat pair operands : Bool} {sf : List Nat} {sub : Nat → Bool}
    (h : ck (xfFields w useB useC floats sf rnd sat sub pair) operands = none) : 8 ≤ w.df.toNat :=
  eight_le_of_mem_floats (xfFields_formats (ck_fields h)).1

theorem ints_of_check_mulw {w : XF} (h : check (.mulw w) = none) : w.df.toNat < 8 :=
  lt_eight_of_mem_ints (xfFields_formats (Bool.and_eq_true_iff.mp (ck_fields h)).1).1

/-- A dot product has a 32-bit integer DF and one of its two element formats (R122). -/
theorem formats_of_ckDot {w : XF} {i n : Nat} (h : ckDot w i n = none) :
    w.df.toNat < 8 ∧ (w.sf.toNat = i ∨ w.sf.toNat = n) := by
  obtain ⟨hdf, hsf⟩ := xfFields_formats (Bool.and_eq_true_iff.mp (ck_fields h)).1
  simp only [List.mem_cons, List.not_mem_nil, or_false] at hdf hsf
  exact ⟨by omega, hsf⟩

/-- `cvtpk` packs halves or bytes (R150). -/
theorem width_of_check_cvtpk {w : XF} (h : check (.cvtpk w) = none) : fmtBits w.df = 16 ∨ fmtBits w.df = 8 := by
  have hdf := (xfFields_formats (Bool.and_eq_true_iff.mp (ck_fields h)).1).1
  generalize w.df = f at hdf ⊢
  revert f
  decide

/-! ### Integer rows (R121, R122) -/

/-- A meaning that wraps an exact integer, which where the word's checks hold is that of its row. -/
theorem computes_wraps {i : Instr} {w : XF} {y : Env → Nat → Int} (y' : Env → Nat → Int)
    (hx : ∀ s, exec i s = issueC i w.h w.c (wrapRes w y') s) (hdf : check i = none → w.df.toNat < 8)
    (hy : check i = none → ∀ e l, y' e l = y e l) :
    Computes i w.h w.d w.c (wideFmt w.df) (fun e l v ev => Wraps w.df w.sat (y e l) v ev) := by
  refine computes_of (fun e _ l => extend w.df.toNat (intBits w.df.toNat w.sat (y' e l)))
    (fun e _ l => ovOf w.df (y' e l)) hx (fun _ _ => rfl) (fun s hc l _ => ?_)
  have hcheck := State.clear_check hc
  rw [← hy hcheck]
  exact wraps_extend w.df (hdf hcheck) w.sat _

/-- A meaning that writes an integer without events. -/
theorem results_fits {i : Instr} {w : XF} {y : Env → Nat → Int} (y' : Env → Nat → Int)
    (hx : ∀ s, exec i s = issueC i w.h w.c (plainRes w y') s) (hdf : check i = none → w.df.toNat < 8)
    (hy : ∀ e l, y' e l = y e l) :
    Results i w.h w.d w.c (wideFmt w.df) (fun e l v => Fits w.df false (y e l) v) := by
  refine results_of (fun e _ l => extend w.df.toNat (intBits w.df.toNat false (y' e l))) hx (fun _ _ => rfl)
    (fun s hc l _ => ?_)
  rw [← hy]
  exact fits_extend w.df (hdf (State.clear_check hc)) false _

theorem toNat_extractLsb' {w : Nat} (x : BitVec w) (k n : Nat) :
    (x.extractLsb' k n).toNat = x.toNat / 2 ^ k % 2 ^ n := by
  rw [BitVec.extractLsb'_toNat, Nat.shiftRight_eq_div_pow]

/-- An integer format reads the bits of its own width alone. -/
theorem intOf_mod {f : BitVec 4} {k : Nat} (h : fmtBits f = k) (x : Nat) :
    intOf f.toNat (x % 2 ^ k) = intOf f.toNat x := by
  simp only [intOf, BitVec.ofNat_toNat, BitVec.setWidth_eq, h, Nat.mod_mod]

/-- The dot product over fields of the width of their format, lowest field first. -/
theorem dotFields_eq_dotOf {k : Nat} {f : BitVec 4} (h : fmtBits f = k) (a b : Word) (n : Nat) :
    dotFields f.toNat a.toNat b.toNat n = dotOf k f a b n := by
  induction n with
  | zero => rfl
  | succ n ih =>
    simp only [dotFields, dotOf, ih, toNat_extractLsb', intOf_mod h, BitVec.ofNat_toNat, BitVec.setWidth_eq, h]
    exact Int.add_comm _ _

theorem dotLane_eq {k : Nat} {w : XF} (h : fmtBits w.sf = k) (n : Nat) (e : Env) (l : Nat) :
    dotLane w n e l = dotOf k w.sf (e.rd w.a l) (e.rd w.b l) n + e.int w.df w.c l :=
  congrArg (· + e.int w.df w.c l) (dotFields_eq_dotOf h _ _ n)

theorem width_of_check_dp4 {w : XF} (h : check (.dp4 w) = none) : fmtBits w.sf = 8 := by
  obtain ⟨-, hsf | hsf⟩ := formats_of_ckDot h <;> simp [fmtBits, hsf]

theorem width_of_check_dp2 {w : XF} (h : check (.dp2 w) = none) : fmtBits w.sf = 16 := by
  obtain ⟨-, hsf | hsf⟩ := formats_of_ckDot h <;> simp [fmtBits, hsf]

theorem highPart_eq (e : Env) (w : XF) (l : Nat) :
    highPart e w l = (e.int w.df w.a l * e.int w.df w.b l).fdiv (2 ^ fmtBits w.df) := by
  have hpow : ((2 ^ fmtBits w.df : Nat) : Int) = 2 ^ fmtBits w.df := Int.natCast_pow 2 (fmtBits w.df)
  rw [← hpow]
  exact (Int.fdiv_eq_ediv_of_nonneg _ (Int.natCast_nonneg _)).symm

/-! ### Floating rows (R103, R106, R110) -/

/-- A format that is not a narrow signed integer is held with zeros above its bits (R103). -/
theorem image_extend {f : BitVec 4} (h : 8 ≤ f.toNat) (x : Nat) : Image f (extend f.toNat x) x := by
  have hnot : ¬(f.toNat < 4) := by omega
  simp [Image, extend, hnot]

/-- A meaning that writes the bits and the events of each lane's result in DF. -/
theorem computes_floatRes {i : Instr} {w : XF} {P : Env → Nat → DWord → Events → Prop}
    (f : Env → Nat → Nat × Events)
    (hx : ∀ s, exec i s = issueC i w.h w.c (fun e s => floatRes w (f e) e s) s)
    (hP : check i = none → ∀ e l, P e l (extend w.df.toNat (f e l).1) (f e l).2) :
    Computes i w.h w.d w.c (wideFmt w.df) P :=
  computes_of (fun e _ l => extend w.df.toNat (f e l).1) (fun e _ l => (f e l).2) hx (fun _ _ => rfl)
    (fun s hc l _ => hP (State.clear_check hc) (reads s i w.h) l)

/-- A meaning that rounds an exact value once. -/
theorem computes_rounds {i : Instr} {w : XF} (x : Env → Nat → FNum × Events)
    (hx : ∀ s, exec i s = issueC i w.h w.c (fun e s => floatRes w (fun l => rounded w e (x e l)) e s) s)
    (hdf : check i = none → 8 ≤ w.df.toNat) :
    Computes i w.h w.d w.c (wideFmt w.df) (fun e l v ev => Rounds w.df (e.mode w.rnd) w.sat (x e l) v ev) :=
  computes_floatRes (fun e l => rounded w e (x e l)) hx
    (fun hc e l => ⟨roundTo (ffmt w.df.toNat) (x e l).1 (e.mode w.rnd), rfl, image_extend (hdf hc) _, rfl⟩)

/-! ### Selections (R140) -/

theorem numBelow_iff (x y : FNum) :
    numBelow x y = true ↔ numCmp x y = .lt ∨ (numCmp x y = .eq ∧ x.neg = true ∧ y.neg = false) := by
  unfold numBelow
  cases numCmp x y <;> simp

/-- A selected operand as DF holds it: its own bits, or the integer of an immediate, where DF holds it. -/
def Kept (w : XF) (e : Env) (l : Nat) (v : DWord) : Operand → Prop
  | .imm k =>
    (roundTo (ffmt w.df.toNat) (FNum.ofInt k.toInt 0 false) 0).2 = 0 →
      Image w.df v (fEncode (ffmt w.df.toNat) (FNum.ofInt k.toInt 0 false))
  | o => Image w.df v (e.read (wideFmt w.df) o l).toNat

theorem image_mod {f : BitVec 4} {v : DWord} {x : Nat} (h : Image f v (x % 2 ^ fmtBits f)) : Image f v x := by
  simpa [Image] using h

theorem kept_keptBits {w : XF} (h : 8 ≤ w.df.toNat) (e : Env) (l : Nat) (o : Operand) :
    Kept w e l (extend w.df.toNat (keptBits w e o l)) o := by
  cases o with
  | imm k =>
    intro hheld
    have hbits : keptBits w e (.imm k) l = fEncode (ffmt w.df.toNat) (FNum.ofInt k.toInt 0 false) := if_pos hheld
    rw [hbits]
    exact image_extend h _
  | _ => exact image_mod (image_extend h _)

section

variable {w : XF} {greater nan : Bool} {e : Env} {l : Nat}

/-- Both operands are NaN, or one is and the row gives the NaN. -/
theorem selectOf_qnan
    (h : ((e.num w.df w.a l).isNan = true ∧ (e.num w.df w.b l).isNan = true) ∨
      (nan = true ∧ ((e.num w.df w.a l).isNan = true ∨ (e.num w.df w.b l).isNan = true))) :
    (selectOf w greater nan e l).1 = qnan (ffmt w.df.toNat) := by
  obtain ⟨ha, hb⟩ | ⟨hn, ha | hb⟩ := h
  · simp [selectOf, ha, hb]
  · simp [selectOf, ha, hn]
  · simp [selectOf, hb, hn]

theorem selectOf_left_nan (hn : nan = false) (ha : (e.num w.df w.a l).isNan = true)
    (hb : ¬(e.num w.df w.b l).isNan = true) : (selectOf w greater nan e l).1 = keptBits w e w.b l := by
  simp [selectOf, hn, ha, hb]

theorem selectOf_right_nan (hn : nan = false) (hb : (e.num w.df w.b l).isNan = true)
    (ha : ¬(e.num w.df w.a l).isNan = true) : (selectOf w greater nan e l).1 = keptBits w e w.a l := by
  simp [selectOf, hn, ha, hb]

theorem selectOf_numbers (ha : ¬(e.num w.df w.a l).isNan = true) (hb : ¬(e.num w.df w.b l).isNan = true) :
    (selectOf w greater nan e l).1 =
      if numBelow (e.num w.df w.a l) (e.num w.df w.b l) = greater then keptBits w e w.b l else keptBits w e w.a l := by
  simp [selectOf, ha, hb]

end

/-- What a selection gives, by its operands (R140). -/
def Selects (w : XF) (greater nan : Bool) (e : Env) (l : Nat) (v : DWord) (ev : Events) : Prop :=
  let a := e.num w.df w.a l
  let b := e.num w.df w.b l
  let below := numCmp a b = .lt ∨ (numCmp a b = .eq ∧ a.neg = true ∧ b.neg = false)
  ev = a.snv ||| b.snv ∧
  ((a.isNan ∧ b.isNan) ∨ (nan ∧ (a.isNan ∨ b.isNan)) → Image w.df v (qnan (ffmt w.df.toNat))) ∧
  (nan = false → a.isNan ∧ ¬b.isNan → Kept w e l v w.b) ∧
  (nan = false → b.isNan ∧ ¬a.isNan → Kept w e l v w.a) ∧
  (¬a.isNan → ¬b.isNan → ((greater = false ∧ below) ∨ (greater = true ∧ ¬below) → Kept w e l v w.a) ∧
    ((greater = false ∧ ¬below) ∨ (greater = true ∧ below) → Kept w e l v w.b))

theorem selects_selectOf {w : XF} (h : 8 ≤ w.df.toNat) (greater nan : Bool) (e : Env) (l : Nat) :
    Selects w greater nan e l (extend w.df.toNat (selectOf w greater nan e l).1) (selectOf w greater nan e l).2 := by
  have kept := kept_keptBits h e l
  refine ⟨rfl, fun hq => ?qnan, fun hn hnan => ?left, fun hn hnan => ?right,
    fun ha hb => ⟨fun hlow => ?first, fun hhigh => ?second⟩⟩
  case qnan => exact selectOf_qnan hq ▸ image_extend h _
  case left => exact selectOf_left_nan hn hnan.1 hnan.2 ▸ kept w.b
  case right => exact selectOf_right_nan hn hnan.1 hnan.2 ▸ kept w.a
  case first =>
    have hne : ¬numBelow (e.num w.df w.a l) (e.num w.df w.b l) = greater := by
      rw [← numBelow_iff] at hlow
      obtain ⟨rfl, hb⟩ | ⟨rfl, hb⟩ := hlow <;> simp [hb]
    exact (selectOf_numbers ha hb).trans (if_neg hne) ▸ kept w.a
  case second =>
    have heq : numBelow (e.num w.df w.a l) (e.num w.df w.b l) = greater := by
      rw [← numBelow_iff] at hhigh
      obtain ⟨rfl, hb⟩ | ⟨rfl, hb⟩ := hhigh <;> simpa using hb
    exact (selectOf_numbers ha hb).trans (if_pos heq) ▸ kept w.b

/-- A meaning that selects. -/
theorem computes_selects {i : Instr} {w : XF} (greater nan : Bool)
    (hx : ∀ s, exec i s = issueC i w.h w.c (fun e s => floatRes w (selectOf w greater nan e) e s) s)
    (hdf : check i = none → 8 ≤ w.df.toNat) : Computes i w.h w.d w.c (wideFmt w.df) (Selects w greater nan) :=
  computes_floatRes _ hx (fun hc => selects_selectOf (hdf hc) greater nan)

/-! ### Conversions (R149 to R151) -/

theorem convLane_eq (e : Env) (sf df : BitVec 4) (rnd : BitVec 3) (sat : Bool) (o : Operand) (l : Nat) :
    convLane e sf df rnd sat o l = converted e sf df rnd sat o l := by
  cases o <;> rfl

/-- Two fields of `n` bits, the first one lower. -/
theorem testBit_two_fields (n a b j : Nat) :
    (a % 2 ^ n + 2 ^ n * (b % 2 ^ n)).testBit j =
      if j < n then a.testBit j else decide (j < 2 * n) && b.testBit (j - n) := by
  rw [Nat.add_comm, Nat.testBit_two_pow_mul_add _ (Nat.mod_lt _ (Nat.two_pow_pos n))]
  simp only [Nat.testBit_mod_two_pow]
  split
  case isTrue h => simp [h]
  case isFalse h => exact congrArg (fun p => p && b.testBit (j - n)) (decide_eq_decide.mpr (by omega))

/-- Two fields of `n` bits from bit `at0` on, over the bits of an old word (R150). -/
def packedBit (at0 n : Nat) (old : Word) (a b : Nat) (j : Nat) : Bool :=
  if at0 ≤ j ∧ j < at0 + n then a.testBit (j - at0)
  else if at0 + n ≤ j ∧ j < at0 + 2 * n then b.testBit (j - at0 - n)
  else old.getLsbD j

section

variable {df : BitVec 4} {sub : BitVec 8} {old : Word} {a b j : Nat}

theorem testBit_packOf_halves (h : fmtBits df = 16) (hj : j < 32) :
    (packOf df sub old.toNat a b).testBit j = packedBit 0 16 old a b j := by
  rw [packOf, if_pos h, testBit_two_fields]
  by_cases hlow : j < 16
  · simp [packedBit, hlow]
  · have hhigh : 16 ≤ j := by omega
    simp [packedBit, hlow, hhigh, hj]

theorem two_bytes_lt (a b : Nat) : a % 2 ^ 8 + 2 ^ 8 * (b % 2 ^ 8) < 2 ^ 16 := by omega

theorem testBit_packOf_low (h : fmtBits df = 8) (hsub : sub = 0) :
    (packOf df sub old.toNat a b).testBit j = packedBit 0 8 old a b j := by
  have hpack : packOf df sub old.toNat a b = 2 ^ 16 * (old.toNat / 2 ^ 16) + (a % 2 ^ 8 + 2 ^ 8 * (b % 2 ^ 8)) :=
    (if_neg (by omega)).trans ((if_pos hsub).trans (congrArg (· + _) (Nat.mul_comm _ _)))
  rw [hpack, Nat.testBit_two_pow_mul_add _ (two_bytes_lt a b), testBit_two_fields, Nat.testBit_div_two_pow]
  by_cases hlow : j < 8
  · have hhalf : j < 16 := by omega
    simp [packedBit, hlow, hhalf]
  · by_cases hhalf : j < 16
    · have hhigh : 8 ≤ j := by omega
      simp [packedBit, hlow, hhigh, hhalf]
    · simp [packedBit, hlow, hhalf, Nat.sub_add_cancel (Nat.not_lt.mp hhalf), BitVec.testBit_toNat]

theorem testBit_packOf_high (h : fmtBits df = 8) (hsub : sub ≠ 0) (hj : j < 32) :
    (packOf df sub old.toNat a b).testBit j = packedBit 16 8 old a b j := by
  have hpack : packOf df sub old.toNat a b = 2 ^ 16 * (a % 2 ^ 8 + 2 ^ 8 * (b % 2 ^ 8)) + old.toNat % 2 ^ 16 :=
    (if_neg (by omega)).trans ((if_neg hsub).trans (Nat.add_comm _ _))
  rw [hpack, Nat.testBit_two_pow_mul_add _ (Nat.mod_lt _ (Nat.two_pow_pos 16)), testBit_two_fields,
    Nat.testBit_mod_two_pow]
  by_cases hhalf : j < 16
  · have h16 : ¬16 ≤ j := by omega
    have h24 : ¬24 ≤ j := by omega
    simp [packedBit, hhalf, h16, h24, BitVec.testBit_toNat]
  · have h16 : 16 ≤ j := by omega
    by_cases hlow : j < 24
    · have hbyte : j - 16 < 8 := by omega
      simp [packedBit, hhalf, h16, hlow, hbyte]
    · have hbyte : ¬j - 16 < 8 := by omega
      have h24 : 24 ≤ j := by omega
      have h2 : j - 16 < 16 := by omega
      simp [packedBit, hhalf, hlow, hbyte, h24, h2, hj]

end

/-- A packed word bit by bit: bytes go to the upper half where SUB is not 0 (R150). -/
theorem bits_packOf {df : BitVec 4} (h : fmtBits df = 16 ∨ fmtBits df = 8) (sub : BitVec 8) (old : Word) (a b : Nat) :
    Bits (BitVec.ofNat 64 (packOf df sub old.toNat a b))
      (packedBit (if fmtBits df = 8 ∧ sub ≠ 0 then 16 else 0) (fmtBits df) old a b) := by
  intro j hj
  have hwide : j < 64 := by omega
  rw [BitVec.getLsbD_ofNat, decide_eq_true hwide, Bool.true_and]
  rcases h with h | h
  · have hne : ¬(fmtBits df = 8 ∧ sub ≠ 0) := by omega
    rw [testBit_packOf_halves h hj, if_neg hne, h]
  · by_cases hsub : sub = 0
    · rw [testBit_packOf_low h hsub, if_neg (fun hb => hb.2 hsub), h]
    · rw [testBit_packOf_high h hsub hj, if_pos ⟨h, hsub⟩, h]

/-- The nibble of A that SUB names (R151). -/
theorem nibble_eq (x : Word) (k : Nat) : x.toNat / 16 ^ k % 16 = (x.extractLsb' (4 * k) 4).toNat := by
  have hpow : 16 ^ k = 2 ^ (4 * k) := (Nat.pow_mul 2 4 k).symm
  exact (congrArg (fun p => x.toNat / p % 16) hpow).trans (toNat_extractLsb' x (4 * k) 4).symm

theorem Env.cbEntry_s (e : Env) (n : BitVec 10) (k l : Nat) :
    e.cbEntry (.s n) k l = ((e.rdS (n.toNat + k / 2) l).extractLsb' (16 * (k % 2)) 16).toNat := by
  rw [toNat_extractLsb']
  rfl

end Sys2Proof.Machine

namespace Sys2Proof.Proofs

open Sys2Proof Sys2Proof.Machine Sys2Proof.Stated

/-- Settles O14: the rows that wrap are one shared meaning, and so are those without events; the dot products and the
high half by their own equations. -/
theorem integerRowsWrapOrSaturate : Obligations.IntegerRowsWrapOrSaturate := by
  unfold Obligations.IntegerRowsWrapOrSaturate
  simp only [List.forall_mem_cons, List.not_mem_nil, false_implies, implies_true, and_true]
  refine ⟨fun w => ⟨?add, ?sub, ?neg, ?abs, ?mul, ?mad, ?sad, ?dp4, ?dp2⟩,
    fun w => ⟨?mulhi, ?mulw, ?madhi, ?min, ?max⟩⟩
  case add | sub | neg | abs | mul | mad | sad => exact computes_wraps _ (fun _ => rfl) ints_of_ck (fun _ _ _ => rfl)
  case dp4 =>
    exact computes_wraps _ (fun _ => rfl) (fun h => (formats_of_ckDot h).1)
      (fun h => dotLane_eq (width_of_check_dp4 h) 4)
  case dp2 =>
    exact computes_wraps _ (fun _ => rfl) (fun h => (formats_of_ckDot h).1)
      (fun h => dotLane_eq (width_of_check_dp2 h) 2)
  case mulhi => exact results_fits _ (fun _ => rfl) ints_of_ck (fun e l => highPart_eq e w l)
  case mulw => exact results_fits _ (fun _ => rfl) ints_of_check_mulw (fun _ _ => rfl)
  case madhi =>
    exact results_fits _ (fun _ => rfl) ints_of_ck (fun e l => congrArg (· + e.int w.df w.c l) (highPart_eq e w l))
  case min => exact results_fits _ (fun _ => rfl) ints_of_ck (fun _ _ => Int.min_def _ _)
  case max => exact results_fits _ (fun _ => rfl) ints_of_ck (fun _ _ => Int.max_def _ _)

/-- Settles O22: each row hands its exact value to the one rounding. -/
theorem floatArithmeticRoundsOnce : Obligations.FloatArithmeticRoundsOnce := by
  unfold Obligations.FloatArithmeticRoundsOnce
  simp only [List.forall_mem_cons, List.not_mem_nil, false_implies, implies_true, and_true]
  refine fun w => ⟨?fadd, ?fsub, ?fmul, ?fma⟩
  case fadd | fsub | fmul | fma => exact computes_rounds _ (fun _ => rfl) floats_of_ck

/-- Settles O23: each row is one selection (`Selects`), by the cases of its operands. -/
theorem floatSelectionsReturnAnOperand : Obligations.FloatSelectionsReturnAnOperand := by
  unfold Obligations.FloatSelectionsReturnAnOperand
  intro w r hr
  simp only [List.mem_cons, List.not_mem_nil, or_false] at hr
  obtain rfl | rfl | rfl | rfl := hr
  · exact computes_selects false false (fun _ => rfl) floats_of_ck
  · exact computes_selects true false (fun _ => rfl) floats_of_ck
  · exact computes_selects false true (fun _ => rfl) floats_of_ck
  · exact computes_selects true true (fun _ => rfl) floats_of_ck

/-- Settles O26: `cvt` is one conversion, `cvtpk` packs two bit by bit, and `cvtcb` converts the entry that its code
names. -/
theorem conversionRows : Obligations.ConversionRows := by
  unfold Obligations.ConversionRows
  refine fun w => ⟨?cvt, ?cvtpk, ?cvtcb⟩
  case cvt =>
    refine computes_floatRes _ (fun _ => rfl) (fun _ e l => ?_)
    rw [convLane_eq]
    exact ⟨rfl, rfl⟩
  case cvtpk =>
    refine computes_of _ _ (fun _ => rfl) (fun _ _ => rfl) (fun s hc l _ => ?_)
    simp only [convLane_eq, true_and]
    exact bits_packOf (width_of_check_cvtpk (State.clear_check hc)) _ _ _ _
  case cvtcb =>
    refine computes_floatRes _ (fun _ => rfl) (fun _ e l k hk => ?_)
    simp only [hk, nibble_eq, Env.cbEntry_s, and_self]

end Sys2Proof.Proofs
end

section
/-! Proofs of the family of `08_float_special.md`: comparisons, classes, scaling and rounding to an integer (O24), and
the special functions with the random numbers (O25). -/

namespace Sys2Proof.Machine

open Stated

/-! ### The formats and operands that a word's checks leave (R52) -/

theorem formats_of_ck {w : XF} {useB useC rnd sat pair operands : Bool} {df sf : List Nat} {sub : Nat → Bool}
    (h : ck (xfFields w useB useC df sf rnd sat sub pair) operands = none) : w.df.toNat ∈ df ∧ w.sf.toNat ∈ sf :=
  xfFields_formats (ck_fields h)

theorem eight_le_of_mem_fp64_fp32 {n : Nat} (h : n ∈ [8, 9]) : 8 ≤ n := by
  revert n
  decide

theorem fp32_of_ck {w : XF} {useB useC rnd sat pair operands : Bool} {sf : List Nat} {sub : Nat → Bool}
    (h : ck (xfFields w useB useC [9] sf rnd sat sub pair) operands = none) : w.df = 9 :=
  BitVec.eq_of_toNat_eq (List.mem_singleton.mp (xfFields_formats (ck_fields h)).1)

theorem ck_operands {fields operands : Bool} (h : ck fields operands = none) : operands = true := by
  cases fields with
  | false => cases h
  | true =>
    cases operands with
    | false => cases h
    | true => rfl

/-! ### Significands and their last bit (R106) -/

theorem log2_mul_two_pow {m : Nat} (hm : m ≠ 0) (a : Nat) : Nat.log2 (m * 2 ^ a) = Nat.log2 m + a := by
  have hpos : 0 < 2 ^ a := Nat.two_pow_pos a
  rw [Nat.log2_eq_iff (Nat.mul_ne_zero hm (Nat.ne_of_gt hpos)), Nat.pow_add, Nat.add_right_comm, Nat.pow_add]
  exact ⟨Nat.mul_le_mul_right _ (Nat.log2_self_le hm), Nat.mul_lt_mul_of_pos_right Nat.lt_log2_self hpos⟩

theorem FNum.ofInt_of_ne {k : Int} (hk : k ≠ 0) (e : Int) (z : Bool) :
    FNum.ofInt k e z = .fin (decide (k < 0)) k.natAbs e false := if_neg hk

theorem roundMul_of_le {q e : Int} (h : q ≤ e) (mode : Nat) (s : Bool) (m : Nat) :
    roundMul mode s m e false q = (m * 2 ^ (e - q).toNat, false) := if_pos h

/-- The exponent of the last bit that a format keeps of m·2^e (R106). -/
def lastBit (F : FFmt) (m : Nat) (e : Int) : Int := max ((Nat.log2 m : Int) + e) F.emin - (F.f : Int)

/-! ### Comparisons (R141) -/

theorem truth_boolRes {b : Bool} {p : Prop} (h : b = true ↔ p) : Truth (boolRes b) p := by
  constructor
  · intro hp
    rw [h.mpr hp]
    rfl
  · intro hp
    rw [Bool.eq_false_iff.mpr (fun hb => hp (h.mp hb))]
    rfl

/-- What SUB compares (R141). -/
def Compares (sub : BitVec 8) (a b : FNum) : Prop :=
  let nan := a.isNan = true ∨ b.isNan = true
  (sub = 0 ∧ ¬nan ∧ numCmp a b = .eq) ∨ (sub = 1 ∧ (nan ∨ numCmp a b ≠ .eq)) ∨
    (sub = 2 ∧ ¬nan ∧ numCmp a b = .lt) ∨ (sub = 3 ∧ ¬nan ∧ numCmp a b ≠ .gt) ∨
    (sub = 4 ∧ ¬nan ∧ numCmp a b = .gt) ∨ (sub = 5 ∧ ¬nan ∧ numCmp a b ≠ .lt) ∨
    (sub = 6 ∧ nan) ∨ (sub = 7 ∧ ¬nan)

theorem comparisons_of_le_seven {sub : BitVec 8} (h : sub.toNat ≤ 7) :
    sub = 0 ∨ sub = 1 ∨ sub = 2 ∨ sub = 3 ∨ sub = 4 ∨ sub = 5 ∨ sub = 6 ∨ sub = 7 := by
  revert sub
  decide

theorem fcmpOf_iff {sub : BitVec 8} (h : sub.toNat ≤ 7) (a b : FNum) :
    (fcmpOf sub.toNat a b).1 = true ↔ Compares sub a b := by
  obtain rfl | rfl | rfl | rfl | rfl | rfl | rfl | rfl := comparisons_of_le_seven h
  all_goals simp [fcmpOf, Compares]

/-- The ordered comparisons raise NV for any NaN, the others for a signalling one. -/
theorem fcmpOf_events {sub : BitVec 8} (h : sub.toNat ≤ 7) (a b : FNum) :
    (fcmpOf sub.toNat a b).2 =
      if 2 ≤ sub.toNat ∧ sub.toNat ≤ 5 then (if a.isNan || b.isNan then evNV else 0) else a.snv ||| b.snv := by
  obtain rfl | rfl | rfl | rfl | rfl | rfl | rfl | rfl := comparisons_of_le_seven h
  all_goals rfl

theorem sub_le_seven_of_check_fcmp {w : XF} (h : check (.fcmp w) = none) : w.sub.toNat ≤ 7 := by
  have hfields := ck_fields h
  simp only [xfFields, Bool.and_eq_true] at hfields
  obtain ⟨-, hsub⟩ := hfields
  exact of_decide_eq_true hsub

/-! ### The values that encodings stand for (R101, R102) -/

section

variable {F : FFmt} {x : Nat}

/-- The exponent field of an encoding. -/
def expField (F : FFmt) (x : Nat) : Nat := x / 2 ^ F.f % 2 ^ F.e

theorem nbits_eq_expField (he : 0 < F.e) : nbits x (F.e + F.f - 1) F.f = expField F x := by
  have hwidth : F.e + F.f - 1 + 1 - F.f = F.e := by omega
  rw [nbits, Nat.shiftRight_eq_div_pow, hwidth, expField]

theorem top_ne_zero (he : 0 < F.e) : 2 ^ F.e - 1 ≠ 0 := by
  have hpow : 2 ^ 1 ≤ 2 ^ F.e := Nat.pow_le_pow_right Nat.two_pos he
  omega

theorem fDecode_nan (he : 0 < F.e) (hinf : F.inf = true) (htop : expField F x = 2 ^ F.e - 1) (hfr : x % 2 ^ F.f ≠ 0) :
    fDecode F x = .nan (!(x % 2 ^ F.f).testBit (F.f - 1)) := by
  simp [fDecode, nbits_eq_expField he, hinf, htop, hfr]

theorem fDecode_inf (he : 0 < F.e) (hinf : F.inf = true) (htop : expField F x = 2 ^ F.e - 1) (hfr : x % 2 ^ F.f = 0) :
    fDecode F x = .inf (x.testBit (F.e + F.f)) := by
  simp [fDecode, nbits_eq_expField he, hinf, htop, hfr]

/-- The one NaN of a format without infinities (R102). -/
theorem fDecode_nan_of_finite (he : 0 < F.e) (hinf : F.inf = false) (htop : expField F x = 2 ^ F.e - 1)
    (hfr : x % 2 ^ F.f = 2 ^ F.f - 1) : fDecode F x = .nan false := by
  simp [fDecode, nbits_eq_expField he, hinf, htop, hfr]

theorem fDecode_zero (he : 0 < F.e) (hex : expField F x = 0) (hfr : x % 2 ^ F.f = 0) :
    fDecode F x = .zero (x.testBit (F.e + F.f)) := by
  have htop := (top_ne_zero he).symm
  simp [fDecode, nbits_eq_expField he, hex, hfr, htop]

theorem fDecode_subnormal (he : 0 < F.e) (hex : expField F x = 0) (hfr : x % 2 ^ F.f ≠ 0) :
    fDecode F x = .fin (x.testBit (F.e + F.f)) (x % 2 ^ F.f) (F.emin - (F.f : Int)) false := by
  have htop := (top_ne_zero he).symm
  simp [fDecode, nbits_eq_expField he, hex, hfr, htop]

theorem fDecode_normal (he : 0 < F.e) (hex : expField F x ≠ 0)
    (hfin : ¬(expField F x = 2 ^ F.e - 1 ∧ (F.inf = true ∨ x % 2 ^ F.f = 2 ^ F.f - 1))) :
    fDecode F x = .fin (x.testBit (F.e + F.f)) (2 ^ F.f + x % 2 ^ F.f)
      ((expField F x : Int) - (F.bias : Int) - (F.f : Int)) false := by
  cases hinf : F.inf with
  | true =>
    have htop : ¬expField F x = 2 ^ F.e - 1 := fun h => hfin ⟨h, .inl hinf⟩
    simp [fDecode, nbits_eq_expField he, hinf, hex, htop]
  | false =>
    have htop : expField F x = 2 ^ F.e - 1 → ¬x % 2 ^ F.f = 2 ^ F.f - 1 := fun h hfr => hfin ⟨h, .inr hfr⟩
    simpa [fDecode, nbits_eq_expField he, hinf, hex] using htop

end

theorem Env.num_eq_fDecode {o : Operand} (h : isImm o = false) (e : Env) (f : BitVec 4) (l : Nat) :
    e.num f o l = fDecode (ffmt f.toNat) ((e.read (wideFmt f) o l).toNat % 2 ^ fmtBits f) := by
  cases o with
  | imm k => cases h
  | _ => rfl

theorem fmtBits_eq_width {f : BitVec 4} (h : f.toNat ∈ [8, 9, 10, 11, 12, 13]) : fmtBits f = (ffmt f.toNat).width := by
  revert f
  decide

theorem exponent_pos (c : Nat) : 0 < (ffmt c).e := by
  unfold ffmt
  split <;> decide

/-! ### Classes (R142) -/

/-- The class word of a value. -/
def classWord (F : FFmt) (imm : Bool) (x : FNum) : DWord := BitVec.ofNat 64 (2 ^ classBit F imm x)

theorem classWord_ofInt (F : FFmt) (k : Int) :
    classWord F true (FNum.ofInt k 0 false) = if k = 0 then 64 else if 0 < k then 256 else 8 := by
  obtain hk | rfl | hk := Int.lt_trichotomy k 0
  · have h0 : k ≠ 0 := by omega
    have hpos : ¬0 < k := by omega
    rw [FNum.ofInt_of_ne h0, if_neg h0, if_neg hpos]
    simp [classWord, classBit, hk]
  · rfl
  · have h0 : k ≠ 0 := by omega
    have hneg : ¬k < 0 := by omega
    rw [FNum.ofInt_of_ne h0, if_neg h0, if_pos hk]
    simp [classWord, classBit, hneg]

/-- The class of an encoding, by its fields (R101, R102, R142). -/
theorem classWord_fDecode {F : FFmt} (he : 0 < F.e) (x : Nat) :
    let v := classWord F false (fDecode F x)
    let ex := expField F x
    let fr := x % 2 ^ F.f
    let neg := x.testBit (F.e + F.f)
    let top := ex = 2 ^ F.e - 1
    (F.inf = true ∧ top ∧ fr ≠ 0 → v = BitVec.ofNat 64 (if fr.testBit (F.f - 1) then 2 else 1)) ∧
    (F.inf = false ∧ top ∧ fr = 2 ^ F.f - 1 → v = 2) ∧
    (F.inf = true ∧ top ∧ fr = 0 → v = if neg then 4 else 512) ∧
    (ex = 0 ∧ fr = 0 → v = if neg then 32 else 64) ∧
    (ex = 0 ∧ fr ≠ 0 → v = if neg then 16 else 128) ∧
    (ex ≠ 0 ∧ ¬(top ∧ (F.inf = true ∨ fr = 2 ^ F.f - 1)) → v = if neg then 8 else 256) := by
  refine ⟨fun ⟨hinf, htop, hfr⟩ => ?nan, fun ⟨hinf, htop, hfr⟩ => ?oneNan, fun ⟨hinf, htop, hfr⟩ => ?inf,
    fun ⟨hex, hfr⟩ => ?zero, fun ⟨hex, hfr⟩ => ?subnormal, fun ⟨hex, hfin⟩ => ?normal⟩
  case nan =>
    rw [fDecode_nan he hinf htop hfr]
    cases hq : (x % 2 ^ F.f).testBit (F.f - 1) <;> simp [classWord, classBit]
  case oneNan =>
    rw [fDecode_nan_of_finite he hinf htop hfr]
    rfl
  case inf =>
    rw [fDecode_inf he hinf htop hfr]
    cases x.testBit (F.e + F.f) <;> rfl
  case zero =>
    rw [fDecode_zero he hex hfr]
    cases x.testBit (F.e + F.f) <;> rfl
  case subnormal =>
    rw [fDecode_subnormal he hex hfr]
    have hsmall : x % 2 ^ F.f < 2 ^ F.f := Nat.mod_lt _ (Nat.two_pow_pos _)
    cases x.testBit (F.e + F.f) <;> simp [classWord, classBit, hsmall]
  case normal =>
    rw [fDecode_normal he hex hfin]
    have hbig : ¬2 ^ F.f + x % 2 ^ F.f < 2 ^ F.f := by omega
    cases x.testBit (F.e + F.f) <;> simp [classWord, classBit, hbig]

/-! ### Rounding to an integer (R143) -/

/-- A format with infinities whose values reach from fractions to integers beyond its precision: FP64, FP32, FP16 and
BF16. -/
structure HasIntegers (F : FFmt) : Prop where
  inf : F.inf = true
  expBits : 0 < F.e
  emin : F.emin ≤ 0
  maxExp : 0 < F.maxExp

theorem hasIntegers_of_mem_floats {c : Nat} (h : c ∈ floats) : HasIntegers (ffmt c) := by
  simp only [floats, List.mem_cons, List.not_mem_nil, or_false] at h
  rcases h with rfl | rfl | rfl | rfl
  all_goals exact ⟨rfl, by decide, by decide, by decide⟩

/-- A finite value that an encoding with infinities stands for has at most P bits and an exponent up to that of
MaxFinite. -/
theorem fDecode_fin_bounds {F : FFmt} (hF : HasIntegers F) {x : Nat} {s : Bool} {m : Nat} {e : Int} {st : Bool}
    (h : fDecode F x = .fin s m e st) : 0 < m ∧ m < 2 ^ (F.f + 1) ∧ e ≤ F.maxExp := by
  obtain ⟨hinf, he, hemin, hmax⟩ := hF
  have hfr : x % 2 ^ F.f < 2 ^ F.f := Nat.mod_lt _ (Nat.two_pow_pos _)
  have hpow : 2 ^ (F.f + 1) = 2 ^ F.f + 2 ^ F.f := by rw [Nat.pow_succ]; omega
  by_cases hex : expField F x = 0
  · by_cases h0 : x % 2 ^ F.f = 0
    · rw [fDecode_zero he hex h0] at h
      cases h
    · rw [fDecode_subnormal he hex h0] at h
      cases h
      exact ⟨by omega, by omega, by omega⟩
  · by_cases htop : expField F x = 2 ^ F.e - 1
    · by_cases h0 : x % 2 ^ F.f = 0
      · rw [fDecode_inf he hinf htop h0] at h
        cases h
      · rw [fDecode_nan he hinf htop h0] at h
        cases h
    · rw [fDecode_normal he hex (fun hb => htop hb.1)] at h
      cases h
      have hlt : expField F x < 2 ^ F.e := Nat.mod_lt _ (Nat.two_pow_pos _)
      have hcast : ((2 ^ F.e : Nat) : Int) = 2 ^ F.e := Int.natCast_pow 2 F.e
      refine ⟨by omega, by omega, ?_⟩
      rw [FFmt.maxExp, if_pos hinf]
      omega

theorem roundMul_of_dvd (mode : Nat) (s : Bool) {m sh : Nat} (h : 2 ^ sh ∣ m) :
    roundMul mode s m 0 false (sh : Int) = (m / 2 ^ sh, false) := by
  cases sh with
  | zero =>
    rw [Nat.pow_zero, Nat.div_one]
    refine (roundMul_of_le (Int.le_refl 0) mode s m).trans ?_
    rw [Int.sub_self, Int.toNat_zero, Nat.pow_zero, Nat.mul_one]
  | succ n =>
    have hneg : ¬(0 : Int) ≥ ((n + 1 : Nat) : Int) := by omega
    have hsh : (((n + 1 : Nat) : Int) - 0).toNat = n + 1 := by omega
    rw [roundMul, if_neg hneg, hsh]
    dsimp only
    rw [Nat.mod_eq_zero_of_dvd h]
    exact if_pos rfl

/-- A value that is a multiple of its last kept bit, and no greater than MaxFinite, is rounded without an event. -/
theorem roundTo_exact {F : FFmt} {mode : Nat} {s : Bool} {m n : Nat} {e : Int}
    (hr : roundMul mode s m e false (lastBit F m e) = (n, false))
    (hfit : lastBit F m e < F.maxExp ∨ (lastBit F m e = F.maxExp ∧ n ≤ F.maxSig)) :
    (roundTo F (.fin s m e false) mode).2 = 0 := by
  have hno : ¬((decide (lastBit F m e > F.maxExp) ||
      decide (lastBit F m e = F.maxExp) && decide (n > F.maxSig)) = true) := by
    simp only [Bool.or_eq_true, Bool.and_eq_true, decide_eq_true_eq]
    omega
  unfold lastBit at hr hno
  simp only [roundTo, hr]
  rw [if_neg hno]
  simp

/-- An integer of at most P significant bits is rounded to itself, and raises nothing. -/
theorem roundTo_int {F : FFmt} (hF : HasIntegers F) (s : Bool) {m k : Nat} (hm : 0 < m) (hbits : m < 2 ^ (F.f + 1))
    (hk : (k : Int) ≤ F.maxExp) (mode : Nat) : (roundTo F (.fin s (m * 2 ^ k) 0 false) mode).2 = 0 := by
  obtain ⟨hinf, -, hemin, hmax⟩ := hF
  have hlog : Nat.log2 m < F.f + 1 := (Nat.log2_lt (Nat.ne_of_gt hm)).mpr hbits
  have hlast : lastBit F (m * 2 ^ k) 0 = (Nat.log2 m : Int) + k - F.f := by
    rw [lastBit, log2_mul_two_pow (Nat.ne_of_gt hm)]
    omega
  by_cases hq : lastBit F (m * 2 ^ k) 0 ≤ 0
  · exact roundTo_exact (roundMul_of_le hq _ _ _) (.inl (by omega))
  · obtain ⟨sh, hsh⟩ := Int.eq_ofNat_of_zero_le (by omega : 0 ≤ lastBit F (m * 2 ^ k) 0)
    have hdvd : 2 ^ sh ∣ m * 2 ^ k := Nat.dvd_mul_left_of_dvd (Nat.pow_dvd_pow 2 (by omega)) m
    have hsig : m * 2 ^ k / 2 ^ sh ≤ F.maxSig := by
      have hlt : m * 2 ^ k / 2 ^ sh < 2 ^ F.prec := by
        rw [Nat.div_lt_iff_lt_mul (Nat.two_pow_pos sh), ← Nat.pow_add]
        calc m * 2 ^ k < 2 ^ (Nat.log2 m + 1) * 2 ^ k :=
              Nat.mul_lt_mul_of_pos_right Nat.lt_log2_self (Nat.two_pow_pos k)
          _ = 2 ^ (Nat.log2 m + 1 + k) := (Nat.pow_add 2 _ k).symm
          _ ≤ 2 ^ (F.prec + sh) := Nat.pow_le_pow_right Nat.two_pos (by rw [FFmt.prec]; omega)
      rw [FFmt.maxSig, if_pos hinf]
      omega
    refine roundTo_exact (hsh ▸ roundMul_of_dvd mode s hdvd) ?_
    omega

theorem roundMul_zero_of_nonneg {e : Int} (he : 0 ≤ e) (mode : Nat) (s : Bool) (m : Nat) :
    roundMul mode s m e false 0 = (m * 2 ^ e.toNat, false) := by
  rw [roundMul_of_le he, Int.sub_zero]

theorem ite_succ_le (up : Bool) (n : Nat) : (if up = true then n + 1 else n) ≤ n + 1 := by
  cases up <;> simp

/-- A magnitude of at most P bits with a fraction rounds to an integer of fewer bits, or to the power of two above
them. -/
theorem roundMul_zero_of_neg {e : Int} (he : e < 0) (mode : Nat) (s : Bool) {m f : Nat} (hm : m < 2 ^ (f + 1)) :
    (roundMul mode s m e false 0).1 ≤ 2 ^ f := by
  have hhalf : m / 2 ^ (0 - e).toNat < 2 ^ f := by
    rw [Nat.div_lt_iff_lt_mul (Nat.two_pow_pos _), ← Nat.pow_add]
    exact Nat.lt_of_lt_of_le hm (Nat.pow_le_pow_right Nat.two_pos (by omega))
  have hneg : ¬e ≥ 0 := by omega
  rw [roundMul, if_neg hneg]
  dsimp only
  split
  · exact Nat.le_of_lt hhalf
  · exact Nat.le_trans (ite_succ_le _ _) hhalf

/-- A value of the format, rounded to an integer, is a value of the format. -/
theorem roundTo_integral {F : FFmt} (hF : HasIntegers F) (x mode mode' : Nat) :
    (roundTo F (integral mode (fDecode F x)).1 mode').2 = 0 := by
  cases hx : fDecode F x with
  | nan g => rfl
  | inf s => rfl
  | zero s => rfl
  | fin s m e st =>
    obtain ⟨hm, hbits, hmax⟩ := fDecode_fin_bounds hF hx
    by_cases h0 : (roundMul mode s m e false 0).1 = 0
    · have hint : integral mode (.fin s m e st) = (.zero s, 0) := congrArg (·, 0) (if_pos h0)
      rw [hint]
      rfl
    · have hint : integral mode (.fin s m e st) = (.fin s (roundMul mode s m e false 0).1 0 false, 0) :=
        congrArg (·, 0) (if_neg h0)
      rw [hint]
      by_cases he : 0 ≤ e
      · rw [roundMul_zero_of_nonneg he]
        exact roundTo_int hF s hm hbits (by omega) mode'
      · have hle := roundMul_zero_of_neg (Int.not_le.mp he) mode s hbits
        have hlt : 2 ^ F.f < 2 ^ (F.f + 1) := Nat.pow_lt_pow_right (by omega) (by omega)
        have hone := roundTo_int hF s (k := 0) (Nat.pos_of_ne_zero h0) (by omega) (Int.le_of_lt hF.maxExp) mode'
        rwa [Nat.pow_zero, Nat.mul_one] at hone

theorem integral_events (mode : Nat) (x : FNum) : (integral mode x).2 = x.snv := by
  cases x <;> rfl

theorem frndOf_held {w : XF} {e : Env} {l : Nat}
    (h : (roundTo (ffmt w.df.toNat) (integral (e.mode w.rnd) (e.num w.df w.a l)).1 0).2 = 0) :
    frndOf w e l = (fEncode (ffmt w.df.toNat) (if w.sat then satF (ffmt w.df.toNat)
      (integral (e.mode w.rnd) (e.num w.df w.a l)).1 else (integral (e.mode w.rnd) (e.num w.df w.a l)).1),
      (integral (e.mode w.rnd) (e.num w.df w.a l)).2) := if_pos h

theorem frndOf_events (w : XF) (e : Env) (l : Nat) : (frndOf w e l).2 = (e.num w.df w.a l).snv := by
  rw [← integral_events (e.mode w.rnd)]
  by_cases h : (roundTo (ffmt w.df.toNat) (integral (e.mode w.rnd) (e.num w.df w.a l)).1 0).2 = 0
  · exact congrArg Prod.snd (frndOf_held h)
  · exact congrArg Prod.snd (if_neg h)

/-- Only an immediate can round to an integer that DF does not hold (R143). -/
theorem frnd_held_of_register {w : XF} (hdf : w.df.toNat ∈ floats) (ha : isImm w.a = false) (e : Env) (l : Nat) :
    (roundTo (ffmt w.df.toNat) (integral (e.mode w.rnd) (e.num w.df w.a l)).1 0).2 = 0 := by
  rw [Env.num_eq_fDecode ha]
  exact roundTo_integral (hasIntegers_of_mem_floats hdf) _ _ _

/-! ### Roots and quotients (R145, R147) -/

theorem isqrtFrom_spec (n b r : Nat) (hlow : r * r ≤ n) (hhigh : n < (r + 2 ^ b) * (r + 2 ^ b)) :
    isqrtFrom n b r * isqrtFrom n b r ≤ n ∧ n < (isqrtFrom n b r + 1) * (isqrtFrom n b r + 1) := by
  induction b generalizing r with
  | zero => exact ⟨hlow, hhigh⟩
  | succ b ih =>
    have hhalves : r + 2 ^ (b + 1) = r + 2 ^ b + 2 ^ b := by rw [Nat.pow_succ]; omega
    rw [hhalves] at hhigh
    by_cases ht : (r + 2 ^ b) * (r + 2 ^ b) ≤ n
    · simpa only [isqrtFrom, if_pos ht] using ih (r + 2 ^ b) ht hhigh
    · simpa only [isqrtFrom, if_neg ht] using ih r hlow (Nat.lt_of_not_le ht)

theorem isqrt_spec (n : Nat) : isqrt n * isqrt n ≤ n ∧ n < (isqrt n + 1) * (isqrt n + 1) := by
  have hhigh : n < (0 + 2 ^ (Nat.log2 n / 2 + 1)) * (0 + 2 ^ (Nat.log2 n / 2 + 1)) := by
    rw [Nat.zero_add, ← Nat.pow_add]
    exact Nat.lt_of_lt_of_le Nat.lt_log2_self (Nat.pow_le_pow_right (by omega) (by omega))
  exact isqrtFrom_spec n _ 0 (Nat.zero_le n) hhigh

/-- The significand over an even exponent: e = 2·⌊e/2⌋ + (e mod 2). -/
def evenSig (m : Nat) (e : Int) : Nat := m * 2 ^ (e % 2).toNat

theorem ite_odd_sig (m : Nat) (e : Int) : (if (e % 2 != 0) = true then 2 * m else m) = evenSig m e := by
  unfold evenSig
  obtain h | h : e % 2 = 0 ∨ e % 2 = 1 := by omega
  · simp [h]
  · simp [h, Nat.mul_comm]

theorem ite_odd_exp (e : Int) : (if (e % 2 != 0) = true then e - 1 else e) / 2 = e / 2 := by
  obtain h | h : e % 2 = 0 ∨ e % 2 = 1 := by omega
  · simp [h]
  · simp only [h, bne_iff_ne, ne_eq, Int.one_ne_zero, not_false_eq_true, if_true]
    omega

theorem rootOf_eq (m : Nat) (e : Int) :
    rootOf m e = .fin false (isqrt (evenSig m e * 2 ^ 320)) (e / 2 - 160)
      (decide (isqrt (evenSig m e * 2 ^ 320) * isqrt (evenSig m e * 2 ^ 320) ≠ evenSig m e * 2 ^ 320)) := by
  simp only [rootOf, ite_odd_sig, ite_odd_exp]

theorem invRootOf_eq (m : Nat) (e : Int) :
    ∃ st, invRootOf m e = .fin false (isqrt (2 ^ 640 / evenSig m e)) (-(e / 2) - 320) st := by
  simp only [invRootOf, ite_odd_sig, ite_odd_exp, FNum.fin.injEq, true_and, exists_eq']

theorem evenSig_pos {m : Nat} (hm : 0 < m) (e : Int) : 0 < evenSig m e := Nat.mul_pos hm (Nat.two_pow_pos _)

theorem evenSig_lt {m : Nat} (hm : m < 2 ^ 53) (e : Int) : evenSig m e < 2 ^ 54 := by
  have hbit : 2 ^ (e % 2).toNat ≤ 2 ^ 1 := Nat.pow_le_pow_right (by omega) (by omega)
  have hle : evenSig m e ≤ m * 2 := Nat.mul_le_mul_left m hbit
  omega

/-- A value m·2^x with x not below an even exponent of the same oddness, over `evenSig`. -/
theorem mul_two_pow_eq_evenSig (m : Nat) (e : Int) (t : Nat) {x : Int} (hx : x = t + e % 2) :
    m * 2 ^ x.toNat = evenSig m e * 2 ^ t := by
  have hsum : x.toNat = (e % 2).toNat + t := by omega
  rw [hsum, Nat.pow_add, evenSig, Nat.mul_assoc]

/-- Squares bracket a number that is scaled by a square as they bracket the number. -/
theorem isqrt_bracket (N t : Nat) :
    (isqrt N * 2 ^ t) ^ 2 ≤ N * 2 ^ (2 * t) ∧ N * 2 ^ (2 * t) < ((isqrt N + 1) * 2 ^ t) ^ 2 ∧
      (decide (isqrt N * isqrt N ≠ N) = false ↔ (isqrt N * 2 ^ t) ^ 2 = N * 2 ^ (2 * t)) := by
  have hpos : 0 < 2 ^ (2 * t) := Nat.two_pow_pos _
  have hsq : ∀ a : Nat, (a * 2 ^ t) ^ 2 = a * a * 2 ^ (2 * t) := fun a => by
    rw [Nat.mul_pow, ← Nat.pow_mul, Nat.mul_comm t 2, Nat.pow_two]
  obtain ⟨hlow, hhigh⟩ := isqrt_spec N
  rw [hsq, hsq]
  refine ⟨Nat.mul_le_mul_right _ hlow, Nat.mul_lt_mul_of_pos_right hhigh hpos, ?_⟩
  rw [Nat.mul_left_inj (Nat.ne_of_gt hpos), decide_eq_false_iff_not, Decidable.not_not]

theorem two_pow_le_isqrt {a b N : Nat} (hb : 2 * a ≤ b) (h : 2 ^ b ≤ N) : 2 ^ a ≤ isqrt N := by
  have hsq : 2 ^ a * 2 ^ a ≤ N := by
    rw [← Nat.pow_add, ← Nat.two_mul]
    exact Nat.le_trans (Nat.pow_le_pow_right Nat.two_pos hb) h
  have hnext := Nat.lt_of_le_of_lt hsq (isqrt_spec N).2
  exact Nat.le_of_lt_succ (Nat.lt_of_not_le fun hle => Nat.not_lt.mpr (Nat.mul_le_mul hle hle) hnext)

theorem two_pow_le_div {a b c d N : Nat} (hd : 0 < d) (hb : d < 2 ^ b) (hc : a + b ≤ c) (h : 2 ^ c ≤ N) :
    2 ^ a ≤ N / d := by
  rw [Nat.le_div_iff_mul_le hd]
  calc 2 ^ a * d ≤ 2 ^ a * 2 ^ b := Nat.mul_le_mul_left _ (Nat.le_of_lt hb)
    _ = 2 ^ (a + b) := (Nat.pow_add 2 a b).symm
    _ ≤ 2 ^ c := Nat.pow_le_pow_right Nat.two_pos hc
    _ ≤ N := h

/-- R145's root of a finite operand: bracketed by its significand and the next one. -/
theorem rootOf_bracket {m : Nat} (hm : 0 < m) (e : Int) :
    ∃ n k st, sqrtOf (.fin false m e false) = (.fin false n k st, 0) ∧ 2 ^ 60 ≤ n ∧
      ∀ c : Nat, 0 ≤ e + 2 * c → 0 ≤ k + c →
        (n * 2 ^ (k + c).toNat) ^ 2 ≤ m * 2 ^ (e + 2 * c).toNat ∧
        m * 2 ^ (e + 2 * c).toNat < ((n + 1) * 2 ^ (k + c).toNat) ^ 2 ∧
        (st = false ↔ (n * 2 ^ (k + c).toNat) ^ 2 = m * 2 ^ (e + 2 * c).toNat) := by
  refine ⟨_, _, _, congrArg (·, 0) (rootOf_eq m e), ?_, fun c _ hk => ?_⟩
  · exact two_pow_le_isqrt (by omega) (Nat.le_mul_of_pos_left _ (evenSig_pos hm e))
  · have hscale : m * 2 ^ (e + 2 * c).toNat = evenSig m e * 2 ^ 320 * 2 ^ (2 * (e / 2 - 160 + c).toNat) := by
      rw [Nat.mul_assoc, ← Nat.pow_add]
      exact mul_two_pow_eq_evenSig m e _ (by omega)
    rw [hscale]
    exact isqrt_bracket _ _

theorem lt_succ_div_mul {d : Nat} (hd : 0 < d) (N : Nat) : N < (N / d + 1) * d := by
  rw [Nat.add_mul, Nat.one_mul]
  exact Nat.lt_div_mul_add hd

/-- The root of a quotient, rounded down twice, brackets the root of the exact quotient. -/
theorem isqrt_div_bracket {d N : Nat} (hd : 0 < d) :
    isqrt (N / d) ^ 2 * d ≤ N ∧ N < (isqrt (N / d) + 1) ^ 2 * d := by
  obtain ⟨hlow, hhigh⟩ := isqrt_spec (N / d)
  rw [Nat.pow_two, Nat.pow_two]
  constructor
  · calc isqrt (N / d) * isqrt (N / d) * d ≤ N / d * d := Nat.mul_le_mul_right d hlow
      _ ≤ N := Nat.div_mul_le_self N d
  · calc N < (N / d + 1) * d := lt_succ_div_mul hd N
      _ ≤ _ := Nat.mul_le_mul_right d hhigh

/-- R147's `rsq` of a finite operand: truncated from a bracketed significand. -/
theorem rsqOf_bracket {m : Nat} (hm : 0 < m) (hm53 : m < 2 ^ 53) (e : Int) :
    ∃ n k st, rsqOf (.fin false m e false) = trunc1 (.fin false n k st) ∧ 2 ^ 60 ≤ n ∧
      ∀ c : Nat, 0 ≤ 2 * k + e + c →
        n ^ 2 * m * 2 ^ (2 * k + e + c).toNat ≤ 2 ^ c ∧ 2 ^ c < (n + 1) ^ 2 * m * 2 ^ (2 * k + e + c).toNat := by
  obtain ⟨st, hroot⟩ := invRootOf_eq m e
  obtain ⟨hlow, hhigh⟩ := isqrt_div_bracket (N := 2 ^ 640) (evenSig_pos hm e)
  refine ⟨_, _, st, congrArg trunc1 hroot, ?_, fun c hc => ?_⟩
  · refine two_pow_le_isqrt (b := 120) (by omega) ?_
    exact two_pow_le_div (evenSig_pos hm e) (evenSig_lt hm53 e) (by omega) (Nat.le_refl _)
  · generalize isqrt (2 ^ 640 / evenSig m e) = n at hlow hhigh
    generalize hx : 2 * (-(e / 2) - 320) + e + c = x at hc
    have hbit : 0 < 2 ^ (e % 2).toNat := Nat.two_pow_pos _
    have hscale : 2 ^ 640 * 2 ^ x.toNat = 2 ^ c * 2 ^ (e % 2).toNat := by
      rw [← Nat.pow_add, ← Nat.pow_add]
      congr 1
      omega
    have hsig : ∀ a : Nat, a * m * 2 ^ x.toNat * 2 ^ (e % 2).toNat = a * evenSig m e * 2 ^ x.toNat := fun a => by
      rw [evenSig, Nat.mul_right_comm, Nat.mul_assoc a m]
    constructor
    · refine Nat.le_of_mul_le_mul_right ?_ hbit
      rw [hsig, ← hscale]
      exact Nat.mul_le_mul_right _ hlow
    · refine Nat.lt_of_mul_lt_mul_right (a := 2 ^ (e % 2).toNat) ?_
      rw [hsig, ← hscale]
      exact Nat.mul_lt_mul_of_pos_right hhigh (Nat.two_pow_pos _)

/-- R145's quotient of finite operands: bracketed by its significand and the next one. -/
theorem quotOf_bracket {m p : Nat} (hm : 0 < m) (hp : 0 < p) (hp53 : p < 2 ^ 53) (s u : Bool) (e f : Int) :
    ∃ n k st, fdivOf (.fin s m e false) (.fin u p f false) = (.fin (xor s u) n k st, 0) ∧ 2 ^ 60 ≤ n ∧
      ∀ c : Nat, 0 ≤ e + c → 0 ≤ k + f + c →
        n * p * 2 ^ (k + f + c).toNat ≤ m * 2 ^ (e + c).toNat ∧
        m * 2 ^ (e + c).toNat < (n + 1) * p * 2 ^ (k + f + c).toNat ∧
        (st = false ↔ n * p * 2 ^ (k + f + c).toNat = m * 2 ^ (e + c).toNat) := by
  refine ⟨m * 2 ^ 320 / p, e - f - 320, decide (m * 2 ^ 320 / p * p ≠ m * 2 ^ 320), rfl, ?_, fun c _ hk => ?_⟩
  · exact two_pow_le_div hp hp53 (c := 320) (by omega) (Nat.le_mul_of_pos_left _ hm)
  · generalize ht : (e - f - 320 + f + c).toNat = t
    have hscale : m * 2 ^ (e + c).toNat = m * 2 ^ 320 * 2 ^ t := by
      have hsum : (e + c).toNat = 320 + t := by omega
      calc m * 2 ^ (e + c).toNat = m * (2 ^ 320 * 2 ^ t) := by rw [hsum, ← Nat.pow_add]
        _ = m * 2 ^ 320 * 2 ^ t := (Nat.mul_assoc m _ _).symm
    have hpos : 0 < 2 ^ t := Nat.two_pow_pos _
    have hnext := lt_succ_div_mul hp (m * 2 ^ 320)
    rw [hscale]
    refine ⟨Nat.mul_le_mul_right _ (Nat.div_mul_le_self _ p), Nat.mul_lt_mul_of_pos_right hnext hpos, ?_⟩
    rw [Nat.mul_left_inj (Nat.ne_of_gt hpos), decide_eq_false_iff_not, Decidable.not_not]

/-- R147's `rcp` is the truncated quotient 1/a. -/
theorem rcpOf_eq_trunc1 (s : Bool) (p : Nat) (f : Int) :
    ∃ n k st, rcpOf (.fin s p f false) = trunc1 (.fin s n k st) ∧
      ∃ q, fdivOf (.fin false 1 0 false) (.fin false p f false) = (q, 0) ∧ q = .fin false n k st :=
  ⟨_, _, _, rfl, _, rfl, rfl⟩

/-! ### Exact results of `ex2` and `lg2` (R148) -/

theorem f32_emin : f32.emin = -126 := rfl

theorem f32_fraction : (f32.f : Int) = 23 := rfl

theorem log2_one_add (k : Int) : ((Nat.log2 1 : Nat) : Int) + k = k := by
  rw [show Nat.log2 1 = 0 from rfl]
  exact Int.zero_add k

/-- An encoding depends on the value alone, not on how far its significand is shifted. -/
theorem fEncode_shift {F : FFmt} {m : Nat} (hm : m ≠ 0) (s : Bool) {e : Int} {a : Nat} (h : lastBit F m e ≤ e - a) :
    fEncode F (.fin s (m * 2 ^ a) (e - a) false) = fEncode F (.fin s m e false) := by
  have hlog : ((Nat.log2 m + a : Nat) : Int) + (e - a) = (Nat.log2 m : Int) + e := by omega
  unfold lastBit at h
  have hge : max ((Nat.log2 m : Int) + e) F.emin - (F.f : Int) ≤ e := by omega
  have hsig : m * 2 ^ a * 2 ^ (e - a - (max ((Nat.log2 m : Int) + e) F.emin - F.f)).toNat =
      m * 2 ^ (e - (max ((Nat.log2 m : Int) + e) F.emin - F.f)).toNat := by
    rw [Nat.mul_assoc, ← Nat.pow_add]
    congr 2
    omega
  simp only [fEncode, log2_mul_two_pow hm, hlog, ge_iff_le, h, hge, if_true, hsig]

/-- A value that Chop2 keeps whole raises nothing and keeps its encoding (R147). -/
theorem chop2_exact {m : Nat} (hm : m ≠ 0) (s : Bool) {e : Int} (h : lastBit f32 m e + 1 ≤ e) :
    (chop2 (.fin s m e false)).2 = 0 ∧ fEncode f32 (chop2 (.fin s m e false)).1 = fEncode f32 (.fin s m e false) := by
  obtain ⟨a, ha⟩ := Int.eq_ofNat_of_zero_le (Int.sub_nonneg_of_le h)
  have hq : max ((Nat.log2 m : Int) + e) f32.emin - 22 = e - a := by
    rw [← ha, lastBit, f32_fraction]
    omega
  have hn : m * 2 ^ a ≠ 0 := Nat.mul_ne_zero hm (Nat.ne_of_gt (Nat.two_pow_pos a))
  have hkept : chop2 (.fin s m e false) = (.fin s (m * 2 ^ a) (e - a) false, 0) := by
    have hshift : (e - (e - (a : Int))).toNat = a := by omega
    simp only [chop2, hq, roundMul_of_le (show e - (a : Int) ≤ e by omega), hshift, if_neg hn, Bool.false_and,
      Bool.false_eq_true, if_false, BitVec.or_self]
  rw [hkept]
  exact ⟨rfl, fEncode_shift hm s (by omega)⟩

theorem fixOf_int (m : Nat) : fixOf m 0 = m * fixOne := by
  rw [fixOf, if_pos (by decide), Int.zero_add, Int.toNat_natCast, fixOne]

/-- 2^k for an integer k of at most ten bits is a power of two (R147). -/
theorem exp2Of_int {k : Int} (hk : k ≠ 0) (hsmall : k.natAbs < 2 ^ 10) :
    exp2Of (decide (k < 0)) k.natAbs 0 = .fin false 1 k false := by
  have hlog : Nat.log2 k.natAbs < 10 := (Nat.log2_lt (by omega)).mpr hsmall
  have hbig : ¬((Nat.log2 k.natAbs : Int) + 0 ≥ 10) := by omega
  have hpos : 0 < fixOne := Nat.two_pow_pos fixBits
  have hone : ((fixOne : Nat) : Int) ≠ 0 := by omega
  have hfix : (if decide (k < 0) = true then (-1 : Int) else 1) * (fixOf k.natAbs 0 : Nat) = k * (fixOne : Nat) := by
    rw [fixOf_int, Int.natCast_mul, ← Int.mul_assoc]
    congr 1
    by_cases hneg : k < 0
    · simp only [hneg, decide_true, if_true]
      omega
    · simp only [hneg, decide_false, Bool.false_eq_true, if_false]
      omega
  simp only [exp2Of, if_neg hbig, hfix, Int.mul_ediv_cancel _ hone, Int.mul_emod_left, if_true]

theorem numCmp_positive (m n : Nat) (e f : Int) :
    numCmp (.fin false m e false) (.fin false n f false) =
      compare (FNum.at (.fin false m e false) (min e f)) (FNum.at (.fin false n f false) (min e f)) := by
  simp only [numCmp, ne_eq, not_true_eq_false, if_false, FNum.exp]

theorem FNum.at_zero_of_int (m : Nat) : FNum.at (.fin false m 0 false) 0 = m := by
  rw [FNum.at, if_neg Bool.false_ne_true, Int.one_mul, Int.sub_self, Int.toNat_zero, Nat.pow_zero, Nat.mul_one]

theorem numCmp_lt_128 {m : Nat} (h : m < 128) : numCmp (.fin false m 0 false) (.fin false 1 7 false) = .lt := by
  have hmin : min (0 : Int) 7 = 0 := by omega
  have hscale : FNum.at (.fin false 1 7 false) 0 = 128 := by decide
  have hlt : (m : Int) < 128 := by omega
  rw [numCmp_positive, hmin, FNum.at_zero_of_int, hscale]
  exact Int.compare_eq_lt.mpr hlt

/-- The encoding of a power of two that FP32 holds (R101). -/
theorem fEncode_two_pow {k : Int} (hlow : -149 ≤ k) :
    fEncode f32 (.fin false 1 k false) = if -126 ≤ k then (k + 127).toNat * 2 ^ 23 else 2 ^ (k + 149).toNat := by
  have hf : f32.f = 23 := rfl
  have hbias : f32.bias = 127 := rfl
  have hge : k ≥ max k (-126) - ((23 : Nat) : Int) := by omega
  simp only [fEncode, log2_one_add, f32_emin, hf, hbias, if_pos hge, Nat.one_mul, Bool.false_eq_true, if_false,
    Nat.zero_add]
  by_cases hnorm : -126 ≤ k
  · have hmax : max k (-126) = k := by omega
    have hexp : (k - (k - ((23 : Nat) : Int))).toNat = 23 := by omega
    rw [hmax, hexp, if_neg (Nat.lt_irrefl _), Nat.sub_self, Nat.add_zero, if_pos hnorm]
    rfl
  · have hmax : max k (-126) = -126 := by omega
    have hexp : (k - (-126 - ((23 : Nat) : Int))).toNat = (k + 149).toNat := by omega
    have hsub : 2 ^ (k + 149).toNat < 2 ^ 23 := Nat.pow_lt_pow_right (by omega) (by omega)
    rw [hmax, hexp, if_pos hsub, if_neg hnorm]

theorem ex2Of_int {k : Int} (hlow : -148 ≤ k) (hhigh : k ≤ 127) :
    (ex2Of (FNum.ofInt k 0 false)).2 = 0 ∧ fEncode (ffmt 9) (ex2Of (FNum.ofInt k 0 false)).1 =
      if -126 ≤ k then (k + 127).toNat * 2 ^ 23 else 2 ^ (k + 149).toNat := by
  rw [← fEncode_two_pow (by omega : -149 ≤ k)]
  by_cases hk : k = 0
  · subst hk
    exact ⟨rfl, rfl⟩
  · have hex : ex2Of (FNum.ofInt k 0 false) = chop2 (.fin false 1 k false) := by
      rw [FNum.ofInt_of_ne hk, ← exp2Of_int hk (by omega)]
      refine if_neg ?_
      by_cases hneg : k < 0
      · simp [hneg]
      · simp [hneg, numCmp_lt_128 (show k.natAbs < 128 by omega)]
    rw [hex]
    refine chop2_exact Nat.one_ne_zero false ?_
    rw [lastBit, log2_one_add, f32_emin, f32_fraction]
    omega

theorem log2Of_two_pow (j : Nat) (e : Int) : log2Of (2 ^ j) e = FNum.ofInt (j + e) 0 false := by
  simp only [log2Of, Nat.log2_two_pow, if_true]

/-- An integer of at most 22 bits is a logarithm that Chop2 keeps whole. -/
theorem chop2_int {n : Int} (hn : n.natAbs < 2 ^ 22) :
    (chop2 (FNum.ofInt n 0 false)).2 = 0 ∧
      fEncode f32 (chop2 (FNum.ofInt n 0 false)).1 = fEncode f32 (FNum.ofInt n 0 false) := by
  by_cases h0 : n = 0
  · subst h0
    exact ⟨rfl, rfl⟩
  · rw [FNum.ofInt_of_ne h0]
    have hlog : Nat.log2 n.natAbs < 22 := (Nat.log2_lt (by omega)).mpr hn
    refine chop2_exact (by omega) _ ?_
    rw [lastBit, f32_emin, f32_fraction]
    omega

/-! ### Special operands (R145, R146, R148) -/

theorem fdivOf_nan {x y : FNum} (h : x.isNan = true ∨ y.isNan = true) :
    (fdivOf x y).1.isNan = true ∧ (fdivOf x y).2 = x.snv ||| y.snv := by
  cases x with
  | nan g => exact ⟨rfl, rfl⟩
  | _ =>
    cases y with
    | nan g => exact ⟨rfl, rfl⟩
    | _ => simp [FNum.isNan] at h

theorem sinPi_of_int (s : Bool) (m : Nat) {e : Int} (he : 0 ≤ e) : sinPi (.fin s m e false) = (.zero s, 0) :=
  if_pos he

theorem cosPi_of_int (s : Bool) (m : Nat) {e : Int} (he : 0 ≤ e) :
    cosPi (.fin s m e false) = (.fin (decide (m * 2 ^ e.toNat % 2 = 1)) 1 0 false, 0) := by
  refine (if_pos he).trans ?_
  obtain ⟨n, rfl⟩ := Int.eq_ofNat_of_zero_le he
  cases n with
  | zero => simp
  | succ n =>
    have heven : m * 2 ^ (n + 1) % 2 = 0 := by rw [Nat.pow_succ, ← Nat.mul_assoc, Nat.mul_mod_left]
    simp [heven]

/-- An odd number of halves, counted within a period of four, and on which side of a whole it lies. -/
theorem odd_halves_mod {m : Nat} (hm : 0 < m) : (2 * m - 1) % 4 = if m % 2 = 0 then 3 else 1 := by
  split <;> omega

theorem sinPi_of_halves (s : Bool) {m : Nat} (hm : 0 < m) :
    sinPi (.fin s (2 * m - 1) (-1) false) = (.fin (xor s (decide (m % 2 = 0))) 1 0 false, 0) := by
  have hmod := odd_halves_mod hm
  by_cases heven : m % 2 = 0
  · simp [sinPi, hmod, heven]
  · simp [sinPi, hmod, heven]

theorem cosPi_of_halves (s : Bool) {m : Nat} (hm : 0 < m) :
    cosPi (.fin s (2 * m - 1) (-1) false) = (.zero false, 0) := by
  have hmod := odd_halves_mod hm
  by_cases heven : m % 2 = 0
  · simp [cosPi, hmod, heven]
  · simp [cosPi, hmod, heven]

/-! ### Philox (R152) -/

theorem philox_zero : philox 10 (0, 0, 0, 0) 0 0 = (0x6627E8D5, 0xE169C58D, 0xBC57AC4C, 0x9B00DBD8) := by decide

/-! ### Lanes of a draw (R153) -/

theorem drawAll_of_off {e : Env} {s : State} (h : grainOn s e.g = false) (uniform : Bool) (ls : List Nat)
    (vs : List (Nat × Word)) :
    drawAll e uniform ls s vs =
      (.run s none, (ls.map (fun l => (l, Config.entropy s.tick l))).reverse ++ vs) := by
  induction ls generalizing vs with
  | nil => rfl
  | cons l r ih =>
    have hquiet : grainEvent s e.g (drawEvent e uniform s l) none = .run s none := by simp [grainEvent, h]
    simp [drawAll, hquiet, ih]

theorem drawn_of_off {e : Env} {s : State} (h : grainOn s e.g = false) (uniform : Bool) (ls : List Nat) :
    drawn e uniform ls s = (.run s none, (ls.map (fun l => (l, Config.entropy s.tick l))).reverse) := by
  simp [drawn, h, drawAll_of_off h]

/-- The value of a lane among drawn values, 0 where it has none. -/
def wordFor (vs : List (Nat × Word)) (l : Nat) : DWord :=
  match findBy (fun (v : Nat × Word) => v.1 == l) vs with
  | some v => v.2.setWidth 64
  | none => 0

theorem wordFor_drawn {f : Nat → Word} {ls : List Nat} {l : Nat} (h : l ∈ ls) :
    wordFor (ls.map (fun k => (k, f k))).reverse l = (f l).setWidth 64 := by
  have hsome : (findBy (fun (v : Nat × Word) => v.1 == l) (ls.map (fun k => (k, f k))).reverse).isSome = true := by
    rw [findBy_isSome, List.any_eq_true]
    exact ⟨(l, f l), List.mem_reverse.mpr (List.mem_map.mpr ⟨l, h, rfl⟩), beq_self_eq_true l⟩
  obtain ⟨v, hv⟩ := Option.isSome_iff_exists.mp hsome
  obtain ⟨hmem, heq⟩ := findBy_mem hv
  simp only [List.mem_reverse, List.mem_map] at hmem
  obtain ⟨k, -, rfl⟩ := hmem
  have hk : k = l := by simpa using heq
  simp only [wordFor, hv, hk]

theorem lowest_mem_take_one {m : Mask} {l : Nat} (h : m.getLsbD l = true) : lowest m ∈ (lanesOf m).take 1 := by
  cases hls : lanesOf m with
  | nil => exact absurd (mem_lanesOf_of_getLsbD h) (by simp [hls])
  | cons x r => simp [lowest, hls]

theorem mem_drawLanes {act : Mask} {d : Operand} {l : Nat} (hact : act.getLsbD l = true)
    (h : l = lowest act ∨ (∀ n, d ≠ .s n) ∧ ∀ n, d ≠ .sr n) : l ∈ drawLanes act d := by
  unfold drawLanes
  split
  case isTrue hu =>
    obtain rfl | ⟨hs, hsr⟩ := h
    · exact lowest_mem_take_one hact
    · cases d with
      | s n => exact absurd rfl (hs n)
      | sr n => exact absurd rfl (hsr n)
      | _ => cases hu
  case isFalse => exact mem_lanesOf_of_getLsbD hact

/-! ### Lanes of `sample.cat` (R154) -/

theorem upFrom_eq_map (lo n : Nat) : upFrom lo n = (List.range n).map (fun k => lo + k) := by
  induction n generalizing lo with
  | zero => rfl
  | succ n ih =>
    rw [upFrom, ih, List.range_succ_eq_map, List.map_cons, List.map_map]
    simp [Function.comp_def, Nat.add_assoc, Nat.add_comm 1]

theorem lanes_eq_range : lanes = List.range 32 := by decide

/-! ### Results with events, by their outcome (R111, R112) -/

section

variable {e : Env} {wide : Bool} {h : Hdr} {d c : Operand} {f : Nat → DWord} {ev : Nat → Events} {s : State}

theorem arithRes_event {cause : Cause} {bit : Events}
    (ht : trapOf e.g.regs.astat (eventsOf e.act ev) = some (cause, bit)) :
    arithRes e wide h d c f ev s =
      .trap { cause := cause, lmask := maskOf (fun l => e.act.getLsbD l && ev l &&& bit != 0) } := by
  simp only [arithRes, ht]

theorem arithRes_refused (ht : trapOf e.g.regs.astat (eventsOf e.act ev) = none)
    (hv : e.act ≠ 0 ∧ srValueBad d (f (lowest e.act)) = true) :
    arithRes e wide h d c f ev s = .trap { cause := .illegalField, lmask := e.act } := by
  have hv' : (decide (e.act ≠ 0) && srValueBad d (f (lowest e.act))) = true := by simpa using hv
  simp only [arithRes, ht, if_pos hv']

theorem arithRes_written (ht : trapOf e.g.regs.astat (eventsOf e.act ev) = none)
    (hv : ¬(e.act ≠ 0 ∧ srValueBad d (f (lowest e.act)) = true)) :
    arithRes e wide h d c f ev s =
      .adv (s.updGrp s.cur.gid (fun g => (g.writeDup e.pix e.act wide h d c f).raise e.fin (eventsOf e.act ev))) := by
  have hv' : ¬((decide (e.act ≠ 0) && srValueBad d (f (lowest e.act))) = true) := by simpa using hv
  simp only [arithRes, ht, if_neg hv']

theorem writeRes_refused (hv : e.act ≠ 0 ∧ srValueBad d (f (lowest e.act)) = true) :
    writeRes e wide h d c f s = .trap { cause := .illegalField, lmask := e.act } :=
  if_pos (by simpa using hv)

theorem writeRes_written (hv : ¬(e.act ≠ 0 ∧ srValueBad d (f (lowest e.act)) = true)) :
    writeRes e wide h d c f s = .adv (s.updGrp s.cur.gid (fun g => g.writeDup e.pix e.act wide h d c f)) :=
  if_neg (by simpa using hv)

end

/-! ### The second destination of `sincospi` (R146) -/

@[simp] theorem Group.writeDup_gid (g : Group) (pix : Nat) (act : Mask) (wide : Bool) (h : Hdr) (d c : Operand)
    (f : Nat → DWord) : (g.writeDup pix act wide h d c f).gid = g.gid := by
  have hwrite := g.write_gid pix act wide d f
  unfold Group.writeDup
  split
  · exact hwrite
  · split
    · exact hwrite
    · split
      · cases c <;> exact hwrite
      · exact hwrite

theorem laneWrite_low (n : Nat) (act : Mask) (f : Nat → DWord) (m : Sparse Word) :
    laneWrite false n act (fun l => ((f l).setWidth 32).setWidth 64) m = laneWrite false n act f m := by
  simp [laneWrite]

/-- A single write of a per-lane register takes the low 32 bits of its values (R77). -/
theorem Group.write_low {d : Operand} (hd : isVQX d = true) (g : Group) (pix : Nat) (act : Mask) (f : Nat → DWord) :
    g.write pix act false d (fun l => ((f l).setWidth 32).setWidth 64) = g.write pix act false d f := by
  cases d with
  | v n => simp only [Group.write_v, laneWrite_low]
  | q n => simp only [Group.write_q, laneWrite_low]
  | x n => simp only [Group.write_x, laneWrite_low]
  | _ => cases hd

/-- A 32-bit image as its register holds it (R103). -/
theorem extend_f32 (x : Nat) : extend 9 x = ((BitVec.ofNat 64 x).setWidth 32).setWidth 64 := by
  apply BitVec.eq_of_toNat_eq
  simp [extend, fmtBits]

theorem isVQX_of_check_sincospi {w : XF} (h : check (.sincospi w) = none) : isVQX w.c = true := by
  have hops := ck_operands h
  simp only [Bool.and_eq_true] at hops
  obtain ⟨⟨-, hc⟩, -⟩ := hops
  exact hc

/-! ### The special functions as results (R144 to R148) -/

/-- A meaning that writes an FP32 result as its rule has brought it there. -/
theorem computes_finished {i : Instr} {w : XF} (x : Env → Nat → FNum × Events)
    (hx : ∀ s, exec i s = issueC i w.h w.c (fun e s => floatRes w (fun l => bounded w (x e l)) e s) s)
    (hdf : check i = none → w.df = 9) :
    Computes i w.h w.d w.c (wideFmt w.df) (fun e l v ev => Finished w.sat (x e l) v ev) := by
  refine computes_floatRes (fun e l => bounded w (x e l)) hx (fun hc e l => ⟨?_, rfl⟩)
  rw [hdf hc]
  exact image_extend (by decide) _

theorem rounds_rounded {w : XF} (hdf : 8 ≤ w.df.toNat) (e : Env) (x : FNum × Events) :
    Rounds w.df (e.mode w.rnd) w.sat x (extend w.df.toNat (rounded w e x).1) (rounded w e x).2 :=
  ⟨roundTo (ffmt w.df.toNat) x.1 (e.mode w.rnd), rfl, image_extend hdf _, rfl⟩

/-- The sine of a lane as `sincospi` rounds it (R146). -/
def sinLane (w : XF) (e : Env) (l : Nat) : Nat × Events := rounded w e (sinPi (e.num w.df w.a l))

/-- The cosine of a lane as `sincospi` rounds it (R146). -/
def cosLane (w : XF) (e : Env) (l : Nat) : Nat × Events := rounded w e (cosPi (e.num w.df w.a l))

/-- The sine as D takes it (R103). -/
def sinWord (w : XF) (e : Env) (l : Nat) : DWord := extend w.df.toNat (sinLane w e l).1

/-- The cosine as C takes it (R103). -/
def cosWord (w : XF) (e : Env) (l : Nat) : DWord := extend w.df.toNat (cosLane w e l).1

/-- The events of both, which a lane raises as one set (R146). -/
def sincosEvents (w : XF) (e : Env) (l : Nat) : Events := (sinLane w e l).2 ||| (cosLane w e l).2

/-- The meaning of `sincospi`. -/
def sincosBody (w : XF) (e : Env) (s : State) : Res :=
  secondDest e w.c (fun l => BitVec.ofNat 64 (cosLane w e l).1)
    (arithRes e (wideFmt w.df) w.h w.d w.c (sinWord w e) (sincosEvents w e) s) s

theorem exec_sincospi (w : XF) (s : State) :
    exec (.sincospi w) s = issueC (.sincospi w) w.h unused (sincosBody w) s := rfl

theorem secondDest_written {f : Group → Group} (hf : ∀ g, (f g).gid = g.gid) (e : Env) (d : Operand)
    (v : Nat → DWord) (s : State) :
    secondDest e d v (.adv (s.updGrp s.cur.gid f)) s =
      .adv (s.updGrp s.cur.gid (fun g => (f g).write e.pix e.act false d v)) :=
  congrArg Res.adv (State.updGrp_updGrp s s.cur.gid f _ hf)

/-- Where `sincospi` completes, the sine goes to D and its duplicate, and then the cosine to C. -/
theorem sincosBody_written {w : XF} {e : Env} {s : State} (hdf : w.df = 9) (hc : isVQX w.c = true)
    (ht : trapOf e.g.regs.astat (eventsOf e.act (sincosEvents w e)) = none)
    (hv : ¬(e.act ≠ 0 ∧ srValueBad w.d (sinWord w e (lowest e.act)) = true)) :
    sincosBody w e s = .adv (s.updGrp s.cur.gid (fun g =>
      ((g.writeDup e.pix e.act (wideFmt w.df) w.h w.d w.c (sinWord w e)).raise e.fin
        (eventsOf e.act (sincosEvents w e))).write e.pix e.act false w.c (cosWord w e))) := by
  have hcos : cosWord w e = fun l => ((BitVec.ofNat 64 (cosLane w e l).1).setWidth 32).setWidth 64 :=
    funext fun l => by rw [cosWord, hdf]; exact extend_f32 _
  simp only [hcos, Group.write_low hc]
  rw [sincosBody, arithRes_written ht hv]
  refine secondDest_written (fun g => ?_) e w.c _ s
  rw [Group.raise_gid, Group.writeDup_gid]

theorem sincospi_results {w : XF} {s : State} (hc : s.clear (.sincospi w) w.h = true) :
    let e := reads s (.sincospi w) w.h
    match trapOf e.g.regs.astat (eventsOf e.act (sincosEvents w e)) with
    | some (cause, bit) =>
      Traps (.sincospi w) s
        { cause := cause, lmask := maskOf (fun l => e.act.getLsbD l && sincosEvents w e l &&& bit != 0) }
    | none =>
      if e.act ≠ 0 ∧ srValueBad w.d (sinWord w e (lowest e.act)) = true
      then Traps (.sincospi w) s { cause := .illegalField, lmask := e.act }
      else Runs (.sincospi w) w.h unused s (fun g =>
        ((g.writeDup e.pix e.act (wideFmt w.df) w.h w.d w.c (sinWord w e)).raise e.fin
          (eventsOf e.act (sincosEvents w e))).write e.pix e.act false w.c (cosWord w e)) := by
  have hcheck := State.clear_check hc
  have hx := exec_sincospi w s
  intro e
  cases ht : trapOf e.g.regs.astat (eventsOf e.act (sincosEvents w e)) with
  | some p => exact traps_of hx hc (congrArg (secondDest e w.c _ · _) (arithRes_event ht))
  | none =>
    by_cases hv : e.act ≠ 0 ∧ srValueBad w.d (sinWord w e (lowest e.act)) = true
    · rw [if_pos hv]
      exact traps_of hx hc (congrArg (secondDest e w.c _ · _) (arithRes_refused ht hv))
    · rw [if_neg hv]
      exact runs_of hx hc (sincosBody_written (fp32_of_ck hcheck) (isVQX_of_check_sincospi hcheck) ht hv)

/-! ### Random numbers as results (R153) -/

/-- `trng` where no grain ring logs or replays its draws. -/
theorem trng_draws {w : XN} {s : State} (hc : s.clear (.trng w) w.h = true)
    (hoff : grainOn (s.touch (.trng w)) (reads s (.trng w) w.h).g = false) :
    let e := reads s (.trng w) w.h
    let f := wordFor ((drawLanes e.act w.d).map (fun l => (l, Config.entropy s.tick l))).reverse
    if e.act ≠ 0 ∧ srValueBad w.d (f (lowest e.act)) = true
    then Traps (.trng w) s { cause := .illegalField, lmask := e.act }
    else Runs (.trng w) w.h unused s (fun g => g.writeDup e.pix e.act false w.h w.d unused f) := by
  have hx : exec (.trng w) s = execTrng w s := rfl
  intro e f
  have hdrawn : ∀ ls, drawn e (uniformDest w.d) ls (s.touch (.trng w)) =
      (.run (s.touch (.trng w)) none, (ls.map (fun l => (l, Config.entropy s.tick l))).reverse) :=
    drawn_of_off hoff _
  by_cases hv : e.act ≠ 0 ∧ srValueBad w.d (f (lowest e.act)) = true
  · rw [if_pos hv]
    refine traps_of hx hc ?_
    rw [hdrawn]
    exact writeRes_refused hv
  · rw [if_neg hv]
    refine runs_of hx hc ?_
    rw [hdrawn]
    exact writeRes_written hv

end Sys2Proof.Machine

namespace Sys2Proof.Proofs

open Sys2Proof Sys2Proof.Machine Sys2Proof.Stated

/-- Settles O24: `fcmp` by the cases of SUB, `fclass` by the fields of the encoding, `fscale` as one rounding, and
`frnd` because a value of DF rounded to an integer is a value of DF. -/
theorem floatCompareClassScaleRound : Obligations.FloatCompareClassScaleRound := by
  unfold Obligations.FloatCompareClassScaleRound
  refine fun w => ⟨?fcmp, ?fclass, ?fscale, ?frnd⟩
  case fcmp =>
    refine computes_of _ _ (fun _ => rfl) (fun _ _ => rfl) (fun s hc l _ => ?_)
    have hsub := sub_le_seven_of_check_fcmp (State.clear_check hc)
    have hev := fcmpOf_events hsub ((reads s (.fcmp w) w.h).num w.sf w.a l) ((reads s (.fcmp w) w.h).num w.sf w.b l)
    exact ⟨truth_boolRes (fcmpOf_iff hsub _ _), fun h => hev.trans (if_pos h), fun h => hev.trans (if_neg h)⟩
  case fclass =>
    refine results_of (fun e _ l => classWord (ffmt w.sf.toNat) (isImm w.a) (e.num w.sf w.a l)) (fun _ => rfl)
      (fun _ _ => rfl) (fun s hc l _ => ⟨fun k hk => ?imm, fun ha => ?field⟩)
    case imm =>
      rw [hk]
      exact classWord_ofInt _ _
    case field =>
      rw [ha, Env.num_eq_fDecode ha, fmtBits_eq_width (formats_of_ck (State.clear_check hc)).2]
      exact classWord_fDecode (exponent_pos _) _
  case fscale => exact computes_rounds _ (fun _ => rfl) floats_of_ck
  case frnd =>
    refine computes_floatRes _ (fun _ => rfl) (fun hc e l => ⟨frndOf_events w e l, fun h => ?_⟩)
    have hdf := (formats_of_ck hc).1
    rw [frndOf_held (h.elim (fun ha => frnd_held_of_register hdf ha e l) id)]
    exact image_extend (eight_le_of_mem_floats hdf) _

/-- Settles O25: the rows hand their values to one rounding or to none (`computes_rounds`, `computes_finished`); the
special operands by the branches of each function; roots and quotients by their brackets; `ex2` and `lg2` by values that
Chop2 keeps whole. -/
theorem specialFunctionAndRandomRows : Obligations.SpecialFunctionAndRandomRows := by
  unfold Obligations.SpecialFunctionAndRandomRows
  refine ⟨⟨fun w => ⟨?rounded, ?finished, ?sincospi⟩, fun x y => fdivOf_nan, ?nan, ?special, ?negative, rfl, rfl, rfl,
    rfl, rfl, ?brackets, fun k => ex2Of_int, ?lg2⟩, ?rng, philox_zero, ?trng, ?sampleCat⟩
  case rounded =>
    simp only [List.forall_mem_cons, List.not_mem_nil, false_implies, implies_true, and_true]
    refine ⟨?sqrt, ?fdiv, ?sinpi, ?cospi⟩
    case sqrt | fdiv => exact computes_rounds _ (fun _ => rfl) (fun h => eight_le_of_mem_fp64_fp32 (formats_of_ck h).1)
    case sinpi | cospi => exact computes_rounds _ (fun _ => rfl) (fun h => (fp32_of_ck h) ▸ by decide)
  case finished =>
    simp only [List.forall_mem_cons, List.not_mem_nil, false_implies, implies_true, and_true]
    refine ⟨?rcp, ?rsq, ?ex2, ?log, ?tanh⟩
    case rcp | rsq | ex2 | log | tanh => exact computes_finished _ (fun _ => rfl) fp32_of_ck
  case sincospi =>
    intro s hc
    have hdf : 8 ≤ w.df.toNat := by rw [fp32_of_ck (State.clear_check hc)]; decide
    exact ⟨_, _, _, _, fun l _ => ⟨rounds_rounded hdf _ _, rounds_rounded hdf _ _⟩, sincospi_results hc⟩
  case nan =>
    intro x hx
    cases x with
    | nan g =>
      simp only [List.forall_mem_cons, List.not_mem_nil, false_implies, implies_true, and_true]
      exact ⟨⟨rfl, rfl⟩, ⟨rfl, rfl⟩, ⟨rfl, rfl⟩, ⟨rfl, rfl⟩, ⟨rfl, rfl⟩, ⟨rfl, rfl⟩, ⟨rfl, rfl⟩, rfl, rfl⟩
    | _ => cases hx
  case special =>
    intro s u
    refine ⟨rfl, rfl, rfl, rfl, rfl, rfl, rfl, rfl, rfl, rfl, rfl, rfl, rfl, rfl, rfl, rfl, fun m e hm => ?_⟩
    exact ⟨rfl, rfl, rfl, rfl, sinPi_of_int s m, cosPi_of_int s m, sinPi_of_halves s hm, cosPi_of_halves s hm⟩
  case negative =>
    simp only [List.forall_mem_cons, List.not_mem_nil, false_implies, implies_true, and_true]
    exact ⟨⟨rfl, fun _ _ => rfl⟩, ⟨rfl, fun _ _ => rfl⟩, rfl, fun _ _ => rfl⟩
  case brackets =>
    exact fun m e hm hm53 => ⟨rootOf_bracket hm e, rsqOf_bracket hm hm53 e, fun s u p f hp hp53 =>
      ⟨quotOf_bracket hm hp hp53 s u e f, rcpOf_eq_trunc1 s p f⟩⟩
  case lg2 =>
    intro j e hj hlow hhigh
    have hlg : lg2Of (.fin false (2 ^ j) e false) = chop2 (FNum.ofInt (e + j) 0 false) := by
      rw [Int.add_comm, ← log2Of_two_pow]
      rfl
    rw [hlg]
    exact chop2_int (by omega)
  case rng =>
    intro w s hc
    have hx : exec (.rng w) s = execRng w s := rfl
    exact runs_of hx hc rfl
  case trng => exact fun w s hc hoff => ⟨_, fun l hl hd => wordFor_drawn (mem_drawLanes hl hd), trng_draws hc hoff⟩
  case sampleCat =>
    refine fun w => computes_of _ _ (fun _ => rfl) (fun _ _ => rfl) (fun s hc l _ => ?_)
    simp only [Env.compat, upFrom_eq_map, lanes_eq_range, and_self]

end Sys2Proof.Proofs
end

section
/-! Proofs of the family of `09_matrix.md`: the issue of matrix instructions (O46), and what matrix operations do when
they are performed (O47). -/

namespace Sys2Proof.Machine

open Stated

/-! ### The tiles that an instruction names (R157, R158) -/

theorem tileTrap_of_missing {e : Env} {t : Nat} {ts : List Nat} (hmem : t ∈ ts) (ht : ¬t < e.launch.hdr.tiles) :
    tileTrap e ts = some { cause := .illegalOperand, lmask := e.act } :=
  if_pos (Bool.or_eq_true_iff.mpr (.inr (List.any_eq_true.mpr ⟨t, hmem, decide_eq_true (Nat.not_lt.mp ht)⟩)))

theorem tileTrap_eq_none {e : Env} {ts : List Nat} (h0 : 0 < e.launch.hdr.tiles)
    (hts : ∀ t ∈ ts, t < e.launch.hdr.tiles) : tileTrap e ts = none := by
  refine if_neg ?_
  simp only [Bool.or_eq_true, decide_eq_true_eq, List.any_eq_true, not_or, not_exists, not_and, Nat.not_le]
  exact ⟨Nat.ne_of_gt h0, hts⟩

theorem tileTrap_one {e : Env} {t : Nat} (ht : t < e.launch.hdr.tiles) : tileTrap e [t] = none :=
  tileTrap_eq_none (Nat.zero_lt_of_lt ht) (by simpa using ht)

theorem tileTrap_two {e : Env} {t u : Nat} (ht : t < e.launch.hdr.tiles) (hu : u < e.launch.hdr.tiles) :
    tileTrap e [t, u] = none :=
  tileTrap_eq_none (Nat.zero_lt_of_lt ht) (by simpa using ⟨ht, hu⟩)

/-! ### The issue of a matrix instruction (R158) -/

section

variable {ts : List Nat} {f : Env → Except Trap MatOp} {e : Env} {s : State} {t : Trap} {m : MatOp}

theorem matrixRes_tileTrap (ht : tileTrap e ts = some t) : matrixRes ts f e s = .trap t := by
  rw [matrixRes, ht]

theorem matrixRes_trap (ht : tileTrap e ts = none) (ha : e.act ≠ 0) (hf : f e = .error t) :
    matrixRes ts f e s = .trap t := by
  rw [matrixRes, ht]
  dsimp only
  rw [if_neg ha, hf]

/-- An instruction whose operands pass their checks posts its operation, and one with an empty Active() whose operands are
not judged posts the same. -/
theorem matrixRes_post (ht : tileTrap e ts = none) (hf : e.act ≠ 0 → f e = .ok m) :
    matrixRes ts f e s = postMatrix e m s := by
  rw [matrixRes, ht]
  dsimp only
  by_cases ha : e.act = 0
  · simp only [postMatrix, if_pos ha]
  · rw [if_neg ha, hf ha]

end

section

variable {i : Instr} {h : Hdr} {c : Operand} {body : Env → State → Res} {s : State} {m : MatOp}

theorem postMatrix_free (hfree : (reads s i h).g.ctr .mx < 63) :
    postMatrix (reads s i h) m (s.touch i) =
      .adv ((s.touch i).addOp s.cur.gid s.cur.path .mx (reads s i h).act []
        ((reads s i h).g.depsOf s.cur.path 0 false) 0 false 0 ((reads s i h).act == 0)
        (.matrix (if (reads s i h).act = 0 then .none else m))) :=
  if_neg (Nat.not_le.mpr hfree)

theorem posts_of (hx : exec i s = issueC i h c body s) (hc : s.clear i h = true)
    (hfree : (reads s i h).g.ctr .mx < 63)
    (hb : body (reads s i h) (s.touch i) = postMatrix (reads s i h) m (s.touch i)) : Posts i h c s m :=
  hx.trans (issueC_adv i h c body s _ hc (hb.trans (postMatrix_free hfree)))

end

/-! ### Descriptors and register blocks (R160, R161) -/

/-- Only mode TRAP traps for a word in flight (R219). -/
theorem State.flight_ne_trap {s : State} {gid : Nat}
    (h : (s.launchOf (s.grp gid).die (s.grp gid).lchid).sbmode ≠ 1) (pix addr n : Nat) :
    s.flight gid pix addr n ≠ .trap := by
  unfold State.flight
  have hmode : ((s.launchOf (s.grp gid).die (s.grp gid).lchid).sbmode == 1) = false := beq_eq_false_iff_ne.mpr h
  simp only [hmode, Bool.and_false, Bool.false_eq_true, if_false]
  split
  · decide
  · split <;> decide

theorem flightOf_eq_none {s : State} {i : Instr} {h : Hdr} (hmode : (reads s i h).launch.sbmode ≠ 1) (as : List Nat) :
    (reads s i h).flightOf as = none := by
  have hnone : findBy (fun a => (reads s i h).flight (reads s i h).s a 1 == .trap) as = none :=
    findBy_eq_none.mpr fun a _ =>
      beq_eq_false_iff_ne.mpr (State.flight_ne_trap (s := s.touch i) (gid := s.cur.gid) hmode _ a 1)
  rw [Env.flightOf, hnone]
  rfl

/-- The trap of a descriptor of `steps` steps whose rows hold `bytes` (R161, R169). -/
def Env.stepTrap (e : Env) (n : BitVec 10) (bytes steps : Nat) : Option Trap :=
  let w0 := e.g.rdS n.toNat
  let w1 := e.g.rdS (n.toNat + 1)
  descTrap e w0 w1 true (if steps = 0 then none else some (descSpan (descOf w0 w1) steps + bytes - 1))

/-- The descriptor that a register pair holds (R160). -/
def Env.descAt (e : Env) (n : BitVec 10) : MatSrc := descOf (e.g.rdS n.toNat) (e.g.rdS (n.toNat + 1))

/-- The register block at a V register; the other files are taken for v0. -/
def Env.blockAt (e : Env) (o : Operand) (n : Nat) : List Word :=
  match o with
  | .v k => e.block k.toNat n
  | _ => e.block 0 n

theorem Env.blockAt_eq (e : Env) (o : Operand) (n : Nat) : e.blockAt o n = e.block (vIndex o) n := by
  cases o <;> rfl

/-- A register block of `n` registers that runs past v1023 (R160). -/
def PastEnd (o : Operand) (n : Nat) : Prop := ∃ k, o = .v k ∧ 1024 < k.toNat + n

theorem blockOver_iff (o : Operand) (n : Nat) : blockOver o n = true ↔ PastEnd o n := by
  cases o <;> simp [blockOver, PastEnd]

/-- What supplies an operand in a state whose mode is not TRAP: a register block, or a descriptor that passes its
checks. -/
def Env.Supplies (e : Env) (steps : Nat) (o : Operand) (bytes : Nat) (x : MatSrc) : Prop :=
  ((∃ k, o = .v k) ∧ x = .regs (e.blockAt o (steps * (bytes / 4)))) ∨
    ∃ n, o = .s n ∧ e.launch.sbmode ≠ 1 ∧ e.stepTrap n bytes steps = none ∧ x = e.descAt n

theorem Env.matOp_trap {e : Env} {n : BitVec 10} {bytes steps : Nat} {t : Trap} (ht : e.stepTrap n bytes steps = some t) :
    e.matOp (.s n) bytes steps = .error t := by
  unfold Env.stepTrap at ht
  simp only [Env.matOp, ht]

theorem matOp_of_supplies {s : State} {i : Instr} {h : Hdr} {steps bytes : Nat} {o : Operand} {x : MatSrc}
    (hx : (reads s i h).Supplies steps o bytes x) (hfit : ¬PastEnd o (steps * (bytes / 4))) :
    (reads s i h).matOp o bytes steps = .ok x := by
  obtain ⟨⟨k, rfl⟩, rfl⟩ | ⟨n, rfl, hmode, hnone, rfl⟩ := hx
  · exact if_neg (fun hover => hfit ⟨k, rfl, hover⟩)
  · unfold Env.stepTrap at hnone
    simp only [Env.matOp, hnone, flightOf_eq_none hmode]
    rfl

/-! ### Steps (R159, R160, R168, R169) -/

/-- An operand's register block runs past v1023 in a step of `n` steps. -/
def Overruns (w : XT) (n ab bb m : Nat) : Prop :=
  PastEnd w.a (n * (ab / 4)) ∨ PastEnd w.b (n * (bb / 4)) ∨ PastEnd w.c (n * m)

theorem no_blockOver {w : XT} {n ab bb m : Nat} (hfit : ¬Overruns w n ab bb m) :
    ¬((blockOver w.a (n * (ab / 4)) || blockOver w.b (n * (bb / 4)) || blockOver w.c (n * m)) = true) := by
  simpa only [Bool.or_eq_true, blockOver_iff, Overruns, or_assoc] using hfit

section

variable {w : XT} {n k ab bb m : Nat} {e : Env} {t : Trap} {A B : MatSrc}
  (hshape : mmaShape w.af w.bf w.spr = some (k, ab, bb, m)) (hfit : ¬Overruns w n ab bb m)
include hshape

/-- A register block that runs past v1023 is one that the steps name. -/
theorem use_of_overruns (h : Overruns w n ab bb m) :
    ∃ (v : BitVec 10) (c : Nat), (Operand.v v, c) ∈ mmaUses w ∧ 1024 < v.toNat + n * c := by
  have huses : mmaUses w = [matUse ab w.a, matUse bb w.b] ++ (if m = 0 then [] else [(w.c, m)]) := by
    simp only [mmaUses, hshape]
  rw [huses]
  obtain ⟨v, ho, hover⟩ | ⟨v, ho, hover⟩ | ⟨v, ho, hover⟩ := h
  · exact ⟨v, ab / 4, by simp [ho, matUse], hover⟩
  · exact ⟨v, bb / 4, by simp [ho, matUse], hover⟩
  · have hm : m ≠ 0 := by
      rintro rfl
      have hv := v.isLt
      omega
    exact ⟨v, m, by simp [ho, hm], hover⟩

include hfit

theorem mmaOp_trap (hA : e.matOp w.a ab n = .error t) : mmaOp w n e = .error t := by
  simp only [mmaOp, hshape, if_neg (no_blockOver hfit), hA]

theorem mmaOp_ok (hA : e.matOp w.a ab n = .ok A) (hB : e.matOp w.b bb n = .ok B) :
    mmaOp w n e = .ok (.mma w.td.toNat n A B (e.blockAt w.c (n * m)) w.af w.bf (w.spr == 1) (w.sub.getLsbD 0)
      (nbits w.sub.toNat 6 4) (nbits w.sub.toNat 3 1)) := by
  simp only [mmaOp, hshape, if_neg (no_blockOver hfit), hA, hB, Env.blockAt_eq]
  rfl

end

/-- `mma` and `mmloop`: an instruction that performs steps, as many as `steps` counts. -/
structure StepInstr (i : Instr) (w : XT) (steps : Env → Nat) : Prop where
  exec_eq : ∀ s, exec i s = issueC i w.h w.c (mmaRes w steps) s
  illegal : illegalMma i = (mmaShape w.af w.bf w.spr).isNone
  unprivileged : check i = none → privInstr i = false
  blockPast : ∀ {s : State} {v : BitVec 10} {c : Nat}, (Operand.v v, c) ∈ mmaUses w →
    1024 < v.toNat + steps (reads s i w.h) * c → (s.grp s.cur.gid).blockPast i = true

theorem ne_trapvec_of_matOperand {o : Operand} (h : matOperand o = true) (bytes : Nat) :
    ((matUse bytes o).1 == .sr 0x30) = false := by
  cases o with
  | v n => rfl
  | s n => rfl
  | _ => cases h

theorem ne_trapvec_of_isV {o : Operand} (h : isV o = true) : (o == .sr 0x30) = false := by
  cases o with
  | v n => rfl
  | _ => cases h

theorem ne_trapvec_of_countOk {o : Operand} (h : countOk o = true) : (o == .sr 0x30) = false := by
  cases o with
  | s n => rfl
  | imm k => rfl
  | _ => cases h

/-- Dense steps read no metadata (R159, R163). -/
theorem metadata_of_mmaShape {af bf : BitVec 4} {k ab bb m : Nat} (h : mmaShape af bf 0 = some (k, ab, bb, m)) :
    m = 0 := by
  revert h
  unfold mmaShape
  simp only [if_true, ne_eq, not_true_eq_false, if_false]
  repeat' split
  all_goals simp +contextual

theorem mma_unprivileged {w : XT} (h : mmaOperands w = true) : ∀ u ∈ mmaUses w, (u.1 == .sr 0x30) = false := by
  simp only [mmaOperands, Bool.and_eq_true, Bool.or_eq_true, beq_iff_eq] at h
  obtain ⟨⟨ha, hb⟩, hc⟩ := h
  intro u hu
  cases hshape : mmaShape w.af w.bf w.spr with
  | none => simp [mmaUses, hshape] at hu
  | some p =>
    obtain ⟨k, ab, bb, m⟩ := p
    simp only [mmaUses, hshape, List.mem_append, List.mem_cons, List.not_mem_nil, or_false] at hu
    obtain (rfl | rfl) | hu := hu
    · exact ne_trapvec_of_matOperand ha ab
    · exact ne_trapvec_of_matOperand hb bb
    · by_cases hm : m = 0
      · simp [hm] at hu
      · rw [if_neg hm, List.mem_singleton] at hu
        subst hu
        obtain hdense | hv := hc
        · rw [hdense] at hshape
          exact absurd (metadata_of_mmaShape hshape) hm
        · exact ne_trapvec_of_isV hv

theorem stepInstr_mma (w : XT) : StepInstr (.mma w) w (fun _ => 1) where
  exec_eq _ := rfl
  illegal := rfl
  unprivileged h := by
    have huses := mma_unprivileged (ck_operands h)
    simpa [privInstr, sources, fixedDests, fixedDest, lateDest] using huses
  blockPast hmem hover :=
    List.any_eq_true.mpr ⟨_, hmem, decide_eq_true (by simpa using hover)⟩

/-- The registers as an instruction reads them, also where its group is not there. -/
theorem reads_rdS (s : State) (i : Instr) (h : Hdr) (n : Nat) : (reads s i h).g.rdS n = (s.grp s.cur.gid).rdS n := by
  show ((s.touch i).grp s.cur.gid).rdS n = _
  simp only [State.touch_eq, State.grp, State.updGrp]
  rw [findBy_updBy]
  case h => exact fun x hx => hx
  cases findBy (fun g => g.gid == s.cur.gid) s.groups <;> rfl

theorem blockPast_mmloop {s : State} {w : XT} {v : BitVec 10} {c : Nat} (hmem : (Operand.v v, c) ∈ mmaUses w)
    (hover : 1024 < v.toNat + loopCount w (reads s (.mmloop w) w.h) * c) :
    (s.grp s.cur.gid).blockPast (.mmloop w) = true := by
  have hv := v.isLt
  have hc : c ≠ 0 := by
    rintro rfl
    omega
  have hpos : 0 < loopCount w (reads s (.mmloop w) w.h) := by
    refine Nat.pos_of_ne_zero fun h0 => ?_
    rw [h0] at hover
    omega
  have past : ∀ n, n = loopCount w (reads s (.mmloop w) w.h) ∨ n = 1025 →
      ((if n = 0 then [] else [(Operand.v v, n * c)]) : List RegUse).any RegUse.past = true := by
    intro n hn
    have h0 : n ≠ 0 := by omega
    have hpast : 1024 < v.toNat + n * c := by
      obtain rfl | rfl := hn
      · exact hover
      · omega
    simpa [h0, RegUse.past] using hpast
  simp only [Group.blockPast, Group.loopUses, List.any_flatMap]
  refine List.any_eq_true.mpr ⟨_, hmem, past _ ?_⟩
  simp only [loopCount, reads_rdS] at hpos ⊢
  cases hd : w.d with
  | s k => simp only [Nat.min_def]; split <;> simp
  | imm k => exact .inl rfl
  | _ => simp [hd] at hpos

theorem stepInstr_mmloop (w : XT) : StepInstr (.mmloop w) w (loopCount w) where
  exec_eq _ := rfl
  illegal := rfl
  unprivileged h := by
    have hops := ck_operands h
    have hd := ne_trapvec_of_countOk (Bool.and_eq_true_iff.mp hops).2
    simpa [privInstr, sources, fixedDests, fixedDest, lateDest] using hd
  blockPast hmem hover := blockPast_mmloop hmem hover

theorem stepInstr_of_mem {w : XT} {s : State} {r : Instr × Nat}
    (h : r ∈ [(Instr.mma w, 1), (Instr.mmloop w, loopCount w (reads s (.mmloop w) w.h))]) :
    ∃ steps, StepInstr r.1 w steps ∧ steps (reads s r.1 w.h) = r.2 := by
  simp only [List.mem_cons, List.not_mem_nil, or_false] at h
  obtain rfl | rfl := h
  · exact ⟨_, stepInstr_mma w, rfl⟩
  · exact ⟨_, stepInstr_mmloop w, rfl⟩

/-! ### Traps before an instruction's own effect (R52, R159, R160) -/

section

variable {i : Instr} {h : Hdr} {s : State} (hcheck : check i = none) (hpriv : privInstr i = false)
include hcheck hpriv

theorem gate_illegalMma (hm : illegalMma i = true) :
    gate i h s = .stop (s.precise s.cur.gid s.cur.path
      { cause := .illegalMma, lmask := (s.grp s.cur.gid).active s.cur.path h }) := by
  simp [gate, hcheck, hpriv, hm]

theorem gate_blockPast (hm : illegalMma i = false) (ha : (s.grp s.cur.gid).active s.cur.path h ≠ 0)
    (hb : (s.grp s.cur.gid).blockPast i = true) :
    gate i h s = .stop (s.precise s.cur.gid s.cur.path
      { cause := .illegalOperand, lmask := (s.grp s.cur.gid).active s.cur.path h }) := by
  have hguard : (decide ((s.grp s.cur.gid).active s.cur.path h ≠ 0) && (s.grp s.cur.gid).blockPast i) = true := by
    rw [hb, decide_eq_true ha, Bool.true_and]
  unfold gate
  simp only [hcheck, hpriv, hm, hguard, Bool.false_and, Bool.false_eq_true, if_false, if_true]

end

theorem traps_of_gate {i : Instr} {h : Hdr} {c : Operand} {body : Env → State → Res} {s : State} {t : Trap}
    (hx : exec i s = issueC i h c body s) (hg : gate i h s = .stop (s.precise s.cur.gid s.cur.path t))
    (ht : t.cause ≠ .memNotPresent) : Traps i s t := by
  rw [Traps, State.noteFault_other _ _ _ _ ht, hx, issueC, hg]

section

variable {i : Instr} {w : XT} {steps : Env → Nat} {s : State} (hi : StepInstr i w steps)
include hi

theorem StepInstr.traps_illegal (hcheck : check i = none) (hshape : mmaShape w.af w.bf w.spr = none) :
    Traps i s { cause := .illegalMma, lmask := (s.grp s.cur.gid).active s.cur.path w.h } := by
  have hm : illegalMma i = true := by rw [hi.illegal, hshape]; rfl
  exact traps_of_gate (hi.exec_eq s) (gate_illegalMma hcheck (hi.unprivileged hcheck) hm) (by simp)

variable {k ab bb m : Nat} (hshape : mmaShape w.af w.bf w.spr = some (k, ab, bb, m))
include hshape

theorem StepInstr.traps_overrun (hcheck : check i = none) (ha : (s.grp s.cur.gid).active s.cur.path w.h ≠ 0)
    (hover : Overruns w (steps (reads s i w.h)) ab bb m) :
    Traps i s { cause := .illegalOperand, lmask := (s.grp s.cur.gid).active s.cur.path w.h } := by
  have hm : illegalMma i = false := by rw [hi.illegal, hshape]; rfl
  obtain ⟨v, c, hmem, hpast⟩ := use_of_overruns hshape hover
  exact traps_of_gate (hi.exec_eq s)
    (gate_blockPast hcheck (hi.unprivileged hcheck) hm ha (hi.blockPast hmem hpast)) (by simp)

variable (hc : s.clear i w.h = true) (htile : w.td.toNat < (reads s i w.h).launch.hdr.tiles)
  (hfit : ¬Overruns w (steps (reads s i w.h)) ab bb m)
include hc htile hfit

theorem StepInstr.traps_descriptor (ha : (reads s i w.h).act ≠ 0) {n : BitVec 10} {t : Trap} (hn : w.a = .s n)
    (ht : (reads s i w.h).stepTrap n ab (steps (reads s i w.h)) = some t) : Traps i s t := by
  refine traps_of (hi.exec_eq s) hc (matrixRes_trap (tileTrap_one htile) ha (mmaOp_trap hshape hfit ?_))
  rw [hn]
  exact Env.matOp_trap ht

theorem StepInstr.posts (hfree : (reads s i w.h).g.ctr .mx < 63) {A B : MatSrc}
    (hA : (reads s i w.h).Supplies (steps (reads s i w.h)) w.a ab A)
    (hB : (reads s i w.h).Supplies (steps (reads s i w.h)) w.b bb B) :
    Posts i w.h w.c s (.mma w.td.toNat (steps (reads s i w.h)) A B
      ((reads s i w.h).blockAt w.c (steps (reads s i w.h) * m)) w.af w.bf (w.spr == 1) (w.sub.getLsbD 0)
      (nbits w.sub.toNat 6 4) (nbits w.sub.toNat 3 1)) := by
  have hfitA : ¬PastEnd w.a _ := fun hp => hfit (.inl hp)
  have hfitB : ¬PastEnd w.b _ := fun hp => hfit (.inr (.inl hp))
  exact posts_of (hi.exec_eq s) hc hfree (matrixRes_post (tileTrap_one htile) fun _ =>
    mmaOp_ok hshape hfit (matOp_of_supplies hA hfitA) (matOp_of_supplies hB hfitB))

end

/-! ### Lists of elements -/

section

variable {α : Type}

theorem getAt_eq_getD (d : α) (xs : List α) (k : Nat) : getAt d xs k = xs[k]?.getD d := by
  induction xs generalizing k with
  | nil => rfl
  | cons x r ih =>
    cases k with
    | zero => rfl
    | succ k => exact (ih k).trans (by rw [List.getElem?_cons_succ])

theorem getAt_map_upFrom (d : α) (f : Nat → α) {n k : Nat} (hk : k < n) : getAt d ((upFrom 0 n).map f) k = f k := by
  simp [getAt_eq_getD, upFrom_eq_map, hk]

theorem mem_upFrom {lo n k : Nat} : k ∈ upFrom lo n ↔ lo ≤ k ∧ k < lo + n := by
  simp only [upFrom_eq_map, List.mem_map, List.mem_range]
  exact ⟨fun ⟨j, hj, he⟩ => by omega, fun ⟨hlo, hk⟩ => ⟨k - lo, by omega, by omega⟩⟩

/-- Pairs in row order, numbered by n·i + j. -/
theorem map_range_mul (f : Nat → Nat → α) (m : Nat) {n : Nat} (hn : 0 < n) :
    (List.range (m * n)).map (fun k => f (k / n) (k % n)) =
      (List.range m).flatMap (fun i => (List.range n).map (f i)) := by
  induction m with
  | zero => simp
  | succ m ih =>
    rw [Nat.add_mul, Nat.one_mul, List.range_add, List.map_append, ih, List.range_succ, List.flatMap_append,
      List.map_map, List.flatMap_singleton]
    congr 1
    refine List.map_congr_left fun j hj => ?_
    have hj' : j < n := List.mem_range.mp hj
    rw [Function.comp_apply, Nat.mul_comm m n, Nat.mul_add_div hn, Nat.div_eq_of_lt hj', Nat.add_zero, Nat.mul_add_mod,
      Nat.mod_eq_of_lt hj']

/-- The elements of a tile by their number, and row by row. -/
theorem map_upFrom_eq_rows (f : Nat → Nat → α) :
    (upFrom 0 1024).map (fun k => f (k / 32) (k % 32)) = lanes.flatMap (fun i => lanes.map (f i)) := by
  have hk : ∀ k, 0 + k = k := Nat.zero_add
  simp only [upFrom_eq_map, List.map_map, Function.comp_def, hk, lanes_eq_range]
  exact map_range_mul f 32 (by decide)

theorem getAt_map_elements (d : α) (f : Nat → Nat → α) {i j : Nat} (hi : i < 32) (hj : j < 32) :
    getAt d ((upFrom 0 1024).map (fun k => f (k / 32) (k % 32))) (32 * i + j) = f i j := by
  have hdiv : (32 * i + j) / 32 = i := by omega
  have hmod : (32 * i + j) % 32 = j := by omega
  rw [getAt_map_upFrom d _ (by omega), hdiv, hmod]

theorem zip_map_same {β : Type} (f : α → β) (l : List α) : l.zip (l.map f) = l.map (fun a => (a, f a)) := by
  simpa using List.zip_map' (f := id) (g := f) (l := l)

end

/-! ### Writes of several keys -/

section

variable {α β : Type} [DecidableEq β] (d : β) (key : α → Nat) (val : α → β)

/-- A map with a value written for each element of a list. -/
def spSetAll (xs : List α) (m : Sparse β) : Sparse β := xs.foldl (fun m x => spSet d m (key x) (val x)) m

theorem spGet_spSetAll_other {xs : List α} {k : Nat} (h : ∀ x ∈ xs, key x ≠ k) (m : Sparse β) :
    spGet d (spSetAll d key val xs m) k = spGet d m k := by
  induction xs generalizing m with
  | nil => rfl
  | cons x r ih =>
    obtain ⟨hx, hr⟩ := List.forall_mem_cons.mp h
    exact (ih hr _).trans (spGet_set_other d m _ _ _ hx)

/-- A key that is written, always with one value. -/
theorem spGet_spSetAll {xs : List α} {k : Nat} {v : β} (hk : ∃ x ∈ xs, key x = k)
    (hv : ∀ x ∈ xs, key x = k → val x = v) (m : Sparse β) : spGet d (spSetAll d key val xs m) k = v := by
  induction xs generalizing m with
  | nil => simp at hk
  | cons x r ih =>
    obtain ⟨hx, hr⟩ := List.forall_mem_cons.mp hv
    by_cases hlater : ∃ y ∈ r, key y = k
    · exact ih hlater hr _
    · have hkey : key x = k := by
        obtain ⟨y, hy, hyk⟩ := hk
        obtain rfl | hmem := List.mem_cons.mp hy
        · exact hyk
        · exact absurd ⟨y, hmem, hyk⟩ hlater
      have hrest : ∀ y ∈ r, key y ≠ k := fun y hy he => hlater ⟨y, hy, he⟩
      refine (spGet_spSetAll_other d key val hrest _).trans ?_
      show spGet d (spSet d m (key x) (val x)) k = v
      rw [hkey, hx hkey, spGet_set_same]

end

/-! ### Tiles -/

theorem fillTile_eq (t : Nat) (f : Nat → Nat → Word) (m : Sparse Word) :
    fillTile t f m = spSetAll 0 (fun c : Nat × Nat => 1024 * t + 32 * c.1 + c.2) (fun c => f c.1 c.2)
      (lanes.flatMap (fun i => lanes.map (fun j => (i, j)))) m := by
  simp only [fillTile, spSetAll, List.foldl_flatMap, List.foldl_map]

/-- An element of a tile after one has been filled. -/
theorem spGet_fillTile (t : Nat) (f : Nat → Nat → Word) (m : Sparse Word) (u : Nat) {i j : Nat} (hi : i < 32)
    (hj : j < 32) :
    spGet 0 (fillTile t f m) (1024 * u + 32 * i + j) = if u = t then f i j else spGet 0 m (1024 * u + 32 * i + j) := by
  have hcell : ∀ c : Nat × Nat, c ∈ lanes.flatMap (fun i => lanes.map (fun j => (i, j))) ↔ c.1 < 32 ∧ c.2 < 32 := by
    rintro ⟨a, b⟩
    simp [mem_lanes]
  rw [fillTile_eq]
  by_cases hu : u = t
  · rw [if_pos hu, hu]
    refine spGet_spSetAll _ _ _ ⟨(i, j), (hcell _).mpr ⟨hi, hj⟩, rfl⟩ (fun c hc he => ?_) m
    obtain ⟨h1, h2⟩ := (hcell c).mp hc
    have hci : c.1 = i := by omega
    have hcj : c.2 = j := by omega
    rw [hci, hcj]
  · rw [if_neg hu]
    refine spGet_spSetAll_other _ _ _ (fun c hc he => hu ?_) m
    obtain ⟨h1, h2⟩ := (hcell c).mp hc
    omega

/-- The events of all elements of a tile together (R166). -/
def tileEvents (f : Nat → Nat → Events) : Events :=
  lanes.foldl (fun a i => lanes.foldl (fun a j => a ||| f i j) a) 0

theorem foldl_element_events (f : Nat → Nat → Nat × Events) :
    ((upFrom 0 1024).map (fun k => f (k / 32) (k % 32))).foldl (fun v x => v ||| x.2) 0 =
      tileEvents (fun i j => (f i j).2) := by
  rw [map_upFrom_eq_rows f]
  simp only [tileEvents, List.foldl_flatMap, List.foldl_map]

theorem tileEvents_zero : tileEvents (fun _ _ => 0) = 0 := by
  simp only [tileEvents, BitVec.ofNat_eq_ofNat, BitVec.or_zero, List.foldl_fixed]

theorem tileEvents_congr {f g : Nat → Nat → Events} (h : ∀ i j, i < 32 → j < 32 → f i j = g i j) :
    tileEvents f = tileEvents g := by
  refine List.foldl_ext _ _ 0 fun a i hi => List.foldl_ext _ _ a fun b j hj => ?_
  rw [h i j ((mem_lanes i).mp hi) ((mem_lanes j).mp hj)]

/-! ### A group and its completed operation (R158, R166) -/

theorem State.grp_gid {s : State} {gid : Nat} (hh : s.has gid = true) : (s.grp gid).gid = gid := by
  have hs : (findBy (fun g => g.gid == gid) s.groups).isSome = true := by rw [findBy_isSome]; exact hh
  obtain ⟨g, hg⟩ := Option.isSome_iff_exists.mp hs
  have hgid : g.gid = gid := by simpa using (findBy_mem hg).2
  simpa only [State.grp, hg] using hgid

@[simp] theorem Group.addView_gid (g : Group) (k id : Nat) (v : View) : (g.addView k id v).gid = g.gid := by
  unfold Group.addView; dsimp only; split <;> rfl
@[simp] theorem Group.addView_v (g : Group) (k id : Nat) (v : View) : (g.addView k id v).v = g.v := by
  unfold Group.addView; dsimp only; split <;> rfl
@[simp] theorem Group.addView_regs (g : Group) (k id : Nat) (v : View) : (g.addView k id v).regs = g.regs := by
  unfold Group.addView; dsimp only; split <;> rfl
@[simp] theorem Group.addView_tiles (g : Group) (k id : Nat) (v : View) : (g.addView k id v).tiles = g.tiles := by
  unfold Group.addView; dsimp only; split <;> rfl
@[simp] theorem Group.addView_slots (g : Group) (k id : Nat) (v : View) : (g.addView k id v).slots = g.slots := by
  unfold Group.addView; dsimp only; split <;> rfl

@[simp] theorem Group.updOp_gid (g : Group) (id : Nat) (f : Op → Op) : (g.updOp id f).gid = g.gid := rfl
@[simp] theorem Group.updOp_v (g : Group) (id : Nat) (f : Op → Op) : (g.updOp id f).v = g.v := rfl
@[simp] theorem Group.updOp_regs (g : Group) (id : Nat) (f : Op → Op) : (g.updOp id f).regs = g.regs := rfl
@[simp] theorem Group.updOp_tiles (g : Group) (id : Nat) (f : Op → Op) : (g.updOp id f).tiles = g.tiles := rfl
@[simp] theorem Group.updOp_slots (g : Group) (id : Nat) (f : Op → Op) : (g.updOp id f).slots = g.slots := rfl

/-- The state after an operation that has made its group `r.1` and raises `r.2`. -/
def State.performed (s : State) (gid : Nat) (o : Op) (r : Group × Events) : State :=
  (s.updGrp gid (fun _ => r.1)).matrixDone gid o r.2

/-- The group of an operation that has raised its events and is marked as complete. -/
def Group.completed (g : Group) (clk : Nat) (o : Op) (ev : Events) : Group :=
  ((g.raise clk ev).addView o.ctr.code o.id (g.opOr o).own).updOp o.id (fun o => { o with done := true })

theorem State.grp_performed {s : State} {gid : Nat} {r : Group × Events} (hh : s.has gid = true) (hr : r.1.gid = gid)
    (o : Op) : (s.performed gid o r).grp gid = r.1.completed (s.dieOf r.1.die).clk o r.2 := by
  have hs : (findBy (fun g => g.gid == gid) s.groups).isSome = true := by rw [findBy_isSome]; exact hh
  obtain ⟨g, hg⟩ := Option.isSome_iff_exists.mp hs
  have hset := findBy_updBy (fun g => g.gid == gid) (fun _ => r.1) (fun _ _ => by simpa using hr) s.groups
  have hhas : (s.updGrp gid (fun _ => r.1)).has gid = true := by
    rw [State.has, State.updGrp, ← findBy_isSome, hset, hg]
    rfl
  have hgrp : (s.updGrp gid (fun _ => r.1)).grp gid = r.1 := by
    simp only [State.grp, State.updGrp, hset, hg, Option.map_some]
  rw [State.performed, State.matrixDone, State.grp_updGrp _ _ _ (fun g => by simp) hhas, hgrp]
  rfl

section

variable {s : State} {gid : Nat} {r : Group × Events} (hh : s.has gid = true) (hr : r.1.gid = gid) (o : Op)
include hh hr

theorem State.performed_v : ((s.performed gid o r).grp gid).v = r.1.v := by
  rw [State.grp_performed hh hr]; simp [Group.completed]

theorem State.performed_tiles : ((s.performed gid o r).grp gid).tiles = r.1.tiles := by
  rw [State.grp_performed hh hr]; simp [Group.completed]

theorem State.performed_slots : ((s.performed gid o r).grp gid).slots = r.1.slots := by
  rw [State.grp_performed hh hr]; simp [Group.completed]

theorem State.performed_regs : ((s.performed gid o r).grp gid).regs =
    { r.1.regs with due := ((s.dieOf r.1.die).clk, r.2) :: r.1.regs.due } := by
  rw [State.grp_performed hh hr]; simp only [Group.completed, Group.updOp_regs, Group.addView_regs]; rfl

end

section

variable {s : State} {gid : Nat} {o : Op} {m : MatOp}

theorem matrixOp_idle (h : s.nextMatrix (s.grp gid) = none) : Becomes (.matrixOpComplete gid) s s := by
  show execMatrixOpComplete gid s = _
  simp only [execMatrixOpComplete, h]

theorem matrixOp_waits (h : s.nextMatrix (s.grp gid) = some (o, m)) (hdeps : o.deps.any (s.grp gid).pending = true) :
    Becomes (.matrixOpComplete gid) s s := by
  show execMatrixOpComplete gid s = _
  simp only [execMatrixOpComplete, h, hdeps, if_true]

theorem matrixOp_performs (h : s.nextMatrix (s.grp gid) = some (o, m))
    (hdeps : o.deps.any (s.grp gid).pending = false) :
    Becomes (.matrixOpComplete gid) s (performMatrix s gid o m) := by
  show execMatrixOpComplete gid s = _
  simp only [execMatrixOpComplete, h, hdeps, Bool.false_eq_true, if_false]

end

/-- The group's oldest matrix operation completes with every element of tile `t` given by `f`, and raises the events of
all elements; other tiles and the registers stay (R166). -/
def SetsTile (s : State) (gid t : Nat) (f : Nat → Nat → Word × Events) : Prop :=
  ∃ s', Becomes (.matrixOpComplete gid) s s' ∧
    (∀ u i j, u < 8 → i < 32 → j < 32 →
      (s'.grp gid).tile u i j = if u = t then (f i j).1 else (s.grp gid).tile u i j) ∧
    (s'.grp gid).v = (s.grp gid).v ∧ (s'.grp gid).regs = { (s.grp gid).regs with
      due := ((s.dieOf (s.grp gid).die).clk, tileEvents (fun i j => (f i j).2)) :: (s.grp gid).regs.due }

/-- A group with a tile filled, and the poison of the tile. -/
def Group.filled (g : Group) (t : Nat) (f : Nat → Nat → Word) (bad : Bool) : Group :=
  { g with tiles := fillTile t f g.tiles }.setTilePoison t bad

theorem setsTile_of {s : State} {gid t : Nat} {o : Op} {f : Nat → Nat → Word × Events} {w : Nat → Nat → Word}
    {bad : Bool} {ev : Events} (hh : s.has gid = true)
    (hb : Becomes (.matrixOpComplete gid) s (s.performed gid o ((s.grp gid).filled t w bad, ev)))
    (hw : ∀ i j, i < 32 → j < 32 → w i j = (f i j).1) (hev : ev = tileEvents (fun i j => (f i j).2)) :
    SetsTile s gid t f := by
  have hgid : ((s.grp gid).filled t w bad).gid = gid := State.grp_gid hh
  refine ⟨_, hb, fun u i j _ hi hj => ?_, State.performed_v hh hgid o, ?_⟩
  · rw [Group.tile, State.performed_tiles hh hgid o, ← hw i j hi hj]
    exact spGet_fillTile t w _ u hi hj
  · rw [State.performed_regs hh hgid o, hev]
    rfl

section

variable {s : State} {gid : Nat} {o : Op} (hh : s.has gid = true)
include hh

/-- `tzero` (R170). -/
theorem tzero_setsTile {t : Nat} (hb : Becomes (.matrixOpComplete gid) s (performMatrix s gid o (.tzero t))) :
    SetsTile s gid t (fun _ _ => (0, 0)) :=
  setsTile_of hh hb (fun _ _ _ _ => rfl) tileEvents_zero.symm

/-- `tmov.put` (R171). -/
theorem put_setsTile {t : Nat} {act : Mask} {ws : List Word}
    (hb : Becomes (.matrixOpComplete gid) s (performMatrix s gid o (.put t act ws))) :
    SetsTile s gid t (fun i j => (if act.getLsbD j then getAt 0 ws (32 * i + j) else (s.grp gid).tile t i j, 0)) :=
  setsTile_of hh hb (fun _ _ _ _ => rfl) tileEvents_zero.symm

/-- `tsacc` (R172). -/
theorem tsacc_setsTile {t ts : Nat} {rows cols : List Word}
    (hb : Becomes (.matrixOpComplete gid) s (performMatrix s gid o (.tsacc t ts rows cols))) :
    SetsTile s gid t (fun i j =>
      let r := tsaccElem (getAt 0 rows i) (getAt 0 cols j) ((s.grp gid).tile t i j) ((s.grp gid).tile ts i j)
      (BitVec.ofNat 32 r.1, r.2)) :=
  setsTile_of hh hb (fun i j hi hj => by
    rw [getAt_map_elements (0, 0) (fun i j => tsaccElem (getAt 0 rows i) (getAt 0 cols j) ((s.grp gid).tile t i j)
      ((s.grp gid).tile ts i j)) hi hj])
    (foldl_element_events (fun i j => tsaccElem (getAt 0 rows i) (getAt 0 cols j) ((s.grp gid).tile t i j)
      ((s.grp gid).tile ts i j)))

end

/-! ### Steps of `mma` (R164, R165, R168) -/

/-- The update of element (i, j) by a step. -/
def StepArgs.elem (p : StepArgs) (s : State) (g : Group) (st : Nat) (acc : Nat → Nat → Nat) (i j : Nat) :
    Nat × Events :=
  stepElem p.k ((p.rowA s g st i).map (fun x =>
    (x.1, productOf g.slots p.af p.bf p.sa p.sb x.2 (getAt 0 (p.colB s g st j) x.1)))) (acc i j)

theorem StepArgs.run_eq (p : StepArgs) (s : State) (g : Group) (st : Nat) (acc : Nat → Nat → Nat) :
    p.run s g st acc = ((upFrom 0 1024).map (fun k => (p.elem s g st acc (k / 32) (k % 32)).1),
      tileEvents (fun i j => (p.elem s g st acc i j).2)) := by
  have hrows : (lanes.zip (lanes.map (p.rowA s g st))).flatMap (fun r =>
      (lanes.zip (lanes.map (p.colB s g st))).map (fun c =>
        stepElem p.k (r.2.map (fun x => (x.1, productOf g.slots p.af p.bf p.sa p.sb x.2 (getAt 0 c.2 x.1))))
          (acc r.1 c.1))) = (upFrom 0 1024).map (fun k => p.elem s g st acc (k / 32) (k % 32)) := by
    rw [map_upFrom_eq_rows (p.elem s g st acc)]
    simp only [zip_map_same, List.flatMap_map, List.map_map, Function.comp_def]
    rfl
  rw [StepArgs.run]
  simp only [hrows, foldl_element_events, List.map_map, Function.comp_def]

/-- The update of an element by a dense step: the products of its k pairs of codes (R163). -/
theorem StepArgs.elem_dense {p : StepArgs} (hdense : p.sp24 = false) (s : State) (g : Group) (st : Nat)
    (acc : Nat → Nat → Nat) (i j : Nat) :
    p.elem s g st acc i j = stepElem p.k ((upFrom 0 p.k).map (fun x => (x, productOf g.slots p.af p.bf p.sa p.sb
      (matCode p.af (fun y => s.matByte g p.olds p.a p.ab st i y) x)
      (matCode p.bf (fun y => s.matByte g p.olds p.b p.bb st j y) x)))) (acc i j) := by
  simp only [StepArgs.elem, StepArgs.rowA, storedElems, hdense, Bool.false_eq_true, if_false, List.map_map,
    Function.comp_def]
  congr 1
  refine List.map_congr_left fun x hx => ?_
  have hk : x < p.k := by simpa using (mem_upFrom.mp hx).2
  rw [StepArgs.colB, getAt_map_upFrom 0 _ hk]

/-- What an element is added to: its value, or zero (R168). -/
def Group.addedTo (g : Group) (t : Nat) (zero : Bool) (i j : Nat) : Nat := if zero then 0 else (g.tile t i j).toNat

/-- A step reads the elements of its tile alone. -/
theorem StepArgs.run_congr (p : StepArgs) (s : State) (g : Group) (st : Nat) {acc acc' : Nat → Nat → Nat}
    (h : ∀ i j, i < 32 → j < 32 → acc i j = acc' i j) : p.run s g st acc = p.run s g st acc' := by
  have helem : ∀ i j, i < 32 → j < 32 → p.elem s g st acc i j = p.elem s g st acc' i j := fun i j hi hj => by
    rw [StepArgs.elem, StepArgs.elem, h i j hi hj]
  rw [StepArgs.run_eq, StepArgs.run_eq, tileEvents_congr fun i j hi hj => by rw [helem i j hi hj]]
  congr 1
  refine List.map_congr_left fun k hk => ?_
  have hlt := (mem_upFrom.mp hk).2
  rw [helem _ _ (by omega) (Nat.mod_lt _ (by decide))]

/-- One step of `mma` on a tile. -/
theorem doMma_one (s : State) (g : Group) (t : Nat) (zero : Bool) (p : StepArgs) :
    ∃ bad, doMma s g t 1 zero p =
      (g.filled t (fun i j => BitVec.ofNat 32 (getAt 0 (p.run s g 0 (g.addedTo t zero)).1 (32 * i + j))) bad,
        (p.run s g 0 (g.addedTo t zero)).2) := by
  have hacc := p.run_congr s g 0 fun i j hi hj => getAt_map_elements 0 (g.addedTo t zero) hi hj
  refine ⟨(!zero && g.poisonTiles.contains t) || s.matPoison g p.olds p.a p.ab 1 || s.matPoison g p.olds p.b p.bb 1, ?_⟩
  rw [← hacc]
  simp only [doMma, StepArgs.steps, Nat.one_ne_zero, if_false, BitVec.ofNat_eq_ofNat, BitVec.zero_or]
  rfl

/-- The operands of one dense step on register blocks. -/
def denseArgs (k ab bb m : Nat) (a b : List Word) (af bf : BitVec 4) (sa sb : Nat) (olds : List Nat) : StepArgs :=
  { k := k, ab := ab, bb := bb, m := m, a := .regs a, b := .regs b, mt := [], af := af, bf := bf, sp24 := false,
    sa := sa, sb := sb, olds := olds }

theorem performMatrix_dense {af bf : BitVec 4} {k ab bb m : Nat} (hshape : mmaShape af bf 0 = some (k, ab, bb, m))
    (s : State) (gid : Nat) (o : Op) (t : Nat) (a b : List Word) (zero : Bool) (sa sb : Nat) :
    performMatrix s gid o (.mma t 1 (.regs a) (.regs b) [] af bf false zero sa sb) =
      s.performed gid o (doMma s (s.grp gid) t 1 zero (denseArgs k ab bb m a b af bf sa sb o.olds)) := by
  simp only [performMatrix, Bool.false_eq_true, if_false, hshape]
  rfl

/-- `mma` of one dense step on registers (R165, R168). -/
theorem mma_setsTile {s : State} {gid : Nat} {o : Op} (hh : s.has gid = true) {t : Nat} {a b : List Word}
    {af bf : BitVec 4} {zero : Bool} {sa sb k ab bb m : Nat} (hshape : mmaShape af bf 0 = some (k, ab, bb, m))
    (hb : Becomes (.matrixOpComplete gid) s
      (performMatrix s gid o (.mma t 1 (.regs a) (.regs b) [] af bf false zero sa sb))) :
    SetsTile s gid t (fun i j =>
      let r := (denseArgs k ab bb m a b af bf sa sb o.olds).elem s (s.grp gid) 0 ((s.grp gid).addedTo t zero) i j
      (BitVec.ofNat 32 r.1, r.2)) := by
  obtain ⟨bad, hdo⟩ := doMma_one s (s.grp gid) t zero (denseArgs k ab bb m a b af bf sa sb o.olds)
  rw [performMatrix_dense hshape, hdo, StepArgs.run_eq] at hb
  refine setsTile_of hh hb (fun i j hi hj => ?_) rfl
  rw [getAt_map_elements 0 (fun i j => (StepArgs.elem _ s (s.grp gid) 0 _ i j).1) hi hj]

/-! ### `tmov.get` and `cbld` (R171, R173) -/

theorem landElems_eq (t v : Nat) (ks : List Nat) (g : Group) :
    ks.foldl (fun g k => g.landElem t v k) g =
      { g with v := spSetAll 0 (fun k => 32 * (v + k / 32) + k % 32) (fun k => g.tile t (k / 32) (k % 32)) ks g.v } := by
  induction ks generalizing g with
  | nil => rfl
  | cons k r ih => exact ih (g.landElem t v k)

theorem mem_getElems {act : Mask} {k : Nat} : k ∈ getElems act ↔ k < 1024 ∧ act.getLsbD (k % 32) = true := by
  simp [getElems, mem_upFrom]

/-- A register after a `tmov.get` of 32 registers from `v`. -/
theorem spGet_landed (t v : Nat) (act : Mask) (g : Group) (n : Nat) {l : Nat} (hl : l < 32) :
    spGet 0 (spSetAll 0 (fun k => 32 * (v + k / 32) + k % 32) (fun k => g.tile t (k / 32) (k % 32)) (getElems act) g.v)
      (32 * n + l) = if v ≤ n ∧ n < v + 32 ∧ act.getLsbD l = true then g.tile t (n - v) l else g.rdV n l := by
  have place : ∀ k, 32 * (v + k / 32) + k % 32 = 32 * n + l → k / 32 = n - v ∧ k % 32 = l ∧ v ≤ n := by omega
  by_cases hin : v ≤ n ∧ n < v + 32 ∧ act.getLsbD l = true
  · obtain ⟨hlow, hhigh, hact⟩ := hin
    rw [if_pos ⟨hlow, hhigh, hact⟩]
    have hmod : (32 * (n - v) + l) % 32 = l := by omega
    refine spGet_spSetAll _ _ _ ⟨32 * (n - v) + l, mem_getElems.mpr ⟨by omega, hmod.symm ▸ hact⟩, by omega⟩
      (fun k _ he => ?_) _
    obtain ⟨hrow, hlane, -⟩ := place k he
    rw [hrow, hlane]
  · rw [if_neg hin]
    refine spGet_spSetAll_other _ _ _ (fun k hk he => hin ?_) _
    obtain ⟨hrow, hlane, hlow⟩ := place k he
    obtain ⟨hlt, hact⟩ := mem_getElems.mp hk
    exact ⟨hlow, by omega, hlane ▸ hact⟩

theorem performMatrix_get {s : State} {gid t : Nat} (hp : (s.grp gid).poisonTiles.contains t = false) (o : Op) (v : Nat)
    (act : Mask) :
    performMatrix s gid o (.get t v act []) = s.performed gid o ({ s.grp gid with
      v := spSetAll 0 (fun k => 32 * (v + k / 32) + k % 32) (fun k => (s.grp gid).tile t (k / 32) (k % 32))
        (getElems act) (s.grp gid).v }, 0) := by
  have hall : (getElems act).filter (fun k => !([] : List Nat).contains k) = getElems act := by simp
  simp only [performMatrix, hp, Bool.false_eq_true, if_false, hall, landElems_eq]
  rfl

/-- `tmov.get` of a tile that is not poisoned (R171). -/
theorem get_writes {s : State} {gid t : Nat} {o : Op} {v : Nat} {act : Mask} (hh : s.has gid = true)
    (hp : (s.grp gid).poisonTiles.contains t = false)
    (hb : Becomes (.matrixOpComplete gid) s (performMatrix s gid o (.get t v act []))) :
    ∃ s', Becomes (.matrixOpComplete gid) s s' ∧
      (∀ n l, l < 32 → (s'.grp gid).rdV n l =
        if v ≤ n ∧ n < v + 32 ∧ act.getLsbD l = true then (s.grp gid).tile t (n - v) l else (s.grp gid).rdV n l) ∧
      (s'.grp gid).tiles = (s.grp gid).tiles ∧ (s'.grp gid).regs.astat = (s.grp gid).regs.astat := by
  have hgid := State.grp_gid hh
  rw [performMatrix_get hp] at hb
  refine ⟨_, hb, fun n l hl => ?_, State.performed_tiles hh hgid o, ?_⟩
  · rw [Group.rdV, State.performed_v hh hgid o]
    exact spGet_landed t v act (s.grp gid) n hl
  · rw [State.performed_regs hh hgid o]

/-- The entries of a codebook slot as two halves of each lane's word (R173). -/
theorem ofNat_half (x : Word) (k : Nat) : BitVec.ofNat 16 (x.toNat / 2 ^ k % 2 ^ 16) = x.extractLsb' k 16 := by
  apply BitVec.eq_of_toNat_eq
  rw [toNat_extractLsb', BitVec.toNat_ofNat, Nat.mod_mod]

/-- `cbld` from a register (R173). -/
theorem cbld_fills {s : State} {gid slot : Nat} {o : Op} {ws : List Word} (hh : s.has gid = true)
    (hb : Becomes (.matrixOpComplete gid) s (performMatrix s gid o (.cbld slot (.regs ws)))) :
    ∃ s', Becomes (.matrixOpComplete gid) s s' ∧
      (∀ c, c < 16 → spGet 0 (s'.grp gid).slots (16 * slot + c) =
        (getAt (0 : Word) ws (c / 2)).extractLsb' (16 * (c % 2)) 16) ∧
      (∀ n, n / 16 ≠ slot → spGet 0 (s'.grp gid).slots n = spGet 0 (s.grp gid).slots n) ∧
      (s'.grp gid).tiles = (s.grp gid).tiles := by
  have hgid := State.grp_gid hh
  have hfill : performMatrix s gid o (.cbld slot (.regs ws)) = s.performed gid o ({ s.grp gid with
      slots := spSetAll 0 (fun k => 16 * slot + k) (fun k => (getAt (0 : Word) ws (k / 2)).extractLsb' (16 * (k % 2)) 16)
        (upFrom 0 16) (s.grp gid).slots }, 0) := by
    simp only [← ofNat_half]
    rfl
  rw [hfill] at hb
  refine ⟨_, hb, fun c hc => ?_, fun n hn => ?_, State.performed_tiles hh hgid o⟩
  · rw [State.performed_slots hh hgid o]
    refine spGet_spSetAll _ _ _ ⟨c, mem_upFrom.mpr (by omega), rfl⟩ (fun k _ he => ?_) _
    rw [Nat.add_left_cancel he]
  · rw [State.performed_slots hh hgid o]
    refine spGet_spSetAll_other _ _ _ (fun k hk he => hn ?_) _
    have hlt := mem_upFrom.mp hk
    omega

/-! ### Sums of products (R165) -/

theorem contains_inf {ps : List FNum} {s : Bool} : ps.contains (.inf s) = true ↔ FNum.inf s ∈ ps :=
  List.contains_iff_mem

theorem groupSum_nan {ps : List FNum}
    (h : (∃ x ∈ ps, x.isNan = true) ∨ (FNum.inf false ∈ ps ∧ FNum.inf true ∈ ps)) :
    groupSum ps = (.nan false, if FNum.inf false ∈ ps ∧ FNum.inf true ∈ ps then evNV else 0) := by
  have hguard : (ps.any FNum.isNan || (ps.contains (.inf false) && ps.contains (.inf true))) = true := by
    simpa using h
  rw [groupSum, if_pos hguard]
  simp

section

variable {ps : List FNum} (hn : ∀ x ∈ ps, x.isNan = false)
include hn

/-- Without a NaN and a pair of infinities, the sum is decided by an infinity or by the finite products. -/
theorem infinity_guard (h : ¬(FNum.inf false ∈ ps ∧ FNum.inf true ∈ ps)) :
    ¬((ps.any FNum.isNan || (ps.contains (.inf false) && ps.contains (.inf true))) = true) := by
  simp only [Bool.or_eq_true, Bool.and_eq_true, List.any_eq_true, contains_inf, not_or]
  exact ⟨fun ⟨x, hx, hnan⟩ => by simp [hn x hx] at hnan, h⟩

theorem groupSum_posInf (hp : FNum.inf false ∈ ps) (hm : FNum.inf true ∉ ps) : groupSum ps = (.inf false, 0) := by
  rw [groupSum, if_neg (infinity_guard hn fun hb => hm hb.2), if_pos (contains_inf.mpr hp)]

theorem groupSum_negInf (hm : FNum.inf true ∈ ps) (hp : FNum.inf false ∉ ps) : groupSum ps = (.inf true, 0) := by
  rw [groupSum, if_neg (infinity_guard hn fun hb => hp hb.1), if_neg (fun hb => hp (contains_inf.mp hb)),
    if_pos (contains_inf.mpr hm)]

end

theorem finiteOf_zeros {ps : List FNum} (h : ∀ x ∈ ps, ∃ b, x = .zero b) : finiteOf ps = [] := by
  refine List.filter_eq_nil_iff.mpr fun x hx => ?_
  obtain ⟨b, rfl⟩ := h x hx
  exact Bool.false_ne_true

theorem groupSum_zeros {ps : List FNum} (h : ∀ x ∈ ps, ∃ b, x = .zero b) :
    groupSum ps = (.zero (decide (∀ x ∈ ps, x = .zero true)), 0) := by
  have hn : ∀ x ∈ ps, x.isNan = false := fun x hx => by
    obtain ⟨b, rfl⟩ := h x hx
    rfl
  have hinf : ∀ s, FNum.inf s ∉ ps := fun s hs => by
    obtain ⟨b, hb⟩ := h _ hs
    cases hb
  have hall : ps.all (fun x => x == .zero true) = decide (∀ x ∈ ps, x = .zero true) := by
    rw [Bool.eq_iff_iff]
    simp
  rw [groupSum, if_neg (infinity_guard hn fun hb => hinf _ hb.1), if_neg (fun hb => hinf _ (contains_inf.mp hb)),
    if_neg (fun hb => hinf _ (contains_inf.mp hb)), finiteOf_zeros h]
  dsimp only
  rw [hall]

/-- A significand with its sign, as an exact value. -/
theorem FNum.ofInt_signed (b : Bool) {n : Nat} (hn : 0 < n) (e : Int) :
    FNum.ofInt (if b then -(n : Int) else n) e false = .fin b n e false := by
  cases b with
  | false =>
    have hpos : ¬(n : Int) < 0 := by omega
    have hne : (n : Int) ≠ 0 := by omega
    simp [FNum.ofInt_of_ne hne, hpos]
  | true =>
    have hne : -(n : Int) ≠ 0 := by omega
    simp [FNum.ofInt_of_ne hne, hn]

theorem truncAt_fine (b : Bool) (m a : Nat) (e : Int) :
    truncAt (e - a) (.fin b m e false) = (if b then -((m * 2 ^ a : Nat) : Int) else (m * 2 ^ a : Nat), false) := by
  have hge : e ≥ e - a := by omega
  have hlt : ¬e < e - a := by omega
  have hshift : (e - (e - (a : Int))).toNat = a := by omega
  simp only [truncAt, hge, hlt, hshift, if_true, decide_false, Bool.false_and]

/-- A single product of at most 31 bits is not truncated: its sum is the product over finer units, rounded. -/
theorem groupSum_single (b : Bool) {m a : Nat} (hm : 0 < m) (ha : Nat.log2 m + a = 30) (e : Int) :
    groupSum [.fin b m e false] = roundTo f32 (.fin b (m * 2 ^ a) (e - a) false) 0 := by
  have hn : 0 < m * 2 ^ a := Nat.mul_pos hm (Nat.two_pow_pos a)
  have hfinite : finiteOf [FNum.fin b m e false] = [FNum.fin b m e false] := rfl
  have hq : floorLog (.fin b m e false) - 30 = e - a := by
    rw [floorLog]
    omega
  have hne : (if b then -((m * 2 ^ a : Nat) : Int) else (m * 2 ^ a : Nat)) ≠ 0 := by
    cases b <;> simp only [if_true, Bool.false_eq_true, if_false] <;> omega
  rw [groupSum, if_neg (infinity_guard (by simp [FNum.isNan]) (by simp)), if_neg (by simp), if_neg (by simp), hfinite]
  simp only [List.foldl_nil, hq, List.map_cons, List.map_nil, truncAt_fine, List.sum_cons, List.sum_nil, Int.add_zero,
    List.any_cons, List.any_nil, Bool.or_false, Bool.false_eq_true, if_false, if_neg hne, FNum.ofInt_signed b hn,
    BitVec.ofNat_eq_ofNat, BitVec.or_zero]

/-- How far a significand is shifted does not matter to a rounding that loses no bit. -/
theorem roundMul_shift {q e : Int} (h : q ≤ e) (mode : Nat) (s : Bool) (m a : Nat) :
    roundMul mode s (m * 2 ^ a) (e - a) false q = roundMul mode s m e false q := by
  rw [roundMul_of_le h]
  by_cases hq : q ≤ e - a
  · have hpow : a + (e - a - q).toNat = (e - q).toNat := by omega
    rw [roundMul_of_le hq, Nat.mul_assoc, ← Nat.pow_add, hpow]
  · have hneg : ¬e - a ≥ q := hq
    have hpow : m * 2 ^ a = m * 2 ^ (e - q).toNat * 2 ^ (q - (e - a)).toNat := by
      rw [Nat.mul_assoc, ← Nat.pow_add]
      congr 2
      omega
    rw [roundMul, if_neg hneg]
    dsimp only
    rw [hpow, Nat.mul_mod_left, Nat.mul_div_cancel _ (Nat.two_pow_pos _)]
    rfl

theorem lastBit_shift {F : FFmt} {m : Nat} (hm : m ≠ 0) (e : Int) (a : Nat) :
    lastBit F (m * 2 ^ a) (e - a) = lastBit F m e := by
  have hlog : ((Nat.log2 m + a : Nat) : Int) + (e - a) = (Nat.log2 m : Int) + e := by omega
  rw [lastBit, lastBit, log2_mul_two_pow hm, hlog]

theorem roundTo_shift {F : FFmt} {m : Nat} (hm : m ≠ 0) {e : Int} (h : lastBit F m e ≤ e) (s : Bool) (a mode : Nat) :
    roundTo F (.fin s (m * 2 ^ a) (e - a) false) mode = roundTo F (.fin s m e false) mode := by
  have hlast := lastBit_shift (F := F) hm e a
  unfold lastBit at hlast h
  simp only [roundTo, hlast, roundMul_shift h]

/-- A single product of at most 24 significant bits in FP32's range is its own sum, with no event. -/
theorem groupSum_exact (b : Bool) {m : Nat} {e : Int} (hm : 0 < m) (hbits : m < 2 ^ 24) (hlow : -126 ≤ e)
    (hhigh : e ≤ 100) :
    groupSum [.fin b m e false] = roundTo f32 (.fin b m e false) 0 ∧ (roundTo f32 (.fin b m e false) 0).2 = 0 := by
  have hlog : Nat.log2 m < 24 := (Nat.log2_lt (Nat.ne_of_gt hm)).mpr hbits
  have hlast : lastBit f32 m e ≤ e := by
    rw [lastBit, f32_emin, f32_fraction]
    omega
  have hmax : f32.maxExp = 104 := by decide
  obtain ⟨a, ha⟩ := Nat.exists_eq_add_of_le (show Nat.log2 m ≤ 30 by omega)
  exact ⟨(groupSum_single b hm ha.symm e).trans (roundTo_shift (Nat.ne_of_gt hm) hlast b a 0),
    roundTo_exact (roundMul_of_le hlast 0 b m) (.inl (by omega))⟩

end Sys2Proof.Machine

namespace Sys2Proof.Proofs

open Sys2Proof Sys2Proof.Machine Sys2Proof.Stated

/-- Settles O46: `mma` and `mmloop` are one kind of step (`StepInstr`), whose traps come from the checks before the
instruction's effect, and from its operands; the other instructions post their operation where their tiles exist
(`matrixRes_post`). -/
theorem matrixInstructionsIssue : Obligations.MatrixInstructionsIssue := by
  unfold Obligations.MatrixInstructionsIssue
  refine ⟨fun w s => ⟨?tiles, ?tzero, ?get, ?put, ?tsacc, ?drain, ?cbld, ?steps⟩, fun w s hc => ?drainld,
    fun w s hc => ?rstlbl⟩
  case tiles =>
    simp only [List.forall_mem_cons, List.not_mem_nil, false_implies, implies_true, and_true]
    refine ⟨?_, ?_, ?_, ?_, ?_, ?_, ?_⟩
    all_goals
      exact fun hc ht => traps_of (h := w.h) (c := w.c) rfl hc
        (matrixRes_tileTrap (tileTrap_of_missing List.mem_cons_self ht))
  case tzero => exact fun ⟨hc, hfree⟩ ht => posts_of rfl hc hfree (matrixRes_post (tileTrap_one ht) fun _ => rfl)
  case get =>
    intro k hk ⟨hc, hfree⟩ ht
    refine posts_of rfl hc hfree (matrixRes_post (tileTrap_one ht) fun _ => ?_)
    rw [hk]
    rfl
  case put =>
    intro k hk ⟨hc, hfree⟩ ht
    refine posts_of rfl hc hfree (matrixRes_post (tileTrap_one ht) fun _ => ?_)
    rw [hk]
    rfl
  case tsacc =>
    exact fun ⟨hc, hfree⟩ ht hts => posts_of rfl hc hfree (matrixRes_post (tileTrap_two ht hts) fun _ => rfl)
  case drain =>
    intro ⟨hc, hfree⟩ ht
    refine ⟨fun hslot ha => traps_of (h := w.h) (c := w.c) rfl hc ?_, fun hslot => posts_of rfl hc hfree ?_⟩
    · exact matrixRes_trap (tileTrap_one ht) ha (if_pos hslot)
    · exact matrixRes_post (tileTrap_one ht) fun _ => if_neg (Nat.not_le.mpr hslot)
  case cbld =>
    intro ⟨hc, hfree⟩ h0
    have hnone := tileTrap_eq_none h0 (ts := []) (fun t ht => nomatch ht)
    refine ⟨fun k hk => ?_, fun n hn => ⟨fun t ha ht => ?_, fun ht hmode => ?_⟩⟩
    · refine posts_of rfl hc hfree (matrixRes_post hnone fun _ => ?_)
      rw [hk]
      rfl
    · refine traps_of (h := w.h) (c := w.c) rfl hc (matrixRes_trap hnone ha ?_)
      simp only [hn, ht]
    · refine posts_of rfl hc hfree (matrixRes_post hnone fun _ => ?_)
      simp only [hn, ht, flightOf_eq_none hmode]
  case steps =>
    intro r hr hcheck
    obtain ⟨steps, hi, hn⟩ := stepInstr_of_mem hr
    refine ⟨hi.traps_illegal hcheck, fun k ab bb m hshape => ?_⟩
    rw [← hn]
    refine ⟨hi.traps_overrun hshape hcheck, ?_, ?_⟩
    · exact fun hc ht ha hfit n t ho htrap => hi.traps_descriptor hshape hc ht hfit ha ho htrap
    · exact fun A B hc ht hfit hfree hA hB => hi.posts hshape hc ht hfit hfree hA hB
  case drainld =>
    refine ⟨fun hslot => traps_of (h := w.h) (c := unused) rfl hc (if_pos hslot), fun hslot h0 ha hmis => ?_,
      fun hslot h0 hok hfree => ?_⟩
    all_goals have hnone := tileTrap_eq_none h0 (ts := []) (fun t ht => nomatch ht)
    · exact traps_of (h := w.h) (c := unused) rfl hc ((if_neg (Nat.not_le.mpr hslot)).trans
        (matrixRes_trap hnone ha (if_pos hmis)))
    · exact posts_of rfl hc hfree ((if_neg (Nat.not_le.mpr hslot)).trans
        (matrixRes_post hnone fun _ => if_neg (Decidable.not_not.mpr hok)))
  case rstlbl =>
    refine ⟨fun hno => traps_of (h := w.h) (c := unused) rfl hc ?_, fun hyes => ⟨fun ha => runs_idle rfl hc ?_,
      fun ha => runs_of rfl hc ?_⟩⟩
    · exact if_pos (by rw [hno]; rfl)
    · exact (if_neg (by rw [hyes]; decide)).trans (if_pos ha)
    · exact (if_neg (by rw [hyes]; decide)).trans (if_neg ha)

/-- Settles O47: each operation that sets a tile fills it element by element (`setsTile_of`), `tmov.get` and `cbld` write
what their elements are read from; the sums by the branches of `groupSum`. -/
theorem matrixOperationsPerform : Obligations.MatrixOperationsPerform := by
  unfold Obligations.MatrixOperationsPerform
  refine ⟨fun s gid o m hh => ⟨matrixOp_idle, fun hnext => ⟨matrixOp_waits hnext, fun hdeps => ?_⟩⟩,
    fun ps => ⟨?nan, ?posInf, ?negInf, ?zeros, ?single⟩⟩
  · have hb := matrixOp_performs hnext hdeps
    refine ⟨?tzero, ?put, ?tsacc, ?mma, ?get, ?cbld⟩
    case tzero =>
      rintro t rfl -
      exact tzero_setsTile hh hb
    case put =>
      rintro t act ws rfl -
      exact put_setsTile hh hb
    case tsacc =>
      rintro t ts rows cols rfl - -
      exact tsacc_setsTile hh hb
    case mma =>
      rintro t a b af bf zero sa sb k ab bb mw rfl - hshape
      have hset := mma_setsTile hh hshape hb
      simp only [StepArgs.elem_dense (p := denseArgs k ab bb mw a b af bf sa sb o.olds) rfl] at hset
      exact hset
    case get =>
      rintro t v act rfl - - hp
      exact get_writes hh hp hb
    case cbld =>
      rintro slot ws rfl
      exact cbld_fills hh hb
  case nan =>
    intro h
    rw [groupSum_nan h]
    exact ⟨rfl, rfl⟩
  case posInf => exact fun hn hp hm => groupSum_posInf hn hp hm
  case negInf => exact fun hn hm hp => groupSum_negInf hn hm hp
  case zeros => exact groupSum_zeros
  case single =>
    rintro b m e rfl hm hbits hlow hhigh
    obtain ⟨hsum, hev⟩ := groupSum_exact b hm hbits hlow hhigh
    rw [hsum]
    exact ⟨hev, rfl⟩

end Sys2Proof.Proofs
end

section
/-! Proofs of the family of `10_drain_programs.md`: drain words and queue commands decoded and encoded (O3), `rte`
(O35), and drain words with the course of a drain (O49). -/

namespace Sys2Proof.Machine

/-! ### Fields of a word (R13) -/

theorem ofBool_getLsbD_eq_extract {n : Nat} (w : BitVec n) (k : Nat) :
    BitVec.ofBool (w.getLsbD k) = w.extractLsb' k 1 := by
  refine BitVec.eq_of_getLsbD_eq fun i hi => ?_
  have h0 : i = 0 := by omega
  simp [h0]

theorem extract_eq_of_toNat {n k l : Nat} {w : BitVec n} {x : BitVec l} (h : w.toNat / 2 ^ k % 2 ^ l = x.toNat) :
    w.extractLsb' k l = x :=
  BitVec.eq_of_toNat_eq ((toNat_extractLsb' w k l).trans h)

theorem getLsbD_eq_of_toNat {n k : Nat} {w : BitVec n} {b : Bool}
    (h : w.toNat / 2 ^ k % 2 ^ 1 = (BitVec.ofBool b).toNat) : w.getLsbD k = b := by
  have hbit : BitVec.ofBool (w.getLsbD k) = BitVec.ofBool b :=
    (ofBool_getLsbD_eq_extract w k).trans (extract_eq_of_toNat h)
  exact (show ∀ a c : Bool, BitVec.ofBool a = BitVec.ofBool c → a = c by decide) _ _ hbit

/-- A word without a bit of a mask is 0 in each field that the mask covers. -/
theorem field_eq_zero_of_and {n k l : Nat} {w mask : BitVec n} (h : w &&& mask = 0)
    (hm : mask.extractLsb' k l = BitVec.allOnes l) : w.extractLsb' k l = 0 := by
  rw [← BitVec.and_allOnes (x := w.extractLsb' k l), ← hm, ← BitVec.extractLsb'_and, h]
  exact BitVec.extractLsb'_zero

/-- The mask of `l` bits from bit `k` on. -/
def fieldMask (n k l : Nat) : BitVec n := (BitVec.allOnes l).setWidth n <<< k

theorem and_fieldMask_of_toNat {n k l : Nat} {w : BitVec n} (h : w.toNat / 2 ^ k % 2 ^ l = 0) :
    w &&& fieldMask n k l = 0 := by
  have hfield : w.extractLsb' k l = 0 := extract_eq_of_toNat (h.trans rfl)
  refine BitVec.eq_of_getLsbD_eq fun i hi => ?_
  by_cases hin : k ≤ i ∧ i - k < l
  · obtain ⟨hk, hl⟩ := hin
    have hbit : (w.extractLsb' k l).getLsbD (i - k) = w.getLsbD i := by
      rw [BitVec.getLsbD_extractLsb', decide_eq_true hl, Bool.true_and, Nat.add_sub_cancel' hk]
    rw [hfield] at hbit
    rw [BitVec.getLsbD_and, ← hbit]
    simp
  · have hout : (fieldMask n k l).getLsbD i = false := by
      simp only [fieldMask, BitVec.getLsbD_shiftLeft, BitVec.getLsbD_setWidth, BitVec.getLsbD_allOnes]
      grind
    rw [BitVec.getLsbD_and, hout]
    simp

/-! ### The layouts of drain words (R181, R183, R184) -/

section

variable {w : Word} {op : BitVec 5} (hop : w.extractLsb' 27 5 = op)
include hop

theorem opcode_append_zero (hz : w.extractLsb' 0 27 = 0) : op ++ (0 : BitVec 27) = w := by
  simp only [← hop, ← hz, BitVec.extractLsb'_append_extractLsb'_eq_extractLsb']
  exact BitVec.extractLsb'_eq_self

theorem encDW_dwOf (hz : w.extractLsb' 0 12 = 0) : encDW op (dwOf w) = w := by
  simp only [encDW, dwOf, ← hop, ← hz, ofBool_getLsbD_eq_extract, BitVec.extractLsb'_append_extractLsb'_eq_extractLsb']
  exact BitVec.extractLsb'_eq_self

theorem encDK_dkOf (hz : w.extractLsb' 16 4 = 0) : encDK op (dkOf w) = w := by
  simp only [encDK, dkOf, ← hop, ← hz, BitVec.extractLsb'_append_extractLsb'_eq_extractLsb']
  exact BitVec.extractLsb'_eq_self

theorem encDM_dmOf (hz : w.extractLsb' 0 4 = 0) : encDM op (dmOf w) = w := by
  simp only [encDM, dmOf, ← hop, ← hz, ofBool_getLsbD_eq_extract, BitVec.extractLsb'_append_extractLsb'_eq_extractLsb']
  exact BitVec.extractLsb'_eq_self

end

/-- The memory word with the places of its two sources exchanged: `dld` has them the other way round (R184). -/
def swapSources (x : DM) : DM := { x with v := x.o, o := x.v }

/-- The word of a `dfcmp`, whose condition code lies in its lowest bits (R183). -/
def encDfcmp (x : DW) : Word := (0x10 : BitVec 5) ++ x.d ++ x.a ++ x.b ++ (0 : BitVec 13) ++ x.r

/-- The fields of a `dfcmp`. -/
def dfcmpOf (w : Word) : DW :=
  { d := w.extractLsb' 24 3, a := w.extractLsb' 20 4, b := w.extractLsb' 16 4, r := w.extractLsb' 0 3, s := false }

theorem encDfcmp_dfcmpOf {w : Word} (hop : w.extractLsb' 27 5 = 0x10) (hz : w.extractLsb' 3 13 = 0) :
    encDfcmp (dfcmpOf w) = w := by
  simp only [encDfcmp, dfcmpOf, ← hop, ← hz, BitVec.extractLsb'_append_extractLsb'_eq_extractLsb']
  exact BitVec.extractLsb'_eq_self

theorem toNat_encDW (op : BitVec 5) (x : DW) :
    (encDW op x).toNat = op.toNat * 2 ^ 27 + x.d.toNat * 2 ^ 24 + x.a.toNat * 2 ^ 20 + x.b.toNat * 2 ^ 16 +
      x.r.toNat * 2 ^ 13 + (BitVec.ofBool x.s).toNat * 2 ^ 12 := by
  simp only [encDW, toNat_append_add, BitVec.ofNat_eq_ofNat, BitVec.toNat_ofNat, Nat.zero_mod]
  omega

theorem toNat_encDK (op : BitVec 5) (x : DK) :
    (encDK op x).toNat = op.toNat * 2 ^ 27 + x.d.toNat * 2 ^ 24 + x.a.toNat * 2 ^ 20 + x.k.toNat := by
  simp only [encDK, toNat_append_add, BitVec.ofNat_eq_ofNat, BitVec.toNat_ofNat, Nat.zero_mod]
  omega

theorem toNat_encDM (op : BitVec 5) (x : DM) :
    (encDM op x).toNat = op.toNat * 2 ^ 27 + x.d.toNat * 2 ^ 24 + x.v.toNat * 2 ^ 20 + x.o.toNat * 2 ^ 16 +
      x.f.toNat * 2 ^ 12 + x.r.toNat * 2 ^ 9 + (BitVec.ofBool x.s).toNat * 2 ^ 8 + x.p.toNat * 2 ^ 6 +
      (BitVec.ofBool x.x).toNat * 2 ^ 5 + (BitVec.ofBool x.g).toNat * 2 ^ 4 := by
  simp only [encDM, toNat_append_add, BitVec.ofNat_eq_ofNat, BitVec.toNat_ofNat, Nat.zero_mod]
  omega

theorem toNat_encDfcmp (x : DW) :
    (encDfcmp x).toNat = 16 * 2 ^ 27 + x.d.toNat * 2 ^ 24 + x.a.toNat * 2 ^ 20 + x.b.toNat * 2 ^ 16 + x.r.toNat := by
  simp only [encDfcmp, toNat_append_add, BitVec.ofNat_eq_ofNat, BitVec.toNat_ofNat, Nat.zero_mod]
  omega

theorem dwOf_encDW (op : BitVec 5) (x : DW) : dwOf (encDW op x) = x := by
  have h := toNat_encDW op x
  obtain ⟨d, a, b, r, s⟩ := x
  dsimp only at h
  simp only [dwOf, DW.mk.injEq]
  exact ⟨extract_eq_of_toNat (by omega), extract_eq_of_toNat (by omega), extract_eq_of_toNat (by omega),
    extract_eq_of_toNat (by omega), getLsbD_eq_of_toNat (by omega)⟩

theorem dkOf_encDK (op : BitVec 5) (x : DK) : dkOf (encDK op x) = x := by
  have h := toNat_encDK op x
  obtain ⟨d, a, k⟩ := x
  dsimp only at h
  simp only [dkOf, DK.mk.injEq]
  exact ⟨extract_eq_of_toNat (by omega), extract_eq_of_toNat (by omega), extract_eq_of_toNat (by omega)⟩

theorem dmOf_encDM (op : BitVec 5) (x : DM) : dmOf (encDM op x) = x := by
  have h := toNat_encDM op x
  obtain ⟨d, v, o, f, r, s, p, cls, g⟩ := x
  dsimp only at h
  simp only [dmOf, DM.mk.injEq]
  exact ⟨extract_eq_of_toNat (by omega), extract_eq_of_toNat (by omega), extract_eq_of_toNat (by omega),
    extract_eq_of_toNat (by omega), extract_eq_of_toNat (by omega), getLsbD_eq_of_toNat (by omega),
    extract_eq_of_toNat (by omega), getLsbD_eq_of_toNat (by omega), getLsbD_eq_of_toNat (by omega)⟩

theorem dfcmpOf_encDfcmp {x : DW} (hs : x.s = false) : dfcmpOf (encDfcmp x) = x := by
  have h := toNat_encDfcmp x
  obtain ⟨d, a, b, r, s⟩ := x
  dsimp only at h hs
  simp only [dfcmpOf, DW.mk.injEq]
  exact ⟨extract_eq_of_toNat (by omega), extract_eq_of_toNat (by omega), extract_eq_of_toNat (by omega),
    extract_eq_of_toNat (by omega), hs.symm⟩

/-! ### Bits [31:27] -/

theorem opcode_encDW (op : BitVec 5) (x : DW) : (encDW op x).extractLsb' 27 5 = op :=
  extract_eq_of_toNat (by have h := toNat_encDW op x; omega)

theorem opcode_encDK (op : BitVec 5) (x : DK) : (encDK op x).extractLsb' 27 5 = op :=
  extract_eq_of_toNat (by have h := toNat_encDK op x; omega)

theorem opcode_encDM (op : BitVec 5) (x : DM) : (encDM op x).extractLsb' 27 5 = op :=
  extract_eq_of_toNat (by have h := toNat_encDM op x; omega)

theorem opcode_encDfcmp (x : DW) : (encDfcmp x).extractLsb' 27 5 = 0x10 :=
  extract_eq_of_toNat (by have h := toNat_encDfcmp x; rw [h]; show _ = 16; omega)

theorem opcode_eq_of_toNat {w : Word} {n : Nat} (h : (w.extractLsb' 27 5).toNat = n) :
    w.extractLsb' 27 5 = BitVec.ofNat 5 n := by
  rw [← h, BitVec.ofNat_toNat, BitVec.setWidth_eq]

/-! ### Bits that must be zero (R181, R185) -/

section

variable (op : BitVec 5)

theorem encDW_zero (x : DW) : encDW op x &&& 0xFFF = 0 := by
  refine and_fieldMask_of_toNat (k := 0) (l := 12) ?_
  have h := toNat_encDW op x
  omega

theorem encDW_zero_rounding {x : DW} (hr : x.r = 0) (hs : x.s = false) : encDW op x &&& 0xFFFF = 0 := by
  refine and_fieldMask_of_toNat (k := 0) (l := 16) ?_
  have h := toNat_encDW op x
  simp only [hr, hs, BitVec.ofNat_eq_ofNat, BitVec.toNat_ofNat, BitVec.ofBool_false] at h
  omega

theorem encDW_zero_source {x : DW} (hb : x.b = 0) (hr : x.r = 0) (hs : x.s = false) :
    encDW op x &&& 0xFFFFF = 0 := by
  refine and_fieldMask_of_toNat (k := 0) (l := 20) ?_
  have h := toNat_encDW op x
  simp only [hb, hr, hs, BitVec.ofNat_eq_ofNat, BitVec.toNat_ofNat, BitVec.ofBool_false] at h
  omega

theorem encDK_zero_count {x : DK} (hk : x.k.toNat < 32) : encDK op x &&& 0xFFFE0 = 0 := by
  refine and_fieldMask_of_toNat (k := 5) (l := 15) ?_
  have h := toNat_encDK op x
  omega

theorem encDK_zero_source {x : DK} (ha : x.a = 0) : encDK op x &&& 0xFF0000 = 0 := by
  refine and_fieldMask_of_toNat (k := 16) (l := 8) ?_
  have h := toNat_encDK op x
  simp only [ha, BitVec.ofNat_eq_ofNat, BitVec.toNat_ofNat] at h
  omega

theorem encDfcmp_zero (x : DW) : encDfcmp x &&& 0xFFF8 = 0 := by
  refine and_fieldMask_of_toNat (k := 3) (l := 13) ?_
  have h := toNat_encDfcmp x
  omega

theorem encDM_zero_store {x : DM} (hd : x.d = 0) : encDM op x &&& 0x0700000F = 0 := by
  have h := toNat_encDM op x
  simp only [hd, BitVec.ofNat_eq_ofNat, BitVec.toNat_ofNat] at h
  have hmask : (0x0700000F : Word) = fieldMask 32 24 3 ||| fieldMask 32 0 4 := by decide
  rw [hmask, BitVec.and_or_distrib_left, and_fieldMask_of_toNat (by omega), and_fieldMask_of_toNat (by omega)]
  rfl

theorem encDM_zero_load {x : DM} (hv : x.v = 0) : encDM op (swapSources x) &&& 0xF000F = 0 := by
  have h := toNat_encDM op (swapSources x)
  have ho : (swapSources x).o = 0 := hv
  simp only [ho, BitVec.ofNat_eq_ofNat, BitVec.toNat_ofNat] at h
  have hmask : (0xF000F : Word) = fieldMask 32 16 4 ||| fieldMask 32 0 4 := by decide
  rw [hmask, BitVec.and_or_distrib_left, and_fieldMask_of_toNat (by omega), and_fieldMask_of_toNat (by omega)]
  rfl

end

/-! ### Drain words decoded and encoded (R181 to R185) -/

theorem decodeDrain_eq_some_iff {w : Word} {i : Instr} :
    decodeDrain w = some i ↔ ∃ zero, drainOp w = some (i, zero) ∧ w &&& zero = 0 ∧ wellFormed i = true := by
  unfold decodeDrain
  cases drainOp w with
  | none => simp
  | some x => grind

/-- An operation whose bits that must be zero are zero is encoded by its word. Case `h_n` is operation n − 1 of bits
[31:27], here and in `drainOp_of_encodeDrain`. -/
theorem encodeDrain_of_drainOp {w zero : Word} {i : Instr} (h : drainOp w = some (i, zero)) (hz : w &&& zero = 0) :
    encodeDrain i = some w := by
  unfold drainOp at h
  split at h
  case h_22 => cases h
  all_goals
    obtain ⟨rfl, rfl⟩ := Prod.mk.inj (Option.some.inj h)
    have hop := opcode_eq_of_toNat ‹_›
    refine congrArg some ?_
  case h_1 | h_21 => exact opcode_append_zero hop (field_eq_zero_of_and hz (by decide))
  case h_12 | h_15 | h_16 => exact encDK_dkOf hop (field_eq_zero_of_and hz (by decide))
  case h_17 => exact encDfcmp_dfcmpOf hop (field_eq_zero_of_and hz (by decide))
  case h_18 | h_19 | h_20 => exact encDM_dmOf hop (field_eq_zero_of_and hz (by decide))
  all_goals exact encDW_dwOf hop (field_eq_zero_of_and hz (by decide))

theorem check_of_wellFormed {i : Instr} (h : wellFormed i = true) : check i = none := Option.isNone_iff_eq_none.mp h

theorem drainOp_encDfcmp {x : DW} (hs : x.s = false) : drainOp (encDfcmp x) = some (.dfcmp x, 0xFFF8) := by
  rw [drainOp, opcode_encDfcmp]
  exact congrArg (fun y => some (Instr.dfcmp y, (0xFFF8 : Word))) (dfcmpOf_encDfcmp hs)

theorem drainOp_load (x : DM) : drainOp (encDM 0x11 (swapSources x)) = some (.dld x, 0xF000F) := by
  rw [drainOp, opcode_encDM]
  exact congrArg (fun y => some (Instr.dld (swapSources y), (0xF000F : Word))) (dmOf_encDM _ _)

theorem rounding_eq_zero_of_exact {x : DW} (h : (x.r == 0 && !x.s) = true) : x.r = 0 ∧ x.s = false := by simpa using h

theorem unused_eq_zero_of_one_source {x : DW} (h : (x.b == 0 && x.r == 0 && !x.s) = true) :
    x.b = 0 ∧ x.r = 0 ∧ x.s = false := by
  simpa [and_assoc] using h

theorem source_eq_zero_of_load {x : DM} (h : drainMem x true false = true) : x.v = 0 := by
  simp only [drainMem, Bool.and_eq_true] at h
  obtain ⟨⟨-, hv⟩, -⟩ := h
  simpa using hv

theorem destination_eq_zero_of_store {x : DM} {red : Bool} (h : drainMem x false red = true) : x.d = 0 := by
  simp only [drainMem, Bool.and_eq_true] at h
  obtain ⟨⟨⟨-, hd⟩, -⟩, -⟩ := h
  simpa using hd

/-- The word of a well-formed drain instruction names its operation, and has its bits that must be zero at zero. -/
theorem drainOp_of_encodeDrain {w : Word} {i : Instr} (h : encodeDrain i = some w) (hw : wellFormed i = true) :
    ∃ zero, drainOp w = some (i, zero) ∧ w &&& zero = 0 := by
  have hck := check_of_wellFormed hw
  unfold encodeDrain at h
  split at h
  case h_22 => cases h
  all_goals obtain rfl := Option.some.inj h
  case h_1 | h_21 => exact ⟨_, rfl, by decide⟩
  case h_2 | h_3 | h_4 | h_5 => exact ⟨_, by rw [drainOp, opcode_encDW, dwOf_encDW]; rfl, encDW_zero _ _⟩
  case h_6 | h_7 | h_9 | h_10 | h_11 | h_13 =>
    obtain ⟨hr, hs⟩ := rounding_eq_zero_of_exact (ck_fields hck)
    exact ⟨_, by rw [drainOp, opcode_encDW, dwOf_encDW]; rfl, encDW_zero_rounding _ hr hs⟩
  case h_8 | h_14 =>
    obtain ⟨hb, hr, hs⟩ := unused_eq_zero_of_one_source (ck_fields hck)
    exact ⟨_, by rw [drainOp, opcode_encDW, dwOf_encDW]; rfl, encDW_zero_source _ hb hr hs⟩
  case h_12 =>
    have hk := of_decide_eq_true (ck_fields hck)
    exact ⟨_, by rw [drainOp, opcode_encDK, dkOf_encDK]; rfl, encDK_zero_count _ hk⟩
  case h_15 | h_16 =>
    have ha := eq_of_beq (ck_fields hck)
    exact ⟨_, by rw [drainOp, opcode_encDK, dkOf_encDK]; rfl, encDK_zero_source _ ha⟩
  case h_17 x =>
    have hs : x.s = false := by simpa using ck_fields hck
    exact ⟨_, drainOp_encDfcmp hs, encDfcmp_zero x⟩
  case h_18 x =>
    have hv := source_eq_zero_of_load (ck_fields hck)
    exact ⟨_, drainOp_load x, encDM_zero_load _ hv⟩
  case h_19 | h_20 =>
    have hd := destination_eq_zero_of_store (ck_fields hck)
    exact ⟨_, by rw [drainOp, opcode_encDM, dmOf_encDM]; rfl, encDM_zero_store _ hd⟩

/-! ### Queue commands (R376, R377) -/

theorem encodeCommand_of_decodeCommand {q : QRef} {w : BitVec 512} {i : Instr} (h : decodeCommand q w = some i) :
    encodeCommand i = some w ∧ wellFormed i = true := by
  unfold decodeCommand at h
  cases hc : commandOf q w with
  | none => simp [hc] at h
  | some j => grind

theorem decodeCommand_eq_some {q : QRef} {w : BitVec 512} {i : Instr} (h : commandOf q w = some i)
    (he : encodeCommand i = some w) (hw : wellFormed i = true) : decodeCommand q w = some i := by
  simp [decodeCommand, h, he, hw]

theorem map_getAt_eq {α : Type} (d : α) (xs : List α) : (List.range xs.length).map (getAt d xs) = xs := by
  induction xs with
  | nil => rfl
  | cons x r ih =>
    rw [List.length_cons, List.range_succ_eq_map, List.map_cons, List.map_map]
    exact congrArg (x :: ·) ih

theorem toNat_encWordCmd (op : BitVec 8) (c : WordCmd) (tail : BitVec 64) :
    (encWordCmd op c tail).toNat = op.toNat + (BitVec.ofBool c.barrier).toNat * 2 ^ 8 + c.addr.toNat * 2 ^ 64 +
      c.value.toNat * 2 ^ 128 + tail.toNat * 2 ^ 192 := by
  simp only [encWordCmd, commandHead, toNat_append_add, BitVec.ofNat_eq_ofNat, BitVec.toNat_ofNat, Nat.zero_mod]
  omega

section

variable (op : BitVec 8) (c : WordCmd) (tail : BitVec 64)

theorem encWordCmd_op : (encWordCmd op c tail).extractLsb' 0 8 = op :=
  extract_eq_of_toNat (by have h := toNat_encWordCmd op c tail; omega)

theorem encWordCmd_barrier : (encWordCmd op c tail).getLsbD 8 = c.barrier :=
  getLsbD_eq_of_toNat (by have h := toNat_encWordCmd op c tail; omega)

theorem encWordCmd_addr : field64 (encWordCmd op c tail) 8 = c.addr :=
  extract_eq_of_toNat (by have h := toNat_encWordCmd op c tail; omega)

theorem encWordCmd_value : field64 (encWordCmd op c tail) 16 = c.value :=
  extract_eq_of_toNat (by have h := toNat_encWordCmd op c tail; omega)

theorem encWordCmd_tail : field64 (encWordCmd op c tail) 24 = tail :=
  extract_eq_of_toNat (by have h := toNat_encWordCmd op c tail; omega)

end

/-- Bytes 24 to 31 of a SIGNAL or WAITWORD command. -/
def wordCmdTail (c : WordCmd) : BitVec 64 := (0 : BitVec 40) ++ c.test ++ c.width ++ c.scope

theorem toNat_wordCmdTail (c : WordCmd) :
    (wordCmdTail c).toNat = c.test.toNat * 2 ^ 16 + c.width.toNat * 2 ^ 8 + c.scope.toNat := by
  simp only [wordCmdTail, toNat_append_add, BitVec.ofNat_eq_ofNat, BitVec.toNat_ofNat, Nat.zero_mod]
  omega

theorem wordCmdOf_encWordCmd {c : WordCmd} (op : BitVec 8) (hc : c.count = 0) :
    wordCmdOf (encWordCmd op c (wordCmdTail c)) = c := by
  have h := toNat_encWordCmd op c (wordCmdTail c)
  have ht := toNat_wordCmdTail c
  simp only [wordCmdOf, encWordCmd_barrier, encWordCmd_addr, encWordCmd_value]
  obtain ⟨barrier, addr, value, count, scope, width, test⟩ := c
  dsimp only at h ht hc
  simp only [WordCmd.mk.injEq, true_and]
  exact ⟨hc.symm, extract_eq_of_toNat (by omega), extract_eq_of_toNat (by omega), extract_eq_of_toNat (by omega)⟩

/-- The 64 bytes of a LAUNCH command (R377). -/
def encLaunch (c : LaunchCmd) : BitVec 512 :=
  getAt 0 c.args 7 ++ getAt 0 c.args 6 ++ getAt 0 c.args 5 ++ getAt 0 c.args 4 ++ getAt 0 c.args 3 ++
    getAt 0 c.args 2 ++ getAt 0 c.args 1 ++ getAt 0 c.args 0 ++ c.stages ++ c.header ++ c.z ++ c.y ++ c.x ++
    commandHead 1 c.barrier

theorem encodeCommand_launch (q : QRef) (c : LaunchCmd) : encodeCommand (.launch q c) = some (encLaunch c) := rfl

theorem toNat_encLaunch (c : LaunchCmd) :
    (encLaunch c).toNat = 1 + (BitVec.ofBool c.barrier).toNat * 2 ^ 8 + c.x.toNat * 2 ^ 32 + c.y.toNat * 2 ^ 64 +
      c.z.toNat * 2 ^ 96 + c.header.toNat * 2 ^ 128 + c.stages.toNat * 2 ^ 192 + (getAt 0 c.args 0).toNat * 2 ^ 256 +
      (getAt 0 c.args 1).toNat * 2 ^ 288 + (getAt 0 c.args 2).toNat * 2 ^ 320 + (getAt 0 c.args 3).toNat * 2 ^ 352 +
      (getAt 0 c.args 4).toNat * 2 ^ 384 + (getAt 0 c.args 5).toNat * 2 ^ 416 + (getAt 0 c.args 6).toNat * 2 ^ 448 +
      (getAt 0 c.args 7).toNat * 2 ^ 480 := by
  simp only [encLaunch, commandHead, toNat_append_add, BitVec.ofNat_eq_ofNat, BitVec.toNat_ofNat, Nat.zero_mod]
  omega

theorem encLaunch_arg (c : LaunchCmd) {k : Nat} (hk : k < 8) :
    (encLaunch c).extractLsb' (256 + 32 * k) 32 = getAt 0 c.args k := by
  have h := toNat_encLaunch c
  refine extract_eq_of_toNat ?_
  obtain rfl | rfl | rfl | rfl | rfl | rfl | rfl | rfl :
    k = 0 ∨ k = 1 ∨ k = 2 ∨ k = 3 ∨ k = 4 ∨ k = 5 ∨ k = 6 ∨ k = 7 := by omega
  all_goals rw [h]; omega

theorem encLaunch_args {c : LaunchCmd} (hc : c.args.length = 8) :
    [0, 1, 2, 3, 4, 5, 6, 7].map (fun k => (encLaunch c).extractLsb' (256 + 32 * k) 32) = c.args := by
  refine (List.map_congr_left fun k hk => encLaunch_arg c ?_).trans ?_
  · simp only [List.mem_cons, List.not_mem_nil, or_false] at hk
    omega
  · have h := map_getAt_eq 0 c.args
    rw [hc] at h
    exact h

theorem commandOf_encLaunch (q : QRef) {c : LaunchCmd} (hc : c.args.length = 8) :
    commandOf q (encLaunch c) = some (.launch q c) := by
  have h := toNat_encLaunch c
  have hop : (encLaunch c).extractLsb' 0 8 = 1 := extract_eq_of_toNat (by rw [h]; show _ = 1; omega)
  have hargs := encLaunch_args hc
  rw [commandOf, hop]
  refine congrArg (fun l => some (Instr.launch q l)) ?_
  obtain ⟨barrier, x, y, z, header, stages, args⟩ := c
  dsimp only at h hc hargs
  simp only [LaunchCmd.mk.injEq]
  exact ⟨getLsbD_eq_of_toNat (by omega), extract_eq_of_toNat (by omega), extract_eq_of_toNat (by omega),
    extract_eq_of_toNat (by omega), extract_eq_of_toNat (by omega), extract_eq_of_toNat (by omega), hargs⟩

/-- A command whose bytes stand for it is encoded and decoded. -/
theorem command_roundTrip {q : QRef} {i : Instr} {w : BitVec 512} (hw : wellFormed i = true)
    (he : encodeCommand i = some w) (hc : commandOf q w = some i) :
    ∃ w, encodeCommand i = some w ∧ decodeCommand q w = some i :=
  ⟨w, he, decodeCommand_eq_some hc he hw⟩

theorem commandOf_signal (q : QRef) {c : WordCmd} (hc : c.count = 0) :
    commandOf q (encWordCmd 2 c (wordCmdTail c)) = some (.signal q c) := by
  rw [commandOf, encWordCmd_op]
  exact congrArg (fun x => some (Instr.signal q x)) (wordCmdOf_encWordCmd 2 hc)

theorem commandOf_waitword (q : QRef) {c : WordCmd} (hc : c.count = 0) :
    commandOf q (encWordCmd 3 c (wordCmdTail c)) = some (.waitword q c) := by
  rw [commandOf, encWordCmd_op]
  exact congrArg (fun x => some (Instr.waitword q x)) (wordCmdOf_encWordCmd 3 hc)

theorem commandOf_copy (q : QRef) {c : WordCmd} (hs : c.scope = 0) (hw : c.width = 0) (ht : c.test = 0) :
    commandOf q (encWordCmd 4 c c.count) = some (.copy q c) := by
  rw [commandOf, encWordCmd_op]
  refine congrArg (fun x => some (Instr.copy q x)) ?_
  simp only [encWordCmd_barrier, encWordCmd_addr, encWordCmd_value, encWordCmd_tail]
  obtain ⟨barrier, addr, value, count, scope, width, test⟩ := c
  dsimp only at hs hw ht
  subst hs hw ht
  rfl

theorem commandOf_timestamp (q : QRef) {c : WordCmd} (hv : c.value = 0) (hc : c.count = 0) (hs : c.scope = 0)
    (hw : c.width = 0) (ht : c.test = 0) : commandOf q (encWordCmd 5 c 0) = some (.timestamp q c) := by
  rw [commandOf, encWordCmd_op]
  refine congrArg (fun x => some (Instr.timestamp q x)) ?_
  simp only [encWordCmd_barrier, encWordCmd_addr]
  obtain ⟨barrier, addr, value, count, scope, width, test⟩ := c
  dsimp only at hv hc hs hw ht
  subst hv hc hs hw ht
  rfl

/-! ### `rte` (R408) -/

theorem setAt_of_length_le {α : Type} {xs : List α} {i : Nat} (h : xs.length ≤ i) (v : α) : setAt xs i v = xs := by
  induction xs generalizing i with
  | nil => rfl
  | cons x r ih =>
    rw [List.length_cons] at h
    cases i with
    | zero => omega
    | succ i => exact congrArg (x :: ·) (ih (by omega))

section

variable {f : Path → Path} (hf : ∀ p, (f p).live = p.live)
include hf

theorem Group.live_path_updPath (g : Group) (i k : Nat) : ((g.updPath i f).path k).live = (g.path k).live := by
  by_cases hk : k = i
  · subst hk
    by_cases hlen : k < g.paths.length
    · rw [Group.path_updPath hlen, hf]
    · rw [Group.path, Group.updPath_paths, setAt_of_length_le (Nat.le_of_not_lt hlen), Group.path]
  · rw [Group.path_updPath_other g hk]

theorem Group.faultPath_updPath (g : Group) (i : Nat) (h : HeldFault) :
    (g.updPath i f).faultPath h = g.faultPath h := by
  simp only [Group.faultPath, Group.live, Group.live_path_updPath hf]

end

theorem Group.faultOf_eq_none {g : Group} {pix : Nat} :
    g.faultOf pix = none ↔ ∀ h ∈ g.faults, g.faultPath h ≠ pix := by
  simp only [Group.faultOf, findBy_eq_none, beq_eq_false_iff_ne]

theorem State.touch_has (s : State) (i : Instr) (gid : Nat) : (s.touch i).has gid = s.has gid := by
  rw [State.touch_eq]
  exact State.has_updGrp _ _ _ _ (fun _ => rfl)

/-- Without a drain to decide on and without a fault that is held for it, the path leaves its handler and nothing else
changes. -/
theorem State.returnFrom_quiet {s : State} {gid pix : Nat} (hh : s.has gid = true)
    (hd : cursorValid ((s.grp gid).path pix).frame.dcur = false) (hq : (s.grp gid).faultOf pix = none) :
    s.returnFrom gid pix = s.updGrp gid (fun g => g.updPath pix returnPath) := by
  have hnone : ((s.updGrp gid (fun g => g.updPath pix returnPath)).grp gid).faultOf pix = none := by
    rw [State.grp_updGrp s gid (fun g => g.updPath pix returnPath) (fun _ => rfl) hh, Group.faultOf_eq_none]
    intro h hmem
    rw [Group.faultPath_updPath (f := returnPath) (fun _ => rfl)]
    exact Group.faultOf_eq_none.mp hq h hmem
  simp only [State.returnFrom, hd, Bool.false_eq_true, if_false, hnone]

theorem cursorAct_eq (c : BitVec 64) : cursorAct c = (c.extractLsb' 60 2).toNat := by
  rw [toNat_extractLsb', cursorAct, nbits, Nat.shiftRight_eq_div_pow]

/-! ### The engines of the state -/

@[simp] theorem State.engine_updEngine (s : State) (e : EngRef) (f : Engine → Engine) :
    (s.updEngine e f).engine e = (s.engine e).map f := by
  have h := findBy_updBy (fun (x : EngRef × Engine) => x.1 == e) (fun x => (x.1, f x.2)) (fun _ hx => hx) s.engines
  simp only [State.engine, State.updEngine, h, Option.map_map]
  rfl

theorem State.engine_updEngine_other (s : State) {e r : EngRef} (h : r ≠ e) (f : Engine → Engine) :
    (s.updEngine e f).engine r = s.engine r := by
  have hother := findBy_updBy_other (fun (x : EngRef × Engine) => x.1 == r) (fun x => x.1 == e)
    (fun x => (x.1, f x.2)) (fun x hx => by
      have hne : ¬x.1 = r := fun hr => h (hr.symm.trans (eq_of_beq hx))
      simpa using hne) s.engines
  simp only [State.engine, State.updEngine, hother]

theorem State.engine_freeEngine (s : State) (e : EngRef) : (s.freeEngine e).engine e = none := by
  have h : findBy (fun (x : EngRef × Engine) => x.1 == e) (s.freeEngine e).engines = none := by
    rw [findBy_eq_none]
    intro x hx
    have hne := (List.mem_filter.mp hx).2
    simpa [bne] using hne
  rw [State.engine, h, Option.map_none]

theorem updBy_of_none {α : Type} {f : α → Bool} {xs : List α} (h : ∀ x ∈ xs, f x = false) (k : α → α) :
    updBy f k xs = xs := by
  induction xs with
  | nil => rfl
  | cons x r ih =>
    obtain ⟨hx, hr⟩ := List.forall_mem_cons.mp h
    simp only [updBy, hx, Bool.false_eq_true, if_false, ih hr]

theorem State.updEngine_of_none {s : State} {e : EngRef} (h : s.engine e = none) (f : Engine → Engine) :
    s.updEngine e f = s := by
  rw [State.updEngine, updBy_of_none (findBy_eq_none.mp (Option.map_eq_none_iff.mp h))]

/-! ### Registers of the columns (R181, R182) -/

/-- The engine after a word that writes register `k`: its registers as one write of the 32 columns. -/
theorem Engine.put_eq (en : Engine) (k : BitVec 3) (f : Nat → Word × Events) :
    en.put k f = { en with
      d := spSetAll 0 (fun j => 8 * j + k.toNat) (fun j => (f j).1) lanes en.d,
      flags := lanes.foldl (fun v j => v ||| (f j).2) en.flags, dpc := en.dpc + 1 } := by
  simp only [Engine.put, zip_map_same, List.foldl_map]
  rfl

theorem Engine.reg_put (en : Engine) (d : BitVec 3) (f : Nat → Word × Events) {j k : Nat} (hj : j < 32) (hk : k < 8) :
    (en.put d f).reg j k = if k = d.toNat then (f j).1 else en.reg j k := by
  have hd : d.toNat < 8 := d.isLt
  rw [Engine.put_eq, Engine.reg]
  dsimp only
  split
  case isTrue h =>
    refine spGet_spSetAll 0 (fun j => 8 * j + d.toNat) _ ⟨j, (mem_lanes j).mpr hj, by omega⟩ (fun x _ hx => ?_) _
    have hcol : x = j := by omega
    rw [hcol]
  case isFalse h => exact spGet_spSetAll_other _ _ _ (fun x _ hx => h (by omega)) _

/-! ### Words that compute (R183) -/

section
open Stated

/-- A meaning that writes a register of each column from the column's own values. -/
theorem drains_of {i : Instr} {d : BitVec 3} {P : Engine → Nat → Word → Events → Prop}
    (f : Engine → Nat → Word × Events) (hx : ∀ s, exec i s = drainWord d f s)
    (hP : ∀ en j, P en j (f en j).1 (f en j).2) : Drains i d P := by
  intro s en he hact
  have hen : (s.updEngine s.eng (fun en => if en.active then en.put d (f en) else en)).engine s.eng =
      some (en.put d (f en)) := by
    rw [State.engine_updEngine, he, Option.map_some, if_pos hact]
  refine ⟨_, en.put d (f en), fun j => (f en j).2, hx s, rfl, fun r hr => State.engine_updEngine_other s hr _, hen,
    rfl, rfl, fun j hj => ⟨?_, fun k hk hne => ?_⟩, ?_⟩
  · rw [Engine.reg_put en d _ hj d.isLt, if_pos rfl]
    exact hP en j
  · rw [Engine.reg_put en d _ hj hk, if_neg hne]
  · rw [Engine.put_eq]

/-- A meaning of 32-bit patterns. -/
theorem drains_bits {i : Instr} {d : BitVec 3} {P : Engine → Nat → Word → Prop} (f : Engine → Nat → Word)
    (hx : ∀ s, exec i s = drainBits d f s) (hP : ∀ en j, P en j (f en j)) :
    Drains i d (fun en j v ev => ev = 0 ∧ P en j v) :=
  drains_of _ hx (fun en j => ⟨rfl, hP en j⟩)

theorem image_fp32 (x : Nat) : Image 9 ((BitVec.ofNat 32 x).setWidth 64) x := by
  apply BitVec.eq_of_toNat_eq
  simp only [BitVec.toNat_setWidth, BitVec.toNat_ofNat]
  rfl

/-- A meaning that rounds an exact value once to FP32. -/
theorem drains_rounds {i : Instr} {w : DW} (x : Engine → Nat → FNum × Events)
    (hx : ∀ s, exec i s = drainFloat w x s) :
    Drains i w.d (fun en j v ev => Rounds 9 (en.mode w.r) w.s (x en j) (v.setWidth 64) ev) :=
  drains_of _ hx (fun _ _ => ⟨_, rfl, image_fp32 _, BitVec.or_comm _ _⟩)

end

theorem qnan_f32 : BitVec.ofNat 32 (qnan f32) = 0x7FC00000 := by decide

section

variable {a b : Word} (greater : Bool)

theorem drainSelect_both_nan (ha : (fDecode f32 a.toNat).isNan = true) (hb : (fDecode f32 b.toNat).isNan = true) :
    (drainSelect greater a b).1 = 0x7FC00000 := by
  simp [drainSelect, ha, hb, qnan_f32]

theorem drainSelect_left_nan (ha : (fDecode f32 a.toNat).isNan = true) (hb : ¬(fDecode f32 b.toNat).isNan = true) :
    (drainSelect greater a b).1 = b := by
  simp [drainSelect, ha, hb]

theorem drainSelect_right_nan (hb : (fDecode f32 b.toNat).isNan = true) (ha : ¬(fDecode f32 a.toNat).isNan = true) :
    (drainSelect greater a b).1 = a := by
  simp [drainSelect, ha, hb]

theorem drainSelect_numbers (ha : ¬(fDecode f32 a.toNat).isNan = true) (hb : ¬(fDecode f32 b.toNat).isNan = true) :
    (drainSelect greater a b).1 = if numBelow (fDecode f32 a.toNat) (fDecode f32 b.toNat) = greater then b else a := by
  simp [drainSelect, ha, hb]

end

section
open Stated

/-- What a selection of two operands gives (R140, R183). -/
def DrainSelects (w : DW) (greater : Bool) (en : Engine) (j : Nat) (v : Word) (ev : Events) : Prop :=
  let a := en.num j w.a
  let b := en.num j w.b
  let below := numCmp a b = .lt ∨ (numCmp a b = .eq ∧ a.neg = true ∧ b.neg = false)
  ev = a.snv ||| b.snv ∧ (a.isNan → b.isNan → v = 0x7FC00000) ∧ (a.isNan → ¬b.isNan → v = en.src j w.b) ∧
  (b.isNan → ¬a.isNan → v = en.src j w.a) ∧
  (¬a.isNan → ¬b.isNan → (below → v = if greater then en.src j w.b else en.src j w.a) ∧
    (¬below → v = if greater then en.src j w.a else en.src j w.b))

theorem drains_selects {i : Instr} {w : DW} (greater : Bool)
    (hx : ∀ s, exec i s = drainWord w.d (fun en j => drainSelect greater (en.src j w.a) (en.src j w.b)) s) :
    Drains i w.d (DrainSelects w greater) := by
  refine drains_of _ hx fun en j => ⟨rfl, drainSelect_both_nan greater, drainSelect_left_nan greater,
    drainSelect_right_nan greater, fun ha hb => ⟨fun hbelow => ?_, fun hbelow => ?_⟩⟩
  all_goals
    rw [← numBelow_iff] at hbelow
    refine (drainSelect_numbers greater ha hb).trans ?_
    cases greater <;> simp_all [Engine.num]

end

theorem reluOf_events (a : Word) : (reluOf a).2 = (fDecode f32 a.toNat).snv := by
  unfold reluOf
  cases fDecode f32 a.toNat with
  | nan g => cases g <;> rfl
  | _ => rfl

theorem reluOf_nan {a : Word} (h : (fDecode f32 a.toNat).isNan = true) : (reluOf a).1 = 0x7FC00000 := by
  unfold reluOf
  cases hx : fDecode f32 a.toNat with
  | nan g => exact qnan_f32
  | _ => rw [hx] at h; cases h

theorem reluOf_number {a : Word} (h : ¬(fDecode f32 a.toNat).isNan = true) :
    (reluOf a).1 = if (fDecode f32 a.toNat).neg then 0 else a := by
  unfold reluOf
  cases hx : fDecode f32 a.toNat with
  | nan g => rw [hx] at h; exact absurd rfl h
  | _ => rfl

theorem toNat_setWidth_code (r : BitVec 3) : (r.setWidth 8).toNat = r.toNat := by
  have h := r.isLt
  rw [BitVec.toNat_setWidth]
  omega

/-- What the condition code of a `dfcmp` compares (R141, R183). -/
def DrainCompares (r : BitVec 3) (a b : FNum) : Prop :=
  let nan := a.isNan = true ∨ b.isNan = true
  (r = 0 ∧ ¬nan ∧ numCmp a b = .eq) ∨ (r = 1 ∧ (nan ∨ numCmp a b ≠ .eq)) ∨
    (r = 2 ∧ ¬nan ∧ numCmp a b = .lt) ∨ (r = 3 ∧ ¬nan ∧ numCmp a b ≠ .gt) ∨
    (r = 4 ∧ ¬nan ∧ numCmp a b = .gt) ∨ (r = 5 ∧ ¬nan ∧ numCmp a b ≠ .lt) ∨
    (r = 6 ∧ nan) ∨ (r = 7 ∧ ¬nan)

theorem compares_code_iff (r : BitVec 3) (a b : FNum) : Compares (r.setWidth 8) a b ↔ DrainCompares r a b := by
  have hcode : ∀ r c : BitVec 3, r.setWidth 8 = c.setWidth 8 ↔ r = c := by decide
  simp only [Compares, DrainCompares, ← hcode]
  rfl

section
open Stated

theorem drains_relu {w : DW} : Drains (.drelu w) w.d (fun en j v ev =>
    let a := en.num j w.a
    ev = a.snv ∧ (a.isNan → v = 0x7FC00000) ∧ (¬a.isNan → v = if a.neg then 0 else en.src j w.a)) :=
  drains_of _ (fun _ => rfl) fun _ _ => ⟨reluOf_events _, reluOf_nan, reluOf_number⟩

theorem drains_compares {w : DW} : Drains (.dfcmp w) w.d (fun en j v ev =>
    let a := en.num j w.a
    let b := en.num j w.b
    (DrainCompares w.r a b → v = 1) ∧ (¬DrainCompares w.r a b → v = 0) ∧
      ev = if 2 ≤ w.r.toNat ∧ w.r.toNat ≤ 5 then (if a.isNan || b.isNan then evNV else 0) else a.snv ||| b.snv) := by
  have hw := toNat_setWidth_code w.r
  have hr : (w.r.setWidth 8).toNat ≤ 7 := by have := w.r.isLt; omega
  refine drains_of _ (fun _ => rfl) fun en j => ?_
  have hiff := (fcmpOf_iff hr (en.num j w.a) (en.num j w.b)).trans (compares_code_iff w.r _ _)
  have hev := fcmpOf_events hr (en.num j w.a) (en.num j w.b)
  rw [hw] at hiff hev
  exact ⟨fun h => if_pos (hiff.mpr h), fun h => if_neg (mt hiff.mp h), hev⟩

end

/-! ### Memory words (R184, R189, R190) -/

section
open Stated

variable {i : Instr} {cols : List Nat} {f : Group → State → Engine → Nat → ColRes} {s s1 : State} {en en1 : Engine}
  (hx : exec i s = drainMemWord cols f s)
include hx

theorem drainMemWord_idle (h : s.engine s.eng = none) : Becomes i s s :=
  hx.trans (by simp only [drainMemWord, h])

variable (he : s.engine s.eng = some en) (hact : en.active = true)
include he hact

theorem drainMemWord_completes (hrun : runCols (f (s.grp en.gid)) cols s en = (s1, en1, [], false)) :
    Becomes i s (s1.updEngine s.eng (fun _ => { en1 with dpc := en.dpc + 1 })) :=
  hx.trans (by simp only [drainMemWord, he, hact, hrun, Bool.not_true, Bool.false_eq_true, if_false])

theorem drainMemWord_faults {b : Nat × Cause × Nat} {bad : List (Nat × Cause × Nat)}
    (hrun : runCols (f (s.grp en.gid)) cols s en = (s1, en1, b :: bad, false)) :
    Becomes i s (if en1.acc.any s1.rowHeld then s1 else faultRow s1 en1 (b :: bad)) :=
  hx.trans (by simp only [drainMemWord, he, hact, hrun, Bool.not_true, Bool.false_eq_true, if_false])

end

theorem exec_dld (w : DM) (s : State) : exec (.dld w) s = drainMemWord lanes (fun g => dldCol g w) s := rfl

theorem exec_dst (w : DM) (s : State) :
    exec (.dst w) s = drainMemWord (freeCols s.tick) (fun g => dstCol false g w) s := rfl

theorem exec_dred (w : DM) (s : State) :
    exec (.dred w) s = drainMemWord (freeCols s.tick) (fun g => dstCol true g w) s := rfl

/-! ### The place of a column's access (R184) -/

section

variable {s s1 : State} {g : Group} {w : DM} {a : Nat} {need : Need} {p : PLoc} {attr : BitVec 9}

theorem drainTarget_misaligned (h : a % fmtBytes w.f ≠ 0) (red : Bool) :
    s.drainTarget g w a need red = (s, .error (some .memAlign)) := by
  simp only [State.drainTarget, if_pos h]

variable (hx : w.x = false) (hal : a % fmtBytes w.f = 0)
include hx hal

theorem drainTarget_access (ht : s.target g .gbl a (fmtBytes w.f) need = (s1, .ok (.at_ p attr))) :
    s.drainTarget g w a need false = (s1, .ok (.at_ p attr)) := by
  simp only [State.drainTarget, hal, hx, ht, ne_eq, not_true_eq_false, Bool.false_eq_true, if_false, Bool.false_and]

variable (ht : s.target g .gbl a (fmtBytes w.f) need.asks = (s1, .ok (.at_ p attr)))
include ht

theorem drainTarget_forbidden (hno : atomicOk attr (some .add) w.f false = false) :
    s.drainTarget g w a need true = (s1, .error (some .memProtection)) := by
  simp only [State.drainTarget, hal, hx, ht, hno, ne_eq, not_true_eq_false, Bool.false_eq_true, if_false, if_true,
    Bool.not_false, Bool.and_self]

theorem drainTarget_reduction (hok : atomicOk attr (some .add) w.f false = true)
    (hp : s1.targetPoison g (.at_ p attr) (fmtBytes w.f) = false) :
    s.drainTarget g w a need true = (s1.used g a need, .ok (.at_ p attr)) := by
  simp only [State.drainTarget, hal, hx, ht, hok, hp, ne_eq, not_true_eq_false, Bool.false_eq_true, if_false, if_true,
    Bool.not_true, Bool.and_false]

end

/-! ### The bytes that a `dld` reads (R189, R226) -/

theorem getAt_mem {α : Type} (d : α) {xs : List α} {k : Nat} (h : k < xs.length) : getAt d xs k ∈ xs := by
  rw [getAt_eq_getD, List.getElem?_eq_getElem h]
  exact List.getElem_mem h

theorem readable_subset (bound : Nat) (ws : List (Nat × Byte)) : readable bound ws ⊆ ws := by
  induction ws with
  | nil => exact List.Subset.refl _
  | cons e r ih =>
    unfold readable
    split
    · exact List.cons_subset_cons e (List.nil_subset r)
    · exact List.cons_subset_cons e ih

theorem readable_ne_nil (bound : Nat) {ws : List (Nat × Byte)} (h : ws ≠ []) : readable bound ws ≠ [] := by
  cases ws with
  | nil => exact absurd rfl h
  | cons e r =>
    unfold readable
    split <;> exact List.cons_ne_nil _ _

theorem State.writesOf_ne_nil (s : State) (k : Nat) : s.writesOf k ≠ [] := by
  unfold State.writesOf
  split
  · exact List.cons_ne_nil _ _
  · assumption

/-- A read returns a write of its byte (R226). -/
theorem State.pickByte_mem (s : State) (v : View) (floor n k : Nat) : s.pickByte v floor n k ∈ s.writesOf k := by
  have hsub := readable_subset (max (spGet 0 v k) floor) (s.writesOf k)
  have hne := readable_ne_nil (max (spGet 0 v k) floor) (s.writesOf_ne_nil k)
  unfold State.pickByte
  split
  case h_1 x hx => exact hsub (hx ▸ List.mem_singleton_self x)
  case h_2 => exact hsub (getAt_mem _ (Nat.mod_lt _ (List.length_pos_iff.mpr hne)))

theorem PLoc.cell_plus (p : PLoc) (k : Nat) : (p.plus k).cell = p.cell + k := by
  cases p with
  | mem a => rfl
  | host a => exact (Nat.add_assoc _ _ _).symm
  | remote a => exact (Nat.add_assoc _ _ _).symm

theorem State.dldByte_memory (s : State) (g : Group) (o : Op) (va : Nat) (p : PLoc) (attr : BitVec 9) (key k : Nat) :
    ∃ x ∈ s.writesOf (p.cell + k), s.dldByte g o va (.at_ p attr) key k = some (x.2.toNat, x.1) :=
  ⟨_, PLoc.cell_plus p k ▸ State.pickByte_mem s _ _ _ _, rfl⟩

theorem ofLe_append (xs ys : List Byte) : ofLe (xs ++ ys) = ofLe xs + 256 ^ xs.length * ofLe ys := by
  induction xs with
  | nil => simp [ofLe]
  | cons x r ih =>
    rw [List.cons_append, ofLe, ih, ofLe, List.length_cons, Nat.pow_succ', Nat.mul_add, Nat.mul_assoc, Nat.add_assoc]

theorem getAt_append_left {α : Type} (d : α) {xs : List α} {k : Nat} (h : k < xs.length) (ys : List α) :
    getAt d (xs ++ ys) k = getAt d xs k := by
  rw [getAt_eq_getD, getAt_eq_getD, List.getElem?_append_left h]

theorem getAt_append_length {α : Type} (d : α) (xs : List α) (y : α) : getAt d (xs ++ [y]) xs.length = y := by
  rw [getAt_eq_getD, List.getElem?_concat_length, Option.getD_some]

section

variable {en : Engine} (hacc : en.acc = [])
include hacc

theorem dldBytes_succ {g : Group} {o : Op} {s : State} {va key n x v st : Nat} {t : Target} {seen : View}
    (hbyte : s.dldByte g o va t key n = some (v, st)) (hread : dldBytes g o s en va t key n = some (x, seen)) :
    ∃ seen', dldBytes g o s en va t key (n + 1) = some (x + 256 ^ n * v, seen') := by
  simp only [dldBytes, hacc, List.filter_nil, List.isEmpty_nil, if_true, hbyte, hread]
  exact ⟨_, rfl⟩

/-- A drain with no access of its own left to perform reads each byte as some write has left it. -/
theorem dldBytes_memory (g : Group) (o : Op) (s : State) (va : Nat) (p : PLoc) (attr : BitVec 9) (key n : Nat) :
    ∃ bs seen, bs.length = n ∧ (∀ k, k < n → ∃ x ∈ s.writesOf (p.cell + k), x.2 = getAt 0 bs k) ∧
      dldBytes g o s en va (.at_ p attr) key n = some (ofLe bs, seen) := by
  induction n with
  | zero => exact ⟨[], [], rfl, fun k hk => absurd hk (Nat.not_lt_zero k), rfl⟩
  | succ n ih =>
    obtain ⟨bs, seen, rfl, hbs, hread⟩ := ih
    obtain ⟨x, hx, hbyte⟩ := s.dldByte_memory g o va p attr key bs.length
    obtain ⟨seen', hnext⟩ := dldBytes_succ hacc hbyte hread
    refine ⟨bs ++ [x.2], seen', List.length_append, fun k hk => ?_, hnext.trans ?_⟩
    · by_cases hlast : k = bs.length
      · exact ⟨x, hlast ▸ hx, hlast ▸ (getAt_append_length 0 bs x.2).symm⟩
      · obtain ⟨y, hy, hbit⟩ := hbs k (by omega)
        exact ⟨y, hy, hbit.trans (getAt_append_left 0 (by omega) _).symm⟩
    · rw [ofLe_append]
      rfl

end

/-! ### Columns of memory words (R184, R189) -/

section

variable {s s1 : State} {g : Group} {w : DM} {en : Engine} {j : Nat}

theorem dldCol_misaligned {o : Op} (ho : g.op en.op = some o) (h : en.addr w j w.o % fmtBytes w.f ≠ 0) :
    dldCol g w s en j = .bad s .memAlign (en.addr w j w.o) := by
  simp only [dldCol, drainTarget_misaligned h, ho]

theorem dstCol_misaligned (h : en.addr w j w.o % fmtBytes w.f ≠ 0) (red : Bool) :
    dstCol red g w s en j = .bad s .memAlign (en.addr w j w.o) := by
  simp only [dstCol, drainTarget_misaligned h]

variable {p : PLoc} {attr : BitVec 9}

/-- A column's load of a place in memory, converted (R184, R189). -/
theorem dldCol_loads {o : Op} (ho : g.op en.op = some o) (hacc : en.acc = [])
    (ht : s.drainTarget g w (en.addr w j w.o) needR false = (s1, .ok (.at_ p attr)))
    (hp : s1.poisonedAt p (fmtBytes w.f) = false) :
    ∃ bs seen, bs.length = fmtBytes w.f ∧
      (∀ k, k < fmtBytes w.f → ∃ x ∈ s1.writesOf (p.cell + k), x.2 = getAt 0 bs k) ∧
      dldCol g w s en j = .ok (s1.addOwn en.gid en.op seen)
        { en with
          d := spSet 0 en.d (8 * j + w.d.toNat)
            (BitVec.ofNat 32 (convert w.f.toNat (drainRf w) (en.mode w.r) w.s (ofLe bs)).1),
          flags := en.flags ||| (convert w.f.toNat (drainRf w) (en.mode w.r) w.s (ofLe bs)).2 } := by
  obtain ⟨bs, seen, hlen, hbs, hread⟩ :=
    dldBytes_memory hacc g o s1 (en.addr w j w.o) p attr (32 * en.dpc + j) (fmtBytes w.f)
  refine ⟨bs, seen, hlen, hbs, ?_⟩
  have hclean : s1.targetPoison g (.at_ p attr) (fmtBytes w.f) = false := hp
  simp only [dldCol, ht, ho, hclean, hread, Bool.false_eq_true, if_false]

/-- A column's store or reduction, converted and kept for later (R189, R193). -/
theorem dstCol_keeps {red : Bool} (ht : s.drainTarget g w (en.addr w j w.o) needW red = (s1, .ok (.at_ p attr))) :
    dstCol red g w s en j =
      .ok s1 { en with
        acc := en.acc ++ [{ row := en.row, col := j, red := red, mf := w.f, unit := (unitOf (.at_ p attr)).1,
                            addr := (unitOf (.at_ p attr)).2,
                            val := BitVec.ofNat 64
                              (convert (drainRf w) w.f.toNat (en.mode w.r) w.s (en.src j w.v).toNat).1 }],
        flags := en.flags ||| (convert (drainRf w) w.f.toNat (en.mode w.r) w.s (en.src j w.v).toNat).2 } := by
  simp only [dstCol, ht]

theorem dstCol_refused {red : Bool} {c : Cause}
    (ht : s.drainTarget g w (en.addr w j w.o) needW red = (s1, .error (some c))) :
    dstCol red g w s en j = .bad s1 c (en.addr w j w.o) := by
  simp only [dstCol, ht]

end

theorem Engine.addr_of_memory {w : DM} (hx : w.x = false) (en : Engine) (j : Nat) (o : BitVec 4) :
    en.addr w j o = ((pairOf (getAt 0 en.args (2 * w.p.toNat)) (getAt 0 en.args (2 * w.p.toNat + 1))).toNat % 2 ^ 57 +
      (en.src j o).toNat) % 2 ^ 57 := by
  simp only [Engine.addr, hx, Bool.false_eq_true, if_false]

/-! ### Rows (R182, R187) -/

/-- The columns' registers that a row begins with. -/
def rowValue (tile : List Word) (i : Nat) (c : Nat × Nat) : Word :=
  match c.2 with
  | 0 => getAt 0 tile (32 * i + c.1)
  | 1 => BitVec.ofNat 32 i
  | _ => BitVec.ofNat 32 c.1

theorem rowStart_eq (tile : List Word) (i : Nat) :
    rowStart tile i = spSetAll 0 (fun c : Nat × Nat => 8 * c.1 + c.2) (rowValue tile i)
      (lanes.flatMap (fun j => [0, 1, 2].map (fun k => (j, k)))) [] := by
  simp only [rowStart, spSetAll, List.foldl_flatMap, List.map_cons, List.map_nil, List.foldl_cons, List.foldl_nil]
  rfl

theorem spGet_rowStart (tile : List Word) (i : Nat) {j k : Nat} (hj : j < 32) (hk : k < 8) :
    spGet 0 (rowStart tile i) (8 * j + k) = if k < 3 then rowValue tile i (j, k) else 0 := by
  have hcell : ∀ c : Nat × Nat, c ∈ lanes.flatMap (fun j => [0, 1, 2].map (fun k => (j, k))) ↔ c.1 < 32 ∧ c.2 < 3 := by
    rintro ⟨a, b⟩
    simp only [List.mem_flatMap, mem_lanes, List.map_cons, List.map_nil, List.mem_cons, List.not_mem_nil, or_false,
      Prod.mk.injEq]
    exact ⟨fun ⟨x, hx, h⟩ => by omega, fun ⟨ha, hb⟩ => ⟨a, ha, by omega⟩⟩
  rw [rowStart_eq]
  split
  case isTrue hset =>
    refine spGet_spSetAll 0 (fun c : Nat × Nat => 8 * c.1 + c.2) _ ⟨(j, k), (hcell _).mpr ⟨hj, hset⟩, rfl⟩
      (fun c hc he => ?_) _
    obtain ⟨h1, h2⟩ := (hcell c).mp hc
    have hcj : c.1 = j := by omega
    have hck : c.2 = k := by omega
    rw [← hcj, ← hck]
  case isFalse hrest =>
    refine (spGet_spSetAll_other 0 (fun c : Nat × Nat => 8 * c.1 + c.2) _ (fun c hc he => hrest ?_) _).trans rfl
    obtain ⟨h1, h2⟩ := (hcell c).mp hc
    omega

/-! ### The end of a drain (R195) -/

theorem mem_retire {blocked : List Ctr} {o : Op} {os : List Op} (h : o ∈ retire blocked os) : o ∈ os := by
  induction os generalizing blocked with
  | nil => exact h
  | cons x r ih =>
    unfold retire at h
    split at h
    · exact List.mem_cons_of_mem x (ih h)
    · obtain rfl | hr := List.mem_cons.mp h
      · exact List.mem_cons_self
      · exact List.mem_cons_of_mem x (ih hr)

theorem forall_mem_updBy {α : Type} {f : α → Bool} {k : α → α} {P : α → Prop} (hin : ∀ x, f x = true → P (k x))
    (hout : ∀ x, f x = false → P x) (xs : List α) : ∀ x ∈ updBy f k xs, P x := by
  induction xs with
  | nil => exact fun x hx => absurd hx List.not_mem_nil
  | cons y r ih =>
    refine List.forall_mem_cons.mpr ⟨?_, ih⟩
    cases hy : f y with
    | true => exact hin y hy
    | false => exact hout y hy

/-- An operation marked as done is pending no more. -/
theorem Group.pending_updOp_done (g : Group) (id : Nat) :
    (g.updOp id (fun o => { o with done := true })).pending id = false := by
  rw [Group.pending, List.any_eq_false]
  intro o ho
  have h := forall_mem_updBy (P := fun o : Op => ¬((o.id == id && !o.done) = true)) (f := fun o => o.id == id)
    (k := fun o => { o with done := true }) (fun x _ => by simp) (fun x hx => by simp [hx]) g.ops
  exact h o (mem_retire ho)

/-- What the end of a drain makes of the group's RESTART: a program that commits may move it (R195). -/
def Group.drainCommit (tick : Nat) (o : Op) (g : Group) : Group :=
  match o.kind with
  | .matrix (.drain _ p _ _ r0) =>
    if g.programCommits p && r0 != 0 && g.regs.restart == r0 && Config.freeBit tick 0 then
      { g with regs := { g.regs with restart := o.pc + 12 } }
    else g
  | _ => g

theorem Group.drainCommit_gid (tick : Nat) (o : Op) (g : Group) : (g.drainCommit tick o).gid = g.gid := by
  unfold Group.drainCommit
  split
  · split <;> rfl
  · rfl

theorem Group.drainCommit_of_no_commit {g : Group} {o : Op} {t p : Nat} {args : List Word} {rm : BitVec 3} {r : Addr}
    (hk : o.kind = .matrix (.drain t p args rm r)) (h : g.programCommits p = false ∨ r = 0) (tick : Nat) :
    g.drainCommit tick o = g := by
  have hno : (g.programCommits p && r != 0 && g.regs.restart == r && Config.freeBit tick 0) = false := by
    obtain h | h := h <;> simp [h]
  simp only [Group.drainCommit, hk, hno, Bool.false_eq_true, if_false]

theorem flushRows_nil (g : Group) (s : State) (en : Engine) (h : en.acc = []) : flushRows g [] s en = (s, en) := by
  have hown : s.addOwn en.gid en.op [] = s := if_pos rfl
  simp only [flushRows, performRows, List.foldl_nil, hown, List.any_nil, Bool.or_false, h, List.filter_nil]
  rw [← h]
  simp

/-- The state after a drain that has no access left to perform has ended. -/
theorem drainComplete_of_idle {s : State} {e : EngRef} {en : Engine} {o : Op} (he : s.engine e = some en)
    (hfin : en.finished = true) (hacc : en.acc = []) (ho : (s.grp en.gid).op en.op = some o) :
    execDrainComplete e s =
      .next (((s.freeEngine e).updGrp en.gid (Group.drainCommit s.tick o)).matrixDone en.gid o en.flags) := by
  simp only [execDrainComplete, he, hfin, hacc, flushRows_nil _ s en hacc, ho, List.any_nil, Bool.not_true,
    Bool.or_self, Bool.false_eq_true, if_false]
  rfl

theorem Group.completed_gid (g : Group) (clk : Nat) (o : Op) (ev : Events) : (g.completed clk o ev).gid = g.gid := by
  simp [Group.completed]

theorem Group.completed_regs (g : Group) (clk : Nat) (o : Op) (ev : Events) :
    (g.completed clk o ev).regs = { g.regs with due := (clk, ev) :: g.regs.due } := by
  simp only [Group.completed, Group.updOp_regs, Group.addView_regs]
  rfl

theorem State.grp_matrixDone {s : State} {gid : Nat} (hh : s.has gid = true) (o : Op) (ev : Events) :
    (s.matrixDone gid o ev).grp gid = (s.grp gid).completed (s.dieOf (s.grp gid).die).clk o ev :=
  State.grp_updGrp s gid (fun g => g.completed (s.dieOf g.die).clk o ev) (fun g => g.completed_gid _ o ev) hh

theorem State.has_of_op {s : State} {gid id : Nat} {o : Op} (h : (s.grp gid).op id = some o) : s.has gid = true := by
  rw [State.has, ← findBy_isSome]
  cases hg : findBy (fun (g : Group) => g.gid == gid) s.groups with
  | some g => rfl
  | none =>
    have hblank : s.grp gid = Group.blank := by rw [State.grp, hg]
    rw [hblank] at h
    cases h

/-- The group of a drain that has ended and commits nothing. -/
theorem grp_drainComplete {s : State} {gid : Nat} {e : EngRef} {o : Op} (hh : s.has gid = true)
    (hc : (s.grp gid).drainCommit s.tick o = s.grp gid) (ev : Events) :
    (((s.freeEngine e).updGrp gid (Group.drainCommit s.tick o)).matrixDone gid o ev).grp gid =
      (s.grp gid).completed (s.dieOf (s.grp gid).die).clk o ev := by
  have hgid := Group.drainCommit_gid s.tick o
  have hgrp : ((s.freeEngine e).updGrp gid (Group.drainCommit s.tick o)).grp gid = s.grp gid :=
    (State.grp_updGrp (s.freeEngine e) gid _ hgid hh).trans hc
  have hhas : ((s.freeEngine e).updGrp gid (Group.drainCommit s.tick o)).has gid = true :=
    (State.has_updGrp (s.freeEngine e) gid gid _ hgid).trans hh
  rw [State.grp_matrixDone hhas, hgrp]
  rfl

/-! ### The start of a drain (R185, R187, R188) -/

section
open Stated

variable {s : State} {e : EngRef} {gid : Nat} {o : Op} {t p : Nat} {args : List Word} {rm : BitVec 3} {r : Addr}
  {m : MatOp}

section

variable (he : s.engine e = none) (hnext : s.nextDrain e = some (gid, o))
  (hk : o.kind = .matrix (.drain t p args rm r)) (hhead : (s.grp gid).matrixOps.head? = some (o, m))
include he hnext hk hhead

theorem drainRow_waits (hdeps : o.deps.any (s.grp gid).pending = true) : Becomes (.drainRow e) s s := by
  show execDrainRow e s = _
  simp only [execDrainRow, he, hnext, hk, hhead, hdeps, Bool.or_true, if_true]

theorem drainRow_starts (hdeps : o.deps.any (s.grp gid).pending = false) :
    Becomes (.drainRow e) s (startDrain s e gid o t p args rm) := by
  show execDrainRow e s = _
  simp only [execDrainRow, he, hnext, hk, hhead, hdeps, ne_eq, not_true_eq_false, decide_false, Bool.or_self,
    Bool.false_eq_true, if_false]

end

section

variable (hstop : (s.grp gid).stopped = none) (hpoison : (s.grp gid).poisonTiles.contains t = false)
  (hmem : s.drainMemory (s.grp gid) true false = none)
include hstop hpoison hmem

theorem startDrain_runs (hok : (s.grp gid).programOk p = true) :
    startDrain s e gid o t p args rm = { s.updGrp gid (fun g => { g with stopped := none }) with engines := (e,
      { gid := gid, op := o.id, t := t, p := p, row := 0, dpc := 0, active := true,
        d := rowStart ((s.grp gid).tileWords t) 0, args := args, rm := rm, tile := (s.grp gid).tileWords t, acc := [],
        flags := 0, ni := false, finished := false }) :: s.engines } := by
  simp only [startDrain, hstop, hpoison, hmem, hok, Option.isNone_none, Option.isSome_none, Bool.false_and,
    Bool.not_true, Bool.false_eq_true, if_false]

theorem startDrain_invalid (hok : (s.grp gid).programOk p = false) :
    startDrain s e gid o t p args rm = stopDrain s gid o
      { op := o.id, path := o.path, tile := (s.grp gid).tileWords t, t := t, p := p, row := 0, args := args, rm := rm,
        kind := 2, ni := false, flags := 0, resumed := false } o.act 0 := by
  simp only [startDrain, hstop, hpoison, hmem, hok, Option.isNone_none, Option.isSome_none, Bool.false_and,
    Bool.not_false, Bool.false_eq_true, if_false, if_true]

end
end

end Sys2Proof.Machine

namespace Sys2Proof.Proofs

open Sys2Proof Sys2Proof.Machine Sys2Proof.Stated

/-- Settles O3: drain words operation by operation, with their bits that must be zero; a command that decodes is one
that encodes to its bytes, by the decoder's own check, and the bytes of an encoded command are read field by field. -/
theorem drainWordsAndCommandsRoundTrip : Obligations.DrainWordsAndCommandsRoundTrip := by
  unfold Obligations.DrainWordsAndCommandsRoundTrip
  refine ⟨fun i w he hw => ?encoded, fun w i hd => ?decoded, fun q w i => encodeCommand_of_decodeCommand,
    fun q c hw => ?launch, fun q c => ?word⟩
  case encoded =>
    obtain ⟨zero, hop, hz⟩ := drainOp_of_encodeDrain he hw
    exact decodeDrain_eq_some_iff.mpr ⟨zero, hop, hz, hw⟩
  case decoded =>
    obtain ⟨zero, hop, hz, hw⟩ := decodeDrain_eq_some_iff.mp hd
    exact ⟨encodeDrain_of_drainOp hop hz, hw⟩
  case launch =>
    have hck := ck_fields (check_of_wellFormed hw)
    rw [Bool.and_eq_true] at hck
    exact command_roundTrip hw rfl (commandOf_encLaunch q (of_decide_eq_true hck.1))
  case word =>
    simp only [List.forall_mem_cons, List.not_mem_nil, false_implies, implies_true, and_true]
    refine ⟨fun hw => ?signal, fun hw => ?waitword, fun hw => ?copy, fun hw => ?timestamp⟩
    all_goals
      have hck := ck_fields (check_of_wellFormed hw)
      simp only [Bool.and_eq_true, beq_iff_eq] at hck
    case signal =>
      obtain ⟨⟨⟨⟨-, hc⟩, -⟩, -⟩, -⟩ := hck
      exact command_roundTrip hw rfl (commandOf_signal q hc)
    case waitword =>
      obtain ⟨⟨⟨⟨-, hc⟩, -⟩, -⟩, -⟩ := hck
      exact command_roundTrip hw rfl (commandOf_waitword q hc)
    case copy =>
      obtain ⟨⟨⟨-, hs⟩, hwd⟩, ht⟩ := hck
      exact command_roundTrip hw rfl (commandOf_copy q hs hwd ht)
    case timestamp =>
      obtain ⟨⟨⟨⟨⟨-, hv⟩, hc⟩, hs⟩, hwd⟩, ht⟩ := hck
      exact command_roundTrip hw rfl (commandOf_timestamp q hv hc hs hwd ht)

/-- Settles O35: `rte` is idle, traps for its place or its cursor, or returns; with neither a cursor nor a held fault,
the return is one update of its path (`State.returnFrom_quiet`). -/
theorem returnFromTrap : Obligations.ReturnFromTrap := by
  unfold Obligations.ReturnFromTrap
  intro w s hc
  refine ⟨fun ha => ?idle, fun ha hout => ?outside, fun ha hin hv hact => ?cursor, fun ha hin hv hq => ?returns⟩
  case idle => exact runs_idle rfl hc (if_pos ha)
  case outside => exact traps_of rfl hc ((if_neg ha).trans (if_pos (by rw [hout]; rfl)))
  case cursor =>
    refine traps_of rfl hc ((if_neg ha).trans ((if_neg (by rw [hin]; decide)).trans (if_pos ?_)))
    rw [Bool.and_eq_true, decide_eq_true_eq, cursorAct_eq]
    exact ⟨hv, hact⟩
  case returns =>
    refine jumps_of rfl hc ((if_neg ha).trans ((if_neg (by rw [hin]; decide)).trans ((if_neg ?_).trans ?_)))
    · rw [cursorValid, hv]
      exact Bool.false_ne_true
    · have hhas := (State.touch_has s (.rte w) s.cur.gid).trans (State.clear_has hc)
      exact congrArg Res.jump (State.returnFrom_quiet hhas hv (Group.faultOf_eq_none.mpr hq))

/-- Settles O49: each word that computes is one write of a register in the 32 columns (`drains_of`); memory words by the
outcomes of their columns, and columns by those of their targets; the course of a drain by the engine's own events. -/
theorem drainWordsComputeAndDrainsRun : Obligations.DrainWordsComputeAndDrainsRun := by
  unfold Obligations.DrainWordsComputeAndDrainsRun
  refine ⟨?compute, ?memory, ?noEngine, ?columns, ?ends, ?ended, ?row, ?starts, ?noDrain, ?running, ?completes⟩
  case compute =>
    simp only [List.forall_mem_cons, List.not_mem_nil, false_implies, implies_true, and_true]
    refine ⟨fun w => ⟨?dfadd, ?dfsub, ?dfmul, ?dfma⟩, fun w => ⟨?dfmax, ?dfmin⟩, fun w => drains_relu, fun w => ?dsel,
      fun w => ?diadd, fun w => ?dimad, fun w => ?dand, fun w => ?dmov, fun w => drains_compares, fun w => ?dshl,
      fun w => ?dmovi, fun w => ?dmovhi⟩
    case dfadd | dfsub | dfmul | dfma => exact drains_rounds _ (fun _ => rfl)
    case dfmax => exact drains_selects true (fun _ => rfl)
    case dfmin => exact drains_selects false (fun _ => rfl)
    case dsel | diadd | dimad | dand | dmov | dshl | dmovi => exact drains_bits _ (fun _ => rfl) fun _ _ => rfl
    case dmovhi =>
      exact drains_bits _ (fun _ => rfl) fun _ _ => congrArg _ (BitVec.setWidth_eq_extractLsb' (by decide))
  case memory =>
    intro w s s1 en en1 he hact
    simp only [List.forall_mem_cons, List.not_mem_nil, false_implies, implies_true, and_true]
    have hd := exec_dld w s
    have hs := exec_dst w s
    have hr := exec_dred w s
    exact ⟨drainMemWord_completes hd he hact, fun _ _ => drainMemWord_faults hd he hact,
      ⟨drainMemWord_completes hs he hact, fun _ _ => drainMemWord_faults hs he hact⟩,
      ⟨drainMemWord_completes hr he hact, fun _ _ => drainMemWord_faults hr he hact⟩⟩
  case noEngine =>
    intro s he w
    simp only [List.forall_mem_cons, List.not_mem_nil, false_implies, implies_true, and_true]
    exact ⟨drainMemWord_idle (exec_dld w s) he, drainMemWord_idle (exec_dst w s) he,
      drainMemWord_idle (exec_dred w s) he⟩
  case columns =>
    intro w s s1 g en o j p attr a n rf hx ho
    have ha : en.addr w j w.o = a := Engine.addr_of_memory hx en j w.o
    clear_value a
    subst ha
    refine ⟨fun hmis => ⟨dldCol_misaligned ho hmis, dstCol_misaligned hmis⟩, fun hal ht hp hacc => ?load,
      fun hal => ⟨fun ht => ?store, fun ht => ⟨fun hno => ?forbidden, fun hok hp => ?reduction⟩⟩⟩
    case load => exact dldCol_loads ho hacc (drainTarget_access hx hal ht) hp
    case store => exact dstCol_keeps (drainTarget_access hx hal ht)
    case forbidden => exact dstCol_refused (drainTarget_forbidden hx hal ht hno)
    case reduction => exact dstCol_keeps (drainTarget_reduction hx hal ht hok hp)
  case ends =>
    intro s en he hact
    refine ⟨_, _, rfl, rfl, rfl, rfl, ?_, ?_⟩
    · rw [State.engine_updEngine, he, Option.map_some]
      simp only [hact, Bool.not_true, Bool.false_eq_true, if_false]
    · rw [State.engine_updEngine, he, Option.map_some, if_pos hact]
  case ended =>
    intro s he
    exact ⟨congrArg Host.Outcome.next (State.updEngine_of_none he _),
      congrArg Host.Outcome.next (State.updEngine_of_none he _)⟩
  case row =>
    intro s e en he hact hfin
    have hbegin : Becomes (.drainRow e) s
        (s.updEngine e (fun en => { en with active := true, dpc := 0, d := rowStart en.tile en.row })) := by
      show execDrainRow e s = _
      simp only [execDrainRow, he, hact, hfin, Bool.or_self, Bool.false_eq_true, if_false]
    refine ⟨_, { en with active := true, dpc := 0, d := rowStart en.tile en.row }, hbegin,
      by rw [State.engine_updEngine, he, Option.map_some], rfl, rfl, rfl, fun j hj => ?_⟩
    have hreg := fun k => spGet_rowStart en.tile en.row hj (k := k)
    refine ⟨hreg 0 (by decide), hreg 1 (by decide), hreg 2 (by decide), fun k hlow hk => ?_⟩
    exact (hreg k hk).trans (if_neg (by omega))
  case starts =>
    rintro s e gid o t p args rm r he hnext hk ⟨m, hhead⟩
    refine ⟨drainRow_waits he hnext hk hhead, fun hdeps hstop hpoison hmem => ⟨fun hok => ?_, fun hok => ?_⟩⟩
    all_goals have hstart := drainRow_starts he hnext hk hhead hdeps
    · rwa [startDrain_runs hstop hpoison hmem hok] at hstart
    · rwa [startDrain_invalid hstop hpoison hmem hok] at hstart
  case noDrain =>
    intro s e he hnext
    show execDrainRow e s = _
    simp only [execDrainRow, he, hnext]
  case running =>
    intro s e hrun
    show execDrainComplete e s = _
    cases he : s.engine e with
    | none => simp only [execDrainComplete, he]
    | some en => simp only [execDrainComplete, he, hrun en he, Bool.not_false, Bool.true_or, if_true]
  case completes =>
    intro s e en o t p args rm r he hfin hacc ho hk hno
    have hgrp := grp_drainComplete (e := e) (State.has_of_op ho) (Group.drainCommit_of_no_commit hk hno s.tick) en.flags
    refine ⟨_, drainComplete_of_idle he hfin hacc ho, State.engine_freeEngine s e, rfl, ?_, ?_⟩
    · rw [hgrp, Group.completed_regs]
    · have hid : o.id = en.op := eq_of_beq (findBy_mem ho).2
      rw [hgrp, ← hid]
      exact Group.pending_updOp_done _ o.id

end Sys2Proof.Proofs
end

section
/-! Proofs of the family of `11_memory_access.md`: what every function of the model makes of the canonical form of memory
(O7). -/

namespace Sys2Proof.Machine

/-! ### The canonical form along a step (R203, R239, R394)

Memory changes in two functions alone, `State.wrLoc` and `State.wrScattered`, and at a reset. What follows says of every
function between them and `step` that it keeps the canonical form: one lemma for each, in the order of the model's files,
named after the function. A function that answers something else than a state keeps it in every state that its answer
holds: `Canon` of that type. -/

/-- The memories of a state have their canonical form. -/
def State.Canon (s : State) : Prop := s.memWf = true

/-- It is kept whatever else of the state changes. -/
theorem State.Canon.same {s : State} (h : s.Canon) {agenda tick cur eng nextId nextPlace dies rtime headDue stamp hist msgs
    objMsgs sc poison tags vers place moving sems semTags groups launches blocks ctxs queues rest tlb packets engines pools
    module} :
    State.Canon (State.mk agenda tick cur eng nextId nextPlace dies rtime headDue s.mem s.hostMem s.remoteMem stamp hist msgs
      objMsgs sc poison tags vers place moving sems semTags groups launches blocks ctxs queues rest tlb packets engines pools
      module) := h

def Res.Canon : Res → Prop
  | .adv s => s.Canon
  | .jump s => s.Canon
  | .hold s => s.Canon
  | .trap _ => True

def GrainRes.Canon : GrainRes → Prop
  | .run s _ => s.Canon
  | .hold s => s.Canon
  | .trap _ _ _ => True

def Gate.Canon : Gate → Prop
  | .pass s e => s.Canon ∧ e.s.Canon
  | .stop s => s.Canon

def Front.Canon : Front → Prop
  | .done s => s.Canon
  | .run _ s => s.Canon

def Perf.Canon : Perf → Prop
  | .done s _ _ => s.Canon
  | .bad s _ => s.Canon
  | .wait s => s.Canon

def RingGate.Canon : RingGate → Prop
  | .go s _ _ => s.Canon
  | .hold s => s.Canon
  | .trap _ => True

def BarRes.Canon : BarRes → Prop
  | .ok s _ => s.Canon
  | .trap _ => True
  | .poison s => s.Canon
  | .hold s => s.Canon

def WaitEval.Canon : WaitEval → Prop
  | .complete s _ => s.Canon
  | .ended s => s.Canon
  | .fault s _ => s.Canon
  | .trap _ => True
  | .stay s _ => s.Canon
  | .ring s => s.Canon
  | .park s _ _ _ _ _ => s.Canon

def ColRes.Canon : ColRes → Prop
  | .ok s _ => s.Canon
  | .bad s _ _ => s.Canon
  | .wait s => s.Canon

def Walk.Canon : Walk → Prop
  | .drop s => s.Canon
  | .log s => s.Canon
  | .ok s => s.Canon

/-- An outcome whose next state has its memories in their canonical form. -/
def CanonNext : Host.Outcome State Fault Refusal → Prop
  | .next s => s.Canon
  | _ => True

/-- A predicate holds of a value that may be missing, where there is one. -/
def AllSome {α : Type} (P : α → Prop) (o : Option α) : Prop := ∀ x, o = some x → P x

/-! ### Predicates of answers that are taken apart -/

section

variable {α β : Type} {P : α → Prop} {Q : β → Prop} {x y : α} {o : Option α}

theorem keeps_of_eq (h : P x) (e : x = y) : P y := e ▸ h

theorem keeps_of_fst {z : α × β} {b : β} (h : P z.1) (e : z = (x, b)) : P x := by
  subst e; exact h

theorem canon_of_fst {z : State × β} {s : State} {b : β} (h : z.1.Canon) (e : z = (s, b)) : s.Canon := keeps_of_fst h e

theorem keeps_ite {c : Prop} [Decidable c] (hx : P x) (hy : P y) : P (if c then x else y) := by
  split
  · exact hx
  · exact hy

theorem foldl_keeps {f : α → β → α} {xs : List β} (h : P x) (hf : ∀ x b, P x → P (f x b)) : P (xs.foldl f x) :=
  List.foldlRecOn xs f h fun x hx b _ => hf x b hx

theorem allSome_some (h : P x) : AllSome P (some x) := fun _ e => Option.some.inj e ▸ h
theorem allSome_none : AllSome P none := fun _ e => nomatch e
theorem allSome_true : AllSome (fun _ => True) o := fun _ _ => trivial

theorem allSome_map {f : α → β} (h : AllSome P o) (hf : ∀ x, P x → Q (f x)) : AllSome Q (o.map f) := by
  intro y hy
  obtain ⟨x, hx, rfl⟩ := Option.map_eq_some_iff.mp hy
  exact hf x (h x hx)

theorem allSome_bind {f : α → Option β} (h : AllSome P o) (hf : ∀ x, P x → AllSome Q (f x)) : AllSome Q (o.bind f) := by
  intro y hy
  obtain ⟨x, hx, hy⟩ := Option.bind_eq_some_iff.mp hy
  exact hf x (h x hx) y hy

theorem canon_getD {o : Option State} {s : State} (h : AllSome State.Canon o) (hs : s.Canon) : (o.getD s).Canon := by
  cases o with
  | none => exact hs
  | some t => exact h t rfl

end

/-! ### The functions that change memory -/

section

variable {s : State} {bs : List Byte}

theorem canon_wrLoc {p : PLoc} (h : s.Canon) : (s.wrLoc p bs).Canon := s.memWf_wrLoc p bs h
theorem canon_wrMem {a : Nat} (h : s.Canon) : (s.wrMem a bs).Canon := s.memWf_wrMem a bs h
theorem canon_wrScattered {as : List Nat} (h : s.Canon) : (s.wrScattered as bs).Canon := s.memWf_wrScattered as bs h
theorem canon_objStore {id o : Nat} {w : Bool} (h : s.Canon) : (s.objStore id w o bs).Canon := s.memWf_objStore id o w bs h
theorem canon_reset : State.reset.Canon := rfl

end

theorem canon_carryWhile {α : Type} {f : State → α → Option State} {xs : List α} {s : State}
    (hf : ∀ s x, s.Canon → AllSome State.Canon (f s x)) (hs : s.Canon) : (carryWhile f xs s).1.Canon := by
  induction xs generalizing s with
  | nil => exact hs
  | cons x r ih =>
    unfold carryWhile
    split
    next s1 e => exact ih (hf s x hs _ e)
    · exact hs

/-! ### The definitions of Machine/Operands.lean -/

section

variable {s : State} {die lchid : Nat}

theorem canon_updGrp {gid : Nat} {f : Group → Group} (hs : s.Canon) : (s.updGrp gid f).Canon := hs.same
theorem canon_updDie {d : Nat} {f : Die → Die} (hs : s.Canon) : (s.updDie d f).Canon := hs.same
theorem canon_updCtx {pasid : Nat} {f : Ctx → Ctx} (hs : s.Canon) : (s.updCtx pasid f).Canon := hs.same
theorem canon_passClk {n : Nat} (hs : s.Canon) : (s.passClk die n).Canon := (canon_updDie hs).same
theorem canon_updLaunch {f : Launch → Launch} (hs : s.Canon) : (s.updLaunch die lchid f).Canon := hs.same
theorem canon_updBlock {ix : Nat} {f : Block → Block} (hs : s.Canon) : (s.updBlock die lchid ix f).Canon := hs.same

end

/-! ### The definitions of Machine/Views.lean -/

section

variable {s : State} {ms : List Msg} {obj : Nat}

theorem canon_objTell {k : Nat} (hs : s.Canon) : (s.objTell k ms).Canon := by
  unfold State.objTell
  split
  · exact hs
  · exact hs.same

theorem canon_barDone {phase : Nat} (hs : s.Canon) : (s.barDone obj phase).Canon := hs.same
theorem canon_barFresh (hs : s.Canon) : (s.barFresh obj).Canon := hs.same

theorem canon_releasing (hs : s.Canon) : (s.releasing ms).Canon := by
  unfold State.releasing
  split
  · exact hs
  · exact hs.same

end

/-! ### The definitions of Machine/Memory.lean -/

section

variable {s : State} {die pasid core tlb va o id lchid block role : Nat} {bs : List Byte} {n : Need}

theorem canon_ordered {ks : List Nat} (hs : s.Canon) : (s.ordered ks bs).Canon := hs.same

theorem canon_wrWhole {a : Nat} (hs : s.Canon) : (s.wrWhole a bs).Canon := by
  unfold State.wrWhole
  split
  · exact canon_wrLoc hs
  · exact canon_wrMem hs

theorem canon_fillTlb {e : TlbEntry} (hs : s.Canon) : (s.fillTlb e).Canon := hs.same

theorem canon_placePage {page : Nat} {attr : BitVec 9} (hs : s.Canon) : (s.placePage die page attr).Canon := by
  dsimp only [State.placePage]
  split
  · split
    · exact hs
    · exact hs.same
  · split
    · exact hs
    · exact hs.same

theorem canon_touchPage {x : Xlat} (hs : s.Canon) : (s.touchPage die x).Canon := by
  unfold State.touchPage
  split
  · exact canon_placePage hs
  · exact hs

theorem canon_touchPages {xs : List Nat} (hs : s.Canon) : (s.touchPages xs).Canon := by
  induction xs generalizing s with
  | nil =>
    unfold State.touchPages
    exact hs
  | cons x r ih =>
    unfold State.touchPages
    exact ih (canon_placePage hs)

theorem canon_walk (hs : s.Canon) : (s.walk die core tlb pasid va n).1.Canon := by
  dsimp only [State.walk]
  split
  · exact canon_touchPages hs
  · split
    · exact canon_touchPages hs
    · exact canon_fillTlb (keeps_ite (canon_touchPages hs) (canon_wrLoc (canon_touchPages hs)))

theorem canon_askAts {pg : AtsPage} (hs : s.Canon) : (s.askAts pasid pg).Canon := canon_updCtx hs

theorem canon_atsUse (hs : s.Canon) : (s.atsUse die core tlb pasid va n).1.Canon := by
  dsimp only [State.atsUse]
  split
  · exact canon_askAts hs
  · split
    · exact canon_updCtx hs
    · split
      · exact canon_fillTlb (canon_updCtx hs)
      · exact canon_updCtx hs

theorem canon_translate (hs : s.Canon) : (s.translate die core tlb pasid va n).1.Canon := by
  dsimp only [State.translate]
  split
  · exact hs
  · split
    · exact canon_atsUse hs
    · exact canon_walk hs

theorem canon_objWrite (hs : s.Canon) : (s.objWrite id o bs).Canon := canon_objStore hs
theorem canon_objPut (hs : s.Canon) : (s.objPut id o bs).Canon := canon_objStore hs

theorem canon_updAlloc {f : Alloc → Alloc} (hs : s.Canon) : (s.updAlloc die lchid block role f).Canon :=
  canon_updBlock hs

theorem canon_wrScr (hs : s.Canon) : (s.wrScr die lchid block role o bs).Canon := canon_updAlloc (canon_ordered hs)

end

/-! ### The definitions of Machine/Report.lean -/

section

variable {s : State} {die pasid n : Nat} {r : Report} {bs : List Byte} {w : HeadWork}

theorem canon_headWrite {a : Nat} (hs : s.Canon) : (headWrite s die pasid a bs).1.Canon := by
  unfold headWrite
  split
  next e =>
    have h := canon_of_fst (canon_translate hs) e
    split
    · exact canon_wrLoc (canon_touchPage h)
    · exact h
    · exact h
  next e => exact canon_of_fst (canon_translate hs) e
  next e => exact canon_of_fst (canon_translate hs) e

theorem canon_headRead {n1 : Nat} (hs : s.Canon) : (headRead s die pasid n n1).1.Canon := by
  induction n1 generalizing s die pasid n with
  | zero =>
    dsimp only [headRead]
    exact hs
  | succ n ih =>
    unfold headRead
    split
    next e =>
      have h := canon_of_fst (canon_translate hs) e
      split
      · exact h
      · exact h
      · split
        next e1 => exact canon_of_fst (ih (canon_touchPage h)) e1
        next e1 => exact canon_of_fst (ih (canon_touchPage h)) e1
    next e => exact canon_of_fst (canon_translate hs) e
    next e => exact canon_of_fst (canon_translate hs) e

theorem canon_headTells (hs : s.Canon) : (s.headTells die n).Canon := canon_releasing hs

theorem canon_logModule (hs : s.Canon) : (logModule s r).Canon := by
  dsimp only [logModule]
  split
  · exact hs
  · exact canon_headTells (canon_wrWhole (canon_wrWhole hs))

theorem canon_tryReport (hs : s.Canon) : (tryReport s die pasid r).1.Canon := by
  dsimp only [tryReport]
  split
  · exact hs
  · split
    next e =>
      have h := canon_of_fst (canon_headRead hs) e
      split
      next e1 => exact canon_headTells (canon_headWrite (canon_of_fst (canon_headWrite h) e1))
      next e1 => exact canon_of_fst (canon_headWrite h) e1
      next e1 => exact canon_of_fst (canon_headWrite h) e1
    next e => exact canon_of_fst (canon_headRead hs) e
    next e => exact canon_of_fst (canon_headRead hs) e

theorem canon_run (hs : s.Canon) : (w.run s).1.Canon := by
  unfold HeadWork.run
  split
  · split
    next e => exact canon_of_fst (canon_headWrite hs) e
    next e => exact canon_of_fst (canon_headWrite hs) e
  · exact canon_tryReport hs

theorem canon_headPost (hs : s.Canon) : (s.headPost w).Canon := by
  dsimp only [State.headPost]
  split
  · exact hs.same
  · split
    next e => exact canon_of_fst (canon_run hs) e
    next e => exact (canon_of_fst (canon_run hs) e).same

theorem canon_headFlush (hs : s.Canon) : s.headFlush.Canon := by
  unfold State.headFlush
  split
  · exact hs
  · exact foldl_keeps hs.same (fun _ _ h => canon_headPost h)

theorem canon_reportQueue (hs : s.Canon) : (reportQueue s die pasid r).Canon := canon_headPost hs

theorem canon_objectFault {id cause : Nat} (hs : s.Canon) : (objectFault s die pasid id cause).Canon := by
  dsimp only [objectFault]
  split
  · exact canon_reportQueue hs
  · exact canon_logModule hs

theorem canon_imageFault {cause : Cause} (hs : s.Canon) : (imageFault s die pasid cause).Canon := by
  unfold imageFault
  split
  · exact hs
  · exact canon_updCtx (canon_objectFault hs)

theorem canon_imageWrite {o : Nat} (hs : s.Canon) : (s.imageWrite die pasid o bs).Canon := by
  dsimp only [State.imageWrite]
  split
  · exact hs
  · split
    · exact canon_objWrite hs
    · exact canon_imageFault hs

theorem canon_reportOrphan {g : Group} {addr : BitVec 64} {c : Cause} (hs : s.Canon) : (reportOrphan s g addr
  c).Canon :=
  canon_reportQueue hs

end

/-! ### The definitions of Machine/Target.lean -/

section

variable {s : State} {g : Group} {addr n : Nat} {sp : Space} {need : Need}

theorem canon_unreached (hs : s.Canon) : (s.unreached g addr).Canon := canon_reportQueue hs

theorem canon_noteFault {c : Cause} (hs : s.Canon) : (s.noteFault g addr c).Canon := by
  unfold State.noteFault
  split
  · exact hs
  · split
    · split
      · exact canon_unreached hs
      · exact hs
    · exact hs

theorem canon_routed {x : Xlat} (hs : s.Canon) : (s.routed g addr x).1.Canon := by
  unfold State.routed
  split
  · exact canon_unreached hs
  · exact hs
  · exact canon_touchPage hs

theorem canon_targetIn {tlb : Nat} (hs : s.Canon) : (s.targetIn g tlb sp addr n need).1.Canon := by
  unfold State.targetIn
  split
  · split
    next e => exact canon_routed (canon_of_fst (canon_translate hs) e)
    next e => exact canon_of_fst (canon_translate hs) e
    next e => exact canon_of_fst (canon_translate hs) e
  · split
    · exact canon_touchPages hs
    · exact hs
  · exact hs

theorem canon_target (hs : s.Canon) : (s.target g sp addr n need).1.Canon := canon_targetIn hs

end

/-! ### The definitions of Machine/Grain.lean -/

section

variable {s : State} {pasid id n o v line : Nat} {c : Ctx} {e : GEvent} {r : LateRec} {g : Group}

theorem canon_grainStop {cause : Cause} (hs : s.Canon) : (grainStop s c id cause).Canon :=
  canon_updCtx (canon_objectFault hs)

theorem canon_grainAppend (hs : s.Canon) : (grainAppend s c e).Canon := by
  dsimp only [grainAppend]
  split
  · exact canon_grainStop hs
  · exact canon_objWrite (canon_objWrite (keeps_ite (canon_objWrite (canon_objWrite hs)) (canon_objWrite hs)))

theorem canon_grainSetFullSeen (hs : s.Canon) : (grainSetFullSeen s c).Canon := canon_objWrite hs
theorem canon_grainDrop (hs : s.Canon) : (grainDrop s c).Canon := canon_objWrite hs

theorem canon_grainPut (hs : s.Canon) : (grainPut s pasid r).Canon := by
  dsimp only [grainPut]
  split
  · exact canon_grainAppend hs
  · exact canon_updCtx hs

theorem canon_grainFlush (hs : s.Canon) : (grainFlush s pasid).Canon := by
  dsimp only [grainFlush]
  split
  · exact hs
  · exact foldl_keeps (canon_updCtx hs) (fun _ _ h => canon_grainPut h)

theorem canon_grainStallsFor (hs : s.Canon) : (grainStallsFor s pasid n).Canon := by
  unfold grainStallsFor
  split
  · exact hs
  · exact canon_grainSetFullSeen hs

theorem canon_grainStalls (hs : s.Canon) : (grainStalls s pasid).Canon := canon_grainStallsFor hs

theorem canon_grainRecord (hs : s.Canon) : (grainRecord s pasid r).Canon := by
  dsimp only [grainRecord]
  split
  · exact hs
  · split
    · exact canon_grainDrop hs
    · split
      · exact canon_grainDrop (canon_grainSetFullSeen (canon_grainPut hs))
      · exact canon_grainPut hs

theorem canon_ringWrite (hs : s.Canon) : AllSome State.Canon (ringWrite s id o n v) := by
  dsimp only [ringWrite]
  split
  · exact allSome_none
  · exact allSome_some (canon_objPut hs)

theorem canon_clearGap (hs : s.Canon) : (clearGap s id).Canon := canon_objPut (canon_objPut hs)

theorem canon_ringTake (hs : s.Canon) : AllSome State.Canon (ringTake s id o n v) :=
  allSome_map (canon_ringWrite hs) (fun _ h => keeps_ite (canon_clearGap h) h)

theorem canon_shavingsWrite (hs : s.Canon) : AllSome State.Canon (shavingsWrite s id o n v) := by
  dsimp only [shavingsWrite]
  split
  · exact allSome_none
  · exact allSome_some (canon_objPut hs)

theorem canon_ringMade (hs : s.Canon) : (s.ringMade id).Canon := by
  dsimp only [State.ringMade]
  split
  · exact canon_objPut hs
  · split
    · exact canon_objPut hs
    · exact hs

theorem canon_bumpVersion (hs : s.Canon) : (s.bumpVersion pasid line).Canon := hs.same

theorem canon_evictVersion {k : Nat} (hs : s.Canon) : (s.evictVersion pasid k).Canon := by
  dsimp only [State.evictVersion]
  split
  · exact hs
  · split
    · split
      · exact hs
      · exact canon_grainPut hs
    · exact canon_grainPut (keeps_ite hs (canon_objectFault hs))

theorem canon_ringMet (hs : s.Canon) : (ringMet s c).Canon := by
  unfold ringMet
  split
  · exact hs
  · exact canon_grainStop hs

theorem canon_keepRecords (hs : s.Canon) : s.keepRecords.Canon :=
  foldl_keeps (foldl_keeps hs (fun _ _ h => canon_ringMet h)) (fun _ _ h => canon_evictVersion (canon_grainFlush h))

theorem canon_takeRecord {ix : Nat} (hs : s.Canon) : (takeRecord s pasid ix).Canon := canon_updCtx (canon_objWrite hs)

theorem canon_grainEvent {now : Option Nat} (hs : s.Canon) : (grainEvent s g e now).Canon := by
  dsimp only [grainEvent]
  split
  · exact hs
  · split
    · split
      · exact canon_grainStalls hs
      · split
        · exact hs
        · exact canon_grainRecord hs
    · split
      · split
        · exact hs
        · exact trivial
        · split
          · exact canon_takeRecord hs
          · exact hs
      · exact hs

theorem canon_ordEvent {pix typ payload : Nat} (hs : s.Canon) : (ordEvent s g pix typ line payload).Canon := by
  dsimp only [ordEvent]
  split
  · exact hs
  · split
    next e =>
      have h := keeps_of_eq (canon_grainEvent hs) e
      exact canon_updCtx h
    · exact canon_grainEvent hs

theorem canon_nameLaunch {die lchid lch : Nat} (hs : s.Canon) : (s.nameLaunch pasid die lchid lch).Canon :=
  canon_updCtx (canon_updLaunch hs)

end

/-! ### The definitions of Machine/Ops.lean -/

section

variable {s before : State} {gid pix : Nat} {i : Instr} {h : Hdr} {c d : Operand} {e : Env} {act : Mask} {g : Group}
  {t : Trap} {body : Env → State → Res} {wide : Bool} {f : Nat → DWord}

theorem canon_addOp {ctr : Ctr} {todo : List Elem} {deps : List Nat} {scope : BitVec 3} {sk : Bool} {ord : BitVec 3}
  {done : Bool} {kind : OpKind} (hs : s.Canon) : (s.addOp gid pix ctr act todo deps scope sk ord done kind).Canon :=
  (canon_updGrp hs).same

theorem canon_usedUp (hs : s.Canon) : (s.usedUp g t).Canon := by
  unfold State.usedUp
  split
  · exact hs
  · exact canon_updCtx hs

theorem canon_imprecise {h : HeldFault} (hs : s.Canon) : (s.imprecise gid pix h).Canon := canon_updGrp hs.same

theorem canon_precise (hs : s.Canon) : (s.precise gid pix t).Canon := by
  dsimp only [State.precise]
  split
  · exact canon_imprecise hs
  · split <;> exact canon_updGrp (canon_usedUp hs.same)

theorem canon_raiseFault {h : HeldFault} (hs : s.Canon) : (s.raiseFault gid h).Canon := by
  dsimp only [State.raiseFault]
  split
  · exact canon_reportOrphan (canon_updGrp hs)
  · exact canon_updGrp (canon_updGrp hs)

theorem canon_heldFor {reason : BitVec 5} (hs : s.Canon) : (s.heldFor gid pix reason).Canon := canon_updGrp hs

theorem canon_grainHeldFor {n : Nat} (hs : s.Canon) : (s.grainHeldFor gid pix n).Canon := by
  dsimp only [State.grainHeldFor]
  split
  · exact canon_updGrp hs
  · split
    · exact hs
    · exact canon_heldFor (canon_grainStallsFor hs)

theorem canon_grainHeld (hs : s.Canon) : (s.grainHeld gid pix).Canon := canon_grainHeldFor hs

theorem canon_clockRead {reads : Bool} {typ : Nat} {now : DWord} (hs : s.Canon) : (clockRead s g pix reads typ
  now).1.Canon := by
  dsimp only [clockRead]
  split
  · exact hs
  · split
    next e =>
      have h := keeps_of_eq (canon_grainEvent hs) e
      exact h
    · exact canon_grainEvent hs

theorem canon_clockGate {view : Group} {mix : List SbEntry} (hs : s.Canon) : (clockGate i s view mix pix act).Canon
  := by
  dsimp only [clockGate]
  split
  next e =>
    have h := keeps_of_fst (canon_clockRead hs) e
    exact canon_grainHeld h
  · exact canon_precise hs
  next e =>
    have h := keeps_of_fst (canon_clockRead hs) e
    split
    · exact canon_grainHeldFor hs
    · exact canon_precise hs
    next e1 =>
      have h1 := keeps_of_fst (canon_clockRead h) e1
      exact ⟨h1, hs⟩

theorem canon_touch (hs : s.Canon) : (s.touch i).Canon := canon_updGrp hs

theorem canon_scoreGate (hs : s.Canon) : (scoreGate i h s).Canon := by
  dsimp only [scoreGate]
  split
  · exact canon_clockGate (canon_touch hs)
  · split
    · exact canon_clockGate (canon_touch hs)
    · exact canon_precise hs
    · split
      · exact canon_heldFor hs
      · exact canon_clockGate (canon_touch (canon_passClk hs))

theorem canon_gate (hs : s.Canon) : (gate i h s).Canon := by
  dsimp only [gate]
  split
  · exact canon_precise hs
  · split
    · exact canon_precise hs
    · split
      · exact canon_precise hs
      · split
        · exact canon_precise hs
        · split
          · exact canon_heldFor (canon_updGrp hs)
          · split
            · exact canon_precise hs
            · exact canon_scoreGate hs

theorem canon_yieldTo {y : Bool} (hs : s.Canon) : (s.yieldTo gid y).Canon := by
  dsimp only [State.yieldTo]
  split
  · exact (canon_updGrp hs).same
  · exact hs

theorem canon_advance (hs : s.Canon) : (advance i h c e before s).Canon := canon_yieldTo (canon_updGrp hs)
theorem canon_jumped (hs : s.Canon) : (jumped i h c e before s).Canon := canon_yieldTo (canon_updGrp hs)

theorem canon_heldClocks (hbody : ∀ e s, s.Canon → (body e s).Canon) (he : e.s.Canon) (hs : s.Canon) : (heldClocks i
  body e s).Canon := by
  dsimp only [heldClocks]
  split
  · exact hs
  · split
    next e1 =>
      have k := keeps_of_eq (hbody e e.s he) e1
      exact k
    · exact canon_grainHeldFor he

theorem canon_issueC (hbody : ∀ (e : Env) (s : State), s.Canon → (body e s).Canon) (hs : s.Canon) : CanonNext (issueC
  i h c body s) := by
  unfold issueC
  split
  next e =>
    have h1 := keeps_of_eq (canon_gate hs) e
    exact h1
  next e =>
    have h1 := keeps_of_eq (canon_gate hs) e
    split
    next e1 =>
      have h2 := keeps_of_eq (hbody _ _ h1.1) e1
      exact canon_advance h2
    next e1 =>
      have h2 := keeps_of_eq (hbody _ _ h1.1) e1
      exact canon_jumped h2
    next e1 =>
      have h2 := keeps_of_eq (hbody _ _ h1.1) e1
      exact canon_heldClocks (fun _ _ h3 => hbody _ _ h3) h1.2 h2
    · exact canon_precise (canon_noteFault hs)

theorem canon_issue (hbody : ∀ (e : Env) (s : State), s.Canon → (body e s).Canon) (hs : s.Canon) : CanonNext (issue i
  h body s) :=
  canon_issueC (fun _ _ h1 => hbody _ _ h1) hs

theorem canon_writeRes (hs : s.Canon) : (writeRes e wide h d c f s).Canon := by
  unfold writeRes
  split
  · exact trivial
  · exact canon_updGrp hs

theorem canon_arithRes {ev : Nat → Events} (hs : s.Canon) : (arithRes e wide h d c f ev s).Canon := by
  dsimp only [arithRes]
  split
  · exact trivial
  · split
    · exact trivial
    · exact canon_updGrp hs

end

/-! ### The definitions of Machine/Choose.lean -/

section

variable {s : State} {g : Group} {p : Path} {pl : Place} {e : EngRef}

theorem canon_passTime (hs : s.Canon) : s.passTime.Canon :=
  canon_passClk (canon_passClk (canon_passClk (canon_passClk hs.same)))

theorem canon_waitEarliest (hs : s.Canon) : (s.waitEarliest g p).Canon := canon_passClk hs

theorem canon_inTurn {pix : Nat} (hs : s.Canon) : (s.inTurn pl pix).Canon := by
  dsimp only [State.inTurn]
  split
  · exact canon_passClk hs
  · exact hs

theorem canon_front3 {bytes : List Byte} (hs : s.Canon) : (front3 s g p bytes).Canon := by
  dsimp only [front3]
  split
  · exact canon_precise hs
  · split
    · split
      · exact canon_updGrp hs
      · exact hs
    · split
      · exact canon_updGrp hs
      · exact hs

theorem canon_front2 (hs : s.Canon) : (front2 s g p pl).Canon := by
  unfold front2
  split
  · exact canon_heldFor hs
  · exact canon_front3 (canon_inTurn (canon_waitEarliest hs))

theorem canon_front {w : Who} (hs : s.Canon) : (front s w).Canon := by
  dsimp only [front]
  split
  · exact hs.same
  · split
    · exact canon_imprecise hs.same
    · split
      · exact canon_precise hs.same
      · split
        · exact canon_precise hs.same
        · split
          · exact canon_precise hs.same
          · split
            · exact canon_front2 hs.same
            · exact hs.same

theorem canon_updEngine {f : Engine → Engine} (hs : s.Canon) : (s.updEngine e f).Canon := hs.same

theorem canon_drainFront (hs : s.Canon) : AllSome (fun x => x.2.Canon) (drainFront s e) := by
  unfold drainFront
  split
  · exact allSome_none
  · split
    · exact allSome_none
    · refine allSome_map (P := fun _ => True) ?_ ?_
      · exact allSome_true
      · intro x h
        exact hs.same

end

/-! ### The definitions of Machine/Control.lean -/

section

variable {s : State} {w : XK} {e : Env}

theorem canon_noEffect {_e : Env} (hs : s.Canon) : (noEffect _e s).Canon := hs

theorem canon_execNop {w : XN} (hs : s.Canon) : CanonNext (execNop w s) :=
  canon_issue (fun _ _ h => canon_noEffect h) hs

theorem canon_braTo {t : Addr} (hs : s.Canon) : (braTo e t s).Canon := by
  dsimp only [braTo]
  split
  · exact trivial
  · exact canon_updGrp hs

theorem canon_execBra (hs : s.Canon) : CanonNext (execBra w s) :=
  canon_issue (fun _ _ h => keeps_ite h (canon_braTo h)) hs

theorem canon_brxTo {target : Nat → Addr} (hs : s.Canon) : (brxTo e target s).Canon := by
  dsimp only [brxTo]
  split
  · exact trivial
  · exact canon_updGrp hs

theorem canon_xferTo {a : Operand} (hs : s.Canon) : (xferTo e a s).Canon := by
  unfold xferTo
  split
  · exact canon_brxTo hs
  · exact canon_braTo hs

theorem canon_execBrx {w : XN} (hs : s.Canon) : CanonNext (execBrx w s) :=
  canon_issue (fun _ _ h => keeps_ite h (canon_xferTo h)) hs

theorem canon_writeLink {d : Operand} (hs : s.Canon) : (writeLink e d s).Canon := canon_updGrp hs

theorem canon_execCall (hs : s.Canon) : CanonNext (execCall w s) :=
  canon_issue (fun _ _ h => keeps_ite h (canon_braTo (canon_writeLink h))) hs

theorem canon_execCallx {w : XN} (hs : s.Canon) : CanonNext (execCallx w s) :=
  canon_issue (fun _ _ h => keeps_ite h (canon_xferTo (canon_writeLink h))) hs

theorem canon_execRet {w : XN} (hs : s.Canon) : CanonNext (execRet w s) :=
  canon_issue (fun _ _ h => keeps_ite h (canon_xferTo h)) hs

theorem canon_loopTo {k : BitVec 32} {count : Word} {pred : BitVec 3} (hs : s.Canon) : (loopTo e k count pred
  s).Canon := by
  dsimp only [loopTo]
  split
  · exact hs
  · exact canon_updGrp hs

theorem canon_execLoop (hs : s.Canon) : CanonNext (execLoop w s) := canon_issue (fun _ _ h => canon_loopTo h) hs
theorem canon_execLoopx (hs : s.Canon) : CanonNext (execLoopx w s) := canon_issue (fun _ _ h => canon_loopTo h) hs

theorem canon_execJoin (hs : s.Canon) : CanonNext (execJoin w s) := by
  unfold execJoin
  refine canon_issue ?_ hs
  intro e s1 h
  split
  · exact h
  · split
    · exact trivial
    · exact canon_updGrp h

theorem canon_exitRes (hs : s.Canon) : (exitRes e s).Canon := by
  dsimp only [exitRes]
  split
  · exact trivial
  · split <;> exact canon_updGrp hs

theorem canon_execExit {w : XN} (hs : s.Canon) : CanonNext (execExit w s) :=
  canon_issue (fun _ _ h => keeps_ite h (canon_exitRes h)) hs

theorem canon_execYield {w : XN} (hs : s.Canon) : CanonNext (execYield w s) :=
  canon_issue (fun _ _ h => canon_yieldTo h) hs

theorem canon_execSleep (hs : s.Canon) : CanonNext (execSleep w s) :=
  canon_issue (fun _ _ h => keeps_ite h (canon_updGrp h)) hs

theorem canon_execBrk (hs : s.Canon) : CanonNext (execBrk w s) := canon_issue (fun _ _ h => keeps_ite h trivial) hs

theorem canon_execSleepExpiry {w : Who} (hs : s.Canon) : CanonNext (execSleepExpiry w s) := by
  dsimp only [execSleepExpiry]
  split
  · split
    · exact canon_updGrp hs
    · exact hs
  · exact hs

end

/-! ### The definitions of Machine/Integer.lean -/

section

variable {w : XF} {s : State} {e : Env} {y : Env → Nat → Int}

theorem canon_wrapRes (hs : s.Canon) : (wrapRes w y e s).Canon := canon_arithRes hs
theorem canon_plainRes (hs : s.Canon) : (plainRes w y e s).Canon := canon_writeRes hs
theorem canon_execAdd (hs : s.Canon) : CanonNext (execAdd w s) := canon_issueC (fun _ _ h => canon_wrapRes h) hs

theorem canon_carryRes {out : Int → Bool} (hs : s.Canon) : (carryRes w y out e s).Canon := by
  dsimp only [carryRes]
  split
  · exact trivial
  · exact canon_updGrp hs

theorem canon_execAddc (hs : s.Canon) : CanonNext (execAddc w s) := canon_issueC (fun _ _ h => canon_carryRes h) hs
theorem canon_execSub (hs : s.Canon) : CanonNext (execSub w s) := canon_issueC (fun _ _ h => canon_wrapRes h) hs
theorem canon_execSubb (hs : s.Canon) : CanonNext (execSubb w s) := canon_issueC (fun _ _ h => canon_carryRes h) hs
theorem canon_execNeg (hs : s.Canon) : CanonNext (execNeg w s) := canon_issueC (fun _ _ h => canon_wrapRes h) hs
theorem canon_execAbs (hs : s.Canon) : CanonNext (execAbs w s) := canon_issueC (fun _ _ h => canon_wrapRes h) hs
theorem canon_execMul (hs : s.Canon) : CanonNext (execMul w s) := canon_issueC (fun _ _ h => canon_wrapRes h) hs
theorem canon_execMulhi (hs : s.Canon) : CanonNext (execMulhi w s) := canon_issueC (fun _ _ h => canon_plainRes h) hs
theorem canon_execMulw (hs : s.Canon) : CanonNext (execMulw w s) := canon_issueC (fun _ _ h => canon_plainRes h) hs
theorem canon_execMad (hs : s.Canon) : CanonNext (execMad w s) := canon_issueC (fun _ _ h => canon_wrapRes h) hs
theorem canon_execMadhi (hs : s.Canon) : CanonNext (execMadhi w s) := canon_issueC (fun _ _ h => canon_plainRes h) hs

theorem canon_divRes {pick : Int × Int × Events → Int} (hs : s.Canon) : (divRes w pick e s).Canon := by
  dsimp only [divRes]
  exact canon_arithRes hs

theorem canon_execDiv (hs : s.Canon) : CanonNext (execDiv w s) := canon_issueC (fun _ _ h => canon_divRes h) hs
theorem canon_execRem (hs : s.Canon) : CanonNext (execRem w s) := canon_issueC (fun _ _ h => canon_divRes h) hs
theorem canon_execMin (hs : s.Canon) : CanonNext (execMin w s) := canon_issueC (fun _ _ h => canon_plainRes h) hs
theorem canon_execMax (hs : s.Canon) : CanonNext (execMax w s) := canon_issueC (fun _ _ h => canon_plainRes h) hs
theorem canon_execSad (hs : s.Canon) : CanonNext (execSad w s) := canon_issueC (fun _ _ h => canon_wrapRes h) hs
theorem canon_execDp4 (hs : s.Canon) : CanonNext (execDp4 w s) := canon_issueC (fun _ _ h => canon_wrapRes h) hs
theorem canon_execDp2 (hs : s.Canon) : CanonNext (execDp2 w s) := canon_issueC (fun _ _ h => canon_wrapRes h) hs

end

/-! ### The definitions of Machine/Move.lean -/

section

variable {s : State} {w : XN}

theorem canon_execCmp {w : XF} (hs : s.Canon) : CanonNext (execCmp w s) :=
  canon_issueC (fun _ _ h => canon_writeRes h) hs

theorem canon_execSel {w : XF} (hs : s.Canon) : CanonNext (execSel w s) :=
  canon_issueC (fun _ _ h => canon_writeRes h) hs

theorem canon_execMov (hs : s.Canon) : CanonNext (execMov w s) := canon_issue (fun _ _ h => canon_writeRes h) hs

theorem canon_execMovi {w : XK} (hs : s.Canon) : CanonNext (execMovi w s) :=
  canon_issue (fun _ _ h => canon_writeRes h) hs

theorem canon_execMovs (hs : s.Canon) : CanonNext (execMovs w s) := canon_issue (fun _ _ h => canon_writeRes h) hs
theorem canon_execMovv (hs : s.Canon) : CanonNext (execMovv w s) := canon_issue (fun _ _ h => canon_updGrp h) hs
theorem canon_execMvsp (hs : s.Canon) : CanonNext (execMvsp w s) := canon_issue (fun _ _ h => canon_writeRes h) hs
theorem canon_execStsp (hs : s.Canon) : CanonNext (execStsp w s) := canon_issue (fun _ _ h => canon_writeRes h) hs
theorem canon_execPand (hs : s.Canon) : CanonNext (execPand w s) := canon_issue (fun _ _ h => canon_writeRes h) hs
theorem canon_execPor (hs : s.Canon) : CanonNext (execPor w s) := canon_issue (fun _ _ h => canon_writeRes h) hs
theorem canon_execPxor (hs : s.Canon) : CanonNext (execPxor w s) := canon_issue (fun _ _ h => canon_writeRes h) hs
theorem canon_execPnot (hs : s.Canon) : CanonNext (execPnot w s) := canon_issue (fun _ _ h => canon_writeRes h) hs

theorem canon_execPmov (hs : s.Canon) : CanonNext (execPmov w s) := by
  unfold execPmov
  refine canon_issue ?_ hs
  intro e s1 h
  split <;> exact canon_writeRes h

end

/-! ### The definitions of Machine/Lane.lean -/

section

variable {s : State} {w : XF}

theorem canon_execShfl (hs : s.Canon) : CanonNext (execShfl w s) := canon_issueC (fun _ _ h => canon_writeRes h) hs
theorem canon_execVote (hs : s.Canon) : CanonNext (execVote w s) := canon_issueC (fun _ _ h => canon_writeRes h) hs
theorem canon_execRedux (hs : s.Canon) : CanonNext (execRedux w s) := canon_issueC (fun _ _ h => canon_wrapRes h) hs
theorem canon_execScan (hs : s.Canon) : CanonNext (execScan w s) := canon_issueC (fun _ _ h => canon_wrapRes h) hs

theorem canon_execBcast {w : XN} (hs : s.Canon) : CanonNext (execBcast w s) :=
  canon_issue (fun _ _ h => canon_writeRes h) hs

theorem canon_execMatchLanes (hs : s.Canon) : CanonNext (execMatchLanes w s) :=
  canon_issueC (fun _ _ h => canon_writeRes h) hs

end

/-! ### The definitions of Machine/Float.lean -/

section

variable {s : State} {w : XF} {e : Env}

theorem canon_floatRes {f : Nat → Nat × Events} (hs : s.Canon) : (floatRes w f e s).Canon := canon_arithRes hs
theorem canon_execFadd (hs : s.Canon) : CanonNext (execFadd w s) := canon_issueC (fun _ _ h => canon_floatRes h) hs
theorem canon_execFsub (hs : s.Canon) : CanonNext (execFsub w s) := canon_issueC (fun _ _ h => canon_floatRes h) hs
theorem canon_execFmul (hs : s.Canon) : CanonNext (execFmul w s) := canon_issueC (fun _ _ h => canon_floatRes h) hs
theorem canon_execFma (hs : s.Canon) : CanonNext (execFma w s) := canon_issueC (fun _ _ h => canon_floatRes h) hs
theorem canon_execFmin (hs : s.Canon) : CanonNext (execFmin w s) := canon_issueC (fun _ _ h => canon_floatRes h) hs
theorem canon_execFmax (hs : s.Canon) : CanonNext (execFmax w s) := canon_issueC (fun _ _ h => canon_floatRes h) hs
theorem canon_execFminn (hs : s.Canon) : CanonNext (execFminn w s) := canon_issueC (fun _ _ h => canon_floatRes h) hs
theorem canon_execFmaxn (hs : s.Canon) : CanonNext (execFmaxn w s) := canon_issueC (fun _ _ h => canon_floatRes h) hs
theorem canon_execFcmp (hs : s.Canon) : CanonNext (execFcmp w s) := canon_issueC (fun _ _ h => canon_arithRes h) hs

theorem canon_execFclass (hs : s.Canon) : CanonNext (execFclass w s) :=
  canon_issueC (fun _ _ h => canon_writeRes h) hs

theorem canon_execFscale (hs : s.Canon) : CanonNext (execFscale w s) :=
  canon_issueC (fun _ _ h => canon_floatRes h) hs

theorem canon_execFrnd (hs : s.Canon) : CanonNext (execFrnd w s) := canon_issueC (fun _ _ h => canon_floatRes h) hs
theorem canon_execRcp (hs : s.Canon) : CanonNext (execRcp w s) := canon_issueC (fun _ _ h => canon_floatRes h) hs
theorem canon_execRsq (hs : s.Canon) : CanonNext (execRsq w s) := canon_issueC (fun _ _ h => canon_floatRes h) hs
theorem canon_execSqrt (hs : s.Canon) : CanonNext (execSqrt w s) := canon_issueC (fun _ _ h => canon_floatRes h) hs
theorem canon_execFdiv (hs : s.Canon) : CanonNext (execFdiv w s) := canon_issueC (fun _ _ h => canon_floatRes h) hs
theorem canon_execEx2 (hs : s.Canon) : CanonNext (execEx2 w s) := canon_issueC (fun _ _ h => canon_floatRes h) hs
theorem canon_execLg2 (hs : s.Canon) : CanonNext (execLg2 w s) := canon_issueC (fun _ _ h => canon_floatRes h) hs
theorem canon_execSinpi (hs : s.Canon) : CanonNext (execSinpi w s) := canon_issueC (fun _ _ h => canon_floatRes h) hs
theorem canon_execCospi (hs : s.Canon) : CanonNext (execCospi w s) := canon_issueC (fun _ _ h => canon_floatRes h) hs
theorem canon_execTanh (hs : s.Canon) : CanonNext (execTanh w s) := canon_issueC (fun _ _ h => canon_floatRes h) hs

theorem canon_secondDest {d : Operand} {f : Nat → DWord} {r : Res} (hr : r.Canon) : (secondDest e d f r s).Canon := by
  unfold secondDest
  split
  · exact canon_updGrp hr
  · exact hr

theorem canon_execSincospi (hs : s.Canon) : CanonNext (execSincospi w s) :=
  canon_issueC (fun _ _ h => canon_secondDest (canon_floatRes h)) hs

end

/-! ### The definitions of Machine/Convert.lean -/

section

variable {s : State} {w : XF} {e : Env} {uniform : Bool}

theorem canon_execCvt (hs : s.Canon) : CanonNext (execCvt w s) := canon_issueC (fun _ _ h => canon_floatRes h) hs
theorem canon_execCvtpk (hs : s.Canon) : CanonNext (execCvtpk w s) := canon_issueC (fun _ _ h => canon_arithRes h) hs
theorem canon_execCvtcb (hs : s.Canon) : CanonNext (execCvtcb w s) := canon_issueC (fun _ _ h => canon_floatRes h) hs
theorem canon_execRng (hs : s.Canon) : CanonNext (execRng w s) := canon_issueC (fun _ _ h => canon_updGrp h) hs

theorem canon_drawAll {xs : List Nat} {xs1 : List (Nat × Word)} (hs : s.Canon) : (drawAll e uniform xs s xs1).1.Canon
  := by
  induction xs generalizing e uniform s xs1 with
  | nil =>
    dsimp only [drawAll]
    exact hs
  | cons x r ih =>
    unfold drawAll
    split
    next e1 =>
      have h := keeps_of_eq (canon_grainEvent hs) e1
      exact ih h
    · exact canon_grainEvent hs

theorem canon_drawn {ls : List Nat} (hs : s.Canon) : (drawn e uniform ls s).1.Canon := by
  dsimp only [drawn]
  split
  · split
    · exact trivial
    · split
      · exact hs
      · exact foldl_keeps hs (fun _ _ h => canon_takeRecord h)
  · exact canon_drawAll hs

theorem canon_execTrng {w : XN} (hs : s.Canon) : CanonNext (execTrng w s) := by
  unfold execTrng
  refine canon_issue ?_ hs
  intro e s1 h
  split
  · exact canon_grainHeldFor h
  · exact trivial
  next e1 =>
    have h1 := keeps_of_fst (canon_drawn h) e1
    exact canon_writeRes h1

theorem canon_execSampleCat (hs : s.Canon) : CanonNext (execSampleCat w s) :=
  canon_issueC (fun _ _ h => canon_arithRes h) hs

end

/-! ### The definitions of Machine/Governor.lean -/

section

variable {s : State} {pasid die table d onto old new addr : Nat}

theorem canon_readTable (hs : s.Canon) : (readTable s die pasid table).1.Canon := by
  unfold readTable
  split
  next e => exact canon_of_fst (canon_headRead hs) e
  next e => exact canon_of_fst (canon_headRead hs) e

theorem canon_moveGroups {core : Option (Option Nat)} {n : Nat} (hs : s.Canon) : (moveGroups die pasid table d onto
  core n s).Canon := by
  induction n generalizing die pasid table d onto core s with
  | zero =>
    unfold moveGroups
    exact hs
  | succ n ih =>
    dsimp only [moveGroups]
    split
    · exact hs
    · exact ih (canon_updGrp hs)

theorem canon_governorMove {es : List StageEntry} (hs : s.Canon) : (governorMove s die pasid table es d onto).Canon
  := by
  dsimp only [governorMove]
  split
  · split
    · exact canon_moveGroups hs
    · exact hs
  · exact canon_moveGroups hs

theorem canon_governTable {k : Nat} (hs : s.Canon) : (governTable s die pasid table k old new).Canon := by
  dsimp only [governTable]
  split
  next e => exact canon_of_fst (canon_readTable hs) e
  next e =>
    have h := canon_of_fst (canon_readTable hs) e
    split
    · split
      · exact canon_governorMove h
      · exact h
    · split
      · split
        · exact canon_governorMove h
        · exact h
      · exact h

theorem canon_governWaits (hs : s.Canon) : (s.governWaits pasid addr).1.Canon := by
  unfold State.governWaits
  refine foldl_keeps (P := fun r : State × _ => r.1.Canon) ?_ ?_
  · exact hs
  · intro x b h
    split
    · split
      next e => exact canon_of_fst (canon_headRead h) e
      next e => exact canon_of_fst (canon_headRead h) e
    · exact h

theorem canon_govern (hs : s.Canon) : (s.govern pasid addr old new).Canon :=
  foldl_keeps hs (fun _ _ h => keeps_ite (canon_governTable h) h)

theorem canon_writeCounts {before : State} (hs : s.Canon) : (writeCounts before s).Canon :=
  foldl_keeps hs (fun _ _ h => foldl_keeps h (fun _ _ h1 => keeps_ite h1 (canon_headPost h1)))

end

/-! ### The definitions of Machine/Access.lean -/

section

variable {s : State} {g : Group} {o : Op} {n id gid v addr line die op : Nat} {e : Elem} {t : Target} {sp : Space}
  {mf rf : BitVec 4} {need : Need} {rnd : BitVec 3} {sat acq : Bool} {m : Mask} {lanes : BitVec 32}

theorem canon_writeTarget (hs : s.Canon) : (s.writeTarget g t n v).Canon := by
  unfold State.writeTarget
  split
  · exact canon_wrLoc hs
  · exact canon_wrScattered hs
  · exact canon_wrScr hs

theorem canon_hasRead {stamps : List Nat} (hs : s.Canon) : (s.hasRead g o t n stamps).Canon := canon_updGrp hs

theorem canon_hasSc {wrote : View} (hs : s.Canon) : (s.hasSc g o wrote).Canon := by
  unfold State.hasSc
  split
  · exact hs.same
  · exact hs

theorem canon_hasWritten {chain : List Msg} (hs : s.Canon) : (s.hasWritten g o t n chain).Canon :=
  canon_updGrp (canon_hasSc (canon_releasing hs))

theorem canon_hasCompared (hs : s.Canon) : (s.hasCompared g o t).Canon := canon_hasSc hs

theorem canon_absent {ahead : Bool} (hs : s.Canon) : AllSome State.Canon (s.absent g ahead sp addr need) := by
  unfold State.absent
  split
  · split
    next e => exact allSome_some (canon_of_fst (canon_translate hs) e)
    · exact allSome_none
  · exact allSome_none

theorem canon_readElem {es : List Elem} (hs : s.Canon) : (readElem s g o e sp mf rf rnd sat acq es).Canon := by
  dsimp only [readElem]
  split
  next e1 => exact canon_of_fst (canon_targetIn hs) e1
  next e1 => exact canon_of_fst (canon_targetIn hs) e1
  next e1 =>
    have h := canon_of_fst (canon_targetIn hs) e1
    split
    · exact h
    · exact canon_hasRead h

theorem canon_performLoad {probe : Bool} (hs : s.Canon) : (performLoad s g o e sp mf rf rnd sat probe acq).Canon := by
  unfold performLoad
  extract_lets es
  split
  · exact hs
  · split
    · exact hs
    · split
      next e1 => exact (keeps_ite (canon_absent hs) allSome_none) _ e1
      · exact canon_readElem hs

theorem canon_setTag (hs : s.Canon) : (s.setTag g line addr).Canon := hs.same
theorem canon_judged {pasid : Nat} (hs : s.Canon) : (s.judged pasid line).Canon := hs.same

theorem canon_logAt {own : Option Nat} {ev : GEvent} {ver : Option (Nat × Nat)} {writes : Bool} (hs : s.Canon) :
    (logAt s g own ev line ver writes).Canon := by
  unfold logAt
  extract_lets _ s1
  have h : s1.Canon := by
    dsimp only [s1]
    split
    · exact canon_takeRecord hs
    · exact canon_grainRecord hs
  exact keeps_ite (canon_bumpVersion (keeps_ite (canon_judged h) h)) h

theorem canon_ringStore {o : Nat} (hs : s.Canon) : (s.ringStore die id o n v).Canon :=
  canon_getD (canon_ringTake hs) (canon_logModule hs)

theorem canon_shavingsStore {o : Nat} (hs : s.Canon) : (s.shavingsStore die id o n v).Canon :=
  canon_getD (canon_shavingsWrite hs) (canon_logModule hs)

theorem canon_halfLeft {before : State} {hi : Bool} (hs : s.Canon) : (before.halfLeft s g t hi).Canon := by
  unfold State.halfLeft
  split
  · exact hs.same
  · exact hs.same
  · split
    · exact canon_updAlloc hs
    · exact hs

theorem canon_storeTo (hs : s.Canon) : (s.storeTo g t n e).Canon := by
  dsimp only [State.storeTo]
  split
  · exact canon_halfLeft (canon_writeTarget hs)
  · exact canon_writeTarget hs

theorem canon_used (hs : s.Canon) : (s.used g addr need).Canon := canon_target hs

theorem canon_performStore {tag fill : Bool} (hs : s.Canon) : (performStore s g o e sp mf tag fill).Canon := by
  dsimp only [performStore]
  split
  next e1 => exact canon_of_fst (canon_targetIn hs) e1
  next e1 => exact canon_of_fst (canon_targetIn hs) e1
  next e1 =>
    have h := canon_of_fst (canon_targetIn hs) e1
    split
    · split
      · exact h
      · split
        · exact canon_grainStalls h
        · split
          · exact canon_logAt (keeps_ite (canon_setTag (canon_hasWritten (canon_storeTo (keeps_ite (canon_used h)
              h)))) (canon_hasWritten (canon_storeTo (keeps_ite (canon_used h) h))))
          · split
            · exact canon_setTag (canon_hasWritten (canon_storeTo (keeps_ite (canon_used h) h)))
            · exact canon_hasWritten (canon_storeTo (keeps_ite (canon_used h) h))
    · split
      · exact canon_ringStore h
      · split
        · exact canon_shavingsStore h
        · split
          · exact canon_hasWritten (canon_writeTarget h)
          · exact canon_hasWritten (canon_storeTo h)
    · exact canon_hasWritten (canon_storeTo h)

theorem canon_performAtomic {op : Option AtomOp} {reads : Bool} {f : Nat → Option Nat × Events} (hs : s.Canon) :
    (performAtomic s g o e op mf reads f).Canon := by
  unfold performAtomic
  extract_lets n
  split
  next e1 => exact canon_of_fst (canon_target hs) e1
  next e1 => exact canon_of_fst (canon_target hs) e1
  next s1 t e1 =>
    have h : s1.Canon := canon_of_fst (canon_target hs) e1
    split
    · split
      · exact h
      · split
        · exact h
        · split
          · exact canon_grainStalls h
          · split
            · exact canon_governWaits h
            · extract_lets old s0
              split
              extract_lets s2 _ s3 s4
              have h0 : s0.Canon := canon_hasRead h
              have h2 : s2.Canon := by
                dsimp only [s2]
                split
                · exact canon_hasWritten (canon_writeTarget (canon_used h0))
                · exact canon_hasCompared h0
              have h3 : s3.Canon := keeps_ite (canon_logAt h2) h2
              show s4.Canon
              dsimp only [s4]
              split
              · exact canon_govern h3
              · exact h3
    · exact h

theorem canon_setSem {v : Word} (hs : s.Canon) : (s.setSem n v).Canon := hs.same

theorem canon_performSem {amount : Word} (hs : s.Canon) : (performSem s g o e n amount).Canon := by
  dsimp only [performSem]
  split
  · exact canon_grainStalls hs
  · split
    · exact canon_logAt (keeps_ite (canon_setSem (canon_objTell (canon_updGrp hs))) (canon_setSem (canon_objTell
        (canon_updGrp hs))).same)
    · split
      · exact canon_setSem (canon_objTell (canon_updGrp hs))
      · exact (canon_setSem (canon_objTell (canon_updGrp hs))).same

theorem canon_performProbe (hs : s.Canon) : (performProbe s g e).Canon := by
  unfold performProbe
  split
  next e1 => exact canon_of_fst (canon_translate hs) e1
  next e1 => exact canon_of_fst (canon_translate hs) e1
  next e1 => exact canon_of_fst (canon_translate hs) e1

theorem canon_performElem (hs : s.Canon) : (performElem s g o e).Canon := by
  dsimp only [performElem]
  split
  · exact canon_performLoad hs
  · exact canon_performStore hs
  · exact canon_performAtomic hs
  · exact canon_performAtomic hs
  · exact canon_performProbe hs
  · exact canon_performSem hs
  · exact canon_hasWritten (canon_writeTarget hs)
  · exact hs

theorem canon_performLane {l : Nat} (hs : s.Canon) : (s.performLane gid id l).Canon := by
  dsimp only [State.performLane]
  split
  · exact hs
  · split
    · exact hs
    · split
      · exact hs
      · split
        next e =>
          have h := keeps_of_eq (canon_performElem hs) e
          exact h
        next e =>
          have h := keeps_of_eq (canon_performElem hs) e
          exact canon_updGrp h
        next e =>
          have h := keeps_of_eq (canon_performElem hs) e
          exact canon_updGrp h

theorem canon_finishOp (hs : s.Canon) : (s.finishOp gid id).Canon := by
  dsimp only [State.finishOp]
  split
  · exact hs
  · split
    · exact hs
    · split
      · exact canon_raiseFault (keeps_ite (canon_grainFlush (canon_updGrp hs)) (canon_updGrp hs))
      · split
        · exact canon_grainFlush (canon_updGrp hs)
        · exact canon_updGrp hs

theorem canon_performOp (hs : s.Canon) : (s.performOp gid id m).Canon :=
  canon_finishOp (foldl_keeps hs (fun _ _ h => canon_performLane h))

theorem canon_completeIf {ok : Op → Bool} (hs : s.Canon) : CanonNext (completeIf ok gid id m s) := by
  unfold completeIf
  split
  · split
    · exact canon_performOp hs
    · exact hs
  · exact hs

theorem canon_execLoadComplete (hs : s.Canon) : CanonNext (execLoadComplete gid op lanes s) := canon_completeIf hs

theorem canon_execScratchpadAccessComplete (hs : s.Canon) : CanonNext (execScratchpadAccessComplete gid op lanes s) :=
  canon_completeIf hs

end

/-! ### The definitions of Machine/LoadStore.lean -/

section

variable {s : State} {w : XA} {e : Env} {sp : Space} {gid op : Nat} {c : Ctr} {scope rnd : BitVec 3} {sk sat acq :
  Bool} {mf rf : BitVec 4} {k : OpKind} {d : Operand} {rs : List (RawElem × Nat)}

theorem canon_memHold (hs : s.Canon) : AllSome State.Canon (memHold e c s) := by
  dsimp only [memHold]
  split
  · exact allSome_some (canon_heldFor hs)
  · split
    · exact allSome_some (canon_heldFor hs)
    · exact allSome_none

theorem canon_post {todo : List Elem} {ord : BitVec 3} {writes : Bool} (hs : s.Canon) : (post e c todo scope sk ord
  writes k s).Canon :=
  canon_addOp hs

theorem canon_postLoad {probe : Option (BitVec 3)} {outside : List Nat} (hs : s.Canon) : (postLoad e sp d mf rf rnd
  sat probe acq scope sk rs outside s).Canon := by
  dsimp only [postLoad]
  split
  · exact trivial
  · exact canon_post hs

theorem canon_loadRes (hs : s.Canon) : (loadRes sp w mf rf acq e s).Canon := by
  unfold loadRes
  split
  next e1 => exact (canon_memHold hs) _ e1
  · split
    · exact trivial
    · exact canon_postLoad hs

theorem canon_postStore (hs : s.Canon) : (postStore e sp d mf rf rnd sat scope sk rs s).Canon :=
  canon_updGrp (canon_post hs)

theorem canon_storeRes (hs : s.Canon) : (storeRes sp w e s).Canon := by
  unfold storeRes
  split
  next e1 => exact (canon_memHold hs) _ e1
  · split
    · exact trivial
    · exact canon_postStore hs

theorem canon_execLdGbl (hs : s.Canon) : CanonNext (execLdGbl w s) := canon_issueC (fun _ _ h => canon_loadRes h) hs
theorem canon_execLdScr (hs : s.Canon) : CanonNext (execLdScr w s) := canon_issueC (fun _ _ h => canon_loadRes h) hs
theorem canon_execLdCls (hs : s.Canon) : CanonNext (execLdCls w s) := canon_issueC (fun _ _ h => canon_loadRes h) hs
theorem canon_execLdObj (hs : s.Canon) : CanonNext (execLdObj w s) := canon_issueC (fun _ _ h => canon_loadRes h) hs
theorem canon_execStGbl (hs : s.Canon) : CanonNext (execStGbl w s) := canon_issueC (fun _ _ h => canon_storeRes h) hs
theorem canon_execStScr (hs : s.Canon) : CanonNext (execStScr w s) := canon_issueC (fun _ _ h => canon_storeRes h) hs
theorem canon_execStCls (hs : s.Canon) : CanonNext (execStCls w s) := canon_issueC (fun _ _ h => canon_storeRes h) hs
theorem canon_execStObj (hs : s.Canon) : CanonNext (execStObj w s) := canon_issueC (fun _ _ h => canon_storeRes h) hs

theorem canon_postPoison {o : Nat} (hs : s.Canon) : (postPoison e c o k s).Canon :=
  canon_finishOp (canon_updGrp (canon_addOp hs))

theorem canon_ahead {r : Res} {id : Nat} (hr : r.Canon) : (r.ahead gid id).Canon := by
  unfold Res.ahead
  split
  · exact canon_updGrp hr
  · exact hr

theorem canon_ldtRes (hs : s.Canon) : (ldtRes w e s).Canon := by
  dsimp only [ldtRes]
  split
  · split
    next e1 => exact (canon_memHold hs) _ e1
    · exact canon_postLoad hs
  · split
    · exact canon_heldFor hs
    · exact trivial
    · split
      next e1 => exact (canon_memHold hs) _ e1
      · exact canon_postPoison hs
    · split
      · exact trivial
      next e1 => exact (canon_memHold hs) _ e1
      · split
        · exact trivial
        · exact canon_ahead (canon_postLoad hs)

theorem canon_execLdt (hs : s.Canon) : CanonNext (execLdt w s) := canon_issueC (fun _ _ h => canon_ldtRes h) hs

theorem canon_sttRes (hs : s.Canon) : (sttRes w e s).Canon := by
  dsimp only [sttRes]
  split
  · split
    next e1 => exact (canon_memHold hs) _ e1
    · exact canon_postStore hs
  · split
    · exact canon_heldFor hs
    · exact trivial
    · split
      next e1 => exact (canon_memHold hs) _ e1
      · exact canon_postPoison hs
    · split
      · exact trivial
      next e1 => exact (canon_memHold hs) _ e1
      · split
        · exact trivial
        · exact canon_ahead (canon_postStore hs)

theorem canon_execStt (hs : s.Canon) : CanonNext (execStt w s) := canon_issueC (fun _ _ h => canon_sttRes h) hs

theorem canon_execPrf {w : XN} (hs : s.Canon) : CanonNext (execPrf w s) :=
  canon_issue (fun _ _ h => canon_noEffect h) hs

theorem canon_probeRes {w : XN} (hs : s.Canon) : (probeRes w e s).Canon := by
  dsimp only [probeRes]
  split
  next e1 => exact (canon_memHold hs) _ e1
  · exact canon_post hs

theorem canon_execProbe {w : XN} (hs : s.Canon) : CanonNext (execProbe w s) :=
  canon_issue (fun _ _ h => canon_probeRes h) hs

theorem canon_pgreqRes {w : XN} (hs : s.Canon) : (pgreqRes w e s).Canon := by
  dsimp only [pgreqRes]
  split
  · exact canon_heldFor hs
  · exact canon_updDie hs

theorem canon_execPgreq {w : XN} (hs : s.Canon) : CanonNext (execPgreq w s) :=
  canon_issue (fun _ _ h => canon_pgreqRes h) hs

theorem canon_peerRes (hs : s.Canon) : (peerRes w e s).Canon := by
  dsimp only [peerRes]
  split
  next e1 => exact (canon_memHold hs) _ e1
  · split
    · exact canon_heldFor hs
    · split
      · exact trivial
      · split
        · exact canon_heldFor hs
        · exact canon_post hs

theorem canon_execPeerst (hs : s.Canon) : CanonNext (execPeerst w s) := canon_issueC (fun _ _ h => canon_peerRes h) hs

theorem canon_peerArrive {m : Mask} (hs : s.Canon) : (peerArrive gid op m s).Canon := by
  dsimp only [peerArrive]
  split
  · split
    · exact canon_performOp hs
    · exact hs
  · exact hs

theorem canon_execPeerstArrival {lanes : BitVec 32} (hs : s.Canon) : CanonNext (execPeerstArrival gid op lanes s) :=
  canon_peerArrive hs

theorem canon_clearFor {l : Nat} (hs : s.Canon) : (s.clearFor gid op l).Canon := by
  dsimp only [State.clearFor]
  split
  · exact hs
  · exact foldl_keeps hs (fun _ _ h => canon_performOp h)

theorem canon_arriveN {n : Nat} (hs : s.Canon) : (arriveN n s).Canon := by
  induction n generalizing s with
  | zero =>
    unfold arriveN
    exact hs
  | succ n ih =>
    unfold arriveN
    split
    · exact ih (canon_performOp (canon_clearFor hs))
    · exact hs

theorem canon_arriveDue (hs : s.Canon) : s.arriveDue.Canon := canon_arriveN hs

end

/-! ### The definitions of Machine/Atomic.lean -/

section

variable {s : State} {w : XA} {e x : Env} {h : Hdr} {es : List Elem} {op : Option AtomOp} {mf : BitVec 4} {gid : Nat}

theorem canon_waiting {w : Who} {x : Wait} {st : PStat} {reason : BitVec 5} (hs : s.Canon) : (s.waiting w x st
  reason).Canon :=
  canon_updGrp hs

theorem canon_holdForOp (hs : s.Canon) : (holdForOp e h s).Canon := canon_grainHeld (canon_waiting hs)

theorem canon_ringGate {evs : List GEvent} (hs : s.Canon) : (ringGate e s es evs).Canon := by
  dsimp only [ringGate]
  split
  · exact hs
  · split
    · split
      · exact trivial
      · split
        · exact canon_grainHeld hs
        · exact hs
    · split
      · exact hs
      · exact canon_grainHeldFor hs

theorem canon_atomGate {reads : Bool} (hs : s.Canon) : (atomGate e s op mf reads es).Canon := by
  dsimp only [atomGate]
  split
  · exact hs
  · split
    · exact canon_heldFor (foldl_keeps hs (fun _ _ h => canon_target h))
    · exact canon_ringGate hs

theorem canon_startsOver {pix : Nat} (hs : s.Canon) : (s.startsOver gid pix).Canon := canon_updGrp hs

theorem canon_atomRes {c : Ctr} {a b : Operand} {ls : Env → List Nat} {val : Env → Nat → DWord × DWord} {scope :
  BitVec 3} {sk : Bool} {ord : BitVec 3} {k : OpKind} (hs : s.Canon) : (atomRes h c mf a b ls op val scope sk ord k e
  s).Canon := by
  dsimp only [atomRes]
  split
  next e1 => exact (canon_memHold hs) _ e1
  · split
    · exact trivial
    · split
      next e1 =>
        have h1 := keeps_of_eq (canon_atomGate hs) e1
        exact h1
      · exact trivial
      next e1 =>
        have h1 := keeps_of_eq (canon_atomGate hs) e1
        exact canon_post (canon_startsOver h1)
      next e1 =>
        have h1 := keeps_of_eq (canon_atomGate hs) e1
        exact canon_holdForOp (canon_post (canon_startsOver h1))

theorem canon_atomOf {op : AtomOp} (hs : s.Canon) : (atomOf op w x s).Canon := canon_atomRes hs
theorem canon_redOf {op : AtomOp} (hs : s.Canon) : (redOf op w x s).Canon := canon_atomRes hs

theorem canon_execAtomAdd (hs : s.Canon) : CanonNext (execAtomAdd w s) :=
  canon_issueC (fun _ _ h => canon_atomOf h) hs

theorem canon_execAtomSub (hs : s.Canon) : CanonNext (execAtomSub w s) :=
  canon_issueC (fun _ _ h => canon_atomOf h) hs

theorem canon_execAtomMin (hs : s.Canon) : CanonNext (execAtomMin w s) :=
  canon_issueC (fun _ _ h => canon_atomOf h) hs

theorem canon_execAtomMax (hs : s.Canon) : CanonNext (execAtomMax w s) :=
  canon_issueC (fun _ _ h => canon_atomOf h) hs

theorem canon_execAtomAnd (hs : s.Canon) : CanonNext (execAtomAnd w s) :=
  canon_issueC (fun _ _ h => canon_atomOf h) hs

theorem canon_execAtomOr (hs : s.Canon) : CanonNext (execAtomOr w s) := canon_issueC (fun _ _ h => canon_atomOf h) hs

theorem canon_execAtomXor (hs : s.Canon) : CanonNext (execAtomXor w s) :=
  canon_issueC (fun _ _ h => canon_atomOf h) hs

theorem canon_execAtomExch (hs : s.Canon) : CanonNext (execAtomExch w s) :=
  canon_issueC (fun _ _ h => canon_atomOf h) hs

theorem canon_execAtomIncw (hs : s.Canon) : CanonNext (execAtomIncw w s) :=
  canon_issueC (fun _ _ h => canon_atomOf h) hs

theorem canon_execAtomDecw (hs : s.Canon) : CanonNext (execAtomDecw w s) :=
  canon_issueC (fun _ _ h => canon_atomOf h) hs

theorem canon_execRedAdd (hs : s.Canon) : CanonNext (execRedAdd w s) := canon_issueC (fun _ _ h => canon_redOf h) hs
theorem canon_execRedSub (hs : s.Canon) : CanonNext (execRedSub w s) := canon_issueC (fun _ _ h => canon_redOf h) hs
theorem canon_execRedMin (hs : s.Canon) : CanonNext (execRedMin w s) := canon_issueC (fun _ _ h => canon_redOf h) hs
theorem canon_execRedMax (hs : s.Canon) : CanonNext (execRedMax w s) := canon_issueC (fun _ _ h => canon_redOf h) hs
theorem canon_execRedAnd (hs : s.Canon) : CanonNext (execRedAnd w s) := canon_issueC (fun _ _ h => canon_redOf h) hs
theorem canon_execRedOr (hs : s.Canon) : CanonNext (execRedOr w s) := canon_issueC (fun _ _ h => canon_redOf h) hs
theorem canon_execRedXor (hs : s.Canon) : CanonNext (execRedXor w s) := canon_issueC (fun _ _ h => canon_redOf h) hs
theorem canon_execRedIncw (hs : s.Canon) : CanonNext (execRedIncw w s) := canon_issueC (fun _ _ h => canon_redOf h) hs
theorem canon_execRedDecw (hs : s.Canon) : CanonNext (execRedDecw w s) := canon_issueC (fun _ _ h => canon_redOf h) hs
theorem canon_execCas (hs : s.Canon) : CanonNext (execCas w s) := canon_issueC (fun _ _ h => canon_atomRes h) hs
theorem canon_execLdacq (hs : s.Canon) : CanonNext (execLdacq w s) := canon_issueC (fun _ _ h => canon_loadRes h) hs

theorem canon_strelRes (hs : s.Canon) : (strelRes w e s).Canon := by
  dsimp only [strelRes]
  split
  next e1 => exact (canon_memHold hs) _ e1
  · split
    · exact trivial
    · exact canon_post hs

theorem canon_execStrel (hs : s.Canon) : CanonNext (execStrel w s) := canon_issueC (fun _ _ h => canon_strelRes h) hs

theorem canon_execAtomicComplete {op : Nat} {lanes : BitVec 32} (hs : s.Canon) : CanonNext (execAtomicComplete gid op
  lanes s) :=
  canon_completeIf hs

end

/-! ### The definitions of Machine/Pool.lean -/

section

variable {s : State}

theorem canon_poolField {p : Pool} {ofs n old new : Nat} (hs : s.Canon) : (poolField p ofs n old new s).Canon := by
  unfold poolField
  split
  · exact hs
  · exact canon_headPost hs

theorem canon_setPool {old new : Pool} (hs : s.Canon) : (s.setPool old new).Canon :=
  canon_poolField (canon_poolField (canon_poolField (canon_poolField (canon_poolField (canon_poolField hs.same)))))

end

/-! ### The definitions of Machine/Sync.lean -/

section

variable {s : State} {w : Who} {e : Env} {gid pix addr clk n id : Nat} {g : Group} {x : Wait} {sp : Space} {t :
  Target} {key : RestKey} {woken pass ne wide : Bool} {ev : GEvent} {ms : List Msg} {v : Option DWord} {p : Pool}

theorem canon_fenceAcq {ord scope : BitVec 3} {sk : Bool} (hs : s.Canon) : (s.fenceAcq gid pix ord scope sk).Canon :=
  by
  dsimp only [State.fenceAcq]
  split
  · exact (canon_updGrp hs).same
  · exact canon_updGrp hs

theorem canon_fenceRes {w : XA} (hs : s.Canon) : (fenceRes w e s).Canon := by
  dsimp only [fenceRes]
  split
  · exact hs
  · split
    · exact canon_heldFor hs
    · split
      · exact canon_heldFor hs
      · split
        · exact canon_updGrp (keeps_ite (canon_fenceAcq hs) hs)
        · split
          · exact canon_fenceAcq hs
          · exact hs

theorem canon_execFence {w : XA} (hs : s.Canon) : CanonNext (execFence w s) :=
  canon_issueC (fun _ _ h => canon_fenceRes h) hs

theorem canon_execWaitc {w : XW} (hs : s.Canon) : CanonNext (execWaitc w s) :=
  canon_issueC (fun _ _ h => keeps_ite h (keeps_ite (canon_heldFor h) (canon_updGrp h))) hs

theorem canon_fillRes {w : XA} {tag : Bool} (hs : s.Canon) : (fillRes w tag e s).Canon := by
  dsimp only [fillRes]
  split
  next e1 => exact (canon_memHold hs) _ e1
  · split
    · exact canon_post hs
    · split
      · exact trivial
      · split
        · exact canon_post hs
        · split
          · split
            · exact canon_heldFor (canon_target hs)
            · exact canon_post hs
          · split
            next e1 =>
              have h := keeps_of_eq (canon_ringGate hs) e1
              exact h
            · exact trivial
            next e1 =>
              have h := keeps_of_eq (canon_ringGate hs) e1
              exact canon_post h
            next e1 =>
              have h := keeps_of_eq (canon_ringGate hs) e1
              exact canon_holdForOp (canon_post h)

theorem canon_execFill {w : XA} (hs : s.Canon) : CanonNext (execFill w s) :=
  canon_issueC (fun _ _ h => canon_fillRes h) hs

theorem canon_execSyncinit {w : XA} (hs : s.Canon) : CanonNext (execSyncinit w s) :=
  canon_issueC (fun _ _ h => canon_fillRes h) hs

theorem canon_rested (hs : s.Canon) : (s.rested w key woken).Canon := hs.same
theorem canon_unrested (hs : s.Canon) : (s.unrested w).Canon := hs.same

theorem canon_barTarget {need : Need} (hs : s.Canon) : (s.barTarget gid pix sp addr need).1.Canon := by
  dsimp only [State.barTarget]
  split
  next e =>
    have h := canon_of_fst (canon_target hs) e
    split
    · exact h
    · split <;> exact h
  next e =>
    have h := canon_of_fst (canon_target hs) e
    split
    · exact h
    · exact h
    · split <;> exact h
  next e => exact canon_of_fst (canon_target hs) e
  next e => exact canon_of_fst (canon_target hs) e

theorem canon_lineEvent {writes : Bool} (hs : s.Canon) : (lineEvent s g t ev writes).Canon := by
  dsimp only [lineEvent]
  split
  · exact hs
  · split
    · exact hs
    · split
      · split
        · exact hs
        · exact trivial
        · split
          · exact canon_logAt hs
          · exact hs
      · split
        · exact hs
        · exact canon_logAt hs

theorem canon_barWrite {old new : Nat} (hs : s.Canon) : (s.barWrite g t old new ms).Canon := by
  dsimp only [State.barWrite]
  split
  · exact canon_objTell (canon_writeTarget hs)
  · exact canon_barDone (canon_objTell (canon_writeTarget hs))

theorem canon_barSeen (hs : s.Canon) : (s.barSeen gid pix t).Canon := canon_updGrp hs

theorem canon_barDo {act : Mask} {f : Group → Nat → Except Cause Nat} (hs : s.Canon) : (s.barDo gid pix act sp addr
  ms f).Canon := by
  dsimp only [State.barDo]
  split
  next e => exact canon_heldFor (canon_of_fst (canon_barTarget hs) e)
  · exact trivial
  next e => exact canon_of_fst (canon_barTarget hs) e
  next e =>
    have h := canon_of_fst (canon_barTarget hs) e
    split
    · exact trivial
    · split
      · exact trivial
      · split
        next e1 =>
          have h1 := keeps_of_eq (canon_lineEvent h) e1
          exact canon_grainHeld (canon_heldFor h1)
        · exact trivial
        next e1 =>
          have h1 := keeps_of_eq (canon_lineEvent h) e1
          refine canon_barSeen (canon_barWrite ?_)
          split
          · exact canon_used h1
          · exact h1

theorem canon_endLogged {line : Nat} {w : Wait} {ok : Nat → Bool} {fin out : Option (Nat × Nat) → WaitEval} {park :
  Bool → WaitEval} (hs : s.Canon) (hfin : ∀ (x : Option (Nat × Nat)), (fin x).Canon) (hout : ∀ (x : Option (Nat ×
  Nat)), (out x).Canon) (hpark : ∀ (x : Bool), (park x).Canon) : (endLogged s g clk line w pass ev ok fin out
  park).Canon := by
  dsimp only [endLogged]
  split
  · split
    · exact hs
    · split
      · exact hpark _
      · exact trivial
    · split
      · exact hs
      · split
        · exact hout _
        · split
          · exact hfin _
          · exact hpark _
  · split
    · exact hpark _
    · split
      · exact hs
      · split
        · exact hs
        · split
          · exact hfin _
          · exact hout _

theorem canon_evalLine {w : Wait} {payload : Nat} {target : BitVec 2 × Option Launch} {hears : State → State} (hs :
  s.Canon) (hhears : ∀ (s : State), s.Canon → (hears s).Canon) : (evalLine s g pix clk w t v payload pass key woken
  target hears).Canon := by
  dsimp only [evalLine]
  split
  · split
    · exact hhears _ hs
    · exact hs
  · exact canon_endLogged hs (fun _ => hhears _ (canon_logAt hs)) (fun _ => hhears _ (canon_logAt hs)) (fun _ => hs)

theorem canon_waitHears {w : Wait} (hs : s.Canon) : (s.waitHears gid pix w t n).Canon := canon_updGrp hs
theorem canon_keyHears {w : Wait} {key : Nat} (hs : s.Canon) : (s.keyHears gid pix w key).Canon := canon_updGrp hs

theorem canon_evalWord {w : Wait} {cmp : BitVec 64} (hs : s.Canon) : (evalWord s g pix clk w ne cmp wide).Canon := by
  dsimp only [evalWord]
  split
  next e => exact canon_of_fst (canon_target hs) e
  next e => exact canon_of_fst (canon_target hs) e
  next e =>
    have h := canon_of_fst (canon_target hs) e
    split
    · split
      · exact h
      · split
        · split
          · exact h
          · exact canon_evalLine h (fun _ h1 => canon_waitHears h1)
        · split
          · exact h
          · exact canon_evalLine h (fun _ h1 => canon_waitHears h1)
    · exact h

theorem canon_evalBar {w : Wait} {phase : BitVec 32} (hs : s.Canon) : (evalBar s g pix clk w sp phase).Canon := by
  dsimp only [evalBar]
  split
  next e => exact canon_of_fst (canon_barTarget hs) e
  · exact trivial
  next e => exact canon_of_fst (canon_barTarget hs) e
  next e =>
    have h := canon_of_fst (canon_barTarget hs) e
    split
    · exact trivial
    · exact canon_evalLine h (fun _ h1 => canon_keyHears h1)

theorem canon_evalSem {w : Wait} {need : Nat} (hs : s.Canon) : (evalSem s g pix clk w n need).Canon := by
  dsimp only [evalSem]
  split
  · split
    · exact canon_setSem (canon_keyHears hs)
    · split <;> exact hs
  · exact canon_endLogged hs (fun _ => canon_setSem (canon_keyHears (canon_logAt hs))) (fun _ => canon_logAt hs) (fun
      _ => hs)

theorem canon_giveTask {t : Task} (hs : s.Canon) : (s.giveTask w x p t).Canon :=
  canon_yieldTo (canon_updGrp (canon_unrested (canon_setPool hs)))

theorem canon_replayTask {first : Task} (hs : s.Canon) : (replayTask s g w x p first).Canon := by
  dsimp only [replayTask]
  split
  · exact hs
  · exact trivial
  · split
    · exact hs
    · split
      · exact hs
      · exact canon_giveTask (canon_updCtx (canon_takeRecord hs))

theorem canon_evalTask (hs : s.Canon) : (evalTask s g w x).Canon := by
  dsimp only [evalTask]
  split
  next e => exact canon_of_fst (canon_target hs) e
  next e => exact canon_of_fst (canon_target hs) e
  next e =>
    have h := canon_of_fst (canon_target hs) e
    split
    · split
      · exact h
      · split
        · exact h
        · split
          · split
            · exact canon_replayTask h
            · split
              · exact canon_setPool h
              · split
                next e1 =>
                  have h1 := keeps_of_eq (canon_ordEvent h) e1
                  exact h1
                · exact trivial
                next e1 =>
                  have h1 := keeps_of_eq (canon_ordEvent h) e1
                  exact canon_giveTask h1
          · split
            · exact h
            · exact canon_setPool h
    · exact h

theorem canon_evalWait (hs : s.Canon) : (s.evalWait w x).Canon := by
  dsimp only [State.evalWait]
  split
  · exact canon_evalWord hs
  · exact canon_evalSem hs
  · exact canon_evalBar hs
  · exact hs
  · exact canon_evalTask hs
  · exact hs
  · exact hs
  · split <;> exact hs

theorem canon_endWait (hs : s.Canon) : (s.endWait w x wide v).Canon :=
  canon_yieldTo (canon_updGrp (canon_unrested hs))

theorem canon_waitFault {c : Cause} (hs : s.Canon) : (s.waitFault w x c).Canon := by
  dsimp only [State.waitFault]
  split
  · exact canon_endWait (canon_raiseFault (canon_unrested hs.same))
  · exact canon_updGrp (canon_raiseFault (canon_unrested hs.same))

theorem canon_requestPromotion {l : Launch} (hs : s.Canon) : (s.requestPromotion w l).Canon := canon_updDie hs

theorem canon_carryWait (hs : s.Canon) : (s.carryWait w x).Canon := by
  dsimp only [State.carryWait]
  split
  next e =>
    have h := keeps_of_eq (canon_evalWait hs) e
    split
    · exact canon_precise hs
    · exact canon_endWait h
  next e =>
    have h := keeps_of_eq (canon_evalWait hs) e
    exact h
  next e =>
    have h := keeps_of_eq (canon_evalWait hs) e
    exact canon_waitFault h
  · exact canon_precise hs
  next e =>
    have h := keeps_of_eq (canon_evalWait hs) e
    split <;> exact canon_waiting h
  next e =>
    have h := keeps_of_eq (canon_evalWait hs) e
    exact canon_grainHeld (canon_waiting h)
  next e =>
    have h := keeps_of_eq (canon_evalWait hs) e
    split
    · split
      · exact canon_updGrp (canon_waiting (canon_rested h))
      · exact canon_waiting (canon_rested h)
    · split
      · split
        · exact canon_updGrp (canon_waiting (canon_rested h))
        · exact canon_waiting (canon_rested h)
      · exact canon_precise h
      · exact canon_requestPromotion (canon_waiting (canon_rested h))

theorem canon_startWait (hs : s.Canon) : (startWait e s x).Canon := canon_carryWait hs

theorem canon_waitRes {w : XA} (hs : s.Canon) : (waitRes w ne e s).Canon := by
  dsimp only [waitRes]
  split
  · exact hs
  · split
    · exact trivial
    · exact canon_startWait hs

theorem canon_execWaitw {w : XA} (hs : s.Canon) : CanonNext (execWaitw w s) :=
  canon_issueC (fun _ _ h => canon_waitRes h) hs

theorem canon_execWaitf {w : XA} (hs : s.Canon) : CanonNext (execWaitf w s) :=
  canon_issueC (fun _ _ h => canon_waitRes h) hs

theorem canon_arrivedPaths {ph : BitVec 32} {xs : List Nat} (hs : s.Canon) : (arrivedPaths gid ph xs s).Canon := by
  induction xs generalizing gid ph s with
  | nil =>
    unfold arrivedPaths
    exact hs
  | cons x r ih =>
    dsimp only [arrivedPaths]
    split
    · split
      · exact ih (keeps_ite (canon_updGrp hs) (canon_carryWait hs))
      · exact ih (keeps_ite (canon_updGrp hs) (canon_endWait hs))
      · exact ih hs
    · exact ih hs

theorem canon_tryArrive {a : BarArrival} (hs : s.Canon) : (s.tryArrive gid a).Canon := by
  dsimp only [State.tryArrive]
  split
  · exact hs
  · split
    next e =>
      have h := keeps_of_eq (canon_barDo hs) e
      exact h
    · exact canon_precise (canon_updGrp hs)
    next e =>
      have h := keeps_of_eq (canon_barDo hs) e
      split
      · exact canon_waitFault (canon_updGrp h)
      · exact h
    next e =>
      have h := keeps_of_eq (canon_barDo hs) e
      exact canon_arrivedPaths (canon_updGrp h)

theorem canon_settleBars (hs : s.Canon) : (s.settleBars gid).Canon := foldl_keeps hs (fun _ _ h => canon_tryArrive h)
theorem canon_settleAllBars (hs : s.Canon) : s.settleAllBars.Canon := foldl_keeps hs (fun _ _ h => canon_settleBars h)

theorem canon_recordArrival (hs : s.Canon) : AllSome State.Canon (s.recordArrival w sp addr) := by
  dsimp only [State.recordArrival]
  split
  · exact allSome_none
  · split <;> exact allSome_some (canon_updGrp hs)

theorem canon_arriveNow {w : XW} {token : Bool} (hs : s.Canon) : (arriveNow e w addr token s).Canon := by
  dsimp only [arriveNow]
  split
  · exact trivial
  next e1 => exact canon_settleBars (canon_waiting ((canon_recordArrival hs) _ e1))

theorem canon_barRes {w : XW} (hs : s.Canon) : (barRes w e s).Canon := by
  unfold barRes
  split
  · exact hs
  · split
    · exact trivial
    · exact canon_arriveNow hs

theorem canon_execBar {w : XW} (hs : s.Canon) : CanonNext (execBar w s) :=
  canon_issueC (fun _ _ h => canon_barRes h) hs

theorem canon_barPoison (hs : s.Canon) : (barPoison e addr s).Canon := by
  dsimp only [barPoison]
  split <;> exact canon_raiseFault hs.same

theorem canon_bararvRes {w : XW} (hs : s.Canon) : (bararvRes w e s).Canon := by
  dsimp only [bararvRes]
  split
  · exact hs
  · split
    · exact trivial
    · split
      · exact trivial
      · split
        next e1 =>
          have h := keeps_of_eq (canon_barDo hs) e1
          exact h
        · exact trivial
        next e1 =>
          have h := keeps_of_eq (canon_barDo hs) e1
          exact canon_barPoison h
        next e1 =>
          have h := keeps_of_eq (canon_barDo hs) e1
          exact canon_arriveNow (canon_updGrp h)

theorem canon_execBararv {w : XW} (hs : s.Canon) : CanonNext (execBararv w s) :=
  canon_issueC (fun _ _ h => canon_bararvRes h) hs

theorem canon_barwtRes {w : XW} (hs : s.Canon) : (barwtRes w e s).Canon := by
  dsimp only [barwtRes]
  split
  · exact hs
  · split
    · exact trivial
    · exact canon_startWait hs

theorem canon_execBarwt {w : XW} (hs : s.Canon) : CanonNext (execBarwt w s) :=
  canon_issueC (fun _ _ h => canon_barwtRes h) hs

theorem canon_barRenew (hs : s.Canon) : (s.barRenew gid pix sp addr).Canon := by
  unfold State.barRenew
  split
  · exact canon_barFresh hs
  · exact hs

theorem canon_barinitRes {w : XW} (hs : s.Canon) : (barinitRes w e s).Canon := by
  dsimp only [barinitRes]
  split
  · exact hs
  · split
    · exact trivial
    · split
      · exact trivial
      · split
        next e1 =>
          have h := keeps_of_eq (canon_barDo hs) e1
          exact h
        · exact trivial
        next e1 =>
          have h := keeps_of_eq (canon_barDo hs) e1
          exact canon_barPoison h
        next e1 =>
          have h := keeps_of_eq (canon_barDo hs) e1
          exact canon_barRenew h

theorem canon_execBarinit {w : XW} (hs : s.Canon) : CanonNext (execBarinit w s) :=
  canon_issueC (fun _ _ h => canon_barinitRes h) hs

theorem canon_semopRes {w : XW} (hs : s.Canon) : (semopRes w e s).Canon := by
  dsimp only [semopRes]
  split
  next e1 => exact (canon_memHold hs) _ e1
  · split
    · exact canon_post hs
    · split
      · exact trivial
      · split
        next e1 =>
          have h := keeps_of_eq (canon_ringGate hs) e1
          exact h
        · exact trivial
        next e1 =>
          have h := keeps_of_eq (canon_ringGate hs) e1
          exact canon_post h
        next e1 =>
          have h := keeps_of_eq (canon_ringGate hs) e1
          exact canon_holdForOp (canon_post h)

theorem canon_execSemop {w : XW} (hs : s.Canon) : CanonNext (execSemop w s) :=
  canon_issueC (fun _ _ h => canon_semopRes h) hs

theorem canon_semwaitRes {w : XW} (hs : s.Canon) : (semwaitRes w e s).Canon := by
  dsimp only [semwaitRes]
  split
  · exact hs
  · split
    · exact trivial
    · split
      · exact trivial
      · exact canon_startWait hs

theorem canon_execSemwait {w : XW} (hs : s.Canon) : CanonNext (execSemwait w s) :=
  canon_issueC (fun _ _ h => canon_semwaitRes h) hs

theorem canon_execRestTableWake (hs : s.Canon) : CanonNext (execRestTableWake w s) := by
  dsimp only [execRestTableWake]
  split
  · split
    · exact canon_carryWait (canon_unrested hs)
    · exact hs
  · exact hs

theorem canon_execWaitTimeout (hs : s.Canon) : CanonNext (execWaitTimeout w s) := by
  dsimp only [execWaitTimeout]
  split
  · split
    · exact canon_carryWait (canon_unrested hs)
    · exact hs
  · exact hs

theorem canon_dropHeld {x : Option Wait} (hs : s.Canon) : (dropHeld w x s).Canon := by
  dsimp only [dropHeld]
  split
  · split
    · exact canon_updGrp hs
    · exact canon_updGrp hs
    · exact hs
  · exact hs

theorem canon_rematch (hs : s.Canon) : (s.rematch gid id).1.Canon := by
  dsimp only [State.rematch]
  split
  · exact hs
  · exact canon_updGrp hs

theorem canon_performHeld (hs : s.Canon) : (s.performHeld w x id).Canon := by
  unfold State.performHeld
  split
  next e => exact canon_carryWait (canon_performOp (canon_of_fst (canon_rematch hs) e))
  next e => exact canon_precise (canon_dropHeld (canon_of_fst (canon_rematch hs) e))

theorem canon_execReplayHoldRelease (hs : s.Canon) : CanonNext (execReplayHoldRelease w s) := by
  dsimp only [execReplayHoldRelease]
  split
  · split
    · exact hs
    · split
      · exact canon_performHeld hs
      · exact canon_carryWait hs
  · exact hs

theorem canon_execReplayHoldTimeout (hs : s.Canon) : CanonNext (execReplayHoldTimeout w s) := by
  dsimp only [execReplayHoldTimeout]
  split
  · split
    · exact canon_precise (canon_dropHeld hs)
    · exact hs
  · exact hs

end

/-! ### The definitions of Machine/Matrix.lean -/

section

variable {s : State} {w : XT} {o : Op} {gid : Nat} {e : Env} {m : MatOp}

theorem canon_postMatrix (hs : s.Canon) : (postMatrix e m s).Canon := by
  unfold postMatrix
  split
  · exact canon_heldFor hs
  · exact canon_addOp hs

theorem canon_matrixRes {ts : List Nat} {f : Env → Except Trap MatOp} (hs : s.Canon) : (matrixRes ts f e s).Canon :=
  by
  unfold matrixRes
  split
  · exact trivial
  · split
    · exact canon_postMatrix hs
    · split
      · exact trivial
      · exact canon_postMatrix hs

theorem canon_mmaRes {steps : Env → Nat} (hs : s.Canon) : (mmaRes w steps e s).Canon := canon_matrixRes hs
theorem canon_execMma (hs : s.Canon) : CanonNext (execMma w s) := canon_issueC (fun _ _ h => canon_mmaRes h) hs
theorem canon_execMmloop (hs : s.Canon) : CanonNext (execMmloop w s) := canon_issueC (fun _ _ h => canon_mmaRes h) hs
theorem canon_execTzero (hs : s.Canon) : CanonNext (execTzero w s) := canon_issueC (fun _ _ h => canon_matrixRes h) hs

theorem canon_execTmovGet (hs : s.Canon) : CanonNext (execTmovGet w s) :=
  canon_issueC (fun _ _ h => canon_matrixRes h) hs

theorem canon_execTmovPut (hs : s.Canon) : CanonNext (execTmovPut w s) :=
  canon_issueC (fun _ _ h => canon_matrixRes h) hs

theorem canon_execTmovDrain (hs : s.Canon) : CanonNext (execTmovDrain w s) :=
  canon_issueC (fun _ _ h => canon_matrixRes h) hs

theorem canon_execTsacc (hs : s.Canon) : CanonNext (execTsacc w s) := canon_issueC (fun _ _ h => canon_matrixRes h) hs
theorem canon_execCbld (hs : s.Canon) : CanonNext (execCbld w s) := canon_issueC (fun _ _ h => canon_matrixRes h) hs

theorem canon_execDrainld {w : XK} (hs : s.Canon) : CanonNext (execDrainld w s) :=
  canon_issue (fun _ _ h => keeps_ite trivial (canon_matrixRes h)) hs

theorem canon_execRstlbl {w : XK} (hs : s.Canon) : CanonNext (execRstlbl w s) :=
  canon_issue (fun _ _ h => keeps_ite trivial (keeps_ite h (canon_updGrp h))) hs

theorem canon_drainBytes {g : Group} {got : List EarlyByte} {n n1 : Nat} (hs : s.Canon) : (drainBytes g o got n n1
  s).1.Canon := by
  induction n generalizing g o got n1 s with
  | zero =>
    dsimp only [drainBytes]
    exact hs
  | succ n ih =>
    dsimp only [drainBytes]
    split
    next e => exact canon_of_fst (canon_target hs) e
    next e => exact canon_of_fst (canon_target hs) e
    next e =>
      have h := canon_of_fst (canon_target hs) e
      split
      · split
        · exact h
        · split
          next e1 => exact canon_of_fst (ih h) e1
          · exact ih h
      · split
        · exact h
        · split
          next e1 => exact canon_of_fst (ih h) e1
          · exact ih h

theorem canon_matrixDone {ev : Events} (hs : s.Canon) : (s.matrixDone gid o ev).Canon := canon_updGrp hs

theorem canon_matrixFault {c : Cause} {addr : Nat} (hs : s.Canon) : (s.matrixFault gid o c addr).Canon :=
  canon_raiseFault (canon_matrixDone hs)

theorem canon_performMatrix (hs : s.Canon) : (performMatrix s gid o m).Canon := by
  dsimp only [performMatrix]
  split
  · split
    · exact canon_matrixDone (canon_updGrp hs)
    · exact hs
  · split
    · split
      · exact canon_matrixDone (canon_updGrp hs)
      · exact hs
    · exact canon_matrixDone (canon_updGrp hs)
  · exact canon_matrixDone (canon_updGrp hs)
  · split
    · exact canon_matrixFault hs
    · exact canon_matrixDone (canon_updGrp hs)
  · exact canon_matrixDone (canon_updGrp hs)
  · exact canon_matrixDone (canon_updGrp hs)
  · exact hs
  · split
    next e => exact canon_matrixFault (canon_updGrp (canon_of_fst (canon_drainBytes hs) e))
    next e => exact canon_matrixDone (canon_updGrp (canon_of_fst (canon_drainBytes hs) e))
    next e => exact canon_of_fst (canon_drainBytes hs) e
    next e => exact canon_matrixFault (canon_updGrp (canon_of_fst (canon_drainBytes hs) e))
  · exact canon_matrixDone hs

theorem canon_execMatrixOpComplete (hs : s.Canon) : CanonNext (execMatrixOpComplete gid s) := by
  dsimp only [execMatrixOpComplete]
  split
  · split
    · exact hs
    · exact canon_performMatrix hs
  · exact hs

theorem canon_matrixAhead (hs : s.Canon) : s.matrixAhead.Canon := hs.same

end

/-! ### The definitions of Machine/Copy.lean -/

section

variable {s : State} {g : Group} {gid addr n id op : Nat} {o : Op} {r : CopyReq} {w : XN} {t : Target} {x : List Nat}

theorem canon_xkickRes {e : Env} (hs : s.Canon) : (xkickRes w e s).Canon := by
  dsimp only [xkickRes]
  split
  · exact canon_heldFor hs
  · split
    · exact canon_addOp hs
    · split
      · exact canon_heldFor hs
      · exact trivial
      · exact canon_postPoison hs
      · split
        · exact trivial
        · split
          · split
            · exact trivial
            · exact canon_addOp hs
          · exact trivial

theorem canon_execXkick (hs : s.Canon) : CanonNext (execXkick w s) := canon_issue (fun _ _ h => canon_xkickRes h) hs

theorem canon_copyTarget {t : Tsr} {need : Need} (hs : s.Canon) : (s.copyTarget g t addr need).1.Canon := by
  dsimp only [State.copyTarget]
  split
  · split
    · exact canon_targetIn hs
    · exact hs
  · exact canon_targetIn hs

theorem canon_poisonPlace (hs : s.Canon) : (s.poisonPlace g t).Canon := by
  unfold State.poisonPlace
  split
  · exact hs.same
  · exact hs.same
  · exact canon_updAlloc hs

theorem canon_copyRead (hs : s.Canon) : (copyRead s g o r x).1.Canon := by
  unfold copyRead
  split
  · exact hs
  · split
    next e => exact canon_of_fst (canon_copyTarget hs) e
    next e => exact canon_of_fst (canon_copyTarget hs) e
    next e =>
      have h := canon_of_fst (canon_copyTarget hs) e
      split <;> exact h

theorem canon_copyWrite {v : Nat} {bad : Bool} (hs : s.Canon) : (copyWrite s g r x v bad).1.Canon := by
  dsimp only [copyWrite]
  split
  · exact hs
  · split
    next e => exact canon_of_fst (canon_copyTarget hs) e
    next e => exact canon_of_fst (canon_copyTarget hs) e
    next e =>
      have h := canon_of_fst (canon_copyTarget hs) e
      split
      · refine canon_poisonPlace ?_
        split <;> exact canon_writeTarget h
      · split <;> exact canon_writeTarget h

theorem canon_countDown {raw : Nat} (hs : s.Canon) : (countDown s g o raw n).Canon := by
  dsimp only [countDown]
  split
  · exact hs
  · exact canon_barWrite hs

theorem canon_addOwn {v : View} (hs : s.Canon) : (s.addOwn gid id v).Canon := by
  unfold State.addOwn
  split
  · exact hs
  · exact canon_updGrp hs

theorem canon_copyDone (hs : s.Canon) : (s.copyDone gid o).Canon := canon_updGrp hs

theorem canon_copyFault {c : Cause} (hs : s.Canon) : (copyFault s gid o c addr).Canon :=
  canon_raiseFault (canon_copyDone hs)

theorem canon_copyElem (hs : s.Canon) : (copyElem gid id n s).Canon := by
  dsimp only [copyElem]
  split
  · exact hs
  · split
    · split
      · exact hs
      · split
        next e => exact canon_of_fst (canon_copyRead hs) e
        next e => exact canon_copyFault (canon_of_fst (canon_copyRead hs) e)
        next e =>
          have h := canon_of_fst (canon_copyRead hs) e
          split
          next e1 => exact canon_of_fst (canon_copyWrite h) e1
          next e1 => exact canon_copyFault (canon_of_fst (canon_copyWrite h) e1)
          next e1 =>
            have h1 := canon_of_fst (canon_copyWrite h) e1
            split
            · exact canon_countDown (canon_updGrp h1)
            · exact canon_updGrp h1
    · exact hs

theorem canon_execTceCopy {elems : List Nat} (hs : s.Canon) : CanonNext (execTceCopy gid op elems s) :=
  foldl_keeps hs (fun _ _ h => canon_copyElem h)

theorem canon_copySignal (hs : s.Canon) : (copySignal s g o t r).Canon :=
  canon_addOwn (canon_releasing (canon_writeTarget hs))

theorem canon_execTceCopyComplete (hs : s.Canon) : CanonNext (execTceCopyComplete gid op s) := by
  dsimp only [execTceCopyComplete]
  split
  · exact hs
  · split
    · split
      · exact hs
      · split
        · split
          next e => exact canon_of_fst (canon_targetIn hs) e
          next e => exact canon_copyFault (canon_of_fst (canon_targetIn hs) e)
          next e => exact canon_copyDone (canon_copySignal (canon_of_fst (canon_targetIn hs) e))
        · exact canon_copyDone hs
    · exact hs

end

/-! ### The definitions of Machine/Header.lean -/

section

variable {s : State} {lchid : Nat} {l : Launch}

theorem canon_createLaunch (hs : s.Canon) : (s.createLaunch l).Canon := (canon_updDie hs).same
theorem canon_commandDone {pasid queue : Nat} (hs : s.Canon) : (s.commandDone pasid queue lchid).Canon := hs.same

theorem canon_settleLaunch {n n1 n2 : Nat} (hs : s.Canon) : (State.settleLaunch n n1 n2 s).Canon := by
  induction n generalizing n1 n2 s with
  | zero =>
    unfold State.settleLaunch
    exact hs
  | succ n ih =>
    dsimp only [State.settleLaunch]
    split
    · exact hs
    · split
      · exact hs
      · split
        · exact ih (canon_updLaunch hs.same)
        · exact canon_commandDone hs.same

theorem canon_lessLaunch {die : Nat} (hs : s.Canon) : (s.lessLaunch die lchid).Canon :=
  canon_settleLaunch (canon_updLaunch hs)

theorem canon_reportRoot {code d0 d1 : Nat} (hs : s.Canon) : (reportRoot s l code lchid d0 d1).Canon :=
  canon_reportQueue hs

end

/-! ### The definitions of Machine/Place.lean -/

section

variable {s : State} {die lchid ix grp : Nat} {pl : Place} {reserve : Bool}

theorem canon_allocRole {role core : Nat} {h : KHeader} (hs : s.Canon) : AllSome State.Canon (s.allocRole die lchid
  ix role core h) := by
  dsimp only [State.allocRole]
  split
  · exact allSome_some hs
  · split
    · split
      · exact allSome_some hs
      · split
        · exact allSome_none
        · refine allSome_map (P := fun _ => True) ?_ ?_
          · exact allSome_true
          · intro x h1
            exact canon_updBlock hs
    · refine allSome_map (P := fun _ => True) ?_ ?_
      · exact allSome_true
      · intro x h1
        exact canon_updBlock hs

theorem canon_placeGroup1 {named : Bool} (hs : s.Canon) : AllSome State.Canon (s.placeGroup1 die lchid ix grp pl
  reserve named) := by
  dsimp only [State.placeGroup1]
  split
  · exact allSome_none
  · refine allSome_bind (P := State.Canon) ?_ ?_
    · exact canon_allocRole hs
    · intro x h
      split
      · split
        · exact allSome_none
        · exact allSome_some (canon_updGrp h)
      · refine allSome_bind (P := fun _ => True) ?_ ?_
        · exact allSome_true
        · intro x1 h1
          split
          · exact allSome_some h.same
          · exact allSome_none

theorem canon_headEvent {l : Launch} {typ issuer payload : Nat} (hs : s.Canon) : AllSome State.Canon (headEvent s die
  l typ issuer payload) := by
  dsimp only [headEvent]
  split
  · exact allSome_some hs
  · split
    · exact allSome_none
    · exact allSome_some (canon_updCtx (canon_grainRecord hs))

theorem canon_dispatch1 (hs : s.Canon) : AllSome State.Canon (s.dispatch1 die lchid ix grp pl reserve) :=
  allSome_bind (canon_placeGroup1 hs) (fun _ h => canon_headEvent h)

theorem canon_startBlock (hs : s.Canon) : (s.startBlock die lchid ix).Canon := by
  dsimp only [State.startBlock]
  split
  · exact canon_updBlock (canon_updDie hs)
  · exact (canon_updLaunch (canon_updDie hs)).same

theorem canon_dispatchGroups {gs : List Nat} {ps : List Place} (hs : s.Canon) : AllSome (fun x => x.1.Canon)
  (State.dispatchGroups die lchid ix gs ps s) := by
  induction gs generalizing ps s with
  | nil => exact allSome_some hs
  | cons g r ih =>
    cases ps with
    | nil => exact allSome_none
    | cons p ps => exact allSome_bind (canon_dispatch1 hs) (fun _ h => ih h)

theorem canon_dispatchBlock {ps : List Place} (hs : s.Canon) : AllSome (fun x => x.1.Canon) (s.dispatchBlock die
  lchid ix ps) :=
  canon_dispatchGroups (canon_startBlock hs)

theorem canon_dispatchAll {n : Nat} {xs : List Place} (hs : s.Canon) : AllSome State.Canon (State.dispatchAll die
  lchid n xs s) := by
  induction n generalizing die lchid xs s with
  | zero =>
    unfold State.dispatchAll
    exact allSome_some hs
  | succ n ih =>
    unfold State.dispatchAll
    split
    · exact allSome_some hs
    · split
      · exact allSome_none
      next e => exact ih ((canon_dispatchBlock hs) _ e)

end

/-! ### The definitions of Machine/Schedule.lean -/

section

variable {s : State} {l : Launch} {die lchid ix pasid r : Nat} {w : XK} {g : Group} {places : List Place}

theorem canon_addChild {c : Launch} {name : Nat} (hs : s.Canon) : (s.addChild g c name).Canon := by
  dsimp only [State.addChild]
  split
  · exact canon_nameLaunch (canon_createLaunch hs)
  · exact canon_createLaunch hs

theorem canon_spawnRes {x : Bool} {e : Env} (hs : s.Canon) : (spawnRes w x e s).Canon := by
  dsimp only [spawnRes]
  split
  · exact hs
  · split
    · exact trivial
    · split
      · exact hs
      · split
        next e1 =>
          have h := keeps_of_eq (canon_ordEvent hs) e1
          exact canon_grainHeld h
        · exact trivial
        next e1 =>
          have h := keeps_of_eq (canon_ordEvent hs) e1
          exact canon_updLaunch (canon_addChild h)

theorem canon_execSpawn (hs : s.Canon) : CanonNext (execSpawn w s) := canon_issue (fun _ _ h => canon_spawnRes h) hs
theorem canon_execSpawnx (hs : s.Canon) : CanonNext (execSpawnx w s) := canon_issue (fun _ _ h => canon_spawnRes h) hs

theorem canon_acceptHeader {h : KHeader} (hs : s.Canon) : (acceptHeader s l h).Canon := by
  dsimp only [acceptHeader]
  split
  · exact canon_updLaunch hs
  · exact canon_reportRoot (canon_updLaunch hs)

theorem canon_rejectChild {code d0 d1 : Nat} (hs : s.Canon) : (rejectChild s l code d0 d1).Canon :=
  canon_settleLaunch (canon_updLaunch (canon_reportRoot hs))

theorem canon_execChildHeaderCheck (hs : s.Canon) : CanonNext (execChildHeaderCheck die lchid s) := by
  dsimp only [execChildHeaderCheck]
  split
  · exact hs
  · split
    next e => exact canon_of_fst (canon_headRead hs) e
    next e => exact canon_rejectChild (canon_of_fst (canon_headRead hs) e)
    next e =>
      have h := canon_of_fst (canon_headRead hs) e
      split
      · exact canon_rejectChild h
      · exact canon_acceptHeader h

theorem canon_countRead {a : Nat} (hs : s.Canon) : (countRead s l a).1.Canon := by
  dsimp only [countRead]
  split
  next e =>
    have h := canon_of_fst (canon_headRead hs) e
    split <;> exact h
  · exact canon_headRead hs

theorem canon_execSpawnxCountRead (hs : s.Canon) : CanonNext (execSpawnxCountRead die lchid s) := by
  dsimp only [execSpawnxCountRead]
  split
  · exact hs
  · split
    · exact hs
    · split
      next e => exact canon_of_fst (canon_countRead hs) e
      next e => exact canon_rejectChild (canon_of_fst (canon_countRead hs) e)
      next e =>
        have h := canon_of_fst (canon_countRead hs) e
        split
        · exact canon_rejectChild h
        · split
          · exact canon_settleLaunch (canon_updLaunch h)
          · exact canon_updLaunch h

theorem canon_stopDispatch (hs : s.Canon) : (stopDispatch s die pasid r).Canon := by
  dsimp only [stopDispatch]
  split
  · exact canon_updCtx hs
  · exact canon_reportQueue (canon_updCtx hs)

theorem canon_takeHead {typ : Nat} (hs : s.Canon) : (takeHead s pasid die ix typ).Canon :=
  canon_updCtx (canon_takeRecord hs)

theorem canon_slotMet {n : Nat} (hs : s.Canon) : (s.slotMet l n).Canon := by
  unfold State.slotMet
  split
  · exact canon_imageFault hs
  · exact hs

theorem canon_reseat (hs : s.Canon) : (s.reseat g ix).Canon := by
  dsimp only [State.reseat]
  split
  · exact hs
  · exact canon_updGrp hs

theorem canon_replayDispatch (hs : s.Canon) : (replayDispatch s l ix r).Canon := by
  dsimp only [replayDispatch]
  split
  · exact hs
  · split
    · split
      · exact hs
      · exact canon_stopDispatch hs
    · split
      · split
        · exact canon_takeHead hs
        · split
          · exact canon_reseat hs
          · split
            next e => exact canon_takeHead ((canon_placeGroup1 (keeps_ite (canon_startBlock hs) hs)) _ e)
            · exact hs
      · split
        next e => exact canon_takeHead ((canon_placeGroup1 (keeps_ite hs (canon_startBlock hs))) _ e)
        · exact canon_slotMet hs

theorem canon_replayReturn (hs : s.Canon) : (replayReturn s l).Canon := by
  dsimp only [replayReturn]
  split
  · exact hs
  next x _ =>
    split
    · exact hs
    · split
      next e =>
        have h : AllSome State.Canon (List.foldl (fun s k => s.bind fun s => (s.groupOf l.die l.lchid x.ix k).bind
          fun g => g.last.bind fun pl => s.placeGroup1 l.die l.lchid x.ix k pl g.byPromo true) (some (s.startBlock
          l.die l.lchid x.ix)) (s.seatless l.die l.lchid x.ix)) := by
          refine foldl_keeps (allSome_some (canon_startBlock hs)) ?_
          intro x1 b h1
          refine allSome_bind (P := State.Canon) ?_ ?_
          · exact h1
          · intro x2 h2
            refine allSome_bind (P := fun _ => True) ?_ ?_
            · exact allSome_true
            · intro x3 h3
              refine allSome_bind (P := fun _ => True) ?_ ?_
              · exact allSome_true
              · intro x4 h4
                exact canon_placeGroup1 h2
        exact h _ e
      · exact hs

theorem canon_dispatchReplay (hs : s.Canon) : (dispatchReplay s l).Canon := by
  dsimp only [dispatchReplay]
  split
  · exact canon_replayReturn hs
  · exact canon_stopDispatch hs
  · split
    · exact canon_replayReturn hs
    · exact canon_stopDispatch hs
  · split
    · exact canon_replayReturn hs
    · split
      · split
        · exact canon_replayDispatch (canon_nameLaunch hs)
        · exact hs
      · split
        · exact canon_stopDispatch hs
        · exact canon_replayReturn hs

theorem canon_dispatchDue (hs : s.Canon) : (s.dispatchDue l places).Canon := by
  dsimp only [State.dispatchDue]
  split
  next e => exact (canon_dispatchAll hs) _ e
  · split
    · split
      · exact canon_grainSetFullSeen hs
      · exact canon_slotMet hs
    · split
      · exact canon_grainSetFullSeen hs
      · exact canon_slotMet hs

theorem canon_execBlockDispatch (hs : s.Canon) : CanonNext (execBlockDispatch die lchid places s) := by
  unfold execBlockDispatch
  split
  · exact hs
  · split
    · exact hs
    · split
      · exact canon_dispatchReplay hs
      · split
        · exact hs
        · exact canon_dispatchDue hs

theorem canon_freeAllocs (hs : s.Canon) : (s.freeAllocs die lchid ix).Canon := by
  dsimp only [State.freeAllocs]
  split
  · exact hs
  · exact canon_updBlock hs

theorem canon_freeDue (hs : s.Canon) : s.freeDue.Canon := foldl_keeps hs (fun _ _ h => canon_freeAllocs h)

theorem canon_endBlock (hs : s.Canon) : (s.endBlock die lchid ix).Canon := by
  unfold State.endBlock
  split
  · exact hs
  · split
    · exact hs
    · exact canon_lessLaunch hs.same

theorem canon_execGroupRecordFree {gid : Nat} (hs : s.Canon) : CanonNext (execGroupRecordFree gid s) := by
  dsimp only [execGroupRecordFree]
  split
  · exact hs
  · split
    · exact hs
    · exact canon_endBlock (canon_freeAllocs (canon_updBlock (foldl_keeps hs (fun _ _ h => canon_reportOrphan
        h)).same))

end

/-! ### The definitions of Machine/Drain.lean -/

section

variable {s : State} {w : DW} {g : Group} {e : EngRef} {en : Engine} {gid j : Nat} {k : BitVec 3} {xs : List
  RowAccess} {red : Bool} {d : StoppedDrain} {o : Op}

theorem canon_drainWord {f : Engine → Nat → Word × Events} (hs : s.Canon) : CanonNext (drainWord k f s) :=
  canon_updEngine hs

theorem canon_drainBits {f : Engine → Nat → Word} (hs : s.Canon) : CanonNext (drainBits k f s) := canon_drainWord hs

theorem canon_drainFloat {f : Engine → Nat → FNum × Events} (hs : s.Canon) : CanonNext (drainFloat w f s) :=
  canon_drainWord hs

theorem canon_execDfadd (hs : s.Canon) : CanonNext (execDfadd w s) := canon_drainFloat hs
theorem canon_execDfsub (hs : s.Canon) : CanonNext (execDfsub w s) := canon_drainFloat hs
theorem canon_execDfmul (hs : s.Canon) : CanonNext (execDfmul w s) := canon_drainFloat hs
theorem canon_execDfma (hs : s.Canon) : CanonNext (execDfma w s) := canon_drainFloat hs
theorem canon_execDfmax (hs : s.Canon) : CanonNext (execDfmax w s) := canon_drainWord hs
theorem canon_execDfmin (hs : s.Canon) : CanonNext (execDfmin w s) := canon_drainWord hs
theorem canon_execDrelu (hs : s.Canon) : CanonNext (execDrelu w s) := canon_drainWord hs
theorem canon_execDsel (hs : s.Canon) : CanonNext (execDsel w s) := canon_drainBits hs
theorem canon_execDiadd (hs : s.Canon) : CanonNext (execDiadd w s) := canon_drainBits hs
theorem canon_execDimad (hs : s.Canon) : CanonNext (execDimad w s) := canon_drainBits hs
theorem canon_execDshl {w : DK} (hs : s.Canon) : CanonNext (execDshl w s) := canon_drainBits hs
theorem canon_execDand (hs : s.Canon) : CanonNext (execDand w s) := canon_drainBits hs
theorem canon_execDmov (hs : s.Canon) : CanonNext (execDmov w s) := canon_drainBits hs
theorem canon_execDmovi {w : DK} (hs : s.Canon) : CanonNext (execDmovi w s) := canon_drainBits hs
theorem canon_execDmovhi {w : DK} (hs : s.Canon) : CanonNext (execDmovhi w s) := canon_drainBits hs
theorem canon_execDfcmp (hs : s.Canon) : CanonNext (execDfcmp w s) := canon_drainWord hs
theorem canon_execDrst (hs : s.Canon) : CanonNext (execDrst s) := canon_updEngine hs

theorem canon_performRow {x : RowAccess} (hs : s.Canon) : (performRow g s x).1.Canon := by
  dsimp only [performRow]
  split
  · exact canon_releasing (canon_writeTarget hs)
  · exact canon_writeTarget hs

theorem canon_performRows (hs : s.Canon) : (performRows g xs s).1.Canon := by
  dsimp only [performRows]
  refine foldl_keeps (P := fun r : State × _ => r.1.Canon) ?_ ?_
  · exact hs
  · intro x b h
    exact canon_performRow h

theorem canon_drainTarget {w : DM} {a : Nat} {need : Need} (hs : s.Canon) : (s.drainTarget g w a need red).1.Canon :=
  by
  dsimp only [State.drainTarget]
  split
  · exact hs
  · split
    · split
      · exact canon_target hs
      · exact hs
    · split
      next e =>
        have h := canon_of_fst (canon_target hs) e
        split
        · exact h
        · split
          · exact h
          · split
            · exact canon_used h
            · exact h
      · exact canon_target hs

theorem canon_dldCol {w : DM} (hs : s.Canon) : (dldCol g w s en j).Canon := by
  dsimp only [dldCol]
  split
  · exact hs
  next e _ => exact canon_of_fst (canon_drainTarget hs) e
  next e _ => exact canon_of_fst (canon_drainTarget hs) e
  next e _ =>
    have h := canon_of_fst (canon_drainTarget hs) e
    split
    · exact h
    · split
      · exact h
      · exact canon_addOwn h

theorem canon_dstCol {w : DM} (hs : s.Canon) : (dstCol red g w s en j).Canon := by
  dsimp only [dstCol]
  split
  next e => exact canon_of_fst (canon_drainTarget hs) e
  next e => exact canon_of_fst (canon_drainTarget hs) e
  next e => exact canon_of_fst (canon_drainTarget hs) e

theorem canon_runCols {f : State → Engine → Nat → ColRes} {xs : List Nat} {x : Engine} (hf : ∀ (s : State), s.Canon →
  ∀ (x : Engine) (x_1 : Nat), (f s x x_1).Canon) (hs : s.Canon) : (runCols f xs s x).1.Canon := by
  induction xs generalizing f s x with
  | nil =>
    dsimp only [runCols]
    exact hs
  | cons x r ih =>
    dsimp only [runCols]
    split
    next e =>
      have h := keeps_of_eq (hf _ hs _ _) e
      exact ih (fun _ h1 _ _ => hf _ h1 _ _) h
    next e =>
      have h := keeps_of_eq (hf _ hs _ _) e
      exact ih (fun _ h1 _ _ => hf _ h1 _ _) h
    next e =>
      have h := keeps_of_eq (hf _ hs _ _) e
      exact h

theorem canon_freeEngine (hs : s.Canon) : (s.freeEngine e).Canon := hs.same
theorem canon_flushRows (hs : s.Canon) : (flushRows g xs s en).1.Canon := canon_addOwn (canon_performRows hs)
theorem canon_abandonDrain (hs : s.Canon) : (abandonDrain s gid d).Canon := canon_updGrp hs

theorem canon_stopDrain {lanes : Mask} {addr : Nat} (hs : s.Canon) : (stopDrain s gid o d lanes addr).Canon := by
  dsimp only [stopDrain]
  split
  · exact canon_abandonDrain (canon_raiseFault (canon_updGrp hs))
  · exact canon_raiseFault (canon_updGrp hs)

theorem canon_orphaned (hs : s.Canon) : (s.orphaned gid).Canon := by
  dsimp only [State.orphaned]
  split
  · exact hs
  · split
    · split
      · exact canon_updGrp (foldl_keeps hs (fun _ _ h => canon_reportOrphan h))
      · exact canon_abandonDrain (canon_updGrp (foldl_keeps hs (fun _ _ h => canon_reportOrphan h)))
    · exact canon_updGrp (foldl_keeps hs (fun _ _ h => canon_reportOrphan h))

theorem canon_orphans (hs : s.Canon) : s.orphans.Canon := foldl_keeps hs (fun _ _ h => canon_orphaned h)

theorem canon_faultRow {bad : List (Nat × Cause × Nat)} (hs : s.Canon) : (faultRow s en bad).Canon := by
  dsimp only [faultRow]
  split
  · exact canon_freeEngine (canon_flushRows (canon_flushRows hs))
  · exact canon_stopDrain (canon_freeEngine (canon_flushRows (canon_flushRows hs)))

theorem canon_drainMemWord {cols : List Nat} {f : Group → State → Engine → Nat → ColRes} (hf : ∀ (x : Group) (s :
  State), s.Canon → ∀ (x_2 : Engine) (x_3 : Nat), (f x s x_2 x_3).Canon) (hs : s.Canon) : CanonNext (drainMemWord
  cols f s) := by
  unfold drainMemWord
  split
  · exact hs
  · split
    · exact hs
    · split
      next e => exact canon_of_fst (canon_runCols (fun _ h _ _ => hf _ _ h _ _) hs) e
      next e => exact canon_updEngine (canon_of_fst (canon_runCols (fun _ h _ _ => hf _ _ h _ _) hs) e)
      next e =>
        have h := canon_of_fst (canon_runCols (fun _ h _ _ => hf _ _ h _ _) hs) e
        split
        · exact h
        · exact canon_faultRow h

theorem canon_execDld {w : DM} (hs : s.Canon) : CanonNext (execDld w s) :=
  canon_drainMemWord (fun _ _ h _ _ => canon_dldCol h) hs

theorem canon_execDst {w : DM} (hs : s.Canon) : CanonNext (execDst w s) :=
  canon_drainMemWord (fun _ _ h _ _ => canon_dstCol h) hs

theorem canon_execDred {w : DM} (hs : s.Canon) : CanonNext (execDred w s) :=
  canon_drainMemWord (fun _ _ h _ _ => canon_dstCol h) hs

theorem canon_execDend (hs : s.Canon) : CanonNext (execDend s) := canon_updEngine hs

theorem canon_drainAheadOne (hs : s.Canon) : (drainAheadOne s e).Canon := by
  dsimp only [drainAheadOne]
  split
  · exact hs
  · exact canon_updEngine (canon_flushRows hs)

theorem canon_drainsAhead (hs : s.Canon) : s.drainsAhead.Canon := foldl_keeps hs (fun _ _ h => canon_drainAheadOne h)

theorem canon_startDrain {t p : Nat} {args : List Word} {rm : BitVec 3} (hs : s.Canon) : (startDrain s e gid o t p
  args rm).Canon := by
  dsimp only [startDrain]
  split
  · exact canon_matrixFault hs
  · split
    · exact canon_stopDrain hs
    · split
      · exact canon_stopDrain hs
      · exact (canon_updGrp hs).same

theorem canon_execDrainRow (hs : s.Canon) : CanonNext (execDrainRow e s) := by
  dsimp only [execDrainRow]
  split
  · split
    · exact hs
    · exact canon_updEngine hs
  · split
    · exact hs
    · split
      · split
        · exact hs
        · exact canon_startDrain hs
      · exact hs

theorem canon_execDrainComplete (hs : s.Canon) : CanonNext (execDrainComplete e s) := by
  dsimp only [execDrainComplete]
  split
  · exact hs
  · split
    · exact hs
    · split
      · exact canon_freeEngine (canon_flushRows hs)
      · exact canon_matrixDone (canon_updGrp (canon_freeEngine (canon_flushRows hs)))

end

/-! ### The definitions of Machine/Trap.lean -/

section

variable {s : State} {w : XK} {gid : Nat}

theorem canon_execTrap (hs : s.Canon) : CanonNext (execTrap w s) := canon_issue (fun _ _ h => keeps_ite h trivial) hs

theorem canon_applyCursor {act : Nat} (hs : s.Canon) : (applyCursor s gid act).Canon := by
  unfold applyCursor
  split
  · exact hs
  · split
    · exact hs
    · split
      · exact canon_updGrp hs
      · exact canon_abandonDrain hs

theorem canon_returnFrom {pix : Nat} (hs : s.Canon) : (s.returnFrom gid pix).Canon := by
  dsimp only [State.returnFrom]
  split
  · exact canon_updGrp (keeps_ite (canon_applyCursor hs) hs)
  · exact canon_updGrp (canon_imprecise (canon_updGrp (canon_updGrp (keeps_ite (canon_applyCursor hs) hs))))

theorem canon_execRte {w : XN} (hs : s.Canon) : CanonNext (execRte w s) :=
  canon_issue (fun _ _ h => keeps_ite h (keeps_ite trivial (keeps_ite trivial (canon_returnFrom h)))) hs

theorem canon_execHalt {w : XN} (hs : s.Canon) : CanonNext (execHalt w s) :=
  canon_issue (fun _ _ h => keeps_ite (canon_updGrp h) h) hs

theorem canon_execCsrrd (hs : s.Canon) : CanonNext (execCsrrd w s) := canon_issue (fun _ _ h => canon_writeRes h) hs

theorem canon_execCsrwr (hs : s.Canon) : CanonNext (execCsrwr w s) := by
  dsimp only [execCsrwr]
  refine canon_issue ?_ hs
  intro e s1 h
  split
  · exact h
  · split
    · exact canon_writeRes h
    · split
      · exact trivial
      · exact canon_updGrp h

theorem canon_execLogmark (hs : s.Canon) : CanonNext (execLogmark w s) := by
  dsimp only [execLogmark]
  refine canon_issue ?_ hs
  intro e s1 h
  split
  · exact h
  · split
    next e1 =>
      have h1 := keeps_of_eq (canon_grainEvent h) e1
      exact h1
    next e1 =>
      have h1 := keeps_of_eq (canon_grainEvent h) e1
      exact canon_grainHeld h1
    · exact trivial

theorem canon_setTron {b : Bool} {e : Env} (hs : s.Canon) : (setTron b e s).Canon := by
  dsimp only [setTron]
  split
  · exact hs
  · exact canon_updGrp hs

theorem canon_execTrcon {w : XN} (hs : s.Canon) : CanonNext (execTrcon w s) :=
  canon_issue (fun _ _ h => canon_setTron h) hs

theorem canon_execTrcoff {w : XN} (hs : s.Canon) : CanonNext (execTrcoff w s) :=
  canon_issue (fun _ _ h => canon_setTron h) hs

theorem canon_execImpreciseFaultEntry {w : Who} (hs : s.Canon) : CanonNext (execImpreciseFaultEntry w s) := by
  dsimp only [execImpreciseFaultEntry]
  split
  · exact hs
  · split
    · exact hs
    · exact canon_imprecise hs

end

/-! ### The definitions of Machine/Image.lean -/

section

variable {s : State} {g : Group}

theorem canon_writeParts {ps : List (Nat × List Byte)} (hs : s.Canon) : (s.writeParts g ps).Canon :=
  foldl_keeps hs (fun _ _ h => canon_imageWrite h)

theorem canon_saveGroup {lines : Nat → Bool} (hs : s.Canon) : (s.saveGroup g lines).Canon := canon_writeParts hs

theorem canon_reloaded {gid : Nat} (hs : s.Canon) : (s.reloaded gid).Canon := by
  unfold State.reloaded
  split
  · exact canon_updGrp hs
  · exact hs

end

/-! ### The definitions of Machine/Context.lean -/

section

variable {s : State} {pasid die gid lchid seq status : Nat} {g : Group} {pl : Place}

theorem canon_readHeader (hs : s.Canon) : (readHeader s die pasid).Canon := by
  dsimp only [readHeader]
  split
  · exact hs
  · split
    · exact canon_imageFault hs
    · split
      · exact canon_updCtx hs
      · exact canon_objectFault (canon_updCtx hs)

theorem canon_shortSaves (hs : s.Canon) : (shortSaves s die pasid).Canon := canon_objectFault hs

theorem canon_stopContext (hs : s.Canon) : (s.stopContext die pasid).Canon := by
  dsimp only [State.stopContext]
  split
  · exact canon_shortSaves (canon_updCtx hs).same
  · exact (canon_updCtx hs).same

theorem canon_endDeferral (hs : s.Canon) : (s.endDeferral die pasid).Canon := canon_updCtx hs

theorem canon_switchOut (hs : s.Canon) : (s.switchOut die pasid).Canon := by
  dsimp only [State.switchOut]
  split
  · exact hs
  · exact canon_stopContext hs

theorem canon_execSliceStopRequest (hs : s.Canon) : CanonNext (execSliceStopRequest die pasid s) := by
  dsimp only [execSliceStopRequest]
  split
  · exact hs
  · split
    · split
      · exact hs
      · split
        · exact canon_switchOut (canon_endDeferral hs)
        · exact canon_endDeferral hs
    · split
      · exact hs
      · split
        · exact canon_updCtx hs
        · exact canon_stopContext hs

theorem canon_blockLeft {ix : Nat} (hs : s.Canon) : (s.blockLeft die lchid ix).Canon := by
  dsimp only [State.blockLeft]
  split
  · exact hs
  · split
    · exact hs
    · exact canon_updBlock hs

theorem canon_enterDue (hs : s.Canon) : (s.enterDue gid).Canon := by
  unfold State.enterDue
  refine foldl_keeps hs ?_
  intro x b h
  split
  · exact canon_imprecise h
  · exact h

theorem canon_preempt (hs : s.Canon) : (s.preempt g).Canon := by
  dsimp only [State.preempt]
  exact canon_blockLeft (keeps_ite (canon_writeParts (canon_saveGroup (canon_updGrp (canon_reloaded (canon_enterDue
    hs))).same)) (canon_saveGroup (canon_updGrp (canon_reloaded (canon_enterDue hs))).same))

theorem canon_execGroupPreempt (hs : s.Canon) : CanonNext (execGroupPreempt gid s) := by
  unfold execGroupPreempt
  split
  · exact hs
  · split
    · exact hs
    · exact canon_preempt hs

theorem canon_execScratchpadSave {block role : Nat} (hs : s.Canon) : CanonNext (execScratchpadSave die pasid lchid
  block role s) := by
  dsimp only [execScratchpadSave]
  split
  · exact hs
  · split
    · split
      · exact hs
      · split
        · exact canon_imageFault hs
        · exact canon_blockLeft (canon_updBlock (canon_objWrite hs))
    · exact hs

theorem canon_setOverrun {v : Nat} (hs : s.Canon) : (s.setOverrun die pasid v).Canon := canon_imageWrite hs

theorem canon_execContextSwitchComplete (hs : s.Canon) : CanonNext (execContextSwitchComplete die pasid s) := by
  dsimp only [execContextSwitchComplete]
  split
  · exact hs
  · split
    · split
      · exact (canon_updCtx (foldl_keeps hs (fun _ _ h => canon_blockLeft h))).same
      · exact canon_setOverrun (canon_updCtx (foldl_keeps hs (fun _ _ h => canon_blockLeft h))).same
    · split
      · exact (canon_updCtx (foldl_keeps hs (fun _ _ h => canon_blockLeft h))).same
      · exact canon_setOverrun (canon_updCtx (foldl_keeps hs (fun _ _ h => canon_blockLeft h))).same

theorem canon_unnamed (hs : s.Canon) : (s.unnamed pasid).Canon := hs.same

theorem canon_takeMode (hs : s.Canon) : AllSome State.Canon (s.takeMode pasid) := by
  unfold State.takeMode
  extract_lets s1 s2 c m s3 s4
  have h2 : s2.Canon :=
    have h1 : s1.Canon := keeps_ite (canon_grainFlush hs) hs
    keeps_ite h1 (canon_ringMet h1)
  have h3 : s3.Canon := keeps_ite (canon_grainAppend h2) h2
  split
  · exact allSome_some h2
  · split
    · exact allSome_some h2
    · split
      · exact allSome_none
      · exact allSome_some (canon_updCtx (canon_unnamed (canon_clearGap h3.same)))

theorem canon_dackAfter {n : Nat} (hs : s.Canon) : (s.dackAfter n die pasid seq status).Canon := by
  dsimp only [State.dackAfter]
  split
  · exact canon_imageWrite hs
  · exact canon_headTells (canon_imageWrite hs)

theorem canon_dack (hs : s.Canon) : (s.dack die pasid seq status).Canon := canon_dackAfter hs

theorem canon_switchedBack (hs : s.Canon) : (s.switchedBack die pasid).Canon := by
  dsimp only [State.switchedBack]
  split
  · split
    · exact canon_updCtx (canon_dack hs)
    · exact hs
  · exact hs

theorem canon_execContextSwitchIn (hs : s.Canon) : CanonNext (execContextSwitchIn die pasid s) := by
  dsimp only [execContextSwitchIn]
  split
  · exact hs
  · split
    · exact canon_setOverrun (canon_readHeader hs)
    · split
      · exact canon_readHeader hs
      next e =>
        have h := (keeps_ite (canon_takeMode (canon_readHeader hs)) (allSome_some (canon_readHeader hs))) _ e
        exact canon_switchedBack (canon_updCtx (keeps_ite h (canon_setOverrun h))).same

theorem canon_resume (hs : s.Canon) : (s.resume g pl).Canon :=
  (canon_updGrp (keeps_ite (canon_reloaded hs) (canon_writeParts hs))).same

theorem canon_execGroupResume (hs : s.Canon) : CanonNext (execGroupResume gid pl s) := by
  dsimp only [execGroupResume]
  split
  · exact hs
  · split
    · exact hs
    · exact canon_switchedBack (canon_resume hs)

end

/-! ### The definitions of Machine/Promote.lean -/

section

variable {s : State} {die : Nat} {r : PromoReq} {w : XN} {ch : Chain}

theorem canon_promoteRes {e : Env} (hs : s.Canon) : (promoteRes w e s).Canon := by
  dsimp only [promoteRes]
  split
  · exact hs
  · split
    next e1 => exact canon_heldFor (canon_of_fst (canon_target hs) e1)
    · exact trivial
    next e1 =>
      have h := canon_of_fst (canon_target hs) e1
      split
      · exact trivial
      · split
        · exact h
        · exact trivial
        · exact canon_requestPromotion (canon_waiting h)
    next e1 => exact canon_of_fst (canon_target hs) e1

theorem canon_execPromote (hs : s.Canon) : CanonNext (execPromote w s) :=
  canon_issue (fun _ _ h => canon_promoteRes h) hs

theorem canon_planShort {pasid : Nat} {p : Option Plan} (hs : s.Canon) : (planShort s ch r pasid p).Canon := by
  unfold planShort
  split
  · exact hs
  · exact canon_shortSaves hs

theorem canon_dropRequest (hs : s.Canon) : (s.dropRequest die r).Canon := canon_updDie hs

theorem canon_promoted {w : Who} (hs : s.Canon) : (s.promoted w).Canon := by
  dsimp only [State.promoted]
  split
  · split
    · exact canon_endWait hs
    · exact canon_updGrp hs
  · exact hs

theorem canon_progressFault {w : Who} {c : Cause} {at_ : Option Wait} (hs : s.Canon) : (s.progressFault w c
  at_).Canon := by
  unfold State.progressFault
  split
  · exact canon_precise hs
  · exact hs

theorem canon_raiseLaunch {c : BitVec 2} {o : Option State} {k : Link} (ho : AllSome State.Canon o) : AllSome
  State.Canon (raiseLaunch c o k) :=
  allSome_bind ho (fun _ h => allSome_map (canon_headEvent h) (fun _ h1 => canon_updLaunch h1))

theorem canon_askOut {lchid ix : Nat} (hs : s.Canon) : (s.askOut die lchid ix).Canon :=
  canon_blockLeft (canon_updBlock hs).same

theorem canon_commitPlan {p : Plan} (hs : s.Canon) : AllSome State.Canon (commitPlan s die r ch p) :=
  allSome_map (foldl_keeps (allSome_some hs) (fun _ _ h1 => canon_raiseLaunch h1)) (fun _ h => canon_updDie
    (foldl_keeps (foldl_keeps h (fun _ _ h2 => canon_precise h2)) (fun _ _ h2 => canon_askOut h2)))

theorem canon_planRequest (hs : s.Canon) : (planRequest s die r).Canon := by
  dsimp only [planRequest]
  split
  · exact canon_progressFault (canon_dropRequest hs)
  · split
    · exact canon_promoted (canon_dropRequest hs)
    · split
      · exact hs
      · split
        · exact canon_progressFault (canon_dropRequest hs)
        · split
          · exact canon_progressFault (foldl_keeps (canon_planShort (canon_dropRequest hs)) (fun _ _ h =>
              canon_slotMet h))
          · split
            next e => exact (canon_commitPlan (canon_planShort hs)) _ e
            · exact canon_grainStalls hs

theorem canon_evictRecord {g : Group} (hs : s.Canon) : AllSome State.Canon (evictRecord s g) := canon_headEvent hs

theorem canon_placeSeat {x : Seat} (hs : s.Canon) : AllSome State.Canon (placeSeat s x) := by
  dsimp only [placeSeat]
  refine canon_dispatch1 ?_
  split
  · split
    · exact canon_startBlock hs
    · exact hs
  · exact canon_startBlock hs

theorem canon_finishPlan {seats : List Seat} {vs : List (Nat × Nat × Nat)} (hs : s.Canon) : (finishPlan s die r seats
  vs).Canon := by
  dsimp only [finishPlan]
  split
  · exact hs
  · split
    · exact canon_updDie (canon_grainStalls (canon_carryWhile (fun _ _ h => canon_evictRecord h) hs))
    · split
      · split
        · exact canon_updDie (canon_carryWhile (fun _ _ h => canon_evictRecord h) hs)
        · split
          · exact canon_updDie (canon_grainStalls (canon_carryWhile (fun _ _ h => canon_placeSeat h)
              (canon_carryWhile (fun _ _ h => canon_evictRecord h) hs)))
          · exact canon_promoted (canon_dropRequest (canon_carryWhile (fun _ _ h => canon_placeSeat h)
              (canon_carryWhile (fun _ _ h => canon_evictRecord h) hs)))
      · split
        · exact canon_updDie (canon_carryWhile (fun _ _ h => canon_evictRecord h) hs)
        · split
          · exact canon_updDie (canon_grainStalls (canon_carryWhile (fun _ _ h => canon_placeSeat h)
              (canon_carryWhile (fun _ _ h => canon_evictRecord h) hs)))
          · exact canon_promoted (canon_dropRequest (canon_carryWhile (fun _ _ h => canon_placeSeat h)
              (canon_carryWhile (fun _ _ h => canon_evictRecord h) hs)))

theorem canon_replayHead {c : Ctx} (hs : s.Canon) : AllSome State.Canon (replayHead s c die) := by
  dsimp only [replayHead]
  split
  · split
    · exact allSome_none
    · split
      · split
        · split
          · exact allSome_some (canon_stopDispatch hs)
          · exact allSome_none
        · exact allSome_some (canon_updLaunch (canon_nameLaunch (canon_takeHead hs)))
      · split
        · split
          · exact allSome_some (canon_stopDispatch hs)
          · exact allSome_none
        · split
          · split
            · exact allSome_none
            · exact allSome_some (canon_stopDispatch hs)
          · split
            · exact allSome_none
            · refine allSome_some ?_
              split
              · split
                · exact canon_askOut (canon_nameLaunch (canon_takeHead hs))
                · exact canon_nameLaunch (canon_takeHead hs)
              · exact canon_nameLaunch (canon_takeHead hs)
  · exact allSome_none

theorem canon_replayRequest (hs : s.Canon) : (replayRequest s die r).Canon := by
  dsimp only [replayRequest]
  split
  · exact canon_progressFault (canon_dropRequest hs)
  · split
    · exact canon_promoted (canon_dropRequest hs)
    · exact hs

theorem canon_execPromotion (hs : s.Canon) : CanonNext (execPromotion die s) := by
  dsimp only [execPromotion]
  split
  · split
    · exact canon_finishPlan hs
    · split
      · exact canon_dropRequest hs
      · split
        · split
          · exact canon_getD (canon_replayHead hs) (canon_replayRequest hs)
          · exact canon_replayRequest hs
        · split
          · exact hs
          · exact canon_planRequest hs
  · split
    · exact canon_getD (canon_replayHead hs) hs
    · exact hs

end

/-! ### The definitions of Machine/Task.lean -/

section

variable {s : State} {w : XN} {e : Env} {g : Group} {gid addr n op : Nat} {o : Op}

theorem canon_poolRead (hs : s.Canon) : (poolRead s g addr).1.Canon := by
  unfold poolRead
  split
  next e => exact canon_of_fst (canon_headRead hs) e
  next e =>
    have h := canon_of_fst (canon_headRead hs) e
    split <;> exact h

theorem canon_tasknewRes (hs : s.Canon) : (tasknewRes w e s).Canon := by
  dsimp only [tasknewRes]
  split
  · exact canon_heldFor hs
  · split
    · exact canon_addOp hs
    · split
      · exact canon_heldFor hs
      · exact trivial
      · exact canon_postPoison hs
      · split
        next e1 => exact canon_heldFor (canon_of_fst (canon_poolRead hs) e1)
        next e1 =>
          have h := canon_of_fst (canon_poolRead hs) e1
          split
          · exact trivial
          · exact canon_waiting h.same
          · exact h

theorem canon_execTasknew (hs : s.Canon) : CanonNext (execTasknew w s) :=
  canon_issue (fun _ _ h => canon_tasknewRes h) hs

theorem canon_execTaskAccept {w : Who} (hs : s.Canon) : CanonNext (execTaskAccept w s) := by
  dsimp only [execTaskAccept]
  split
  · split
    · split
      · exact hs
      · split
        · exact canon_precise (canon_noteFault (canon_poolRead hs))
        · split
          · exact canon_poolRead hs
          · split
            · exact canon_heldFor (canon_poolRead hs)
            · split
              · exact canon_heldFor (canon_poolRead hs)
              · exact canon_endWait (canon_addOp (canon_setPool (canon_poolRead hs)))
        · exact canon_poolRead hs
    · exact hs
  · exact hs

theorem canon_headWriteAt {die pasid : Nat} {xs : List Byte} (hs : s.Canon) : (headWriteAt s die pasid n xs).1.Canon
  := by
  induction xs generalizing s die pasid n with
  | nil =>
    dsimp only [headWriteAt]
    exact hs
  | cons x r ih =>
    unfold headWriteAt
    split
    next e => exact ih (canon_of_fst (canon_headWrite hs) e)
    next e => exact canon_of_fst (canon_headWrite hs) e

theorem canon_performTaskrec {id : Nat} (hs : s.Canon) : (performTaskrec s gid o addr id).Canon := by
  dsimp only [performTaskrec]
  split
  · exact hs
  · split
    · exact canon_updGrp hs
    · split
      · exact canon_updGrp hs
      · split
        next e => exact canon_updGrp (canon_setPool (canon_of_fst (canon_headWriteAt hs) e))
        next e => exact canon_of_fst (canon_headWriteAt hs) e
        next e =>
          exact canon_raiseFault (canon_noteFault (canon_updGrp (canon_setPool (canon_of_fst (canon_headWriteAt hs)
            e))))

theorem canon_execStoreComplete {lanes : BitVec 32} (hs : s.Canon) : CanonNext (execStoreComplete gid op lanes s) :=
  by
  unfold execStoreComplete
  split
  · exact hs
  · split
    · exact canon_performTaskrec hs
    · exact canon_completeIf hs

theorem canon_taskgetRes (hs : s.Canon) : (taskgetRes w e s).Canon := by
  dsimp only [taskgetRes]
  split
  · exact hs
  · split
    · exact trivial
    · split
      · exact trivial
      · exact canon_startWait hs.same

theorem canon_execTaskget (hs : s.Canon) : CanonNext (execTaskget w s) :=
  canon_issue (fun _ _ h => canon_taskgetRes h) hs

theorem canon_taskdoneRes {x : XN} (hs : s.Canon) : (taskdoneRes x e s).Canon := by
  dsimp only [taskdoneRes]
  split
  · exact hs
  · split
    · exact trivial
    · split
      · exact trivial
      · split
        · exact canon_heldFor hs
        · split
          · exact canon_updGrp hs
          · exact canon_setPool (canon_updGrp hs)

theorem canon_execTaskdone (hs : s.Canon) : CanonNext (execTaskdone w s) :=
  canon_issue (fun _ _ h => canon_taskdoneRes h) hs

theorem canon_tasksyncRes (hs : s.Canon) : (tasksyncRes w e s).Canon := by
  dsimp only [tasksyncRes]
  split
  · exact canon_heldFor hs
  · split
    · exact canon_addOp hs
    · split
      · exact trivial
      · split
        · exact trivial
        · split
          next e1 => exact canon_heldFor (canon_of_fst (canon_poolRead hs) e1)
          next e1 =>
            exact canon_finishOp (canon_updGrp (canon_addOp (canon_noteFault (canon_of_fst (canon_poolRead hs) e1))))
          next e1 =>
            have h := canon_of_fst (canon_poolRead hs) e1
            exact canon_addOp (keeps_ite (canon_setPool h) h)

theorem canon_execTasksync (hs : s.Canon) : CanonNext (execTasksync w s) :=
  canon_issue (fun _ _ h => canon_tasksyncRes h) hs

theorem canon_copyByte {k src dst : Nat} (hs : s.Canon) : (copyByte s g o k src dst).1.Canon := by
  dsimp only [copyByte]
  split
  next e => exact canon_of_fst (canon_targetIn hs) e
  next e =>
    have h := canon_of_fst (canon_targetIn hs) e
    split
    next e1 => exact canon_of_fst (canon_targetIn h) e1
    next e1 =>
      have h1 := canon_of_fst (canon_targetIn h) e1
      split
      · exact canon_poisonPlace (canon_writeTarget h1)
      · exact canon_writeTarget h1

theorem canon_copyHome {n1 n2 : Nat} (hs : s.Canon) : (copyHome g o n n1 n2 s).1.Canon := by
  induction n generalizing g o n1 n2 s with
  | zero =>
    dsimp only [copyHome]
    exact hs
  | succ n ih =>
    unfold copyHome
    split
    next e =>
      have h := canon_of_fst (canon_copyByte hs) e
      split
      next e1 => exact canon_of_fst (ih h) e1
      · exact ih h
    · exact canon_copyByte hs

theorem canon_execTasksyncCopy (hs : s.Canon) : CanonNext (execTasksyncCopy gid op s) := by
  dsimp only [execTasksyncCopy]
  split
  · exact hs
  · split
    · split
      · exact hs
      · split
        · exact canon_copyDone hs
        · split
          · exact hs
          · split
            · exact canon_copyDone hs
            · split
              next e => exact canon_of_fst (canon_copyHome hs) e
              next e => exact canon_copyFault (canon_of_fst (canon_copyHome hs) e)
              next e => exact canon_addOwn (canon_setPool (canon_of_fst (canon_copyHome hs) e))
    · exact hs

theorem canon_stageRes (hs : s.Canon) : (stageRes w e s).Canon := by
  dsimp only [stageRes]
  split
  · exact hs
  · split
    · exact canon_writeRes hs
    · split
      · exact canon_writeRes hs
      · split
        · exact canon_heldFor hs
        · split
          next e1 =>
            have h := keeps_of_eq (canon_ordEvent hs) e1
            exact canon_grainHeld h
          · exact trivial
          next e1 =>
            have h := keeps_of_eq (canon_ordEvent hs) e1
            exact canon_writeRes (canon_updGrp h)
          next e1 =>
            have h := keeps_of_eq (canon_ordEvent hs) e1
            exact canon_writeRes (canon_updGrp h)

theorem canon_execStage (hs : s.Canon) : CanonNext (execStage w s) := canon_issue (fun _ _ h => canon_stageRes h) hs

end

/-! ### The definitions of Machine/Queue.lean -/

section

variable {s : State} {r : QRef} {q : Queue} {die n a pasid n1 : Nat} {c : LaunchCmd} {h : KHeader} {bs : List Byte}
  {scope : BitVec 3} {i : Instr}

theorem canon_updQueue {f : Queue → Queue} (hs : s.Canon) : (s.updQueue r f).Canon := hs.same
theorem canon_walkReport (hs : s.Canon) : (walkReport s die).Canon := canon_logModule hs

theorem canon_walkEntry {zero : Nat → Bool} (hs : s.Canon) : (walkEntry s die a zero).Canon := by
  dsimp only [walkEntry]
  split
  · exact hs
  · split
    · exact canon_walkReport hs
    · split
      · exact hs
      · exact canon_wrMem hs

theorem canon_takeRecordOf {r : Nat} (hs : s.Canon) : (s.takeRecordOf pasid r).Canon := by
  unfold State.takeRecordOf
  split
  · exact canon_updCtx hs
  · exact hs.same

theorem canon_walkQueue {q : Nat} (hs : s.Canon) : (walkQueue s die pasid q).Canon := by
  dsimp only [walkQueue]
  split
  next e =>
    have h := keeps_of_eq (canon_walkEntry hs) e
    split
    next e1 =>
      have h1 := keeps_of_eq (canon_walkEntry h) e1
      split
      next e2 =>
        have h2 := keeps_of_eq (canon_walkEntry h1) e2
        split
        · exact canon_walkReport h2
        · exact canon_takeRecordOf h2
      · exact canon_walkEntry h1
    · exact canon_walkEntry h
  · exact canon_walkEntry hs

theorem canon_qcbWrite {o : Nat} (hs : s.Canon) : (qcbWrite s die r o bs).Canon := by
  dsimp only [qcbWrite]
  split
  · exact canon_objWrite hs
  · exact canon_objectFault hs

theorem canon_setHalted (hs : s.Canon) : (setHalted s die r).Canon := canon_qcbWrite hs

theorem canon_haltQueue {code rptr d0 d1 : Nat} (hs : s.Canon) : (haltQueue s q code rptr d0 d1).Canon :=
  canon_updQueue (canon_setHalted (canon_reportQueue hs))

theorem canon_readCommands {rbase ln : Nat} (hs : s.Canon) : (readCommands die r rbase ln n n1 s).s.Canon := by
  induction n generalizing die r rbase ln n1 s with
  | zero =>
    dsimp only [readCommands]
    exact hs
  | succ n ih =>
    dsimp only [readCommands]
    split
    next e => exact canon_of_fst (canon_headRead hs) e
    next e =>
      have h := canon_of_fst (canon_headRead hs) e
      split
      · exact h
      · exact ih h

theorem canon_settleBad (hs : s.Canon) : (settleBad s r).Canon := by
  unfold settleBad
  split
  · exact hs
  · split
    · split
      · exact canon_haltQueue hs
      · exact hs
    · exact hs

theorem canon_queueHears (hs : s.Canon) : (queueHears s q a n scope).Canon := by
  dsimp only [queueHears]
  split
  next e => exact canon_updQueue (canon_of_fst (canon_translate hs) e)
  next e => exact canon_of_fst (canon_translate hs) e

theorem canon_serveCommands {c : Nat} (hs : s.Canon) : (serveCommands s q c).1.Canon := by
  dsimp only [serveCommands]
  split
  next e => exact canon_of_fst (canon_headRead hs) e
  next e => exact canon_haltQueue (canon_of_fst (canon_headRead hs) e)
  next e =>
    have h := canon_of_fst (canon_headRead hs) e
    split
    · exact canon_haltQueue (canon_queueHears h)
    · split
      · exact canon_queueHears h
      · split
        · exact canon_haltQueue (canon_readCommands (canon_queueHears h))
        · exact canon_settleBad (canon_updQueue (canon_readCommands (canon_queueHears h)))
        · exact canon_settleBad (canon_updQueue (canon_readCommands (canon_queueHears h)))

theorem canon_serveQueue (hs : s.Canon) : (serveQueue s die r).1.Canon := by
  dsimp only [serveQueue]
  split
  · exact canon_objectFault hs
  · split
    · exact canon_walkReport hs
    · split
      · exact hs
      · split
        · exact canon_serveCommands (canon_updQueue (canon_updCtx hs))
        · exact canon_serveCommands (canon_updCtx hs).same

theorem canon_begin {c : Option PendCmd} (hs : s.Canon) : (s.begin q c).Canon := canon_updQueue (canon_qcbWrite hs)

theorem canon_commandFault {ix addr : Nat} {c : Cause} (hs : s.Canon) : (commandFault s q ix addr c).Canon :=
  canon_haltQueue (canon_updQueue hs)

theorem canon_execQueueNop {q : QRef} {barrier : Bool} (hs : s.Canon) : CanonNext (execQueueNop q barrier s) := by
  unfold execQueueNop
  split
  · exact hs
  · exact canon_settleBad (canon_begin hs)

theorem canon_readStages (hs : s.Canon) : (readStages s q h c).1.Canon := by
  unfold readStages
  split
  · exact hs
  · split
    next e => exact canon_of_fst (canon_headRead hs) e
    next e => exact canon_of_fst (canon_headRead hs) e

theorem canon_rejectLaunch {f : HdrFail} (hs : s.Canon) : (rejectLaunch s q f).Canon :=
  canon_reportQueue (canon_begin hs)

theorem canon_startLaunch (hs : s.Canon) : (startLaunch s q i c h).Canon := by
  dsimp only [startLaunch]
  split
  · exact canon_createLaunch (canon_begin hs)
  · exact canon_reportQueue (canon_createLaunch (canon_begin hs))

theorem canon_emptyLaunch (hs : s.Canon) : (emptyLaunch s q c h).Canon :=
  canon_settleLaunch (canon_createLaunch (canon_begin hs))

theorem canon_launchHeader {x : Nat} (hs : s.Canon) : (launchHeader s q i c x).Canon := by
  dsimp only [launchHeader]
  split
  · exact canon_rejectLaunch hs
  · split
    · exact canon_emptyLaunch hs
    · split
      · exact canon_rejectLaunch hs
      · split
        next e => exact canon_of_fst (canon_readStages hs) e
        next e => exact canon_commandFault (canon_begin (canon_of_fst (canon_readStages hs) e))
        next e =>
          have h := canon_of_fst (canon_readStages hs) e
          split
          · exact canon_rejectLaunch h
          · exact canon_startLaunch h

theorem canon_execLaunch (hs : s.Canon) : CanonNext (execLaunch r c s) := by
  unfold execLaunch
  split
  · exact hs
  · split
    next e => exact canon_of_fst (canon_headRead hs) e
    next e => exact canon_commandFault (canon_begin (canon_of_fst (canon_headRead hs) e))
    next e => exact canon_settleBad (canon_launchHeader (canon_of_fst (canon_headRead hs) e))

theorem canon_commandStore (hs : s.Canon) : (commandStore s q a bs scope).Canon := by
  dsimp only [commandStore]
  split
  next e =>
    have h := canon_of_fst (canon_headWrite hs) e
    refine canon_settleBad (canon_begin ?_)
    split
    next e1 => exact canon_releasing (canon_of_fst (canon_translate h) e1)
    next e1 => exact canon_of_fst (canon_translate h) e1
  next e => exact canon_of_fst (canon_headWrite hs) e
  next e => exact canon_commandFault (canon_begin (canon_of_fst (canon_headWrite hs) e))

theorem canon_execSignal {c : WordCmd} (hs : s.Canon) : CanonNext (execSignal r c s) := by
  unfold execSignal
  split
  · exact hs
  · exact canon_commandStore hs

theorem canon_execTimestamp {c : WordCmd} (hs : s.Canon) : CanonNext (execTimestamp r c s) := by
  unfold execTimestamp
  split
  · exact hs
  · exact canon_commandStore hs

theorem canon_execWaitword {c : WordCmd} (hs : s.Canon) : CanonNext (execWaitword r c s) := by
  unfold execWaitword
  split
  · exact hs
  · exact canon_begin hs

theorem canon_execWaitwordComplete (hs : s.Canon) : CanonNext (execWaitwordComplete r s) := by
  unfold execWaitwordComplete
  split
  · exact hs
  · split
    · exact hs
    · split
      next e => exact canon_of_fst (canon_headRead hs) e
      next e => exact canon_commandFault (canon_of_fst (canon_headRead hs) e)
      next e =>
        have h := canon_of_fst (canon_headRead hs) e
        split
        · exact canon_settleBad (canon_updQueue (canon_queueHears h))
        · exact h

theorem canon_execCopy {c : WordCmd} (hs : s.Canon) : CanonNext (execCopy r c s) := by
  unfold execCopy
  split
  · exact hs
  · split <;> exact canon_settleBad (canon_begin hs)

theorem canon_copyBytes {p : PendCmd} {c : WordCmd} (hs : s.Canon) : (copyBytes q p c n n1 s).1.Canon := by
  induction n generalizing q p c n1 s with
  | zero =>
    dsimp only [copyBytes]
    exact hs
  | succ n ih =>
    dsimp only [copyBytes]
    split
    · split
      · exact ih hs
      · split
        next e => exact ih (canon_updQueue (canon_of_fst (canon_copyByte hs) e))
        next e => exact canon_of_fst (canon_copyByte hs) e
    · split
      · exact ih hs
      · split
        next e => exact ih (canon_updQueue (canon_of_fst (canon_copyByte hs) e))
        next e => exact canon_of_fst (canon_copyByte hs) e

theorem canon_copyRun {first : Nat} (hs : s.Canon) : (copyRun r first n s).Canon := by
  unfold copyRun
  split
  · exact hs
  · split
    next e => exact canon_of_fst (canon_copyBytes hs) e
    next e => exact canon_of_fst (canon_copyBytes hs) e
    next e => exact canon_commandFault (canon_of_fst (canon_copyBytes hs) e)

theorem canon_execCopyCommandComplete (hs : s.Canon) : CanonNext (execCopyCommandComplete r s) := by
  unfold execCopyCommandComplete
  split
  · exact hs
  · split
    next e => exact canon_of_fst (canon_copyBytes hs) e
    next e => exact canon_commandFault (canon_of_fst (canon_copyBytes hs) e)
    next e => exact canon_updQueue (canon_of_fst (canon_copyBytes hs) e)

theorem canon_copiesAhead (hs : s.Canon) : s.copiesAhead.Canon := foldl_keeps hs (fun _ _ h => canon_copyRun h)

end

/-! ### The definitions of Machine/Debug.lean -/

section

variable {s : State} {r : DebugReq} {w : Who}

theorem canon_serveDebug {i : Instr} {refused : State → Bool} {act : State → State} (hact : ∀ (s : State), s.Canon →
  (act s).Canon) (hs : s.Canon) : CanonNext (serveDebug r i refused act s) := by
  unfold serveDebug
  split
  · exact hs
  · split
    · exact canon_dack hs
    · split
      · exact canon_dack hs
      · exact canon_dackAfter (hact _ hs)

theorem canon_haltNow (hs : s.Canon) : (s.haltNow w).Canon :=
  canon_updGrp (canon_precise (canon_updGrp (keeps_ite hs (canon_dropHeld hs))))

theorem canon_haltPath (hs : s.Canon) : (s.haltPath w).Canon := by
  dsimp only [State.haltPath]
  split
  · exact hs
  · split
    · exact canon_updGrp hs
    · split
      · exact canon_updGrp hs
      · split
        · exact canon_updGrp hs
        · exact canon_haltNow hs
      · exact canon_haltNow hs

theorem canon_execDreqHalt (hs : s.Canon) : CanonNext (execDreqHalt r s) :=
  canon_serveDebug (fun _ h => foldl_keeps h (fun _ _ h1 => canon_haltPath h1)) hs

theorem canon_resumePath {deliver step : Bool} (hs : s.Canon) : (s.resumePath w deliver step).Canon :=
  canon_updGrp (canon_reloaded hs)

theorem canon_execDreqResume (hs : s.Canon) : CanonNext (execDreqResume r s) :=
  canon_serveDebug (fun _ h => foldl_keeps h (fun _ _ h1 => canon_resumePath h1)) hs

theorem canon_execDreqStep (hs : s.Canon) : CanonNext (execDreqStep r s) :=
  canon_serveDebug (fun _ h => foldl_keeps h (fun _ _ h1 => canon_resumePath h1)) hs

theorem canon_execDreqFlush (hs : s.Canon) : CanonNext (execDreqFlush r s) :=
  canon_serveDebug (fun _ h => foldl_keeps h (fun _ _ h1 => canon_updGrp (canon_saveGroup (canon_reloaded h1)))) hs

theorem canon_exitPath (hs : s.Canon) : (s.exitPath w).Canon := canon_updGrp (canon_reloaded hs)

theorem canon_execDreqExit (hs : s.Canon) : CanonNext (execDreqExit r s) :=
  canon_serveDebug (fun _ h => foldl_keeps h (fun _ _ h1 => canon_exitPath h1)) hs

theorem canon_forcePath (hs : s.Canon) : (s.forcePath w).Canon :=
  canon_updGrp (canon_unrested (keeps_ite hs (canon_dropHeld hs)))

theorem canon_execDreqForce (hs : s.Canon) : CanonNext (execDreqForce r s) :=
  canon_serveDebug (fun _ h => foldl_keeps h (fun _ _ h1 => canon_forcePath h1)) hs

theorem canon_execDreqSwitch (hs : s.Canon) : CanonNext (execDreqSwitch r s) := by
  unfold execDreqSwitch
  split
  · exact hs
  · split
    · exact canon_dack hs
    · exact canon_updCtx (canon_switchOut hs)

theorem canon_serveRequest {die pasid : Nat} (hs : s.Canon) : (serveRequest s die pasid).Canon := by
  dsimp only [serveRequest]
  split
  · exact hs
  · split
    · exact (canon_readHeader hs).same
    · exact canon_dack (canon_readHeader hs)

end

/-! ### The definitions of Machine/Headstock.lean -/

section

variable {s : State} {die pasid vpn pages a offset : Nat} {v : BitVec 64}

theorem canon_dropKick (hs : s.Canon) : (dropKick s die).Canon := canon_updDie hs
theorem canon_pendKick (hs : s.Canon) : (pendKick s die a).Canon := canon_updDie hs

theorem canon_serveKick (hs : s.Canon) : (serveKick s die a).Canon := by
  dsimp only [serveKick]
  split
  · exact canon_dropKick hs
  · split
    next e =>
      have h := keeps_of_eq (canon_walkQueue hs) e
      exact canon_dropKick h
    next e =>
      have h := keeps_of_eq (canon_walkQueue hs) e
      exact h
    next e =>
      have h := keeps_of_eq (canon_walkQueue hs) e
      split
      · exact canon_pendKick (canon_serveRequest (canon_serveQueue h))
      · exact canon_serveRequest (canon_serveQueue h)

theorem canon_execKick {aperture : Nat} (hs : s.Canon) : CanonNext (execKick die aperture s) := by
  unfold execKick
  split
  · exact hs
  · split
    · exact canon_dropKick hs
    · split
      · exact canon_serveKick hs
      · exact canon_pendKick hs

theorem canon_execHeadstockWake (hs : s.Canon) : CanonNext (execHeadstockWake die s) := by
  dsimp only [execHeadstockWake]
  split
  · exact hs
  · exact foldl_keeps (canon_updDie hs) (fun _ _ h => canon_serveKick h)

theorem canon_execHeadstockGating {power : Bool} (hs : s.Canon) : CanonNext (execHeadstockGating die power s) := by
  unfold execHeadstockGating
  split
  · exact hs
  · exact canon_updDie hs

theorem canon_refuseWrite {value : Nat} (hs : s.Canon) : (refuseWrite s die offset value).Canon := canon_logModule hs
theorem canon_endTags {gone : List TlbEntry} (hs : s.Canon) : (s.endTags pasid vpn pages gone).Canon := hs.same
theorem canon_shootRange (hs : s.Canon) : (s.shootRange pasid vpn pages).Canon := (canon_endTags hs).same

theorem canon_writeSdctl (hs : s.Canon) : (writeSdctl s die v).Canon := by
  unfold writeSdctl
  split
  · exact canon_refuseWrite hs
  · exact canon_updDie hs

theorem canon_execShootdown {sdctl : BitVec 64} (hs : s.Canon) : CanonNext (execShootdown die sdctl s) := by
  unfold execShootdown
  split
  · exact hs
  · exact canon_writeSdctl hs

theorem canon_dropAnswers (hs : s.Canon) : (s.dropAnswers pasid vpn pages).Canon := canon_updCtx hs

theorem canon_finishShootdown (hs : s.Canon) : (finishShootdown s die).Canon :=
  canon_updDie (canon_dropAnswers (canon_shootRange hs))

theorem canon_execShootdownComplete (hs : s.Canon) : CanonNext (execShootdownComplete die s) := by
  dsimp only [execShootdownComplete]
  split
  · exact hs
  · exact canon_finishShootdown hs

theorem canon_execAtsInvalidate (hs : s.Canon) : CanonNext (execAtsInvalidate pasid vpn pages s) := by
  unfold execAtsInvalidate
  split
  · exact hs
  · exact canon_dropAnswers (canon_shootRange hs)

theorem canon_writeTdctl (hs : s.Canon) : (writeTdctl s die v).Canon := by
  dsimp only [writeTdctl]
  split
  · exact canon_refuseWrite hs
  · split
    · exact canon_updCtx (canon_updDie hs)
    · exact canon_updDie hs

theorem canon_execPasidTeardown {tdctl : BitVec 64} (hs : s.Canon) : CanonNext (execPasidTeardown die tdctl s) := by
  unfold execPasidTeardown
  split
  · exact hs
  · exact canon_writeTdctl hs

theorem canon_nextGen (hs : s.Canon) : (nextGen s die pasid).1.Canon := canon_wrMem hs
theorem canon_forget (hs : s.Canon) : (s.forget pasid).Canon := hs.same

theorem canon_execTeardownComplete (hs : s.Canon) : CanonNext (execTeardownComplete die s) := by
  dsimp only [execTeardownComplete]
  split
  · exact hs
  · exact canon_updDie (canon_forget (canon_wrWhole (foldl_keeps (canon_nextGen hs) (fun _ _ h => keeps_ite
      (canon_finishShootdown h) h))))

theorem canon_writeRegister {o : Nat} (hs : s.Canon) : AllSome State.Canon (writeRegister s die o v) := by
  dsimp only [writeRegister]
  split
  · split
    · exact allSome_none
    · exact allSome_some hs
  · split
    · exact allSome_none
    · exact allSome_some hs
  · exact allSome_some (canon_updDie hs)
  · split
    · exact allSome_none
    · exact allSome_some hs.same
  · split
    · exact allSome_none
    · exact allSome_some hs.same
  · split
    · exact allSome_none
    · exact allSome_some (canon_updDie hs)
  · split
    · exact allSome_none
    · exact allSome_some (canon_updDie hs)
  · exact allSome_some (canon_writeSdctl hs)
  · exact allSome_some (canon_writeTdctl hs)
  · exact allSome_some (canon_updDie hs)
  · exact allSome_some (canon_updDie hs)
  · exact allSome_some hs.same
  · split
    · exact allSome_none
    · exact allSome_some (canon_updDie hs)
  · split
    · exact allSome_some hs
    · exact allSome_none

theorem canon_writeAperture (hs : s.Canon) : (writeAperture s a offset v).Canon := by
  unfold writeAperture
  split
  · exact canon_refuseWrite hs
  · exact canon_updDie hs

theorem canon_execHostRegisterWrite {value : BitVec 64} (hs : s.Canon) : CanonNext (execHostRegisterWrite offset
  value s) := by
  dsimp only [execHostRegisterWrite]
  split
  · exact canon_writeAperture hs
  · split
    · exact canon_refuseWrite hs
    · split
      next e => exact (canon_writeRegister hs) _ e
      · exact canon_refuseWrite hs

end

/-! ### The definitions of Machine/Fabric.lean -/

section

variable {s : State} {addr pasid die page n v a : Nat} {va : BitVec 57} {op : RemoteOp} {w : Who} {bs : List Byte} {x
  : OuterOp}

theorem canon_execPageWalk {core tlb : Nat} {write : Bool} (hs : s.Canon) : CanonNext (execPageWalk die core tlb
  pasid va write s) := by
  dsimp only [execPageWalk]
  split
  · exact canon_translate hs
  · exact hs

theorem canon_execAtsTranslationResponse {reply : Option AtsReply} (hs : s.Canon) : CanonNext
  (execAtsTranslationResponse pasid va reply s) := by
  dsimp only [execAtsTranslationResponse]
  split
  · exact hs
  · exact canon_updCtx hs

theorem canon_shootPhys (hs : s.Canon) : (s.shootPhys page).Canon := hs.same

theorem canon_execPageMigration (hs : s.Canon) : CanonNext (execPageMigration page die s) := by
  dsimp only [execPageMigration]
  split
  · exact canon_shootPhys hs.same
  · split
    · exact hs
    · exact hs.same

theorem canon_fetchAt {pl : Place} (hs : s.Canon) : (fetchAt s w pl n).Canon := by
  dsimp only [fetchAt]
  split
  next e => exact canon_precise (canon_of_fst (canon_translate hs) e)
  next e => exact canon_heldFor (canon_of_fst (canon_translate hs) e)
  next e =>
    have h := canon_of_fst (canon_translate hs) e
    split
    next e1 => exact canon_heldFor (canon_of_fst (canon_routed h) e1)
    next e1 => exact canon_precise (canon_of_fst (canon_routed h) e1)
    next e1 =>
      have h1 := canon_of_fst (canon_routed h) e1
      split
      · split
        · exact canon_precise h1
        · exact h1.same
      · split
        · exact canon_precise h1
        · exact h1.same
      · split
        · exact canon_precise h1
        · exact h1.same
    next e1 => exact canon_of_fst (canon_routed h) e1

theorem canon_execInstructionFetch (hs : s.Canon) : CanonNext (execInstructionFetch w s) := by
  dsimp only [execInstructionFetch]
  split
  · exact hs
  · split
    · exact hs
    · split
      · exact hs
      · exact canon_fetchAt hs

theorem canon_answered (hs : s.Canon) : (s.answered v).Canon := hs.same

theorem canon_mapStore {id o : Nat} (hs : s.Canon) : (s.mapStore id o a bs).Canon := by
  unfold State.mapStore
  split
  · exact canon_ringStore hs
  · split
    · exact canon_shavingsStore hs
    · exact canon_wrWhole hs

theorem canon_outerStore {xs : List (Nat × Nat × Nat)} {xs1 : List Byte} (hs : s.Canon) : (State.outerStore xs n xs1
  s).Canon := by
  induction xs generalizing n xs1 s with
  | nil =>
    unfold State.outerStore
    split
    · exact hs
    · exact canon_wrWhole hs
  | cons x r ih =>
    dsimp only [State.outerStore]
    split
    · exact ih hs
    · exact ih (canon_mapStore (ih hs))

theorem canon_stored (hs : s.Canon) : (s.stored a bs).Canon :=
  foldl_keeps (canon_outerStore hs) (fun _ _ h => keeps_ite (canon_ringMade h) h)

theorem canon_remoteRun (hs : s.Canon) : (remoteRun op addr v s).Canon := by
  dsimp only [remoteRun]
  split
  · exact canon_answered hs
  · exact canon_stored hs
  · exact canon_answered (canon_stored hs)
  · exact canon_answered (keeps_ite (canon_stored hs) hs)

theorem canon_outerAccess {key : Nat} {a : Agent} {scope ord : BitVec 3} (hs : s.Canon) : (s.outerAccess key a scope
  ord addr op).Canon :=
  (keeps_ite (keeps_ite (canon_remoteRun hs) (canon_releasing (canon_remoteRun hs))).same (keeps_ite (canon_remoteRun
    hs) (canon_releasing (canon_remoteRun hs)))).same

theorem canon_outerPages {run : State → State} (hs : s.Canon) (hrun : ∀ (s : State), s.Canon → (run s).Canon) :
  (s.outerPages addr op run).Canon := by
  dsimp only [State.outerPages]
  split
  · exact hs
  · exact hrun _ (canon_touchPages hs)

theorem canon_execRemoteAccess {sender : Nat} (hs : s.Canon) : CanonNext (execRemoteAccess sender addr x s) := by
  unfold execRemoteAccess
  split
  · exact hs
  · exact canon_outerPages hs (fun _ h => canon_outerAccess h)

theorem canon_execHostMemoryAccess {agent : Nat} (hs : s.Canon) : CanonNext (execHostMemoryAccess agent addr x s) :=
  by
  unfold execHostMemoryAccess
  split
  · exact hs
  · exact canon_outerPages hs (fun _ h => canon_outerAccess h)

theorem canon_execPageRequestResponse {_granted : Bool} (hs : s.Canon) : CanonNext (execPageRequestResponse die pasid
  va _granted s) :=
  canon_updDie hs

theorem canon_execGrainRingControlWrite {offset : Nat} {value : BitVec 64} (hs : s.Canon) : CanonNext
  (execGrainRingControlWrite pasid offset value s) := by
  dsimp only [execGrainRingControlWrite]
  split
  · exact hs
  · exact canon_ringStore hs

end

/-! ### The definitions of Machine/Sampler.lean -/

section

variable {s : State}

theorem canon_writeSample {die pasid : Nat} {bs : List Byte} (hs : s.Canon) : (writeSample s die pasid bs).Canon := by
  dsimp only [writeSample]
  split
  · exact hs
  · split
    · exact canon_updCtx (canon_objectFault hs)
    · split
      · exact canon_objWrite hs
      · split
        · exact canon_updCtx (canon_objectFault hs)
        · exact canon_objWrite (canon_objWrite hs)

theorem canon_execShavingsSample {e : EngRef} (hs : s.Canon) : CanonNext (execShavingsSample e s) := by
  dsimp only [execShavingsSample]
  split
  · exact hs
  · split
    · exact canon_updDie hs
    · split
      · exact canon_updDie (canon_updDie hs)
      · split
        · exact canon_updDie (canon_updDie hs)
        · exact canon_writeSample (canon_updDie (canon_updDie (canon_updDie hs)))

end

/-! ### The definitions of Machine/Boot.lean -/

section

variable {s : State} {die b : Nat}

theorem canon_execPowerUp : CanonNext (execPowerUp s) := canon_reset.same

theorem canon_execRecoveryImage {component : Nat} {image : List (BitVec 8)} (hs : s.Canon) : CanonNext
  (execRecoveryImage component image s) := by
  dsimp only [execRecoveryImage]
  split
  · exact hs
  · split
    · exact hs
    · split <;> exact hs.same

theorem canon_execLinkTraining {bit : Nat} {ok : Bool} (hs : s.Canon) : CanonNext (execLinkTraining bit ok s) := by
  unfold execLinkTraining
  split
  · exact hs
  · exact hs.same

theorem canon_execFuseProgramming {f : FuseOp} (hs : s.Canon) : CanonNext (execFuseProgramming f s) := hs.same

theorem canon_execMeasurementExtend {mr : Nat} {digest : BitVec 256} (hs : s.Canon) : CanonNext
  (execMeasurementExtend mr digest s) := by
  dsimp only [execMeasurementExtend]
  split
  · exact hs
  · exact hs.same

theorem canon_execQuote {nonce : BitVec 256} (hs : s.Canon) : CanonNext (execQuote nonce s) := by
  dsimp only [execQuote]
  split
  · exact hs
  · exact hs.same

theorem canon_execFrequencyStep {freq : Nat} (hs : s.Canon) : CanonNext (execFrequencyStep die freq s) := by
  unfold execFrequencyStep
  split
  · exact hs
  · exact canon_updDie hs

theorem canon_execDieReset (hs : s.Canon) : CanonNext (execDieReset die s) := by
  dsimp only [execDieReset]
  split
  · exact hs
  · exact (canon_updDie hs).same

theorem canon_execCorrectedError {dram : Bool} (hs : s.Canon) : CanonNext (execCorrectedError die dram s) :=
  canon_updDie hs

theorem canon_poisonScratch {core : Nat} (hs : s.Canon) : (poisonScratch s core b).Canon := hs.same

theorem canon_execUncorrectableError {unit a : Nat} (hs : s.Canon) : CanonNext (execUncorrectableError unit a b s) :=
  by
  dsimp only [execUncorrectableError]
  split
  · exact canon_logModule hs.same
  · exact canon_logModule (canon_poisonScratch hs)
  · exact canon_logModule (canon_updGrp hs)
  · exact canon_logModule (canon_updGrp hs)
  · exact canon_logModule (canon_updGrp hs)
  · exact hs

end

/-! ### The definitions of Machine/Cache.lean -/

section

variable {s : State} {gid line : Nat}

theorem canon_replaceLine (hs : s.Canon) : (s.replaceLine gid line).Canon :=
  canon_updGrp (keeps_ite (canon_writeParts hs) hs)

theorem canon_trimCache {pl : Place} {n : Nat} (hs : s.Canon) : (trimCache pl n s).Canon := by
  induction n generalizing pl s with
  | zero =>
    unfold trimCache
    exact hs
  | succ n ih =>
    unfold trimCache
    split
    · exact hs
    · split
      · exact ih (canon_replaceLine hs)
      · exact hs

theorem canon_trimCaches (hs : s.Canon) : s.trimCaches.Canon := by
  unfold State.trimCaches
  refine foldl_keeps hs ?_
  intro x b h
  split
  · exact canon_trimCache h
  · exact h

theorem canon_execRegisterLineFill (hs : s.Canon) : CanonNext (execRegisterLineFill gid line s) := by
  dsimp only [execRegisterLineFill]
  split
  · exact canon_updGrp hs
  · exact hs

end

/-! ### The definitions of Machine/Logic.lean -/

section

variable {s : State} {w : XN} {e : Env}

theorem canon_logic2 {f : Word → Word → Word} (hs : s.Canon) : (logic2 w f e s).Canon := canon_writeRes hs
theorem canon_logic1 {f : Word → Word} (hs : s.Canon) : (logic1 w f e s).Canon := canon_writeRes hs

theorem canon_bits3 {w : XF} {f : Word → Word → Word → Word} (hs : s.Canon) : (bits3 w f e s).Canon :=
  canon_writeRes hs

theorem canon_execAnd (hs : s.Canon) : CanonNext (execAnd w s) := canon_issue (fun _ _ h => canon_logic2 h) hs
theorem canon_execOr (hs : s.Canon) : CanonNext (execOr w s) := canon_issue (fun _ _ h => canon_logic2 h) hs
theorem canon_execXor (hs : s.Canon) : CanonNext (execXor w s) := canon_issue (fun _ _ h => canon_logic2 h) hs
theorem canon_execNot (hs : s.Canon) : CanonNext (execNot w s) := canon_issue (fun _ _ h => canon_logic1 h) hs
theorem canon_execAndn (hs : s.Canon) : CanonNext (execAndn w s) := canon_issue (fun _ _ h => canon_logic2 h) hs

theorem canon_execLop3 {w : XF} (hs : s.Canon) : CanonNext (execLop3 w s) :=
  canon_issueC (fun _ _ h => canon_bits3 h) hs

theorem canon_execShl (hs : s.Canon) : CanonNext (execShl w s) := canon_issue (fun _ _ h => canon_logic2 h) hs
theorem canon_execShr (hs : s.Canon) : CanonNext (execShr w s) := canon_issue (fun _ _ h => canon_logic2 h) hs
theorem canon_execSar (hs : s.Canon) : CanonNext (execSar w s) := canon_issue (fun _ _ h => canon_logic2 h) hs
theorem canon_execRotl (hs : s.Canon) : CanonNext (execRotl w s) := canon_issue (fun _ _ h => canon_logic2 h) hs

theorem canon_execFsh {w : XF} (hs : s.Canon) : CanonNext (execFsh w s) :=
  canon_issueC (fun _ _ h => canon_bits3 h) hs

theorem canon_execPopc (hs : s.Canon) : CanonNext (execPopc w s) := canon_issue (fun _ _ h => canon_logic1 h) hs
theorem canon_execClz (hs : s.Canon) : CanonNext (execClz w s) := canon_issue (fun _ _ h => canon_logic1 h) hs
theorem canon_execCtz (hs : s.Canon) : CanonNext (execCtz w s) := canon_issue (fun _ _ h => canon_logic1 h) hs
theorem canon_execBrev (hs : s.Canon) : CanonNext (execBrev w s) := canon_issue (fun _ _ h => canon_logic1 h) hs

theorem canon_execBfe {w : XF} (hs : s.Canon) : CanonNext (execBfe w s) :=
  canon_issueC (fun _ _ h => canon_writeRes h) hs

theorem canon_execBfi {w : XF} (hs : s.Canon) : CanonNext (execBfi w s) :=
  canon_issueC (fun _ _ h => canon_bits3 h) hs

theorem canon_execBperm {w : XF} (hs : s.Canon) : CanonNext (execBperm w s) :=
  canon_issueC (fun _ _ h => canon_bits3 h) hs

end

/-! ### The definitions of Machine/Dispatch.lean -/

theorem canon_exec {i : Instr} {s : State} (hs : s.Canon) : CanonNext (exec i s) := by
  cases i with
  | nop _ => exact canon_execNop hs
  | bra _ => exact canon_execBra hs
  | brx _ => exact canon_execBrx hs
  | call _ => exact canon_execCall hs
  | callx _ => exact canon_execCallx hs
  | ret _ => exact canon_execRet hs
  | loop _ => exact canon_execLoop hs
  | loopx _ => exact canon_execLoopx hs
  | join _ => exact canon_execJoin hs
  | exit _ => exact canon_execExit hs
  | yield _ => exact canon_execYield hs
  | sleep _ => exact canon_execSleep hs
  | brk _ => exact canon_execBrk hs
  | sleepExpiry _ => exact canon_execSleepExpiry hs
  | add _ => exact canon_execAdd hs
  | addc _ => exact canon_execAddc hs
  | sub _ => exact canon_execSub hs
  | subb _ => exact canon_execSubb hs
  | neg _ => exact canon_execNeg hs
  | abs _ => exact canon_execAbs hs
  | mul _ => exact canon_execMul hs
  | mulhi _ => exact canon_execMulhi hs
  | mulw _ => exact canon_execMulw hs
  | mad _ => exact canon_execMad hs
  | madhi _ => exact canon_execMadhi hs
  | div _ => exact canon_execDiv hs
  | rem _ => exact canon_execRem hs
  | min _ => exact canon_execMin hs
  | max _ => exact canon_execMax hs
  | sad _ => exact canon_execSad hs
  | dp4 _ => exact canon_execDp4 hs
  | dp2 _ => exact canon_execDp2 hs
  | and _ => exact canon_execAnd hs
  | or _ => exact canon_execOr hs
  | xor _ => exact canon_execXor hs
  | not _ => exact canon_execNot hs
  | andn _ => exact canon_execAndn hs
  | lop3 _ => exact canon_execLop3 hs
  | shl _ => exact canon_execShl hs
  | shr _ => exact canon_execShr hs
  | sar _ => exact canon_execSar hs
  | rotl _ => exact canon_execRotl hs
  | fsh _ => exact canon_execFsh hs
  | popc _ => exact canon_execPopc hs
  | clz _ => exact canon_execClz hs
  | ctz _ => exact canon_execCtz hs
  | brev _ => exact canon_execBrev hs
  | bfe _ => exact canon_execBfe hs
  | bfi _ => exact canon_execBfi hs
  | bperm _ => exact canon_execBperm hs
  | cmp _ => exact canon_execCmp hs
  | sel _ => exact canon_execSel hs
  | mov _ => exact canon_execMov hs
  | movi _ => exact canon_execMovi hs
  | movs _ => exact canon_execMovs hs
  | movv _ => exact canon_execMovv hs
  | mvsp _ => exact canon_execMvsp hs
  | stsp _ => exact canon_execStsp hs
  | pand _ => exact canon_execPand hs
  | por _ => exact canon_execPor hs
  | pxor _ => exact canon_execPxor hs
  | pnot _ => exact canon_execPnot hs
  | pmov _ => exact canon_execPmov hs
  | shfl _ => exact canon_execShfl hs
  | vote _ => exact canon_execVote hs
  | redux _ => exact canon_execRedux hs
  | scan _ => exact canon_execScan hs
  | bcast _ => exact canon_execBcast hs
  | matchLanes _ => exact canon_execMatchLanes hs
  | fadd _ => exact canon_execFadd hs
  | fsub _ => exact canon_execFsub hs
  | fmul _ => exact canon_execFmul hs
  | fma _ => exact canon_execFma hs
  | fmin _ => exact canon_execFmin hs
  | fmax _ => exact canon_execFmax hs
  | fminn _ => exact canon_execFminn hs
  | fmaxn _ => exact canon_execFmaxn hs
  | fcmp _ => exact canon_execFcmp hs
  | fclass _ => exact canon_execFclass hs
  | fscale _ => exact canon_execFscale hs
  | frnd _ => exact canon_execFrnd hs
  | rcp _ => exact canon_execRcp hs
  | rsq _ => exact canon_execRsq hs
  | sqrt _ => exact canon_execSqrt hs
  | fdiv _ => exact canon_execFdiv hs
  | ex2 _ => exact canon_execEx2 hs
  | lg2 _ => exact canon_execLg2 hs
  | sinpi _ => exact canon_execSinpi hs
  | cospi _ => exact canon_execCospi hs
  | sincospi _ => exact canon_execSincospi hs
  | tanh _ => exact canon_execTanh hs
  | cvt _ => exact canon_execCvt hs
  | cvtpk _ => exact canon_execCvtpk hs
  | cvtcb _ => exact canon_execCvtcb hs
  | rng _ => exact canon_execRng hs
  | trng _ => exact canon_execTrng hs
  | sampleCat _ => exact canon_execSampleCat hs
  | ldGbl _ => exact canon_execLdGbl hs
  | ldScr _ => exact canon_execLdScr hs
  | ldCls _ => exact canon_execLdCls hs
  | ldObj _ => exact canon_execLdObj hs
  | stGbl _ => exact canon_execStGbl hs
  | stScr _ => exact canon_execStScr hs
  | stCls _ => exact canon_execStCls hs
  | stObj _ => exact canon_execStObj hs
  | ldt _ => exact canon_execLdt hs
  | stt _ => exact canon_execStt hs
  | prf _ => exact canon_execPrf hs
  | probe _ => exact canon_execProbe hs
  | pgreq _ => exact canon_execPgreq hs
  | peerst _ => exact canon_execPeerst hs
  | atomAdd _ => exact canon_execAtomAdd hs
  | atomSub _ => exact canon_execAtomSub hs
  | atomMin _ => exact canon_execAtomMin hs
  | atomMax _ => exact canon_execAtomMax hs
  | atomAnd _ => exact canon_execAtomAnd hs
  | atomOr _ => exact canon_execAtomOr hs
  | atomXor _ => exact canon_execAtomXor hs
  | atomExch _ => exact canon_execAtomExch hs
  | atomIncw _ => exact canon_execAtomIncw hs
  | atomDecw _ => exact canon_execAtomDecw hs
  | cas _ => exact canon_execCas hs
  | redAdd _ => exact canon_execRedAdd hs
  | redSub _ => exact canon_execRedSub hs
  | redMin _ => exact canon_execRedMin hs
  | redMax _ => exact canon_execRedMax hs
  | redAnd _ => exact canon_execRedAnd hs
  | redOr _ => exact canon_execRedOr hs
  | redXor _ => exact canon_execRedXor hs
  | redIncw _ => exact canon_execRedIncw hs
  | redDecw _ => exact canon_execRedDecw hs
  | ldacq _ => exact canon_execLdacq hs
  | strel _ => exact canon_execStrel hs
  | fence _ => exact canon_execFence hs
  | bar _ => exact canon_execBar hs
  | bararv _ => exact canon_execBararv hs
  | barwt _ => exact canon_execBarwt hs
  | barinit _ => exact canon_execBarinit hs
  | waitc _ => exact canon_execWaitc hs
  | waitw _ => exact canon_execWaitw hs
  | waitf _ => exact canon_execWaitf hs
  | fill _ => exact canon_execFill hs
  | syncinit _ => exact canon_execSyncinit hs
  | semop _ => exact canon_execSemop hs
  | semwait _ => exact canon_execSemwait hs
  | xkick _ => exact canon_execXkick hs
  | cbld _ => exact canon_execCbld hs
  | drainld _ => exact canon_execDrainld hs
  | mma _ => exact canon_execMma hs
  | mmloop _ => exact canon_execMmloop hs
  | tzero _ => exact canon_execTzero hs
  | tmovGet _ => exact canon_execTmovGet hs
  | tmovPut _ => exact canon_execTmovPut hs
  | tmovDrain _ => exact canon_execTmovDrain hs
  | tsacc _ => exact canon_execTsacc hs
  | rstlbl _ => exact canon_execRstlbl hs
  | spawn _ => exact canon_execSpawn hs
  | spawnx _ => exact canon_execSpawnx hs
  | tasknew _ => exact canon_execTasknew hs
  | taskget _ => exact canon_execTaskget hs
  | taskdone _ => exact canon_execTaskdone hs
  | tasksync _ => exact canon_execTasksync hs
  | stage _ => exact canon_execStage hs
  | promote _ => exact canon_execPromote hs
  | trap _ => exact canon_execTrap hs
  | rte _ => exact canon_execRte hs
  | csrrd _ => exact canon_execCsrrd hs
  | csrwr _ => exact canon_execCsrwr hs
  | logmark _ => exact canon_execLogmark hs
  | trcon _ => exact canon_execTrcon hs
  | trcoff _ => exact canon_execTrcoff hs
  | halt _ => exact canon_execHalt hs
  | dend => exact canon_execDend hs
  | dfadd _ => exact canon_execDfadd hs
  | dfsub _ => exact canon_execDfsub hs
  | dfmul _ => exact canon_execDfmul hs
  | dfma _ => exact canon_execDfma hs
  | dfmax _ => exact canon_execDfmax hs
  | dfmin _ => exact canon_execDfmin hs
  | drelu _ => exact canon_execDrelu hs
  | dsel _ => exact canon_execDsel hs
  | diadd _ => exact canon_execDiadd hs
  | dimad _ => exact canon_execDimad hs
  | dshl _ => exact canon_execDshl hs
  | dand _ => exact canon_execDand hs
  | dmov _ => exact canon_execDmov hs
  | dmovi _ => exact canon_execDmovi hs
  | dmovhi _ => exact canon_execDmovhi hs
  | dfcmp _ => exact canon_execDfcmp hs
  | dld _ => exact canon_execDld hs
  | dst _ => exact canon_execDst hs
  | dred _ => exact canon_execDred hs
  | drst => exact canon_execDrst hs
  | impreciseFaultEntry _ => exact canon_execImpreciseFaultEntry hs
  | loadComplete _ _ _ => exact canon_execLoadComplete hs
  | storeComplete _ _ _ => exact canon_execStoreComplete hs
  | atomicComplete _ _ _ => exact canon_execAtomicComplete hs
  | scratchpadAccessComplete _ _ _ => exact canon_execScratchpadAccessComplete hs
  | peerstArrival _ _ _ => exact canon_execPeerstArrival hs
  | registerLineFill _ _ => exact canon_execRegisterLineFill hs
  | matrixOpComplete _ => exact canon_execMatrixOpComplete hs
  | drainRow _ => exact canon_execDrainRow hs
  | drainComplete _ => exact canon_execDrainComplete hs
  | tceCopy _ _ _ => exact canon_execTceCopy hs
  | tceCopyComplete _ _ => exact canon_execTceCopyComplete hs
  | restTableWake _ => exact canon_execRestTableWake hs
  | waitTimeout _ => exact canon_execWaitTimeout hs
  | promotion _ => exact canon_execPromotion hs
  | blockDispatch _ _ _ => exact canon_execBlockDispatch hs
  | groupRecordFree _ => exact canon_execGroupRecordFree hs
  | childHeaderCheck _ _ => exact canon_execChildHeaderCheck hs
  | spawnxCountRead _ _ => exact canon_execSpawnxCountRead hs
  | taskAccept _ => exact canon_execTaskAccept hs
  | tasksyncCopy _ _ => exact canon_execTasksyncCopy hs
  | replayHoldRelease _ => exact canon_execReplayHoldRelease hs
  | replayHoldTimeout _ => exact canon_execReplayHoldTimeout hs
  | shavingsSample _ => exact canon_execShavingsSample hs
  | pageWalk _ _ _ _ _ _ => exact canon_execPageWalk hs
  | atsTranslationResponse _ _ _ => exact canon_execAtsTranslationResponse hs
  | pageMigration _ _ => exact canon_execPageMigration hs
  | remoteAccess _ _ _ => exact canon_execRemoteAccess hs
  | queueNop _ _ => exact canon_execQueueNop hs
  | launch _ _ => exact canon_execLaunch hs
  | signal _ _ => exact canon_execSignal hs
  | waitword _ _ => exact canon_execWaitword hs
  | waitwordComplete _ => exact canon_execWaitwordComplete hs
  | copy _ _ => exact canon_execCopy hs
  | copyCommandComplete _ => exact canon_execCopyCommandComplete hs
  | timestamp _ _ => exact canon_execTimestamp hs
  | kick _ _ => exact canon_execKick hs
  | headstockWake _ => exact canon_execHeadstockWake hs
  | shootdown _ _ => exact canon_execShootdown hs
  | shootdownComplete _ => exact canon_execShootdownComplete hs
  | atsInvalidate _ _ _ => exact canon_execAtsInvalidate hs
  | pasidTeardown _ _ => exact canon_execPasidTeardown hs
  | teardownComplete _ => exact canon_execTeardownComplete hs
  | hostRegisterWrite _ _ => exact canon_execHostRegisterWrite hs
  | dreqHalt _ => exact canon_execDreqHalt hs
  | dreqResume _ => exact canon_execDreqResume hs
  | dreqStep _ => exact canon_execDreqStep hs
  | dreqFlush _ => exact canon_execDreqFlush hs
  | dreqExit _ => exact canon_execDreqExit hs
  | dreqForce _ => exact canon_execDreqForce hs
  | dreqSwitch _ => exact canon_execDreqSwitch hs
  | sliceStopRequest _ _ => exact canon_execSliceStopRequest hs
  | groupPreempt _ => exact canon_execGroupPreempt hs
  | scratchpadSave _ _ _ _ _ => exact canon_execScratchpadSave hs
  | contextSwitchComplete _ _ => exact canon_execContextSwitchComplete hs
  | contextSwitchIn _ _ => exact canon_execContextSwitchIn hs
  | groupResume _ _ => exact canon_execGroupResume hs
  | powerUp => exact canon_execPowerUp
  | dieReset _ => exact canon_execDieReset hs
  | recoveryImage _ _ => exact canon_execRecoveryImage hs
  | measurementExtend _ _ => exact canon_execMeasurementExtend hs
  | quote _ => exact canon_execQuote hs
  | frequencyStep _ _ => exact canon_execFrequencyStep hs
  | correctedError _ _ => exact canon_execCorrectedError hs
  | uncorrectableError _ _ _ => exact canon_execUncorrectableError hs
  | pageRequestResponse _ _ _ granted => exact canon_execPageRequestResponse (_granted := granted) hs
  | grainRingControlWrite _ _ _ => exact canon_execGrainRingControlWrite hs
  | instructionFetch _ => exact canon_execInstructionFetch hs
  | hostMemoryAccess _ _ _ => exact canon_execHostMemoryAccess hs
  | linkTraining _ _ => exact canon_execLinkTraining hs
  | fuseProgramming _ => exact canon_execFuseProgramming hs
  | headstockGating _ _ => exact canon_execHeadstockGating hs

/-! ### The definitions of Machine/Trace.lean -/

section

variable {s before : State} {g : Group} {c : Choice} {i : Option Instr}

theorem canon_trAppend {die pasid : Nat} {bs : List Byte} (hs : s.Canon) : (trAppend s die pasid bs).1.Canon := by
  dsimp only [trAppend]
  split
  · exact hs
  · split
    · exact canon_updCtx (canon_imageWrite hs)
    · exact canon_headTells (canon_imageWrite (canon_imageWrite hs))

theorem canon_trWrite {detail : Bool} {r : TrRecord} (hs : s.Canon) : (trWrite g detail s r).Canon := by
  dsimp only [trWrite]
  refine canon_trAppend ?_
  split
  · exact hs
  · split
    next e => exact canon_updCtx (canon_of_fst (canon_trAppend hs) e)
    · exact hs

theorem canon_traceGroup (hs : s.Canon) : (traceGroup before c i s g).Canon := by
  dsimp only [traceGroup]
  split
  · exact hs
  · exact foldl_keeps hs (fun _ _ h => canon_trWrite h)

theorem canon_trace (hs : s.Canon) : (trace before c i s).Canon := by
  unfold trace
  split
  · exact foldl_keeps hs (fun _ _ h => canon_traceGroup h)
  · exact hs

end

/-! ### The definitions of Machine/Agenda.lean -/

section

variable {before s : State} {c : Choice} {i : Option Instr}

theorem canon_writeStopped (hs : s.Canon) : (writeStopped before s).Canon :=
  foldl_keeps hs (fun _ _ h => keeps_ite h (canon_imageWrite h))

theorem canon_writeSlot {g : Group} (hs : s.Canon) : (writeSlot before s g).Canon := by
  dsimp only [writeSlot]
  split
  · exact hs
  · exact canon_writeParts hs

theorem canon_writeImages (hs : s.Canon) : (writeImages before s).Canon := by
  unfold writeImages
  split
  · exact hs
  · exact foldl_keeps (canon_writeStopped hs) (fun _ _ h => canon_writeSlot h)

theorem canon_noteIssue (hs : s.Canon) : (noteIssue before c s).Canon := by
  dsimp only [noteIssue]
  split
  · split
    · split
      · exact hs
      · exact canon_updDie hs
    · exact hs
  · exact hs

theorem canon_aftermath (hs : s.Canon) : (aftermath before c i s).Canon :=
  canon_noteIssue (canon_trace (canon_writeImages (canon_writeCounts (canon_keepRecords (canon_headFlush
    (canon_trimCaches (canon_freeDue (canon_orphans (canon_copiesAhead (canon_drainsAhead (canon_matrixAhead
    (canon_settleAllBars hs))))))))))))

theorem canon_shown {i : Instr} (hs : s.Canon) : (s.shown i).Canon := by
  dsimp only [State.shown]
  split
  · exact hs.same
  · exact hs

theorem canon_after {r : Host.Outcome State Fault Refusal} (hr : CanonNext r) : CanonNext (after before c i r) := by
  unfold after
  split
  · exact canon_aftermath hr
  · exact trivial
  · exact trivial

end

/-! ### The definitions of Machine/Step.lean -/

section

variable {s : State}

theorem canon_runChoice {c : Choice} (hs : s.Canon) : CanonNext (runChoice c s) := by
  unfold runChoice
  split
  · split
    next e =>
      have h := keeps_of_eq (canon_front hs) e
      exact canon_after h
    next e =>
      have h := keeps_of_eq (canon_front hs) e
      exact canon_after (canon_exec h)
  · exact canon_after (canon_exec (canon_shown hs))
  · split
    next e => exact canon_after (canon_exec ((canon_drainFront hs) _ e))
    · exact canon_after hs

theorem canon_step (hs : s.Canon) : CanonNext (step s) := by
  dsimp only [step]
  split
  · exact canon_runChoice (canon_arriveDue (canon_passTime hs)).same
  · exact canon_arriveDue (canon_passTime hs)

end

end Sys2Proof.Machine

namespace Sys2Proof.Proofs

open Sys2Proof Sys2Proof.Machine

/-- Settles O7: whatever a step does, memory changes by writes of bytes and by a reset alone, and each keeps the
canonical form. -/
theorem everyStepKeepsMemoryCanonical : Obligations.EveryStepKeepsMemoryCanonical := by
  unfold Obligations.EveryStepKeepsMemoryCanonical
  intro s t hs ht
  have h : CanonNext (step s) := canon_step hs
  rw [ht] at h
  exact h

end Sys2Proof.Proofs
end


section
/-! Proofs of the family of `11_memory_access.md`: `prf`, `probe`, `pgreq` and `peerst` (O40). -/

namespace Sys2Proof.Machine

open Stated

/-! ### The outcomes of a memory instruction -/

section

variable {i : Instr} {h : Hdr} {c : Operand} {body : Env → State → Res} {s : State}
  (hx : exec i s = issueC i h c body s) (hc : s.clear i h = true)
include hx hc

theorem issues_of {f : State → State} (hb : body (reads s i h) (s.touch i) = .adv (f (s.touch i))) : Issues i h c s f :=
  hx.trans (issueC_adv i h c body s _ hc hb)

theorem becomes_of_hold {t : State} (hb : body (reads s i h) (s.touch i) = .hold t) : Becomes i s t :=
  hx.trans (issueC_hold i h c body s t hc hb)

end

/-- Nothing holds a memory instruction whose counter has room and whose path awaits no `ldacq` (R50, R246). -/
theorem memHold_of_free {s : State} {i : Instr} {h : Hdr} {c : Ctr} (hfree : Free (reads s i h) c) :
    memHold (reads s i h) c (s.touch i) = none := by
  obtain ⟨hctr, hacq⟩ := hfree
  have hroom : ¬63 ≤ ((s.touch i).grp (s.touch i).cur.gid).ctr c := Nat.not_le.mpr hctr
  have hquiet : ¬(decide ((reads s i h).act ≠ 0) &&
      ((s.touch i).grp (s.touch i).cur.gid).acquiring (reads s i h).pix) = true := by
    rw [Bool.and_eq_true, decide_eq_true_eq]
    rintro ⟨hact, hwait⟩
    exact absurd hwait (Bool.eq_false_iff.mp (hacq.resolve_left hact))
  unfold memHold
  dsimp only
  rw [if_neg hroom, if_neg hquiet]

/-! ### The checks of addresses (R200) -/

/-- The lanes of an instruction that fail a check, in their order. -/
theorem lanesOf_failing (m : Mask) (p : Nat → Bool) : lanesOf (failing (lanesOf m) p) = (lanesOf m).filter p := by
  unfold lanesOf
  rw [List.filter_filter]
  refine List.filter_congr fun l hl => ?_
  have hlt : l < 32 := (mem_lanes l).mp hl
  have hmem : (lanes.filter (fun l => m.getLsbD l)).contains l = m.getLsbD l := by
    rw [Bool.eq_iff_iff, List.contains_iff_mem, List.mem_filter]
    exact and_iff_right hl
  rw [failing, getLsbD_maskOf, hmem, decide_eq_true hlt, Bool.true_and, Bool.and_comm]

theorem maskOf_mem_lanesOf (m : Mask) : maskOf (fun l => (lanesOf m).any (fun k => k == l)) = m := by
  refine BitVec.eq_of_getLsbD_eq fun l hl => ?_
  have hany : (lanesOf m).any (fun k => k == l) = m.getLsbD l := by
    rw [Bool.eq_iff_iff, List.any_eq_true]
    constructor
    · rintro ⟨k, hk, hkl⟩
      exact beq_iff_eq.mp hkl ▸ ((mem_lanesOf m k).mp hk).2
    · exact fun hm => ⟨l, mem_lanesOf_of_getLsbD hm, BEq.rfl⟩
  rw [getLsbD_maskOf, hany, decide_eq_true hl, Bool.true_and]

/-- The elements of lanes that name a whole byte each, before their checks. -/
def plainElems (raw : Nat → Nat) (ls : List Nat) : List RawElem :=
  ls.map (fun l => { lane := l, raw := raw l, nib := none })

theorem filter_plainElems (raw : Nat → Nat) (ls : List Nat) (p : RawElem → Bool) :
    (plainElems raw ls).filter p = plainElems raw (ls.filter (fun l => p { lane := l, raw := raw l, nib := none })) :=
  List.filter_map

/-- The trap of the lanes of a mask names the lowest one's address (R200). -/
theorem lanesTrap_plainElems (c : Cause) (raw : Nat → Nat) {m : Mask} (hm : m ≠ 0) :
    lanesTrap c (plainElems raw (lanesOf m)) =
      { cause := c, faddr := BitVec.ofNat 64 (raw (lowest m)), lmask := m } := by
  obtain ⟨x, r, hxr⟩ := List.exists_cons_of_ne_nil (lanesOf_ne_nil hm)
  have hhead : ((plainElems raw (lanesOf m)).head?.map (fun r => r.raw)).getD 0 = raw (lowest m) := by
    simp only [plainElems, lowest, hxr, List.map_cons, List.head?_cons, Option.map_some, Option.getD_some, List.headD_cons]
  have hmask : maskOf (fun l => (plainElems raw (lanesOf m)).any (fun r => r.lane == l)) = m := by
    simp only [plainElems, List.any_map]
    exact maskOf_mem_lanesOf m
  unfold lanesTrap
  rw [hhead, hmask]

section

variable {e : Env} {sp : Space} {n : Nat} {raw : Nat → Nat} {m : Mask}

/-- The lanes whose addresses are no multiple of the width. -/
def misaligned (m : Mask) (raw : Nat → Nat) (n : Nat) : Mask := failing (lanesOf m) (fun l => decide (raw l % n ≠ 0))

/-- The lanes whose elements lie outside the scratchpads. -/
def Env.outOfReach (e : Env) (sp : Space) (m : Mask) (raw : Nat → Nat) (n : Nat) : Mask :=
  failing (lanesOf m) (fun l => (e.scrAddr sp (raw l) n).isNone)

theorem filter_misaligned : (plainElems raw (lanesOf m)).filter (fun r => r.nib.isNone && r.raw % n != 0) =
    plainElems raw (lanesOf (misaligned m raw n)) := by
  rw [filter_plainElems, misaligned, lanesOf_failing]
  refine congrArg _ (List.filter_congr fun l _ => ?_)
  simp [bne, beq_eq_decide]

theorem filter_outside : (plainElems raw (lanesOf m)).filter (fun r => (e.scrAddr sp r.raw n).isNone) =
    plainElems raw (lanesOf (e.outOfReach sp m raw n)) := by
  rw [filter_plainElems, Env.outOfReach, lanesOf_failing]

theorem plainElems_cons_of_ne {k : Mask} (hk : k ≠ 0) : ∃ x r, plainElems raw (lanesOf k) = x :: r :=
  List.exists_cons_of_ne_nil (List.map_eq_nil_iff.not.mpr (lanesOf_ne_nil hk))

theorem checked_misaligned (h : misaligned m raw n ≠ 0) : e.checked sp n (plainElems raw (lanesOf m)) =
    .error { cause := .memAlign, faddr := BitVec.ofNat 64 (raw (lowest (misaligned m raw n))),
             lmask := misaligned m raw n } := by
  obtain ⟨x, r, hxr⟩ := plainElems_cons_of_ne (raw := raw) h
  unfold Env.checked
  rw [filter_misaligned, hxr]
  dsimp only
  rw [← hxr, lanesTrap_plainElems _ _ h]

theorem checked_outside (hsp : sp.isScr = true) (h0 : misaligned m raw n = 0) (h : e.outOfReach sp m raw n ≠ 0) :
    e.checked sp n (plainElems raw (lanesOf m)) =
      .error { cause := .memBounds, faddr := BitVec.ofNat 64 (raw (lowest (e.outOfReach sp m raw n))),
               lmask := e.outOfReach sp m raw n } := by
  obtain ⟨x, r, hxr⟩ := plainElems_cons_of_ne (raw := raw) h
  have hnil : plainElems raw (lanesOf (misaligned m raw n)) = [] := by rw [h0]; rfl
  unfold Env.checked
  rw [filter_misaligned, filter_outside, hnil, hxr, hsp, Bool.not_true]
  dsimp only
  rw [if_neg Bool.false_ne_true, ← hxr, lanesTrap_plainElems _ _ h]

theorem checked_scratchpad (hsp : sp.isScr = true) (h0 : misaligned m raw n = 0) (h : e.outOfReach sp m raw n = 0) :
    e.checked sp n (plainElems raw (lanesOf m)) =
      .ok ((plainElems raw (lanesOf m)).map (fun r => (r, (e.scrAddr sp r.raw n).getD 0))) := by
  have hnil : plainElems raw (lanesOf (0 : Mask)) = [] := rfl
  unfold Env.checked
  rw [filter_misaligned, filter_outside, h0, h, hnil, hsp]
  rfl

theorem lane_inside (h : e.outOfReach sp m raw n = 0) {l : Nat} (hl : l ∈ lanesOf m) : ∃ x, e.scrAddr sp (raw l) n = some x := by
  have hnot : l ∉ (lanesOf m).filter (fun l => (e.scrAddr sp (raw l) n).isNone) := by
    rw [← lanesOf_failing, ← Env.outOfReach, h]
    exact List.not_mem_nil
  rw [List.mem_filter, not_and] at hnot
  exact Option.ne_none_iff_exists'.mp fun hx => hnot hl (Option.isNone_iff_eq_none.mpr hx)

/-- A CLUSTER address is 2^20 · role + offset already (R199). -/
theorem scrAddr_cluster {a x : Nat} (h : e.scrAddr .cls a n = some x) : x = a := by
  unfold Env.scrAddr at h
  rw [show (Space.cls == Space.scr) = false from rfl] at h
  simp only [Bool.false_eq_true, if_false] at h
  split at h
  · cases h
  · split at h
    · cases h
    · split at h
      · cases h
      · exact (Option.some.inj h).symm.trans (Nat.div_add_mod' a (2 ^ 20))

end

/-! ### Page requests (R216) -/

theorem mem_addRequest {r x : Nat × Nat} {l : List (Nat × Nat)} : x ∈ addRequest r l ↔ x ∈ l ∨ x = r := by
  unfold addRequest
  split
  next hr =>
    have hmem : r ∈ l := List.contains_iff_mem.mp hr
    exact ⟨Or.inl, fun h => h.elim id (fun e => e ▸ hmem)⟩
  · rw [List.mem_append, List.mem_singleton]

theorem prefix_addRequest (r : Nat × Nat) (l : List (Nat × Nat)) : l <+: addRequest r l := by
  unfold addRequest
  split
  · exact List.prefix_refl l
  · exact List.prefix_append l [r]

theorem nodup_addRequest {l : List (Nat × Nat)} (r : Nat × Nat) (h : l.Nodup) : (addRequest r l).Nodup := by
  unfold addRequest
  split
  · exact h
  next hr => exact List.nodup_append.mpr ⟨h, List.nodup_singleton r, fun x hx y hy e =>
      hr (List.contains_iff_mem.mpr (List.mem_singleton.mp hy ▸ e ▸ hx))⟩

/-- The requests of a die with those of pages that have none yet. -/
def addRequests (ps l : List (Nat × Nat)) : List (Nat × Nat) := ps.foldl (fun l r => addRequest r l) l

theorem mem_addRequests {x : Nat × Nat} {ps l : List (Nat × Nat)} : x ∈ addRequests ps l ↔ x ∈ l ∨ x ∈ ps := by
  unfold addRequests
  induction ps generalizing l with
  | nil => simp
  | cons r ps ih => rw [List.foldl_cons, ih, mem_addRequest, List.mem_cons, or_assoc]

theorem prefix_addRequests (ps l : List (Nat × Nat)) : l <+: addRequests ps l := by
  unfold addRequests
  induction ps generalizing l with
  | nil => exact List.prefix_refl l
  | cons r ps ih => exact (prefix_addRequest r l).trans (ih _)

theorem nodup_addRequests {l : List (Nat × Nat)} (ps : List (Nat × Nat)) (h : l.Nodup) : (addRequests ps l).Nodup := by
  unfold addRequests
  induction ps generalizing l with
  | nil => exact h
  | cons r ps ih => exact ih (nodup_addRequest r h)

/-- The pages that the lanes of a `pgreq` name. -/
def Env.requested (e : Env) (w : XN) : List (Nat × Nat) :=
  (lanesOf e.act).map (fun l => (e.g.pasid, (e.addr .gbl false w.a w.b l).1 / 4096))

theorem mem_requested {e : Env} {w : XN} {x : Nat × Nat} : x ∈ e.requested w ↔
    ∃ l, l < 32 ∧ e.act.getLsbD l = true ∧ x = (e.g.pasid, (e.addr .gbl false w.a w.b l).1 / 4096) := by
  simp only [Env.requested, List.mem_map, mem_lanesOf, and_assoc, eq_comm (a := x)]

section

variable {w : XN} {s : State}

theorem pgreq_posts (hc : s.clear (.pgreq w) w.h = true)
    (hroom : (addRequests ((reads s (.pgreq w) w.h).requested w) (s.dieOf (reads s (.pgreq w) w.h).g.die).pgreqs).length ≤ 256) :
    Issues (.pgreq w) w.h unused s (fun s1 => s1.updDie (reads s (.pgreq w) w.h).g.die (fun d =>
      { d with pgreqs := addRequests ((reads s (.pgreq w) w.h).requested w) (s.dieOf (reads s (.pgreq w) w.h).g.die).pgreqs })) :=
  issues_of (body := pgreqRes w) rfl hc (if_neg (Nat.not_lt.mpr hroom))

theorem pgreq_holds (hc : s.clear (.pgreq w) w.h = true)
    (hfull : 256 < (addRequests ((reads s (.pgreq w) w.h).requested w) (s.dieOf (reads s (.pgreq w) w.h).g.die).pgreqs).length) :
    Becomes (.pgreq w) s ((s.touch (.pgreq w)).heldFor s.cur.gid (reads s (.pgreq w) w.h).pix 23) :=
  becomes_of_hold (h := w.h) (c := unused) (body := pgreqRes w) rfl hc (if_pos hfull)

end

/-! ### Peer stores (R217, R218) -/

theorem findBy_map_key {α : Type} {f : Nat → α} {key : α → Nat} (hkey : ∀ k, key (f k) = k) {ls : List Nat} {l : Nat}
    (hl : l ∈ ls) : findBy (fun x => key x == l) (ls.map f) = some (f l) := by
  induction ls with
  | nil => cases hl
  | cons k r ih =>
    rw [List.map_cons, findBy]
    by_cases hk : k = l
    · rw [if_pos (by rw [hkey, hk]; exact BEq.rfl), hk]
    · rw [if_neg (by rw [hkey, beq_iff_eq]; exact hk)]
      exact ih ((List.mem_cons.mp hl).resolve_left (Ne.symm hk))

theorem arrivals_congr {clk : Nat} {f g : Nat → Nat} {rows : List (Nat × (Nat × Nat × Nat))}
    (h : ∀ r ∈ rows, f r.1 = g r.1) : arrivals clk f rows = arrivals clk g rows :=
  List.map_congr_left fun r hr => by rw [h r hr]

/-- The rows that the lanes of a `peerst` write. -/
def State.peerRows (s : State) (e : Env) (raw : Nat → Nat) : List (Nat × (Nat × Nat × Nat)) :=
  (lanesOf e.act).map (fun l => (l, s.bankRow e.g (raw l)))

/-- The arrivals of the words of a `peerst`. -/
def State.peerArrivals (s : State) (e : Env) (raw : Nat → Nat) (clk : Nat) : List (Nat × Nat) :=
  arrivals clk (fun l => peerTime e.g.role (raw l / 2 ^ 20)) (s.peerRows e raw)

theorem State.arrivals_peerRows {s : State} {e : Env} {raw : Nat → Nat} {clk : Nat} {f : Nat → Nat}
    (h : ∀ l ∈ lanesOf e.act, f l = peerTime e.g.role (raw l / 2 ^ 20)) :
    arrivals clk f (s.peerRows e raw) = s.peerArrivals e raw clk := by
  refine arrivals_congr fun r hr => ?_
  obtain ⟨l, hl, rfl⟩ := List.mem_map.mp hr
  exact h l hl

/-- Whether an arrival that a `peerst` asks for is reserved (R218). -/
def State.peerTaken (s : State) (e : Env) (raw : Nat → Nat) (clk : Nat) : Bool :=
  ((s.peerRows e raw).zip (s.peerArrivals e raw clk)).any
    (fun x => (s.reserved e.g.die).contains (x.1.2.1, x.1.2.2.1, x.2.2))

/-- The addresses of the lanes of a `peerst`, as R199 forms them. -/
def Env.peerRaw (e : Env) (w : XA) (l : Nat) : Nat := (e.addr .cls false w.a w.b l).1

section

variable {w : XA} {e : Env} {s : State}

theorem raws_peer : e.raws .cls 6 w.a w.b (lanesOf e.act) = plainElems (e.peerRaw w) (lanesOf e.act) := rfl

theorem map_inside (hout : e.outOfReach .cls e.act (e.peerRaw w) 4 = 0) :
    (plainElems (e.peerRaw w) (lanesOf e.act)).map (fun r => (r, (e.scrAddr .cls r.raw 4).getD 0)) =
      (lanesOf e.act).map (fun l => (({ lane := l, raw := e.peerRaw w l, nib := none } : RawElem), e.peerRaw w l)) := by
  rw [plainElems, List.map_map]
  refine List.map_congr_left fun l hl => ?_
  obtain ⟨x, hx⟩ := lane_inside hout hl
  simp only [Function.comp_apply, hx, Option.getD_some, scrAddr_cluster hx]

/-- What `peerst` does once its addresses have passed their checks. -/
theorem peerRes_checked (hhold : memHold e .sp s = none)
    (hdue : ¬(e.act ≠ 0 ∧ (s.grp s.cur.gid).depsOf e.pix 0 true ≠ []))
    (hbad : misaligned e.act (e.peerRaw w) 4 = 0) (hout : e.outOfReach .cls e.act (e.peerRaw w) 4 = 0) :
    peerRes w e s =
      if s.peerTaken e (e.peerRaw w) (s.dieOf e.g.die).clk then .hold (s.heldFor s.cur.gid e.pix 17)
      else .adv (post e .sp (elements (lanesOf e.act) (e.peerRaw w) (fun _ => none) (fun l => (e.read false w.d l, 0)))
        w.scope false 0 true (.peer (s.peerArrivals e (e.peerRaw w) (s.dieOf e.g.die).clk)) s) := by
  have hrows : ((lanesOf e.act).map (fun l => (({ lane := l, raw := e.peerRaw w l, nib := none } : RawElem), e.peerRaw w l))).map
      (fun r => (r.1.lane, s.bankRow e.g r.2)) = s.peerRows e (e.peerRaw w) := List.map_map
  unfold peerRes
  rw [hhold]
  dsimp only
  rw [if_neg (by simpa using hdue), raws_peer, checked_scratchpad rfl hbad hout, map_inside hout]
  dsimp only
  rw [hrows, State.arrivals_peerRows, List.any_map, List.map_map]
  · rfl
  · intro l hl
    rw [findBy_map_key (key := fun x : RawElem × Nat => x.1.lane) (fun _ => rfl) hl]

/-- What `peerst` does where its addresses fail a check. -/
theorem peerRes_unchecked {t : Trap} (hhold : memHold e .sp s = none)
    (hdue : ¬(e.act ≠ 0 ∧ (s.grp s.cur.gid).depsOf e.pix 0 true ≠ []))
    (ht : e.checked .cls 4 (plainElems (e.peerRaw w) (lanesOf e.act)) = .error t) : peerRes w e s = .trap t := by
  unfold peerRes
  rw [hhold]
  dsimp only
  rw [if_neg (by simpa using hdue), raws_peer, ht]

theorem peerRes_due (hhold : memHold e .sp s = none) (hdue : e.act ≠ 0 ∧ (s.grp s.cur.gid).depsOf e.pix 0 true ≠ []) :
    peerRes w e s = .hold (s.heldFor s.cur.gid e.pix 5) := by
  unfold peerRes
  rw [hhold]
  dsimp only
  rw [if_pos (by simpa using hdue)]

end

/-! ### Probes (R215) -/

theorem probe_issues {w : XN} {s : State} {n : BitVec 3} (hc : s.clear (.probe w) w.h = true) (hd : w.d = .p n)
    (hfree : Free (reads s (.probe w) w.h) .ld) :
    Issues (.probe w) w.h unused s (post (reads s (.probe w) w.h) .ld
      (elements (lanesOf (reads s (.probe w) w.h).act) (fun l => ((reads s (.probe w) w.h).addr .gbl false w.a w.b l).1)
        (fun _ => none) (fun _ => (0, 0))) 0 false 0 false (.probe n)) := by
  refine issues_of (body := probeRes w) rfl hc ?_
  unfold probeRes
  rw [memHold_of_free hfree, hd]
  rfl

end Sys2Proof.Machine

namespace Sys2Proof.Proofs

open Sys2Proof Sys2Proof.Machine Sys2Proof.Stated

/-- Settles O40: one lemma for what each of the four does at its issue. -/
theorem prefetchProbeRequestAndPeerStore : Obligations.PrefetchProbeRequestAndPeerStore := by
  unfold Obligations.PrefetchProbeRequestAndPeerStore
  refine ⟨fun w s hc => runs_idle (body := noEffect) rfl hc rfl, fun w s n hc hd hfree => probe_issues hc hd hfree, fun w s hc => ?_,
    fun w s hc hfree => ⟨fun hdue => ?_, fun hdue => ⟨fun hbad => ?_, fun hbad hout => ?_, fun hbad hout htaken => ?_,
      fun hbad hout htaken => ?_⟩⟩⟩
  · refine ⟨addRequests ((reads s (.pgreq w) w.h).requested w) (s.dieOf (reads s (.pgreq w) w.h).g.die).pgreqs,
      fun x => ?_, prefix_addRequests _ _, nodup_addRequests _, pgreq_posts hc, pgreq_holds hc⟩
    rw [mem_addRequests, mem_requested]
  · exact becomes_of_hold rfl hc (peerRes_due (memHold_of_free hfree) hdue)
  · exact traps_of rfl hc (peerRes_unchecked (memHold_of_free hfree) hdue (checked_misaligned hbad))
  · exact traps_of rfl hc (peerRes_unchecked (memHold_of_free hfree) hdue (checked_outside rfl hbad hout))
  · exact becomes_of_hold rfl hc ((peerRes_checked (memHold_of_free hfree) hdue hbad hout).trans (if_pos htaken))
  · exact issues_of rfl hc ((peerRes_checked (memHold_of_free hfree) hdue hbad hout).trans
      (if_neg (Bool.eq_false_iff.mp htaken)))

end Sys2Proof.Proofs
end


section
/-! Proofs of the family of `11_memory_access.md`: `ldt` and `stt` (O38). -/

namespace Sys2Proof.Machine

open Stated

/-! ### The elements of a record (R213) -/

section

variable {e : Env} {w : XA} {t : Tsr} {load : Bool} {l : Nat}

theorem tensorElem_lane {x : RawElem} (h : e.tensorElem w t load l = some x) : x.lane = l := by
  unfold Env.tensorElem at h
  dsimp only at h
  split at h
  · cases h
  · exact (congrArg RawElem.lane (Option.some.inj h)).symm

/-- The elements of memory that the lanes of a tensor instruction name, with the values that they carry. -/
def Env.tensorTodo (e : Env) (w : XA) (t : Tsr) (load : Bool) (ls : List Nat) (val : Nat → DWord) : List Elem :=
  ls.filterMap (fun l => (e.tensorElem w t load l).map (fun x =>
    { lane := x.lane, addr := x.raw, nib := x.nib, val := val l, val2 := 0, ver := none }))

theorem tensorTodo_eq_map (ls : List Nat) (val : Nat → DWord) : e.tensorTodo w t load ls val =
    ((ls.filterMap (e.tensorElem w t load)).map (fun r => (r, r.raw))).map (fun r =>
      { lane := r.1.lane, addr := r.2, nib := r.1.nib, val := val r.1.lane, val2 := 0, ver := none }) := by
  rw [List.map_map, List.map_filterMap]
  unfold Env.tensorTodo
  refine congrArg (fun f => List.filterMap f ls) (funext fun l => ?_)
  cases h : e.tensorElem w t load l with
  | none => rfl
  | some x => simp only [Option.map_some, Function.comp_apply, tensorElem_lane h]

/-- What the elements raise does not depend on the values that they carry. -/
theorem foldl_tensorTodo (ls : List Nat) (val : Nat → DWord) (f : Nat → Events) :
    (e.tensorTodo w t load ls val).foldl (fun a x => a ||| f x.lane) 0 =
      ((ls.filterMap (e.tensorElem w t load)).map (fun r => (r, r.raw))).foldl (fun a r => a ||| f r.1.lane) 0 := by
  rw [tensorTodo_eq_map, List.foldl_map]

/-! Coordinates and extents -/

theorem insideOf_iff {c : List Int} {ext : List Nat} (h : c.length = ext.length) : insideOf c ext = true ↔
    ∀ k, k < c.length → 0 ≤ getAt 0 c k ∧ getAt 0 c k < ((getAt (0 : Nat) ext k : Nat) : Int) := by
  induction c generalizing ext with
  | nil => exact ⟨fun _ k hk => absurd hk (Nat.not_lt_zero k), fun _ => rfl⟩
  | cons x c ih =>
    cases ext with
    | nil => cases h
    | cons y ext =>
      have hlen : c.length = ext.length := Nat.succ.inj h
      simp only [insideOf, Bool.and_eq_true, decide_eq_true_eq, ih hlen]
      constructor
      · rintro ⟨hx, hc⟩ k hk
        cases k with
        | zero => exact hx
        | succ k => exact hc k (Nat.lt_of_succ_lt_succ hk)
      · exact fun hall => ⟨hall 0 (Nat.zero_lt_succ _), fun k hk => hall (k + 1) (Nat.succ_lt_succ hk)⟩

theorem length_coords : (e.coords w t l).length = t.ndim := by
  unfold Env.coords
  rw [List.length_map, upFrom_eq_map, List.length_map, List.length_range]

theorem insideOf_coords (hext : t.ndim ≤ t.ext.length) : insideOf (e.coords w t l) (t.ext.take t.ndim) = true ↔
    ∀ k, k < t.ndim → 0 ≤ getAt 0 (e.coords w t l) k ∧
      getAt 0 (e.coords w t l) k < ((getAt (0 : Nat) (t.ext.take t.ndim) k : Nat) : Int) := by
  rw [insideOf_iff (by rw [length_coords, List.length_take, Nat.min_eq_left hext]), length_coords]

/-- The address of an element of whole bytes in a record that is not rotated: its base and the stride elements before
it. -/
theorem tsrAddr_whole (hfmt : t.fmt ≠ 14) (hrot : t.rot = 0) (i y : Int) : tsrAddr t i y =
    ((((t.base : Int) + i * fmtBytes t.fmt) % (if t.space = 0 then 2 ^ 57 else 2 ^ 32)).toNat, none) := by
  unfold tsrAddr wrapN
  dsimp only
  rw [if_neg hfmt, hrot]
  by_cases h : t.space = 0 <;> simp [h, rotate]

theorem tensorElem_inside (hfmt : t.fmt ≠ 14) (hrot : t.rot = 0)
    (h : insideOf (e.coords w t l) (t.ext.take t.ndim) = true) : e.tensorElem w t load l =
      some { lane := l, raw := (((t.base : Int) + elemIndex (e.coords w t l) t.str * fmtBytes t.fmt) %
        (if t.space = 0 then 2 ^ 57 else 2 ^ 32)).toNat, nib := none } := by
  unfold Env.tensorElem
  dsimp only
  rw [h, tsrAddr_whole hfmt hrot]
  rfl

theorem tensorElem_outside (h : insideOf (e.coords w t l) (t.ext.take t.ndim) = false)
    (hclamp : load = false ∨ t.clip ≠ 1 ∨ (∃ x ∈ t.ext.take t.ndim, x = 0)) : e.tensorElem w t load l = none := by
  have hno : (load && t.clip == 1 && (t.ext.take t.ndim).all (fun x => decide (0 < x))) = false := by
    rcases hclamp with hload | hclip | ⟨x, hx, hzero⟩
    · rw [hload, Bool.false_and, Bool.false_and]
    · rw [beq_false_of_ne hclip, Bool.and_false, Bool.false_and]
    · rw [Bool.and_eq_false_iff]
      exact .inr (List.all_eq_false.mpr ⟨x, hx, by simp [hzero]⟩)
  unfold Env.tensorElem
  dsimp only
  rw [h, hno]
  rfl

theorem tensorElem_clamped (hfmt : t.fmt ≠ 14) (hrot : t.rot = 0)
    (h : insideOf (e.coords w t l) (t.ext.take t.ndim) = false) (hload : load = true) (hclip : t.clip = 1)
    (hpos : ∀ x ∈ t.ext.take t.ndim, 0 < x) : e.tensorElem w t load l =
      some { lane := l,
             raw := (((t.base : Int) + elemIndex (clampTo (e.coords w t l) (t.ext.take t.ndim)) t.str * fmtBytes t.fmt) %
               (if t.space = 0 then 2 ^ 57 else 2 ^ 32)).toNat, nib := none } := by
  have hyes : (load && t.clip == 1 && (t.ext.take t.ndim).all (fun x => decide (0 < x))) = true := by
    rw [hload, hclip, List.all_eq_true.mpr (fun x hx => decide_eq_true (hpos x hx))]
    rfl
  unfold Env.tensorElem
  dsimp only
  rw [h, hyes, tsrAddr_whole hfmt hrot]
  rfl

end

/-! ### The record (R212, R214) -/

theorem readTsr_misaligned {e : Env} {s : State} {o nc : Nat} {rf : BitVec 4} (h : o % 64 ≠ 0) : e.readTsr s o nc rf =
    .trap { cause := .memAlign, faddr := BitVec.ofNat 64 o, lmask := e.act } := by
  unfold Env.readTsr
  rw [if_pos h]

theorem readTsr_outOfBounds {e : Env} {s : State} {o nc : Nat} {rf : BitVec 4} (h : o % 64 = 0)
    (hout : e.launch.hdr.scratch ≤ o) : e.readTsr s o nc rf =
    .trap { cause := .memBounds, faddr := BitVec.ofNat 64 o, lmask := e.act } := by
  unfold Env.readTsr
  rw [if_neg (not_not_intro h), if_pos hout]

theorem tsrSpace_global {t : Tsr} (h : t.space = 0) : tsrSpace t = .gbl := by
  unfold tsrSpace
  rw [h]
  rfl

/-! ### The outcomes of `ldt` and `stt` -/

section

variable {e : Env} {w : XA} {s : State} {t : Tsr}

/-- The operation of an identity marked as one whose pages may be translated ahead (R360). -/
def State.aheadOp (gid id : Nat) (s : State) : State :=
  s.updGrp gid (fun g => { g with ops := updBy (fun o => o.id == id) (fun o => { o with ahead := true }) g.ops })

theorem ldtRes_idle (hact : e.act = 0) (hhold : memHold e .ld s = none) : ldtRes w e s =
    .adv (post e .ld [] w.scope w.sk 0 false (.load .gbl w.d 6 w.rf (e.rndOf w.rnd) w.sat (probeOf w) false) s) := by
  unfold ldtRes
  rw [if_pos hact, hhold]
  rfl

theorem sttRes_idle (hact : e.act = 0) (hhold : memHold e .st s = none) : sttRes w e s =
    .adv ((post e .st [] w.scope w.sk 0 true (.store .gbl 6 false false) s).updGrp s.cur.gid
      (fun g => g.raise (s.dieOf e.g.die).clk 0)) := by
  unfold sttRes
  rw [if_pos hact, hhold]
  rfl

theorem ldtRes_trap {x : Trap} (hact : e.act ≠ 0) (h : e.readTsr s (e.tsrOffset w.a) w.mf.toNat w.rf = .trap x) :
    ldtRes w e s = .trap x := by
  unfold ldtRes
  rw [if_neg hact, h]

theorem sttRes_trap {x : Trap} (hact : e.act ≠ 0) (h : e.readTsr s (e.tsrOffset w.a) w.mf.toNat w.rf = .trap x) :
    sttRes w e s = .trap x := by
  unfold sttRes
  rw [if_neg hact, h]

theorem hopTrap_scratchpad {sp : Space} {sk : Bool} (act : Mask) (hsp : sp.isScr = true) (hsk : sk = true) :
    hopTrap sp sk act = some { cause := .illegalField, lmask := act } := by
  unfold hopTrap
  rw [hsp, hsk]
  rfl

theorem hopTrap_global (sk : Bool) (act : Mask) : hopTrap .gbl sk act = none := by
  unfold hopTrap
  rw [show Space.gbl.isScr = false from rfl, Bool.and_false]
  rfl

theorem ldtRes_hop (hact : e.act ≠ 0) (h : e.readTsr s (e.tsrOffset w.a) w.mf.toNat w.rf = .ok t)
    (hsp : (tsrSpace t).isScr = true) (hsk : w.sk = true) :
    ldtRes w e s = .trap { cause := .illegalField, lmask := e.act } := by
  unfold ldtRes
  rw [if_neg hact, h]
  dsimp only
  rw [hopTrap_scratchpad e.act hsp hsk]

theorem sttRes_hop (hact : e.act ≠ 0) (h : e.readTsr s (e.tsrOffset w.a) w.mf.toNat w.rf = .ok t)
    (hsp : (tsrSpace t).isScr = true) (hsk : w.sk = true) :
    sttRes w e s = .trap { cause := .illegalField, lmask := e.act } := by
  unfold sttRes
  rw [if_neg hact, h]
  dsimp only
  rw [hopTrap_scratchpad e.act hsp hsk]

theorem postLoad_global (d : Operand) (mf rf : BitVec 4) (rnd : BitVec 3) (sat : Bool) (probe : Option (BitVec 3))
    (acq : Bool) (scope : BitVec 3) (sk : Bool) (rs : List (RawElem × Nat)) (out : List Nat) :
    postLoad e .gbl d mf rf rnd sat probe acq scope sk rs out s =
      .adv (post e .ld (rs.map (fun r =>
          ({ lane := r.1.lane, addr := r.2, nib := r.1.nib, val := 0, val2 := 0, ver := none } : Elem)) ++
          elements out (fun _ => 0) (fun _ => none) (fun _ => (0, 1))) scope sk (if acq then 1 else 0) false
        (.load .gbl d mf rf (e.rndOf rnd) sat probe acq) s) := rfl

theorem ldtRes_global (hact : e.act ≠ 0) (h : e.readTsr s (e.tsrOffset w.a) w.mf.toNat w.rf = .ok t) (hsp : t.space = 0)
    (hhold : memHold e .ld s = none) : ldtRes w e s =
      .adv ((post e .ld (e.tensorTodo w t true (e.lanesFor w.d) (fun _ => 0) ++
          elements ((e.lanesFor w.d).filter (fun l => (e.tensorElem w t true l).isNone))
            (fun _ => 0) (fun _ => none) (fun _ => (0, 1))) w.scope w.sk 0 false
        (.load .gbl w.d t.fmt w.rf (e.rndOf w.rnd) w.sat (probeOf w) false) s).aheadOp s.cur.gid s.nextId) := by
  unfold ldtRes
  rw [if_neg hact, h]
  dsimp only
  rw [tsrSpace_global hsp, hopTrap_global, show memHold e (spaceCtr .gbl true) s = none from hhold]
  dsimp only
  rw [show Space.gbl.isScr = false from rfl, if_neg Bool.false_ne_true]
  dsimp only
  rw [postLoad_global, tensorTodo_eq_map]
  rfl

theorem sttRes_global (hact : e.act ≠ 0) (h : e.readTsr s (e.tsrOffset w.a) w.mf.toNat w.rf = .ok t) (hsp : t.space = 0)
    (hhold : memHold e .st s = none) : sttRes w e s =
      .adv (((post e .st (e.tensorTodo w t false (lanesOf e.act) (fun l => (e.stored t.fmt w.rf w.rnd w.sat w.d l).1))
          w.scope w.sk 0 true (.store .gbl t.fmt false false) s).updGrp s.cur.gid (fun g => g.raise (s.dieOf e.g.die).clk
            ((e.tensorTodo w t false (lanesOf e.act) (fun _ => 0)).foldl
              (fun a x => a ||| (e.stored t.fmt w.rf w.rnd w.sat w.d x.lane).2) 0))).aheadOp s.cur.gid s.nextId) := by
  unfold sttRes
  rw [if_neg hact, h]
  dsimp only
  rw [tsrSpace_global hsp, hopTrap_global, show memHold e (spaceCtr .gbl false) s = none from hhold]
  dsimp only
  rw [show Space.gbl.isScr = false from rfl, if_neg Bool.false_ne_true]
  dsimp only
  rw [foldl_tensorTodo (f := fun l => (e.stored t.fmt w.rf w.rnd w.sat w.d l).2), tensorTodo_eq_map]
  rfl

end

end Sys2Proof.Machine

namespace Sys2Proof.Proofs

open Sys2Proof Sys2Proof.Machine Sys2Proof.Stated

/-- Settles O38: `ldt` and `stt` each by what it makes of its record, and a lane's element by where its coordinates
lie. -/
theorem tensorAccesses : Obligations.TensorAccesses := by
  unfold Obligations.TensorAccesses
  refine ⟨fun w r hr s hc => ?_, fun e w t load l hfmt hrot hext => ⟨fun hin => ?_, fun hout hclamp => ?_,
    fun hout hload hclip hpos => ?_⟩⟩
  · rcases List.mem_pair.mp hr with rfl | rfl
    · refine ⟨fun hact hctr => ?_, fun hact ho => ?_, fun hact ho hout => ?_,
        fun t hact ht hsp hfree => ⟨fun _ => ?_, fun h => Bool.noConfusion h⟩, fun t hact ht hsp hsk => ?_⟩
      · exact issueC_adv (.ldt w) w.h w.c (ldtRes w) s _ hc (ldtRes_idle hact (memHold_of_free ⟨hctr, .inl hact⟩))
      · exact traps_of rfl hc (ldtRes_trap hact (readTsr_misaligned ho))
      · exact traps_of rfl hc (ldtRes_trap hact (readTsr_outOfBounds ho hout))
      · exact issues_of rfl hc (ldtRes_global hact ht hsp (memHold_of_free hfree))
      · exact traps_of rfl hc (ldtRes_hop hact ht hsp hsk)
    · refine ⟨fun hact hctr => ?_, fun hact ho => ?_, fun hact ho hout => ?_,
        fun t hact ht hsp hfree => ⟨fun h => Bool.noConfusion h, fun _ => ?_⟩, fun t hact ht hsp hsk => ?_⟩
      · exact issueC_adv (.stt w) w.h w.c (sttRes w) s _ hc (sttRes_idle hact (memHold_of_free ⟨hctr, .inl hact⟩))
      · exact traps_of rfl hc (sttRes_trap hact (readTsr_misaligned ho))
      · exact traps_of rfl hc (sttRes_trap hact (readTsr_outOfBounds ho hout))
      · exact issues_of rfl hc (sttRes_global hact ht hsp (memHold_of_free hfree))
      · exact traps_of rfl hc (sttRes_hop hact ht hsp hsk)
  · exact tensorElem_inside hfmt hrot ((insideOf_coords hext).mpr hin)
  · exact tensorElem_outside (Bool.eq_false_iff.mpr (mt (insideOf_coords hext).mp hout)) hclamp
  · exact tensorElem_clamped hfmt hrot (Bool.eq_false_iff.mpr (mt (insideOf_coords hext).mp hout)) hload hclip hpos

end Sys2Proof.Proofs
end


section
/-! Proofs of the family of `11_memory_access.md`: memory reads what was written, and elements are performed at their
places (O41). -/

namespace Sys2Proof.Machine

open Stated

/-! ### Reading and writing memory (R203) -/

theorem rdBytes_wrBytes_apart {m : Sparse Byte} {a b : Nat} {bs : List Byte} (h : ∀ k, k < bs.length → b ≠ a + k) :
    rdBytes (wrBytes m a bs) b 1 = rdBytes m b 1 := by
  have hout : b < a ∨ a + bs.length ≤ b := by
    by_contra hin
    exact h (b - a) (by omega) (by omega)
  simp only [rdBytes, spGet_wrBytes_outside m a bs b hout]

/-- A write changes no byte of another place. -/
theorem State.rdLoc_wrLoc_apart {s : State} {p q : PLoc} {bs : List Byte} (h : ∀ k, k < bs.length → q ≠ p.plus k) :
    (s.wrLoc p bs).rdLoc q 1 = s.rdLoc q 1 := by
  cases p with
  | mem a =>
    cases q with
    | mem b => exact rdBytes_wrBytes_apart fun k hk e => h k hk (congrArg PLoc.mem e)
    | host b => rfl
    | remote b => rfl
  | host a =>
    cases q with
    | host b => exact rdBytes_wrBytes_apart fun k hk e => h k hk (congrArg PLoc.host e)
    | mem b => rfl
    | remote b => rfl
  | remote a =>
    cases q with
    | remote b => exact rdBytes_wrBytes_apart fun k hk e => h k hk (congrArg PLoc.remote e)
    | mem b => rfl
    | host b => rfl

theorem State.wrLoc_frame (s : State) (p : PLoc) (bs : List Byte) :
    { s.wrLoc p bs with mem := s.mem, hostMem := s.hostMem, remoteMem := s.remoteMem, poison := s.poison, rest := s.rest,
                        stamp := s.stamp, hist := s.hist, objMsgs := s.objMsgs } = s := by
  cases p <;> rfl

/-! ### The bytes that a read returns (R226) -/

theorem length_upFrom (a n : Nat) : (upFrom a n).length = n := by
  rw [upFrom_eq_map, List.length_map, List.length_range]

theorem upFrom_eq_map_upFrom (a n : Nat) : upFrom a n = (upFrom 0 n).map (fun k => a + k) := by
  simp [upFrom_eq_map]

theorem State.pickByte_mem_readable (s : State) (v : View) (floor n k : Nat) :
    s.pickByte v floor n k ∈ readable (max (spGet 0 v k) floor) (s.writesOf k) := by
  have hne := readable_ne_nil (max (spGet 0 v k) floor) (s.writesOf_ne_nil k)
  unfold State.pickByte
  split
  case h_1 x hx => exact hx ▸ List.mem_singleton_self x
  case h_2 => exact getAt_mem _ (Nat.mod_lt _ (List.length_pos_iff.mpr hne))

/-- The newest write of a byte may always be read. -/
theorem State.newest_mem_readable (s : State) (bound k : Nat) : s.newest k ∈ readable bound (s.writesOf k) := by
  obtain ⟨x, r, hxr⟩ := List.exists_cons_of_ne_nil (s.writesOf_ne_nil k)
  rw [State.newest, hxr, readable]
  split
  · exact List.mem_singleton_self x
  · exact List.mem_cons_self

/-- The writes that a read picks for consecutive bytes, before it is asked whether they show part of one. -/
theorem State.picks_eq_map (s : State) (v : View) (floor m a n : Nat) :
    ((upFrom a n).zip (upFrom 0 (upFrom a n).length)).map (fun x => s.pickByte v floor (16 * m + x.2) x.1) =
      (upFrom 0 n).map (fun k => s.pickByte v floor (16 * m + k) (a + k)) := by
  rw [length_upFrom, upFrom_eq_map a, upFrom_eq_map 0, List.zip_map', List.map_map, List.map_map]
  simp only [Function.comp_def, Nat.zero_add]

theorem State.length_pickBytes (s : State) (v : View) (floor m a n : Nat) :
    (s.pickBytes v floor m (upFrom a n)).length = n := by
  unfold State.pickBytes
  dsimp only
  rw [State.picks_eq_map]
  split
  · rw [List.length_map, length_upFrom]
  · rw [List.length_map, length_upFrom]

theorem State.getAt_pickBytes (s : State) (v : View) (floor m a : Nat) {n k : Nat} (hk : k < n) :
    ∃ bound, spGet 0 v (a + k) ≤ bound ∧
      getAt (0, 0) (s.pickBytes v floor m (upFrom a n)) k ∈ readable bound (s.writesOf (a + k)) := by
  refine ⟨max (spGet 0 v (a + k)) floor, Nat.le_max_left _ _, ?_⟩
  unfold State.pickBytes
  dsimp only
  rw [State.picks_eq_map]
  split
  · rw [upFrom_eq_map_upFrom, List.map_map, getAt_map_upFrom _ _ hk]
    exact s.newest_mem_readable _ _
  · rw [getAt_map_upFrom _ _ hk]
    exact s.pickByte_mem_readable _ _ _ _

/-! A read that meets no word in flight returns its bytes as they are (R219) -/

theorem ofLe_lt (bs : List Byte) : ofLe bs < 256 ^ bs.length := by
  induction bs with
  | nil => exact Nat.one_pos
  | cons b r ih =>
    have hb : b.toNat < 256 := b.isLt
    rw [ofLe, List.length_cons, Nat.pow_succ]
    omega

theorem mixBytes_nil (tick addr x n : Nat) : mixBytes tick addr [] x n = x % 256 ^ n := by
  induction n with
  | zero => exact (Nat.mod_one x).symm
  | succ n ih =>
    have hbyte : mixByte tick addr [] x n = x / 256 ^ n % 256 := rfl
    rw [mixBytes, ih, hbyte, Nat.mod_pow_succ]

theorem mixBytes_ofLe (tick addr : Nat) {bs : List Byte} {n : Nat} (h : bs.length = n) :
    mixBytes tick addr [] (ofLe bs) n = ofLe bs := by
  rw [mixBytes_nil, ← h, Nat.mod_eq_of_lt (ofLe_lt bs)]

theorem length_rdBytes (m : Sparse Byte) (a n : Nat) : (rdBytes m a n).length = n := by
  induction n generalizing a with
  | zero => rfl
  | succ n ih => rw [rdBytes, List.length_cons, ih]

theorem elemBytes_of_ne {mf : BitVec 4} (h : mf ≠ 14) : elemBytes mf = fmtBytes mf := if_neg h

/-- The value of a loaded element, and its format: an `ldacq` is not converted (R246). -/
theorem loadValue_of_ne {mf : BitVec 4} (h : mf ≠ 14) (rf : BitVec 4) (rnd : BitVec 3) (sat acq : Bool) (x : Nat) :
    loadValue mf rf rnd sat acq x =
      (extend (if acq then mf else rf).toNat
        (if acq then (x, 0) else convert mf.toNat rf.toNat rnd.toNat sat x : Nat × Events).1,
       (if acq then (x, 0) else convert mf.toNat rf.toNat rnd.toNat sat x : Nat × Events).2) := by
  unfold loadValue
  rw [if_neg h]
  cases acq <;> rfl

theorem loadValue_converted {mf : BitVec 4} (h : mf ≠ 14) (rf : BitVec 4) (rnd : BitVec 3) (sat : Bool) (x : Nat) :
    loadValue mf rf rnd sat false x =
      (extend rf.toNat (convert mf.toNat rf.toNat rnd.toNat sat x).1, (convert mf.toNat rf.toNat rnd.toNat sat x).2) :=
  loadValue_of_ne h rf rnd sat false x

/-! ### An event that performs one lane's element -/

theorem lanesOf_laneBit : ∀ {l : Nat}, l < 32 → lanesOf (laneBit l) = [l] := by decide

/-- The group with a performed element's value, where it has one, in its lane's destination. -/
def State.takes (s : State) (o : Op) (el : Elem) (v : Option DWord) (bit : DWord) (g : Group) : Group :=
  match v with
  | some v => g.landed (s.dieOf g.die).clk o el v bit
  | none => g

/-- The operation with the element of a lane performed and its events kept. -/
def Op.without (o : Op) (l : Nat) (ev : Events) : Op :=
  { o with todo := o.todo.filter (fun x => x.lane != l), ev := o.ev ||| ev }

/-- The group with an operation's element of a lane gone. -/
def Group.elemGone (g : Group) (id l : Nat) (ev : Events) : Group :=
  { g with ops := updBy (fun x => x.id == id) (fun x => x.without l ev) g.ops }

/-- The group with an operation's element of a lane gone, and its value taken by a group that has not ended (R85). -/
def Group.tookElem (g : Group) (id l : Nat) (ev : Events) (onto : Group → Group) : Group :=
  if g.ended then g.elemGone id l ev else onto (g.elemGone id l ev)

/-- The state in which an operation's element of a lane has been performed, and the operation completed if it was its
last. -/
def State.tookElem (s : State) (gid id l : Nat) (ev : Events) (onto : Group → Group) : State :=
  (s.updGrp gid (fun g => g.tookElem id l ev onto)).finishOp gid id

section

variable {s s1 : State} {gid id l : Nat} {o : Op} {el : Elem} {v : Option DWord} {ev : Events} {onto : Group → Group}
  (ho : (s.grp gid).op id = some o) (hel : findBy (fun (e : Elem) => e.lane == l) o.todo = some el)
  (hblk : (!o.isPeer && (s.grp gid).blocked o el) = false) (hperf : performElem s (s.grp gid) o el = .done s1 v ev)
  (honto : ∀ g bit, s.takes o el v bit g = onto g)
include ho hel hblk hperf honto

theorem State.performLane_done :
    s.performLane gid id l = s1.updGrp gid (fun g => g.tookElem id l ev onto) := by
  unfold State.performLane
  simp only [ho, hel, hblk, hperf, Bool.false_eq_true, if_false]
  refine congrArg (s1.updGrp gid) (funext fun g => ?_)
  have hended := congrArg (fun y => if g.ended then g.elemGone id l ev else y)
    (honto (g.elemGone id l ev) (probeBit s g o el))
  cases v with
  | some v => exact hended
  | none => exact (ite_self _).symm.trans hended

variable (hl : l < 32)
include hl

theorem State.performOp_done : s.performOp gid id (laneBit l) = s1.tookElem gid id l ev onto := by
  unfold State.performOp State.tookElem
  rw [lanesOf_laneBit hl, List.foldl_cons, List.foldl_nil, State.performLane_done ho hel hblk hperf honto]

theorem completeIf_done {ok : Op → Bool} (hok : ok o = true) :
    completeIf ok gid id (laneBit l) s = .next (s1.tookElem gid id l ev onto) := by
  unfold completeIf
  rw [ho]
  dsimp only
  rw [if_pos hok, State.performOp_done ho hel hblk hperf honto hl]

end

/-! ### Where a performed element's value goes -/

/-- The group with a value in a lane of a destination, unless the group has loaded it again since its restart (R432). -/
def State.lands (s : State) (o : Op) (l : Nat) (wide : Bool) (d : Operand) (v : DWord) (g : Group) : Group :=
  if g.superseded o l then g else g.writeLate (s.dieOf g.die).clk o.path (laneBit l) wide d v

/-- The group with a value in a lane of the destination of an atomic, where it has one (R243). -/
def State.landsAny (s : State) (o : Op) (l : Nat) (wide : Bool) (v : DWord) (dst : Option Operand) (g : Group) : Group :=
  match dst with
  | some d => s.lands o l wide d v g
  | none => g

section

variable {s : State} {o : Op} {el : Elem} {v bit : DWord} {g : Group}

theorem takes_load {sp : Space} {dst : Operand} {mf rf : BitVec 4} {rnd : BitVec 3} {sat acq : Bool}
    (hk : o.kind = .load sp dst mf rf rnd sat none acq) :
    s.takes o el (some v) bit g = s.lands o el.lane (wideFmt rf) dst v g := by
  simp only [State.takes, Group.landed, State.lands, hk]

theorem takes_atomic {op : AtomOp} {mf : BitVec 4} {dst : Option Operand} (hk : o.kind = .atomic op mf dst) :
    s.takes o el (some v) bit g = s.landsAny o el.lane (wideFmt mf) v dst g := by
  cases dst with
  | some d => simp only [State.takes, Group.landed, State.landsAny, State.lands, hk]
  | none => simp only [State.takes, Group.landed, State.landsAny, hk, ite_self]

theorem takes_cas {mf : BitVec 4} {dst : Operand} (hk : o.kind = .cas mf dst) :
    s.takes o el (some v) bit g = s.lands o el.lane (wideFmt mf) dst v g := by
  simp only [State.takes, Group.landed, State.lands, hk]

end

/-! ### Performing an element, by the kind of its operation -/

section

variable {s s1 : State} {g : Group} {o : Op} {el : Elem} {p : PLoc} {attr : BitVec 9} {mf : BitVec 4}

/-- The writes that a load's element of memory is read from. -/
def State.picked (s : State) (g : Group) (o : Op) (el : Elem) (p : PLoc) (n : Nat) : List (Nat × Byte) :=
  s.pickBytes o.view (s.mappedAt g.die g.tlbCore (s.tlbFor g o.ahead el.addr) g.pasid el.addr) el.lane (upFrom p.cell n)

theorem performElem_load_memory {dst : Operand} {rf : BitVec 4} {rnd : BitVec 3} {sat acq : Bool}
    (hk : o.kind = .load .gbl dst mf rf rnd sat none acq) (hmf : mf ≠ 14) (hin : el.val2 = 0) (hnib : el.nib = none)
    (ht : s.targetIn g (s.tlbFor g o.ahead el.addr) .gbl el.addr (fmtBytes mf) needR = (s1, .ok (.at_ p attr)))
    (hp : s1.poisonedAt p (fmtBytes mf) = false) :
    performElem s g o el =
      .done (s1.hasRead g o (.at_ p attr) (fmtBytes mf) ((s1.picked g o el p (fmtBytes mf)).map (fun y => y.1)))
        (some (loadValue mf rf rnd sat acq (ofLe ((s1.picked g o el p (fmtBytes mf)).map (fun y => y.2)))).1)
        (loadValue mf rf rnd sat acq (ofLe ((s1.picked g o el p (fmtBytes mf)).map (fun y => y.2)))).2 := by
  have hlen : ((s1.picked g o el p (fmtBytes mf)).map (fun y => y.2)).length = fmtBytes mf := by
    rw [List.length_map, State.picked, State.length_pickBytes]
  have hpois : s1.targetPoison g (.at_ p attr) (fmtBytes mf) = false := hp
  have hload : s1.loadFrom g o el (.at_ p attr) (fmtBytes mf) =
      (ofLe ((s1.picked g o el p (fmtBytes mf)).map (fun y => y.2)), (s1.picked g o el p (fmtBytes mf)).map (fun y => y.1)) :=
    rfl
  simp only [performElem, hk, performLoad, hin, readElem, elemBytes_of_ne hmf, ht, hpois, hload, hnib,
    mixBytes_ofLe _ _ hlen, show (Space.gbl == Space.scr) = false from rfl, show (Space.gbl == Space.cls) = false from rfl,
    Option.isSome_none, Bool.or_self, Bool.false_eq_true, if_false, ne_eq, not_true_eq_false, decide_false, Bool.false_and,
    show ¬(0 : DWord) = 1 from by decide]

theorem performElem_load_scratchpad {sp : Space} {dst : Operand} {rf : BitVec 4} {rnd : BitVec 3} {sat : Bool} {a : Alloc}
    (hsp : sp = .scr ∨ sp = .cls) (hk : o.kind = .load sp dst mf rf rnd sat none false) (hmf : mf ≠ 14)
    (hin : el.val2 = 0) (hnib : el.nib = none) (hfl : s.flightsFor g o el.addr (fmtBytes mf) = [])
    (hal : s.alloc g.die g.lchid g.block (el.addr / 2 ^ 20) = some a)
    (hp : poisoned a.poison (el.addr % 2 ^ 20) (fmtBytes mf) = false) :
    performElem s g o el =
      .done (s.hasRead g o (.scr (el.addr / 2 ^ 20) (el.addr % 2 ^ 20)) (fmtBytes mf)
          (s.stampsAt g (.scr (el.addr / 2 ^ 20) (el.addr % 2 ^ 20)) (fmtBytes mf)))
        (some (loadValue mf rf rnd sat false (ofLe (rdBytes a.bytes (el.addr % 2 ^ 20) (fmtBytes mf)))).1)
        (loadValue mf rf rnd sat false (ofLe (rdBytes a.bytes (el.addr % 2 ^ 20) (fmtBytes mf)))).2 := by
  have hpois : s.targetPoison g (.scr (el.addr / 2 ^ 20) (el.addr % 2 ^ 20)) (fmtBytes mf) = false := by
    simp only [State.targetPoison, State.scrPoisoned, hal, hp]
  have hload : s.loadFrom g o el (.scr (el.addr / 2 ^ 20) (el.addr % 2 ^ 20)) (fmtBytes mf) =
      (ofLe (rdBytes a.bytes (el.addr % 2 ^ 20) (fmtBytes mf)),
       s.stampsAt g (.scr (el.addr / 2 ^ 20) (el.addr % 2 ^ 20)) (fmtBytes mf)) := by
    simp only [State.loadFrom, State.readTarget, State.rdScr, hal]
  have hscr : (sp == .scr || sp == .cls) = true := by
    rcases hsp with rfl | rfl <;> rfl
  have htgt : s.targetIn g (s.tlbFor g o.ahead el.addr) sp el.addr (fmtBytes mf) needR =
      (s, .ok (.scr (el.addr / 2 ^ 20) (el.addr % 2 ^ 20))) := by
    rcases hsp with rfl | rfl <;> rfl
  simp only [performElem, hk, performLoad, hin, readElem, elemBytes_of_ne hmf, htgt, hpois, hload, hnib, hscr, hfl,
    mixBytes_ofLe _ _ (length_rdBytes _ _ _), Option.isSome_none, Bool.false_eq_true, if_false, if_true, ne_eq,
    not_true_eq_false, decide_false, Bool.false_and, show ¬(0 : DWord) = 1 from by decide]

theorem performElem_store_memory (hk : o.kind = .store .gbl mf false false) (hmf : mf ≠ 14) (hnib : el.nib = none)
    (ht : s.targetIn g (s.tlbFor g o.ahead el.addr) .gbl el.addr (fmtBytes mf) needW = (s1, .ok (.at_ p attr))) :
    performElem s g o el =
      .done ((s1.wrLoc p (leBytes (fmtBytes mf) el.val.toNat)).hasWritten g o (.at_ p attr) (fmtBytes mf) []) none 0 := by
  simp only [performElem, hk, performStore, elemBytes_of_ne hmf, ht, State.storeTo, State.writeTarget, Elem.storedIn, hnib,
    Bool.false_and, Bool.or_self, Bool.false_eq_true, if_false]

theorem performElem_peer {arr : List (Nat × Nat)} (hk : o.kind = .peer arr) :
    performElem s g o el =
      .done ((s.wrScr g.die g.lchid g.block (el.addr / 2 ^ 20) (el.addr % 2 ^ 20) (leBytes 4 el.val.toNat)).hasWritten g o
        (.scr (el.addr / 2 ^ 20) (el.addr % 2 ^ 20)) 4 []) none 0 := by
  simp only [performElem, hk, State.writeTarget]

end

/-! Atomics (R243, R244) -/

/-- Nothing is logged for a group at whose context no grain ring works. -/
theorem logged_of_grainOff {s : State} {g : Group} (h : grainOn s g = false) (attr : BitVec 9) : logged s g attr = false := by
  rw [logged, h, Bool.false_and]

theorem atomicOk_of_module {attr : BitVec 9} (hpb : attrPbmt attr = 0) (hkind : attrKind attr ≠ 2) (op : Option AtomOp)
    (mf : BitVec 4) (reads : Bool) : atomicOk attr op mf reads = true := by
  simp [atomicOk, hpb, hkind]

section

variable {s s1 : State} {g : Group} {gid : Nat} {o : Op} {el : Elem} {p : PLoc} {attr : BitVec 9} {mf : BitVec 4} {reads : Bool}

/-- The state in which an atomic has read its word. -/
def State.atomRead (s : State) (g : Group) (o : Op) (t : Target) (n : Nat) : State := s.hasRead g o t n (s.stampsAt g t n)

/-- The state in which an atomic has written a value over the word that it has read, in its release sequence (R229). -/
def State.atomPut (s : State) (g : Group) (gid : Nat) (o : Op) (el : Elem) (p : PLoc) (attr : BitVec 9) (n : Nat)
    (reads : Bool) (v : Nat) : State :=
  let read := s.atomRead g o (.at_ p attr) n
  ((read.used g el.addr (atomNeed reads)).wrLoc p (leBytes n v)).hasWritten (read.grp gid) ((read.grp gid).opOr o)
    (.at_ p attr) n (s.msgsOf (s.stampsAt g (.at_ p attr) n))

/-- The state in which a compare-and-swap has found another value than its comparand (R244). -/
def State.atomKept (s : State) (g : Group) (gid : Nat) (o : Op) (t : Target) (n : Nat) : State :=
  let read := s.atomRead g o t n
  read.hasCompared (read.grp gid) ((read.grp gid).opOr o) t

variable (hgid : g.gid = gid)
  (ht : s.target g .gbl el.addr (fmtBytes mf) (atomNeed reads).asks = (s1, .ok (.at_ p attr)))
  (hpb : attrPbmt attr = 0) (hkind : attrKind attr ≠ 2) (hp : s1.poisonedAt p (fmtBytes mf) = false)
  (hgrain : grainOn s1 g = false)
include hgid ht hpb hkind hp hgrain

theorem performAtomic_writes {op : AtomOp} {f : Nat → Option Nat × Events} {v : Nat} {ev : Events}
    (hgov : (s1.governWaits g.pasid el.addr).2 = false) (hf : f (ofLe (s1.rdLoc p (fmtBytes mf))) = (some v, ev)) :
    performAtomic s g o el (some op) mf reads f =
      .done ((s1.atomPut g gid o el p attr (fmtBytes mf) reads v).govern g.pasid el.addr (ofLe (s1.rdLoc p (fmtBytes mf))) v)
        (some (extend mf.toNat (ofLe (s1.rdLoc p (fmtBytes mf))))) ev := by
  subst hgid
  have hpois : s1.targetPoison g (.at_ p attr) (fmtBytes mf) = false := hp
  have hold : s1.readTarget g (.at_ p attr) (fmtBytes mf) = ofLe (s1.rdLoc p (fmtBytes mf)) := rfl
  simp only [performAtomic, ht, atomicOk_of_module hpb hkind, hpois, logged_of_grainOff hgrain, hgov, hold, hf,
    Bool.not_true, Bool.false_and, Bool.and_false, Bool.false_eq_true, if_false]
  rfl

theorem performAtomic_swaps {f : Nat → Option Nat × Events} {v : Nat} {ev : Events}
    (hf : f (ofLe (s1.rdLoc p (fmtBytes mf))) = (some v, ev)) :
    performAtomic s g o el none mf reads f = .done (s1.atomPut g gid o el p attr (fmtBytes mf) reads v)
      (some (extend mf.toNat (ofLe (s1.rdLoc p (fmtBytes mf))))) ev := by
  subst hgid
  have hpois : s1.targetPoison g (.at_ p attr) (fmtBytes mf) = false := hp
  have hold : s1.readTarget g (.at_ p attr) (fmtBytes mf) = ofLe (s1.rdLoc p (fmtBytes mf)) := rfl
  simp only [performAtomic, ht, atomicOk_of_module hpb hkind, hpois, logged_of_grainOff hgrain, hold, hf,
    Bool.not_true, Bool.false_and, Option.isSome_none, Bool.false_eq_true, if_false]
  rfl

theorem performAtomic_compares {f : Nat → Option Nat × Events} {ev : Events}
    (hf : f (ofLe (s1.rdLoc p (fmtBytes mf))) = (none, ev)) :
    performAtomic s g o el none mf reads f = .done (s1.atomKept g gid o (.at_ p attr) (fmtBytes mf))
      (some (extend mf.toNat (ofLe (s1.rdLoc p (fmtBytes mf))))) ev := by
  subst hgid
  have hpois : s1.targetPoison g (.at_ p attr) (fmtBytes mf) = false := hp
  have hold : s1.readTarget g (.at_ p attr) (fmtBytes mf) = ofLe (s1.rdLoc p (fmtBytes mf)) := rfl
  simp only [performAtomic, ht, atomicOk_of_module hpb hkind, hpois, logged_of_grainOff hgrain, hold, hf,
    Bool.not_true, Bool.false_and, Option.isSome_none, Bool.false_eq_true, if_false]
  rfl

end

theorem performElem_atomic {s : State} {g : Group} {o : Op} {el : Elem} {op : AtomOp} {mf : BitVec 4}
    {d : Option Operand} (hk : o.kind = .atomic op mf d) : performElem s g o el =
      performAtomic s g o el (some op) mf d.isSome (fun old => (some (atomNew op mf old el).1, (atomNew op mf old el).2)) := by
  simp only [performElem, hk, OpKind.returns]

theorem performElem_cas {s : State} {g : Group} {o : Op} {el : Elem} {mf : BitVec 4} {d : Operand}
    (hk : o.kind = .cas mf d) : performElem s g o el =
      performAtomic s g o el none mf true (fun old =>
        (if old = el.val.toNat % 2 ^ fmtBits mf then some (el.val2.toNat % 2 ^ fmtBits mf) else none, 0)) := by
  simp only [performElem, hk]

/-- A lane whose arrival clk has come is among those that PEERST_ARRIVAL performs (R218). -/
theorem arrivedLanes_laneBit {arr : List (Nat × Nat)} {l clk : Nat} (h : ∃ a ∈ arr, a.1 = l ∧ a.2 ≤ clk) :
    maskOf (fun k => (laneBit l).getLsbD k && arr.any (fun a => a.1 == k && decide (a.2 ≤ clk))) = laneBit l := by
  obtain ⟨a, ha, hlane, hclk⟩ := h
  refine BitVec.eq_of_getLsbD_eq fun k hk => ?_
  rw [getLsbD_maskOf, getLsbD_laneBit, decide_eq_true hk, Bool.true_and, Bool.true_and]
  by_cases hlk : l = k
  · have hany : arr.any (fun a => a.1 == k && decide (a.2 ≤ clk)) = true :=
      List.any_eq_true.mpr ⟨a, ha, by rw [decide_eq_true hclk, Bool.and_true, beq_iff_eq, hlane, hlk]⟩
    rw [hany, Bool.and_true]
  · rw [decide_eq_false hlk, Bool.false_and]

/-! ### The events that perform elements (R209, R210, R218, R243, R244) -/

/-- The kinds of an atomic whose result goes to `dst`, and whether it returns one. -/
def Op.isAtomic (o : Op) (mf : BitVec 4) (dst : Option Operand) (reads : Bool) : Prop :=
  (∃ op d, o.kind = .atomic op mf d ∧ dst = d ∧ reads = d.isSome) ∨ (∃ d, o.kind = .cas mf d ∧ dst = some d ∧ reads = true)

theorem isAtomic_atomic {o : Op} {mf : BitVec 4} {dst d : Option Operand} {reads : Bool} {op : AtomOp}
    (h : o.isAtomic mf dst reads) (hk : o.kind = .atomic op mf d) : dst = d ∧ reads = d.isSome := by
  rcases h with ⟨op', d', hk', hdst, hreads⟩ | ⟨d', hk', -⟩
  · rw [hk] at hk'
    cases hk'
    exact ⟨hdst, hreads⟩
  · rw [hk] at hk'
    cases hk'

theorem isAtomic_cas {o : Op} {mf : BitVec 4} {dst : Option Operand} {d : Operand} {reads : Bool}
    (h : o.isAtomic mf dst reads) (hk : o.kind = .cas mf d) : dst = some d ∧ reads = true := by
  rcases h with ⟨op', d', hk', -⟩ | ⟨d', hk', hdst, hreads⟩
  · rw [hk] at hk'
    cases hk'
  · rw [hk] at hk'
    cases hk'
    exact ⟨hdst, hreads⟩

section

variable {s s1 : State} {gid id : Nat} {o : Op} {el : Elem} (ho : (s.grp gid).op id = some o)
include ho

theorem storeComplete_eq (hmem : o.isMem = true) (m : Mask) :
    exec (.storeComplete gid id m) s = completeIf (fun o => o.isMem && o.ctr == .st) gid id m s := by
  show execStoreComplete gid id m s = _
  unfold execStoreComplete
  rw [ho]
  dsimp only
  split
  next hk => rw [Op.isMem, hk] at hmem; cases hmem
  · rfl

variable (hl : el.lane < 32) (hel : findBy (fun (e : Elem) => e.lane == el.lane) o.todo = some el)
include hl hel

section

variable {v : Option DWord} {ev : Events} {onto : Group → Group} (hblk : (s.grp gid).blocked o el = false)
  (hmem : o.isMem = true) (hperf : performElem s (s.grp gid) o el = .done s1 v ev)
  (honto : ∀ g bit, s.takes o el v bit g = onto g)
include hblk hmem hperf honto

theorem completeIf_ctr {c : Ctr} (hctr : o.ctr = c) :
    completeIf (fun o => o.isMem && o.ctr == c) gid id (laneBit el.lane) s = .next (s1.tookElem gid id el.lane ev onto) :=
  completeIf_done ho hel (by rw [hblk, Bool.and_false]) hperf honto hl (by rw [hmem, hctr]; exact beq_self_eq_true c)

theorem loadComplete_becomes (hctr : o.ctr = .ld) :
    Becomes (.loadComplete gid id (laneBit el.lane)) s (s1.tookElem gid id el.lane ev onto) :=
  completeIf_ctr ho hl hel hblk hmem hperf honto hctr

theorem storeComplete_becomes (hctr : o.ctr = .st) :
    Becomes (.storeComplete gid id (laneBit el.lane)) s (s1.tookElem gid id el.lane ev onto) :=
  (storeComplete_eq ho hmem _).trans (completeIf_ctr ho hl hel hblk hmem hperf honto hctr)

theorem atomComplete_becomes {reads : Bool} (hctr : o.ctr = if reads then .at else .st) :
    Becomes (if reads then .atomicComplete gid id (laneBit el.lane) else .storeComplete gid id (laneBit el.lane)) s
      (s1.tookElem gid id el.lane ev onto) := by
  cases reads with
  | true => exact completeIf_ctr ho hl hel hblk hmem hperf honto hctr
  | false => exact storeComplete_becomes ho hl hel hblk hmem hperf honto hctr

theorem scratchpadComplete_becomes (hctr : o.ctr = .sp) :
    Becomes (.scratchpadAccessComplete gid id (laneBit el.lane)) s (s1.tookElem gid id el.lane ev onto) :=
  completeIf_ctr ho hl hel hblk hmem hperf honto hctr

end

theorem load_becomes {p : PLoc} {attr : BitVec 9} {dst : Operand} {mf rf : BitVec 4} {rnd : BitVec 3} {sat acq : Bool}
    (hblk : (s.grp gid).blocked o el = false) (hk : o.kind = .load .gbl dst mf rf rnd sat none acq) (hmf : mf ≠ 14)
    (hin : el.val2 = 0) (hnib : el.nib = none)
    (ht : s.targetIn (s.grp gid) (s.tlbFor (s.grp gid) o.ahead el.addr) .gbl el.addr (fmtBytes mf) needR =
      (s1, .ok (.at_ p attr))) (hp : s1.poisonedAt p (fmtBytes mf) = false) (hctr : o.ctr = .ld) :
    ∃ ps : List (Nat × Byte), ps.length = fmtBytes mf ∧
      (∀ k, k < fmtBytes mf → ∃ bound : Nat, spGet 0 o.view (p.cell + k) ≤ bound ∧
        getAt (0, 0) ps k ∈ readable bound (s1.writesOf (p.cell + k))) ∧
      let x := ofLe (ps.map (fun y => y.2))
      let c := if acq then (x, 0) else convert mf.toNat rf.toNat rnd.toNat sat x
      Becomes (.loadComplete gid id (laneBit el.lane)) s
        ((s1.hasRead (s.grp gid) o (.at_ p attr) (fmtBytes mf) (ps.map (fun y => y.1))).tookElem gid id el.lane c.2
          (s.lands o el.lane (wideFmt rf) dst (extend (if acq then mf else rf).toNat c.1))) := by
  have hperf := performElem_load_memory hk hmf hin hnib ht hp
  rw [loadValue_of_ne hmf] at hperf
  exact ⟨s1.picked (s.grp gid) o el p (fmtBytes mf), State.length_pickBytes _ _ _ _ _ _,
    fun k hk => State.getAt_pickBytes _ _ _ _ _ hk,
    loadComplete_becomes ho hl hel hblk (by rw [Op.isMem, hk]) hperf (fun g bit => takes_load hk) hctr⟩

theorem scratchpadLoad_becomes {sp : Space} {dst : Operand} {mf rf : BitVec 4} {rnd : BitVec 3} {sat : Bool} {a : Alloc}
    (hblk : (s.grp gid).blocked o el = false) (hsp : sp = .scr ∨ sp = .cls)
    (hk : o.kind = .load sp dst mf rf rnd sat none false) (hmf : mf ≠ 14) (hin : el.val2 = 0) (hnib : el.nib = none)
    (hfl : s.flightsFor (s.grp gid) o el.addr (fmtBytes mf) = [])
    (hal : s.alloc (s.grp gid).die (s.grp gid).lchid (s.grp gid).block (el.addr / 2 ^ 20) = some a)
    (hp : poisoned a.poison (el.addr % 2 ^ 20) (fmtBytes mf) = false) (hctr : o.ctr = .sp) :
    Becomes (.scratchpadAccessComplete gid id (laneBit el.lane)) s
      ((s.hasRead (s.grp gid) o (.scr (el.addr / 2 ^ 20) (el.addr % 2 ^ 20)) (fmtBytes mf)
          (s.stampsAt (s.grp gid) (.scr (el.addr / 2 ^ 20) (el.addr % 2 ^ 20)) (fmtBytes mf))).tookElem gid id el.lane
        (convert mf.toNat rf.toNat rnd.toNat sat (ofLe (rdBytes a.bytes (el.addr % 2 ^ 20) (fmtBytes mf)))).2
        (s.lands o el.lane (wideFmt rf) dst (extend rf.toNat
          (convert mf.toNat rf.toNat rnd.toNat sat (ofLe (rdBytes a.bytes (el.addr % 2 ^ 20) (fmtBytes mf)))).1))) := by
  have hperf := performElem_load_scratchpad hsp hk hmf hin hnib hfl hal hp
  rw [loadValue_converted hmf] at hperf
  exact scratchpadComplete_becomes ho hl hel hblk (by rw [Op.isMem, hk]) hperf (fun g bit => takes_load hk) hctr

theorem store_becomes {p : PLoc} {attr : BitVec 9} {mf : BitVec 4} (hblk : (s.grp gid).blocked o el = false)
    (hk : o.kind = .store .gbl mf false false) (hmf : mf ≠ 14) (hnib : el.nib = none)
    (ht : s.targetIn (s.grp gid) (s.tlbFor (s.grp gid) o.ahead el.addr) .gbl el.addr (fmtBytes mf) needW =
      (s1, .ok (.at_ p attr))) (hctr : o.ctr = .st) :
    Becomes (.storeComplete gid id (laneBit el.lane)) s
      (((s1.wrLoc p (leBytes (fmtBytes mf) el.val.toNat)).hasWritten (s.grp gid) o (.at_ p attr) (fmtBytes mf) []).tookElem
        gid id el.lane 0 (fun g => g)) :=
  storeComplete_becomes ho hl hel hblk (by rw [Op.isMem, hk]) (performElem_store_memory hk hmf hnib ht) (fun _ _ => rfl) hctr

section

variable {p : PLoc} {attr : BitVec 9} {mf : BitVec 4} {reads : Bool} (hblk : (s.grp gid).blocked o el = false)
  (ht : s.target (s.grp gid) .gbl el.addr (fmtBytes mf) (atomNeed reads).asks = (s1, .ok (.at_ p attr)))
  (hpb : attrPbmt attr = 0) (hkind : attrKind attr ≠ 2) (hp : s1.poisonedAt p (fmtBytes mf) = false)
  (hgrain : grainOn s1 (s.grp gid) = false) (hctr : o.ctr = if reads then .at else .st)
include hblk ht hpb hkind hp hgrain hctr

theorem atomic_becomes {op : AtomOp} {d : Option Operand} (hk : o.kind = .atomic op mf d) (hreads : reads = d.isSome)
    (hgov : (s1.governWaits (s.grp gid).pasid el.addr).2 = false) :
    Becomes (if reads then .atomicComplete gid id (laneBit el.lane) else .storeComplete gid id (laneBit el.lane)) s
      (((s1.atomPut (s.grp gid) gid o el p attr (fmtBytes mf) reads
          (atomNew op mf (ofLe (s1.rdLoc p (fmtBytes mf))) el).1).govern (s.grp gid).pasid el.addr
          (ofLe (s1.rdLoc p (fmtBytes mf))) (atomNew op mf (ofLe (s1.rdLoc p (fmtBytes mf))) el).1).tookElem
        gid id el.lane (atomNew op mf (ofLe (s1.rdLoc p (fmtBytes mf))) el).2
        (s.landsAny o el.lane (wideFmt mf) (extend mf.toNat (ofLe (s1.rdLoc p (fmtBytes mf)))) d)) := by
  subst hreads
  have hperf := performAtomic_writes (o := o) (op := op) (f := fun old => (some (atomNew op mf old el).1, (atomNew op mf old el).2))
    (State.grp_gid (State.has_of_op ho)) ht hpb hkind hp hgrain hgov rfl
  rw [← performElem_atomic hk] at hperf
  exact atomComplete_becomes ho hl hel hblk (by rw [Op.isMem, hk]) hperf (fun g bit => takes_atomic hk) hctr

variable {d : Operand} (hk : o.kind = .cas mf d) (hreads : reads = true)
include hk hreads

theorem cas_becomes_of_eq (heq : ofLe (s1.rdLoc p (fmtBytes mf)) = el.val.toNat % 2 ^ fmtBits mf) :
    Becomes (if reads then .atomicComplete gid id (laneBit el.lane) else .storeComplete gid id (laneBit el.lane)) s
      ((s1.atomPut (s.grp gid) gid o el p attr (fmtBytes mf) reads (el.val2.toNat % 2 ^ fmtBits mf)).tookElem
        gid id el.lane 0
        (s.landsAny o el.lane (wideFmt mf) (extend mf.toNat (ofLe (s1.rdLoc p (fmtBytes mf)))) (some d))) := by
  subst hreads
  have hperf := (performElem_cas hk).trans
    (performAtomic_swaps (State.grp_gid (State.has_of_op ho)) ht hpb hkind hp hgrain (by rw [if_pos heq]))
  exact atomComplete_becomes ho hl hel hblk (by rw [Op.isMem, hk]) hperf (fun g bit => takes_cas hk) hctr

theorem cas_becomes_of_ne (hne : ofLe (s1.rdLoc p (fmtBytes mf)) ≠ el.val.toNat % 2 ^ fmtBits mf) :
    Becomes (if reads then .atomicComplete gid id (laneBit el.lane) else .storeComplete gid id (laneBit el.lane)) s
      ((s1.atomKept (s.grp gid) gid o (.at_ p attr) (fmtBytes mf)).tookElem gid id el.lane 0
        (s.landsAny o el.lane (wideFmt mf) (extend mf.toNat (ofLe (s1.rdLoc p (fmtBytes mf)))) (some d))) := by
  subst hreads
  have hperf := (performElem_cas hk).trans
    (performAtomic_compares (State.grp_gid (State.has_of_op ho)) ht hpb hkind hp hgrain (by rw [if_neg hne]))
  exact atomComplete_becomes ho hl hel hblk (by rw [Op.isMem, hk]) hperf (fun g bit => takes_cas hk) hctr

end

/-- The lane of a word that has arrived is the one that the event performs. -/
theorem peerstArrival_becomes {arr : List (Nat × Nat)} (hk : o.kind = .peer arr)
    (harr : ∃ a ∈ arr, a.1 = el.lane ∧ a.2 ≤ (s.dieOf (s.grp gid).die).clk) :
    Becomes (.peerstArrival gid id (laneBit el.lane)) s
      (((s.wrScr (s.grp gid).die (s.grp gid).lchid (s.grp gid).block (el.addr / 2 ^ 20) (el.addr % 2 ^ 20)
          (leBytes 4 el.val.toNat)).hasWritten (s.grp gid) o (.scr (el.addr / 2 ^ 20) (el.addr % 2 ^ 20)) 4 []).tookElem
        gid id el.lane 0 (fun g => g)) := by
  have hpeer : (!o.isPeer && (s.grp gid).blocked o el) = false := by rw [Op.isPeer, hk]; rfl
  show Host.Outcome.next (peerArrive gid id (laneBit el.lane) s) = _
  unfold peerArrive
  dsimp only
  rw [ho]
  dsimp only
  rw [hk]
  dsimp only
  rw [arrivedLanes_laneBit harr, State.performOp_done ho hel hpeer (performElem_peer hk) (fun _ _ => rfl) hl]

end

end Sys2Proof.Machine

namespace Sys2Proof.Proofs

open Sys2Proof Sys2Proof.Machine Sys2Proof.Stated

/-- Settles O41: what performing an element makes of the state, by the kind of its operation, and the event that
performs it. -/
theorem elementsReadAndLandAtTheirPlaces : Obligations.ElementsReadAndLandAtTheirPlaces := by
  unfold Obligations.ElementsReadAndLandAtTheirPlaces
  refine ⟨fun s p bs => ⟨s.rdLoc_wrLoc p bs, fun q => State.rdLoc_wrLoc_apart, s.memWf_wrLoc p bs, s.wrLoc_frame p bs⟩,
    fun s gid id l o el attr s1 hl ho hel hblk hnib => ?_⟩
  obtain rfl : el.lane = l := beq_iff_eq.mp (findBy_mem hel).2
  refine ⟨fun p dst mf rf rnd sat acq hk hctr hmf hin ht hp => ?_, fun p mf hk hctr hmf ht => ?_,
    fun p mf dst reads hatom hctr ht hpb hkind hp hgrain => ⟨fun op d hk hgov => ?_, fun d hk => ⟨fun heq => ?_, fun hne => ?_⟩⟩,
    fun sp dst mf rf rnd sat a hsp hk hctr hmf hin hfl hal hp => ?_,
    fun arr hk harr => peerstArrival_becomes ho hl hel hk harr⟩
  · exact load_becomes ho hl hel hblk hk hmf hin hnib ht hp hctr
  · exact store_becomes ho hl hel hblk hk hmf hnib ht hctr
  · obtain ⟨rfl, hreads⟩ := isAtomic_atomic hatom hk
    exact atomic_becomes ho hl hel hblk ht hpb hkind hp hgrain hctr hk hreads hgov
  · obtain ⟨rfl, hreads⟩ := isAtomic_cas hatom hk
    exact cas_becomes_of_eq ho hl hel hblk ht hpb hkind hp hgrain hctr hk hreads heq
  · obtain ⟨rfl, hreads⟩ := isAtomic_cas hatom hk
    exact cas_becomes_of_ne ho hl hel hblk ht hpb hkind hp hgrain hctr hk hreads hne
  · exact scratchpadLoad_becomes ho hl hel hblk hsp hk hmf hin hnib hfl hal hp hctr

end Sys2Proof.Proofs
end

section
/-! Proofs of the family of `13_sync_async.md`: the state after reset (O6), and frequencies, die resets, errors and
samples (O60). -/

namespace Sys2Proof.Machine

open Stated

/-! ### Reset values (R310, R341) -/

theorem State.dieOf_reset : ∀ d : Nat, State.reset.dieOf d = Die.reset
  | 0 | 1 | 2 | 3 | _ + 4 => rfl

/-! ### A die after its update -/

theorem State.dieOf_updDie {s : State} {d : Nat} (h : d < s.dies.length) (f : Die → Die) :
    (s.updDie d f).dieOf d = f (s.dieOf d) :=
  getAt_setAt_same Die.reset s.dies d _ h

theorem State.dieOf_updDie_other (s : State) {d k : Nat} (h : k ≠ d) (f : Die → Die) :
    (s.updDie d f).dieOf k = s.dieOf k :=
  getAt_setAt_other Die.reset s.dies d k _ h.symm

/-! ### A map without the keys of a range (R259) -/

section

variable {β : Type} {d : β} {lo n k : Nat}

theorem spGet_filter_key (d : β) (p : Nat → Bool) (m : Sparse β) (k : Nat) :
    spGet d (m.filter (fun x => p x.1)) k = if p k then spGet d m k else d := by
  induction m with
  | nil => exact (ite_self d).symm
  | cons x r ih =>
    obtain ⟨j, v⟩ := x
    by_cases hkj : k = j
    · subst hkj
      by_cases hk : p k = true
      · simp [hk, spGet]
      · simpa [hk] using ih
    · by_cases hj : p j = true
      · simpa [hj, spGet, hkj] using ih
      · simpa [hj, spGet, hkj] using ih

theorem spGet_spDrop_inside (m : Sparse β) (hlo : lo ≤ k) (hhi : k < lo + n) : spGet d (spDrop lo n m) k = d := by
  have hout : (decide (k < lo) || decide (lo + n ≤ k)) = false := by simp; omega
  exact (spGet_filter_key d (fun j => decide (j < lo) || decide (lo + n ≤ j)) m k).trans (if_neg (Bool.eq_false_iff.mp hout))

theorem spGet_spDrop_outside (m : Sparse β) (h : k < lo ∨ lo + n ≤ k) : spGet d (spDrop lo n m) k = spGet d m k := by
  have hin : (decide (k < lo) || decide (lo + n ≤ k)) = true := by simpa using h
  exact (spGet_filter_key d (fun j => decide (j < lo) || decide (lo + n ≤ j)) m k).trans (if_pos hin)

end

/-! ### Corrected errors (R396) -/

/-- A count that saturates. -/
def saturating (c : Word) : Word := if c = 0xFFFFFFFF then c else c + 1

theorem toNat_saturating (c : Word) : (saturating c).toNat = min (c.toNat + 1) (2 ^ 32 - 1) := by
  have hlt := c.isLt
  unfold saturating
  split
  next h => subst h; rfl
  next h =>
    have hne : c.toNat ≠ 0xFFFFFFFF := fun e => h (BitVec.eq_of_toNat_eq e)
    rw [BitVec.toNat_add, show (1 : Word).toNat = 1 from rfl]
    omega

/-- ECNT with one of its two counts grown: the upper one for DRAM errors. -/
def ecntUp (dram : Bool) (e : DWord) : DWord :=
  if dram then saturating (e.extractLsb' 32 32) ++ e.setWidth 32 else e.extractLsb' 32 32 ++ saturating (e.setWidth 32)

theorem toNat_ecntUp (dram : Bool) (e : DWord) : (ecntUp dram e).toNat =
    if dram then min (e.toNat / 2 ^ 32 + 1) (2 ^ 32 - 1) * 2 ^ 32 + e.toNat % 2 ^ 32
    else e.toNat / 2 ^ 32 * 2 ^ 32 + min (e.toNat % 2 ^ 32 + 1) (2 ^ 32 - 1) := by
  have hlt := e.isLt
  have hhi : (e.extractLsb' 32 32).toNat = e.toNat / 2 ^ 32 := by
    rw [BitVec.extractLsb'_toNat, Nat.shiftRight_eq_div_pow, Nat.mod_eq_of_lt (by omega)]
  have hlo : (e.setWidth 32).toNat = e.toNat % 2 ^ 32 := BitVec.toNat_setWidth 32 e
  unfold ecntUp
  cases dram
  · exact (toNat_append_add _ _).trans (by rw [toNat_saturating, hhi, hlo]; rfl)
  · exact (toNat_append_add _ _).trans (by rw [toNat_saturating, hhi, hlo]; rfl)

theorem correctedError_becomes (die : Nat) (dram : Bool) (s : State) :
    Becomes (.correctedError die dram) s (s.updDie die (fun d => { d with ecnt := ecntUp dram d.ecnt })) := rfl

/-! ### Uncorrectable errors (R396, R409) -/

theorem State.wrLoc_groups (s : State) (p : PLoc) (bs : List Byte) : (s.wrLoc p bs).groups = s.groups := by
  cases p <;> rfl

theorem State.wrMem_groups (s : State) (a : Nat) (bs : List Byte) : (s.wrMem a bs).groups = s.groups := by
  induction bs generalizing s a with
  | nil => rfl
  | cons b r ih => exact (ih _ _).trans (s.wrLoc_groups _ _)

theorem State.wrWhole_groups (s : State) (a : Nat) (bs : List Byte) : (s.wrWhole a bs).groups = s.groups := by
  unfold State.wrWhole
  split
  · exact s.wrLoc_groups _ _
  · exact s.wrMem_groups _ _

/-- The module error log lies in memory: no group hears of its records. -/
theorem logModule_groups (s : State) (r : Report) : (logModule s r).groups = s.groups := by
  unfold logModule
  dsimp only
  split
  · rfl
  · exact (State.wrWhole_groups _ _ _).trans (s.wrWhole_groups _ _)

theorem grp_logModule (s : State) (r : Report) (gid : Nat) : (logModule s r).grp gid = s.grp gid := by
  unfold State.grp
  rw [logModule_groups]

/-! ### The rotation of the sampler (R337) -/

theorem nextInRotation_lt {f : Nat → Bool} {n i k : Nat} (hn : 0 < n) (h : nextInRotation f n i = some k) : k < n := by
  obtain ⟨j, -, rfl⟩ := List.mem_map.mp (findBy_mem h).1
  exact Nat.mod_lt _ hn

theorem nextInRotation_eq_none {f : Nat → Bool} {n i : Nat} (hn : 0 < n) (h : ∀ k, k < n → f k = false) :
    nextInRotation f n i = none := by
  refine findBy_eq_none.mpr fun x hx => ?_
  obtain ⟨j, -, rfl⟩ := List.mem_map.mp hx
  exact h _ (Nat.mod_lt _ hn)

/-! ### The layout of a sample (R339) -/

theorem length_leBytes (n x : Nat) : (leBytes n x).length = n := by
  induction n generalizing x with
  | zero => rfl
  | succ n ih => exact congrArg (· + 1) (ih _)

theorem ofLe_leBytes (n x : Nat) : ofLe (leBytes n x) = x % 256 ^ n := by
  induction n generalizing x with
  | zero => exact (Nat.mod_one x).symm
  | succ n ih =>
    have hb : (BitVec.ofNat 8 x).toNat = x % 256 := BitVec.toNat_ofNat x 8
    rw [leBytes, ofLe, ih, hb, Nat.pow_succ', Nat.mod_mul]

theorem nbits_eq (x hi lo : Nat) : nbits x hi lo = x / 2 ^ lo % 2 ^ (hi + 1 - lo) := by
  rw [nbits, Nat.shiftRight_eq_div_pow]

theorem unchosen_lt (op : Nat) : ∀ r ∈ unchosen op, r < 32 := by
  intro r hr
  unfold unchosen at hr
  simp only [List.mem_append, List.mem_ite_nil_right, List.mem_cons, List.not_mem_nil, or_false] at hr
  omega

theorem getAt_lt {b d : Nat} {xs : List Nat} (hd : d < b) (h : ∀ x ∈ xs, x < b) (i : Nat) : getAt d xs i < b := by
  induction xs generalizing i with
  | nil => exact hd
  | cons x r ih =>
    cases i with
    | zero => exact h x (by simp)
    | succ i => exact ih (fun y hy => h y (by simp [hy])) i

/-- REASON fits its five bits (R340). -/
theorem reasonOf_lt (s : State) (g : Group) (p : Path) (clk : Nat) : reasonOf s g p clk < 32 := by
  have hreason : p.reason.toNat < 32 := p.reason.isLt
  have hfree : (Config.freeWord s.tick 620000).toNat % 27 < 32 := by omega
  unfold reasonOf
  dsimp only
  have hcases : ∀ {c : Prop} [Decidable c] {a b : Nat}, a < 32 → b < 32 → (if c then a else b) < 32 :=
    fun ha hb => keeps_ite (P := (· < 32)) ha hb
  have hport := getAt_lt (d := 17) (by omega) (unchosen_lt ((s.nextOp g p).getD 0))
  exact hcases (by omega) (hcases (by omega) (hcases (by omega) (hcases (by omega) (hcases hreason (hcases (by omega)
    (hcases (by omega) (hcases (by omega) (hcases (by omega) (hcases hfree (hcases (by omega) (hport _)))))))))))

/-- A sample's number, field by field. -/
def sampleWord (die core part slot pix issued reason pc mask : Nat) : Nat :=
  die * 2 ^ 15 + core * 2 ^ 17 + part * 2 ^ 23 + slot * 2 ^ 26 + pix * 2 ^ 30 + issued + reason * 2 ^ 34 +
    pc * 2 ^ 39 + mask * 2 ^ 96

section

variable {die core part slot pix issued reason pc mask : Nat} (hdie : die < 4) (hcore : core < 48) (hpart : part < 8)
  (hslot : slot < 16) (hpix : pix < 8) (hissued : issued = 0 ∨ issued = 2 ^ 33) (hreason : reason < 32)
  (hpc : pc < 2 ^ 57) (hmask : mask < 2 ^ 32)
include hdie hcore hpart hslot hpix hissued hreason hpc hmask

theorem sampleWord_fields : let n := sampleWord die core part slot pix issued reason pc mask
    n < 256 ^ 16 ∧ nbits n 14 0 = 0 ∧ nbits n 16 15 = die ∧ nbits n 22 17 = core ∧ nbits n 25 23 = part ∧
    nbits n 29 26 = slot ∧ nbits n 32 30 = pix ∧ nbits n 95 39 = pc ∧ nbits n 127 96 = mask := by
  unfold sampleWord
  refine ⟨by omega, ?_, ?_, ?_, ?_, ?_, ?_, ?_, ?_⟩ <;> rw [nbits_eq]
  · omega
  · omega
  · omega
  · omega
  · omega
  · omega
  · omega
  · omega

end

/-! ### The events of clocks, resets and errors (R341, R396, R409) -/

theorem frequencyStep_taken {die f : Nat} {s : State} (hlow : 9 ≤ f) (hceil : f ≤ (s.dieOf die).fceil)
    (hready : s.module.ready.getLsbD 0 = true) :
    Becomes (.frequencyStep die f) s (s.updDie die (fun d => { d with freq := f })) := by
  have hpass : ¬(decide (f < 9) || decide ((s.dieOf die).fceil < f) || !s.module.ready.getLsbD 0) = true := by
    simp [hlow, hceil, hready]
  exact if_neg hpass

theorem frequencyStep_refused {die f : Nat} {s : State}
    (h : f < 9 ∨ (s.dieOf die).fceil < f ∨ s.module.ready.getLsbD 0 = false) : Becomes (.frequencyStep die f) s s := by
  have hstop : (decide (f < 9) || decide ((s.dieOf die).fceil < f) || !s.module.ready.getLsbD 0) = true := by
    simpa [or_assoc] using h
  exact if_pos hstop

/-- The registers that a die's reset sets (R310, R337, R341, R386). -/
def Die.restarted (d : Die) : Die :=
  { d with clk := Die.reset.clk, lchNext := Die.reset.lchNext, shvctl := Die.reset.shvctl, shvPos := Die.reset.shvPos,
           sdaddr := Die.reset.sdaddr, sdctl := Die.reset.sdctl, tdctl := Die.reset.tdctl, ecnt := Die.reset.ecnt,
           kdrop := Die.reset.kdrop, qtbase := Die.reset.qtbase, fceil := Die.reset.fceil }

/-- The state after a die's reset. -/
def State.dieRestarted (s : State) (die : Nat) : State :=
  { s.updDie die Die.restarted with sems := spDrop (256 * die) 256 s.sems, semTags := spDrop (256 * die) 256 s.semTags }

theorem dieReset_becomes {die : Nat} (h : die < 4) (s : State) : Becomes (.dieReset die) s (s.dieRestarted die) :=
  if_neg (Nat.not_le.mpr h)

theorem memoryError_becomes (a b : Nat) (s : State) : ∃ r : Report, r.code = 0x09 ∧ r.d0 = a / 64 * 64 ∧
    (spGet 0 s.place (a / 4096) ≠ 0 → r.die = spGet 0 s.place (a / 4096) - 1) ∧
    Becomes (.uncorrectableError 0 a b) s (logModule { s with poison := poisonLine s.poison a } r) :=
  ⟨{ code := 0x09, queue := 0, rptr := 0, lchid := 0, d0 := a / 64 * 64,
     die := if spGet 0 s.place (a / 4096) = 0 then Config.pick (s.tick + 2 ^ 66) % 4 else spGet 0 s.place (a / 4096) - 1,
     d1 := (Config.freeWord s.tick (640000 + 0)).toNat % 2 ^ 64 },
   rfl, rfl, fun h => if_neg h, rfl⟩

/-- The group with a register line poisoned. -/
def Group.withPoisonLine (g : Group) (k : Nat) : Group :=
  { g with poisonLines := if k < 528 then k :: g.poisonLines else g.poisonLines }

/-- The group with a tile poisoned. -/
def Group.withPoisonTile (g : Group) (k : Nat) : Group :=
  { g with poisonTiles := if k < 8 then k :: g.poisonTiles.filter (· != k) else g.poisonTiles }

theorem grp_logModule_updGrp {s : State} {gid : Nat} {f : Group → Group} (hf : ∀ g, (f g).gid = g.gid)
    (hg : s.has gid = true) (r : Report) : (logModule (s.updGrp gid f) r).grp gid = f (s.grp gid) :=
  (grp_logModule _ r gid).trans (s.grp_updGrp gid f hf hg)

theorem registerError_becomes (g k : Nat) (s : State) : ∃ r,
    Becomes (.uncorrectableError 2 g k) s (logModule (s.updGrp g (fun x => x.withPoisonLine k)) r) := ⟨_, rfl⟩

theorem tileError_becomes (g k : Nat) (s : State) : ∃ r,
    Becomes (.uncorrectableError 4 g k) s (logModule (s.updGrp g (fun x => x.withPoisonTile k)) r) := ⟨_, rfl⟩

section

variable {g k : Nat} {s : State} (hg : s.has g = true)
include hg

theorem registerError_poisons (hk : k < 528) : ∃ t, Becomes (.uncorrectableError 2 g k) s t ∧
    k ∈ (t.grp g).poisonLines ∧ (t.grp g).v = (s.grp g).v := by
  obtain ⟨r, hr⟩ := registerError_becomes g k s
  refine ⟨_, hr, ?_⟩
  rw [grp_logModule_updGrp (f := fun x => x.withPoisonLine k) (fun _ => rfl) hg]
  exact ⟨by simp only [Group.withPoisonLine, if_pos hk, List.mem_cons_self], rfl⟩

theorem tileError_poisons (hk : k < 8) : ∃ t, Becomes (.uncorrectableError 4 g k) s t ∧
    k ∈ (t.grp g).poisonTiles ∧ (t.grp g).tiles = (s.grp g).tiles := by
  obtain ⟨r, hr⟩ := tileError_becomes g k s
  refine ⟨_, hr, ?_⟩
  rw [grp_logModule_updGrp (f := fun x => x.withPoisonTile k) (fun _ => rfl) hg]
  exact ⟨by simp only [Group.withPoisonTile, if_pos hk, List.mem_cons_self], rfl⟩

end

/-! ### Samples (R337 to R339) -/

/-- The state in which a partition has counted one more sample since EN was set. -/
def State.sampled (s : State) (e : EngRef) : State :=
  s.updDie e.die (fun d => { d with shvPos := spSet 0 d.shvPos (shvKey e 1) (d.shv (shvKey e 1) + 1) })

/-- The state in which a partition's rotation is past a slot, and past a path of that slot. -/
def State.rotated (s : State) (e : EngRef) (slot pix : Nat) : State :=
  (s.updDie e.die (fun d => { d with shvPos := spSet 0 d.shvPos (shvKey e 0) ((slot + 1) % 16) })).updDie e.die
    (fun d => { d with shvPos := spSet 0 d.shvPos (shvKey e (8 + slot)) ((pix + 1) % 8) })

theorem sample_notDue {e : EngRef} {s : State} (h : s.sampleDue e = false) : Becomes (.shavingsSample e) s s := by
  have hstop : (decide (4 ≤ e.die) || decide (headCore ≤ e.core) || decide (8 ≤ e.part) || !s.sampleDue e) = true := by
    simp [h]
  exact if_pos hstop

section

variable {e : EngRef} {s : State} (hdie : e.die < 4) (hcore : e.core < headCore) (hpart : e.part < 8)
  (hdue : s.sampleDue e = true)
include hdie hcore hpart hdue

theorem sampleGate_passes : ¬(decide (4 ≤ e.die) || decide (headCore ≤ e.core) || decide (8 ≤ e.part) ||
    !s.sampleDue e) = true := by
  simp [hdie, hcore, hpart, hdue]

theorem sample_ofNoGroup (h : ∀ k, k < 16 → s.inSlot e k = none) : Becomes (.shavingsSample e) s (s.sampled e) := by
  have hnone : nextInRotation (fun k => (s.inSlot e k).isSome) 16 ((s.dieOf e.die).shv (shvKey e 0)) = none :=
    nextInRotation_eq_none (by omega) fun k hk => by rw [h k hk]; rfl
  refine (if_neg (sampleGate_passes hdie hcore hpart hdue)).trans ?_
  rw [hnone]
  rfl

theorem sample_ofGroup {slot pix : Nat} {g : Group}
    (hslot : nextInRotation (fun k => (s.inSlot e k).isSome) 16 ((s.dieOf e.die).shv (shvKey e 0)) = some slot)
    (hg : s.inSlot e slot = some g)
    (hpix : nextInRotation (fun k => (g.path k).live) 8 ((s.dieOf e.die).shv (shvKey e (8 + slot))) = some pix) :
    Becomes (.shavingsSample e) s
      (writeSample ((s.sampled e).rotated e slot pix) e.die g.pasid (sampleBytes s g e slot pix)) := by
  refine (if_neg (sampleGate_passes hdie hcore hpart hdue)).trans ?_
  rw [hslot]
  show (match s.inSlot e slot with | none => _ | some g => _) = _
  rw [hg]
  dsimp only
  rw [hpix]
  rfl

end

theorem ofLe_sampleBytes {s : State} {g : Group} {e : EngRef} {slot pix : Nat} (hdie : e.die < 4)
    (hcore : e.core < headCore) (hpart : e.part < 8) (hslot : slot < 16) (hpix : pix < 8) :
    let n := ofLe (sampleBytes s g e slot pix)
    nbits n 14 0 = 0 ∧ nbits n 16 15 = e.die ∧ nbits n 22 17 = e.core ∧ nbits n 25 23 = e.part ∧
    nbits n 29 26 = slot ∧ nbits n 32 30 = pix ∧ nbits n 95 39 = (g.path pix).pc.toNat ∧
    nbits n 127 96 = (g.path pix).mask.toNat := by
  obtain ⟨hlt, hfields⟩ := sampleWord_fields hdie hcore hpart hslot hpix
    (issued := if g.issuedClk = (s.dieOf e.die).clk + 1 then 2 ^ 33 else 0) (by split <;> simp)
    (reasonOf_lt s g (g.path pix) (s.dieOf e.die).clk) (g.path pix).pc.isLt (g.path pix).mask.isLt
  have hnum : ofLe (sampleBytes s g e slot pix) = sampleWord e.die e.core e.part slot pix
      (if g.issuedClk = (s.dieOf e.die).clk + 1 then 2 ^ 33 else 0) (reasonOf s g (g.path pix) (s.dieOf e.die).clk)
      (g.path pix).pc.toNat (g.path pix).mask.toNat := (ofLe_leBytes 16 _).trans (Nat.mod_eq_of_lt hlt)
  rw [hnum]
  exact hfields

section

variable {s : State} {die pasid id : Nat} {bs : List Byte} (hid : (s.ctxOf pasid).shav = id) (hne : id ≠ 0)
  (hok : s.objFault id 0 64 true true = none)
include hid hne hok

theorem writeSample_full (hfull : nbits (s.objNum id 0 64) 63 0 - 64 <
      nbits (s.objNum id 0 64) 127 64 - nbits (s.objNum id 0 64) 191 128 + 16) :
    writeSample s die pasid bs = s.objWrite id 24 (leBytes 8 (nbits (s.objNum id 0 64) 255 192 + 1)) := by
  subst hid
  unfold writeSample
  dsimp only
  rw [if_neg hne, hok]
  exact if_pos hfull

theorem writeSample_room (hroom : nbits (s.objNum id 0 64) 127 64 - nbits (s.objNum id 0 64) 191 128 + 16 ≤
      nbits (s.objNum id 0 64) 63 0 - 64)
    (hat : s.objFault id (64 + nbits (s.objNum id 0 64) 127 64 % (nbits (s.objNum id 0 64) 63 0 - 64)) 16 false true =
      none) :
    writeSample s die pasid bs =
      (s.objWrite id (64 + nbits (s.objNum id 0 64) 127 64 % (nbits (s.objNum id 0 64) 63 0 - 64)) bs).objWrite id 8
        (leBytes 8 (nbits (s.objNum id 0 64) 127 64 + 16)) := by
  subst hid
  unfold writeSample
  dsimp only
  rw [if_neg hne, hok]
  dsimp only
  rw [if_neg (Nat.not_lt.mpr hroom), hat]

end

end Sys2Proof.Machine

namespace Sys2Proof.Proofs

open Sys2Proof Sys2Proof.Machine Sys2Proof.Stated

/-- Settles O6: every die at its reset values, and nothing in the maps. -/
theorem resetState : Obligations.ResetState := by
  refine ⟨fun d _ => ?_, fun _ _ => rfl, rfl, rfl, rfl, rfl, rfl, rfl⟩
  rw [State.dieOf_reset]
  exact ⟨rfl, rfl, rfl, rfl, rfl, rfl, rfl, rfl, rfl⟩

/-- Settles O60: each event by its outcome; the fields of a sample from the bounds of what it holds. -/
theorem resetsErrorsAndSamples : Obligations.ResetsErrorsAndSamples := by
  refine ⟨fun die f s hlow hceil hready => frequencyStep_taken hlow hceil hready,
    fun die f e s => ⟨frequencyStep_refused, fun hdie => if_pos hdie, sample_notDue⟩,
    fun die s hlen hdie => ⟨_, dieReset_becomes hdie s, ?_⟩,
    fun die dram s hlen => ⟨correctedError_becomes die dram s, _, correctedError_becomes die dram s, ?_⟩,
    fun a b s => memoryError_becomes a b s,
    fun g k s hg => ⟨registerError_poisons hg, tileError_poisons hg⟩,
    fun e s hdie hcore hpart hdue => sample_ofNoGroup hdie hcore hpart hdue,
    fun e s slot pix g hdie hcore hpart hdue hslot hg hpix => ⟨?_, length_leBytes 16 _, ?_⟩,
    fun s die pasid bs hid hok => ⟨writeSample_full rfl hid hok, writeSample_room rfl hid hok⟩⟩
  · have hd : (s.dieRestarted die).dieOf die = (s.dieOf die).restarted := State.dieOf_updDie hlen _
    exact ⟨congrArg Die.clk hd, (congrArg Die.lchNext hd :), congrArg Die.ecnt hd, rfl, rfl, rfl,
      fun k hk => spGet_spDrop_inside _ (by omega) (by omega),
      fun k hk => spGet_spDrop_outside _ hk,
      fun k hk => State.dieOf_updDie_other s hk _⟩
  · rw [State.dieOf_updDie hlen]
    exact toNat_ecntUp dram _
  · exact ⟨(s.sampled e).rotated e slot pix, rfl, sample_ofGroup hdie hcore hpart hdue hslot hg hpix⟩
  · exact ofLe_sampleBytes hdie hcore hpart (nextInRotation_lt (by omega) hslot) (nextInRotation_lt (by omega) hpix)

end Sys2Proof.Proofs
end

section
/-! Proofs of the family of `13_sync_async.md`: fences, counter waits, `fill` and `syncinit` (O42). -/

namespace Sys2Proof.Machine

open Stated

/-! ### Orders (R222, R247) -/

theorem ordAcq_iff (o : BitVec 3) : ordAcq o = true ↔ o = 1 ∨ o = 3 ∨ o = 4 := by
  simp [ordAcq, or_assoc]

theorem ordRel_iff (o : BitVec 3) : ordRel o = true ↔ o = 2 ∨ o = 3 ∨ o = 4 := by
  simp [ordRel, or_assoc]

/-! ### `fence` (R247) -/

/-- The accesses that a path has issued and that are not performed yet. -/
def Group.accesses (g : Group) (pix : Nat) : List Op := (g.before pix).filter (fun o => o.isAccess)

section

variable {w : XA} {e : Env} {s : State}

theorem fenceRes_idle (h : e.act = 0 ∨ w.ord = 0) : fenceRes w e s = .adv s :=
  if_pos (by simpa using h)

variable (hact : e.act ≠ 0)
include hact

theorem fence_not_idle (hord : w.ord ≠ 0) : ¬(decide (e.act = 0) || decide (w.ord = 0)) = true := by
  rw [Bool.or_eq_true, decide_eq_true_iff, decide_eq_true_iff]
  exact not_or.mpr ⟨hact, hord⟩

theorem fenceRes_holdsAcquire (hacq : ordAcq w.ord = true)
    (hload : ∃ o ∈ (s.grp s.cur.gid).accesses e.pix, o.reads = true) :
    fenceRes w e s = .hold (s.heldFor s.cur.gid e.pix 3) := by
  have hord : w.ord ≠ 0 := by rintro h; rw [h] at hacq; exact absurd hacq (by decide)
  have hany : ((s.grp s.cur.gid).accesses e.pix).any (fun o => o.reads) = true := List.any_eq_true.mpr hload
  refine (if_neg (fence_not_idle hact hord)).trans (if_pos ?_)
  rw [hacq]
  exact hany

theorem fenceRes_holdsSeqCst (hord : w.ord = 4) (hload : ∀ o ∈ (s.grp s.cur.gid).accesses e.pix, o.reads = false)
    (hacc : (s.grp s.cur.gid).accesses e.pix ≠ []) : fenceRes w e s = .hold (s.heldFor s.cur.gid e.pix 4) := by
  have hany : ((s.grp s.cur.gid).accesses e.pix).any (fun o => o.reads) = false := by
    simpa [List.any_eq_false] using hload
  refine (if_neg (fence_not_idle hact (by rw [hord]; decide))).trans ((if_neg ?_).trans (if_pos ?_))
  · rw [Bool.and_eq_true, not_and]
    exact fun _ => Bool.eq_false_iff.mp hany
  · rw [hord, decide_eq_true rfl, Bool.true_and, Bool.not_eq_true', List.isEmpty_eq_false_iff]
    exact hacc

/-- What a fence makes of the state once nothing holds it. -/
def State.fenced (s : State) (gid pix : Nat) (w : XA) : State :=
  let s1 := if ordAcq w.ord then s.fenceAcq gid pix w.ord w.scope w.sk else s
  if ordRel w.ord then s1.updGrp gid (fun g => g.fenceRel pix w.scope w.sk) else s1

theorem fenceRes_fences (hord : w.ord ≠ 0)
    (hload : ordAcq w.ord = true → ∀ o ∈ (s.grp s.cur.gid).accesses e.pix, o.reads = false)
    (hacc : w.ord = 4 → (s.grp s.cur.gid).accesses e.pix = []) : fenceRes w e s = .adv (s.fenced s.cur.gid e.pix w) := by
  refine (if_neg (fence_not_idle hact hord)).trans ((if_neg ?_).trans (if_neg ?_))
  · rw [Bool.and_eq_true, not_and]
    intro hacq
    have hany : ((s.grp s.cur.gid).accesses e.pix).any (fun o => o.reads) = false := by
      simpa [List.any_eq_false] using hload hacq
    exact Bool.eq_false_iff.mp hany
  · rw [Bool.and_eq_true, decide_eq_true_iff, not_and]
    intro h4
    rw [Bool.not_eq_true', List.isEmpty_eq_false_iff, not_not]
    exact hacc h4

end

/-! ### What an acquire changes (R223, R228) -/

/-- The group of an identity after an update that leaves what no group has as it is. -/
theorem State.grp_updGrp_any (s : State) (gid : Nat) (f : Group → Group) (hf : ∀ g, (f g).gid = g.gid)
    (hblank : f Group.blank = Group.blank) : (s.updGrp gid f).grp gid = f (s.grp gid) := by
  have hfind := findBy_updBy (fun g => g.gid == gid) f (fun x hx => by simpa [hf] using hx) s.groups
  unfold State.grp
  rw [State.updGrp_groups, hfind]
  cases findBy (fun g => g.gid == gid) s.groups with
  | none => exact hblank.symm
  | some g => rfl

/-- What a path learns by an acquire fence. -/
def State.fenceGot (s : State) (gid pix : Nat) (ord scope : BitVec 3) (sk : Bool) : View :=
  viewJoin (acquired ((s.grp gid).agent pix) scope sk ((s.grp gid).path pix).heard)
    (if ord = 4 then s.scView ((s.grp gid).agent pix) scope sk else [])

theorem State.fenceAcq_groups (s : State) (gid pix : Nat) (ord scope : BitVec 3) (sk : Bool) :
    (s.fenceAcq gid pix ord scope sk).groups =
      (s.updGrp gid (fun g => g.updPath pix (fun p => p.hears (s.fenceGot gid pix ord scope sk)))).groups := by
  unfold State.fenceAcq State.fenceGot
  dsimp only
  split <;> rfl

theorem State.fenceAcq_frame (s : State) (gid pix : Nat) (ord scope : BitVec 3) (sk : Bool) :
    { s.fenceAcq gid pix ord scope sk with groups := s.groups, sc := s.sc } = s := by
  unfold State.fenceAcq
  dsimp only
  split <;> rfl

theorem State.fenceAcq_sc (s : State) (gid pix : Nat) {ord : BitVec 3} (scope : BitVec 3) (sk : Bool) (h : ord ≠ 4) :
    (s.fenceAcq gid pix ord scope sk).sc = s.sc := by
  unfold State.fenceAcq
  dsimp only
  rw [if_neg h, if_neg h]
  rfl

theorem State.grp_of_groups {s t : State} (h : s.groups = t.groups) (gid : Nat) : s.grp gid = t.grp gid := by
  unfold State.grp
  rw [h]

/-- The paths of a group in which one of them has learnt more. -/
theorem Group.path_updPath_hears (g : Group) (pix k : Nat) (v : View) :
    { (g.updPath pix (fun p => p.hears v)).path k with view := (g.path k).view } = g.path k := by
  by_cases hk : k = pix
  · subst hk
    by_cases hlen : k < g.paths.length
    · rw [Group.path_updPath hlen]
      rfl
    · have hnone : (g.updPath k (fun p => p.hears v)).paths = g.paths := setAt_of_length_le (Nat.not_lt.mp hlen) _
      rw [show (g.updPath k (fun p => p.hears v)).path k = g.path k from congrArg (fun l => getAt Path.free l k) hnone]
  · rw [Group.path_updPath_other g hk]

theorem State.fenceAcq_others (s : State) (gid pix : Nat) (ord scope : BitVec 3) (sk : Bool) {k : Nat} (hk : k ≠ gid) :
    (s.fenceAcq gid pix ord scope sk).grp k = s.grp k := by
  exact (State.grp_of_groups (s.fenceAcq_groups gid pix ord scope sk) k).trans
    (s.grp_updGrp_other gid k _ (fun _ => rfl) hk)

theorem State.grp_fenceAcq (s : State) (gid pix : Nat) (ord scope : BitVec 3) (sk : Bool) :
    (s.fenceAcq gid pix ord scope sk).grp gid =
      (s.grp gid).updPath pix (fun p => p.hears (s.fenceGot gid pix ord scope sk)) :=
  (State.grp_of_groups (s.fenceAcq_groups gid pix ord scope sk) gid).trans
    (s.grp_updGrp_any gid _ (fun _ => rfl) rfl)

/-! ### `waitc` (R248) -/

section

variable {w : XW} {e : Env} {s : State}

/-- The meaning of `waitc` at its issue. -/
def waitcRes (w : XW) (e : Env) (s : State) : Res :=
  if e.act = 0 then .adv s
  else if w.n.toNat < (s.grp s.cur.gid).ctr (ctrOf w.ctr) then .hold (s.heldFor s.cur.gid e.pix (ctrOf w.ctr).reason)
  else .adv (s.updGrp s.cur.gid (fun g => g.updPath e.pix (fun p => p.hears (g.viewOfCtr (ctrOf w.ctr) w.n.toNat))))

theorem exec_waitc (w : XW) (s : State) : exec (.waitc w) s = issueC (.waitc w) w.h w.c (waitcRes w) s := rfl

end

/-! ### `fill` and `syncinit` (R249, R250) -/

/-- The address of the one element of a word store. -/
def Env.fillAddr (e : Env) (w : XA) : Nat := (e.addr .gbl false w.a w.b (lowest e.act)).1

/-- The value of the one element of a word store. -/
def Env.fillValue (e : Env) (w : XA) : DWord := if wideFmt w.mf then e.uni64 w.d else (e.uni w.d).setWidth 64

/-- The issue of a word store with its elements. -/
def fillPost (w : XA) (tag : Bool) (e : Env) (els : List Elem) (s : State) : State :=
  post e .st els w.scope w.sk (if tag then 0 else 2) true (.store .gbl w.mf tag true) s

section

variable {e : Env} {sp : Space} {l raw n : Nat}

/-- The check of one element's address (R200). -/
theorem checked_one_misaligned (h : raw % n ≠ 0) : e.checked sp n [{ lane := l, raw := raw, nib := none }] =
    .error (lanesTrap .memAlign [{ lane := l, raw := raw, nib := none }]) := by
  simp [Env.checked, h]

theorem checked_one_global (h : raw % n = 0) : e.checked .gbl n [{ lane := l, raw := raw, nib := none }] =
    .ok [({ lane := l, raw := raw, nib := none }, raw)] := by
  simp [Env.checked, h, Space.isScr]

end

section

variable {w : XA} {tag : Bool} {e : Env} {s : State} (hhold : memHold e .st s = none)
include hhold

theorem fillRes_idle (hact : e.act = 0) : fillRes w tag e s = .adv (fillPost w tag e [] s) := by
  unfold fillRes
  rw [hhold]
  exact if_pos hact

variable (hact : e.act ≠ 0) (hmf : w.mf ≠ 14)
include hact hmf

omit hhold hact in
theorem raws_fill : e.raws .gbl w.mf w.a w.b [lowest e.act] =
    [{ lane := lowest e.act, raw := e.fillAddr w, nib := none }] := by
  have hcb : (w.mf == 14) = false := beq_false_of_ne hmf
  unfold Env.raws Env.fillAddr
  simp only [hcb, List.map_cons, List.map_nil]
  rfl

theorem fillRes_misaligned (h : e.fillAddr w % fmtBytes w.mf ≠ 0) : fillRes w tag e s =
    .trap { cause := .memAlign, faddr := BitVec.ofNat 64 (e.fillAddr w), lmask := e.act } := by
  unfold fillRes
  rw [hhold]
  dsimp only
  rw [if_neg hact, raws_fill hmf, checked_one_misaligned h]
  rfl

theorem fillRes_posts (h : e.fillAddr w % fmtBytes w.mf = 0) (hgrain : grainOn s (s.grp s.cur.gid) = false) :
    fillRes w tag e s = .adv (fillPost w tag e
      (elements [lowest e.act] (fun _ => e.fillAddr w) (fun _ => none) (fun _ => (e.fillValue w, 0))) s) := by
  unfold fillRes
  rw [hhold]
  dsimp only
  rw [if_neg hact, raws_fill hmf, checked_one_global h]
  dsimp only
  rw [hgrain]
  rfl

end

end Sys2Proof.Machine

namespace Sys2Proof.Proofs

open Sys2Proof Sys2Proof.Machine Sys2Proof.Stated

/-- Settles O42: each instruction by the outcomes of its own effect; what an acquire fence changes is the view of one
path. -/
theorem fencesCountersAndFills : Obligations.FencesCountersAndFills := by
  refine ⟨fun w s hc => ?_, fun s gid pix ord scope sk => ?_, fun w s hc => ?_, fun w r hr s hmf hc => ?_⟩
  · have hx : exec (.fence w) s = issueC (.fence w) w.h w.c (fenceRes w) s := rfl
    refine ⟨fun hidle => runs_idle hx hc (fenceRes_idle hidle),
      fun hact hacq hload => becomes_of_hold hx hc (fenceRes_holdsAcquire hact ((ordAcq_iff _).mpr hacq) hload),
      fun hact hord hload hacc => becomes_of_hold hx hc (fenceRes_holdsSeqCst hact hord hload hacc),
      fun hact hord hload hacc => ?_⟩
    have hfence := issues_of (f := fun s1 => s1.fenced s.cur.gid (reads s (.fence w) w.h).pix w) hx hc
      (fenceRes_fences hact hord (fun hacq => hload ((ordAcq_iff _).mp hacq)) hacc)
    simp only [State.fenced, ordAcq_iff, ordRel_iff] at hfence
    exact hfence
  · refine ⟨s.fenceAcq_frame gid pix ord scope sk, s.fenceAcq_sc gid pix scope sk,
      fun k => s.fenceAcq_others gid pix ord scope sk, ?_⟩
    rw [s.grp_fenceAcq gid pix ord scope sk]
    exact ⟨rfl, fun k => Group.path_updPath_hears _ pix k _⟩
  · exact ⟨fun hact => runs_idle (exec_waitc w s) hc (if_pos hact),
      fun hact hfew => runs_of (exec_waitc w s) hc ((if_neg hact).trans (if_neg hfew)),
      fun hact hmore => becomes_of_hold (exec_waitc w s) hc ((if_neg hact).trans (if_pos hmore))⟩
  · intro e addr v go hfree hgrain
    have hx : ∀ s, exec r.1 s = issueC r.1 w.h w.c (fillRes w r.2) s := by
      rcases List.mem_cons.mp hr with rfl | hr
      · exact fun _ => rfl
      · obtain rfl := List.mem_singleton.mp hr
        exact fun _ => rfl
    have hhold := memHold_of_free hfree
    exact ⟨fun hact => issues_of (hx s) hc (fillRes_idle hhold hact),
      fun hact hmis => traps_of (hx s) hc (fillRes_misaligned hhold hact hmf hmis),
      fun hact halign => issues_of (hx s) hc (fillRes_posts hhold hact hmf halign hgrain)⟩

end Sys2Proof.Proofs
end

section
/-! Proofs of the family of `13_sync_async.md`: word waits (O43). -/

namespace Sys2Proof.Machine

open Stated

/-! ### What a wait's evaluation comes to (R251, R295, R298) -/

section

variable {s s1 : State} {w : Who} {x : Wait}

theorem carryWait_fault {c : Cause} (h : s.evalWait w x = .fault s1 c) : s.carryWait w x = s1.waitFault w x c := by
  unfold State.carryWait
  rw [h]

theorem carryWait_trap {t : Trap} (h : s.evalWait w x = .trap t) : s.carryWait w x = s.precise w.gid w.path t := by
  unfold State.carryWait
  rw [h]

theorem carryWait_completes {v : Option DWord} (h : s.evalWait w x = .complete s1 v)
    (hv : v.any (srValueBad x.dst) = false) : s.carryWait w x = s1.endWait w x x.wide v := by
  unfold State.carryWait
  rw [h]
  exact if_neg (Bool.eq_false_iff.mp hv)

theorem carryWait_refused {v : DWord} (h : s.evalWait w x = .complete s1 (some v)) (hv : srValueBad x.dst v = true) :
    s.carryWait w x = s.precise w.gid w.path { cause := .illegalField, lmask := x.act } := by
  unfold State.carryWait
  rw [h]
  exact if_pos hv

section

variable {key : RestKey} {woken : Bool} {target : BitVec 2 × Option Launch} {spot : Option (Nat × Bool)}
  (h : s.evalWait w x = .park s1 key woken target spot false)
include h

theorem carryWait_parks (hcheck : x.checked = true →
      checkWait (s1.launchOf (s.grp w.gid).die (s.grp w.gid).lchid).cls (s.grp w.gid).pasid target = .pass) :
    s.carryWait w x = (s1.rested w key woken).waiting w { x with spot := spot, met := false } .parked x.reason := by
  unfold State.carryWait
  rw [h]
  dsimp only
  cases hc : x.checked with
  | false => rfl
  | true => rw [hcheck hc]; rfl

theorem carryWait_inverts (hchecked : x.checked = true)
    (hcheck : checkWait (s1.launchOf (s.grp w.gid).die (s.grp w.gid).lchid).cls (s.grp w.gid).pasid target = .inversion) :
    s.carryWait w x = s1.precise w.gid w.path
      { cause := .progressInversion, faddr := x.faddr, lmask := x.act } := by
  unfold State.carryWait
  rw [h]
  dsimp only
  rw [hchecked, hcheck]
  rfl

theorem carryWait_promotes (hchecked : x.checked = true) {l : Launch}
    (hcheck : checkWait (s1.launchOf (s.grp w.gid).die (s.grp w.gid).lchid).cls (s.grp w.gid).pasid target = .promote l) :
    s.carryWait w x =
      ((s1.rested w key woken).waiting w { x with spot := spot, met := false } .promoting 24).requestPromotion w l := by
  unfold State.carryWait
  rw [h]
  dsimp only
  rw [hchecked, hcheck]
  rfl

end

end

/-! ### The check of a wait (R298) -/

section

variable {cw : BitVec 2} {ctx : Nat} {t : BitVec 2 × Option Launch}

theorem checkWait_pass (h : cw.toNat ≤ t.1.toNat) : checkWait cw ctx t = .pass := if_pos h

theorem checkWait_inversion (h : t.1.toNat < cw.toNat) (hl : ∀ l, t.2 = some l → l.pasid ≠ ctx) :
    checkWait cw ctx t = .inversion := by
  unfold checkWait
  rw [if_neg (Nat.not_le.mpr h)]
  cases ht : t.2 with
  | none => rfl
  | some l => exact if_neg (hl l ht)

theorem checkWait_promote (h : t.1.toNat < cw.toNat) {l : Launch} (ht : t.2 = some l) (hl : l.pasid = ctx) :
    checkWait cw ctx t = .promote l := by
  unfold checkWait
  rw [if_neg (Nat.not_le.mpr h), ht]
  exact if_pos hl

end

/-- A timed wait is checked where its timeout is 0 or above 2^20 (R251, R295). -/
theorem timeoutChecked_eq (t : Nat) : timeoutChecked t = decide (t = 0 ∨ 2 ^ 20 < t) := by
  simp [timeoutChecked, Bool.decide_or, beq_eq_decide]

/-- A deadline that has just been set has not come. -/
theorem not_due_of_new {x : Wait} {clk t : Nat} (h : x.deadline = if t = 0 then none else some (clk + t)) :
    x.due clk = false := by
  unfold Wait.due
  rw [h]
  by_cases ht : t = 0
  · rw [if_pos ht]
  · rw [if_neg ht]
    exact decide_eq_false (by omega)

/-! ### Tests of lines and words with no grain ring at work (R251) -/

theorem loggedFor_of_grainOff {s : State} {g : Group} (h : grainOn s g = false) (t : Target) :
    t.loggedFor s g = false := by
  unfold Target.loggedFor
  cases t.log with
  | none => rfl
  | some x => exact logged_of_grainOff h x.1

section

variable {s : State} {g : Group} {pix clk : Nat} {x : Wait} {t : Target} {v : Option DWord} {payload : Nat} {pass : Bool}
  {key : RestKey} {woken : Bool} {target : BitVec 2 × Option Launch} {hears : State → State}
  (hquiet : t.loggedFor s g = false)
include hquiet

theorem evalLine_passes (hpass : pass = true) :
    evalLine s g pix clk x t v payload pass key woken target hears = .complete (hears s) v := by
  unfold evalLine
  rw [hquiet, hpass]
  rfl

theorem evalLine_parks (hpass : pass = false) (hdue : x.due clk = false) :
    evalLine s g pix clk x t v payload pass key woken target hears =
      .park s key woken target (t.log.map (fun x => (x.2, attrSync x.1))) false := by
  unfold evalLine
  rw [hquiet, hpass, hdue]
  rfl

end

/-- The condition of `waitw`, or of `waitf`, on a word of `n` bytes (R251). -/
def wordMet (ne : Bool) (cmp : BitVec 64) (n v : Nat) : Bool := if ne then v != cmp.toNat % 256 ^ n else v != 0

theorem wordMet_iff (ne : Bool) (cmp : BitVec 64) (n v : Nat) :
    wordMet ne cmp n v = true ↔ if ne then v ≠ cmp.toNat % 256 ^ n else v ≠ 0 := by
  cases ne <;> exact bne_iff_ne

section

variable {s s1 : State} {g : Group} {pix clk n : Nat} {x : Wait} {p : PLoc} {attr : BitVec 9} {ne wide : Bool}
  {cmp : BitVec 64} (hn : n = if wide then 8 else 4) (ht : s.target g .gbl x.addr n needR = (s1, .ok (.at_ p attr)))
include hn ht

theorem evalWord_forbidden (h : attrPbmt attr ≠ 0 ∨ attrKind attr = 2) :
    evalWord s g pix clk x ne cmp wide = .fault s1 .memProtection := by
  have hno : (attrPbmt attr != 0 || attrKind attr == 2) = true := by simpa using h
  unfold evalWord
  dsimp only
  rw [← hn, ht]
  exact if_pos hno

section

variable (hpb : attrPbmt attr = 0) (hkind : attrKind attr ≠ 2)
include hpb hkind

theorem evalWord_poison (hp : s1.poisonedAt p n = true) : evalWord s g pix clk x ne cmp wide = .fault s1 .poison := by
  have hok : ¬(attrPbmt attr != 0 || attrKind attr == 2) = true := by simp [hpb, hkind]
  unfold evalWord
  dsimp only
  rw [← hn, ht]
  exact (if_neg hok).trans (if_pos hp)

theorem evalWord_reads (hp : s1.poisonedAt p n = false) : evalWord s g pix clk x ne cmp wide =
    evalLine s1 g pix clk x (.at_ p attr) (some (BitVec.ofNat 64 (ofLe (s1.rdLoc p n)))) (ofLe (s1.rdLoc p n))
      (wordMet ne cmp n (ofLe (s1.rdLoc p n))) (.line p.line) false
      (tagTarget s1 (if attrSync attr then spGet none s1.tags p.line else none))
      (fun s => s.waitHears g.gid pix x (.at_ p attr) n) := by
  have hok : ¬(attrPbmt attr != 0 || attrKind attr == 2) = true := by simp [hpb, hkind]
  have hclean : ¬s1.targetPoison g (.at_ p attr) n = true := Bool.eq_false_iff.mp hp
  unfold evalWord
  dsimp only
  rw [← hn, ht]
  exact (if_neg hok).trans (if_neg hclean)

end

end

theorem evalWait_word {s : State} {w : Who} {x : Wait} {ne wide : Bool} {cmp : BitVec 64} (h : x.kind = .word ne cmp wide) :
    s.evalWait w x = evalWord s (s.grp w.gid) w.path (s.dieOf (s.grp w.gid).die).clk x ne cmp wide := by
  unfold State.evalWait
  rw [h]

theorem Wait.wide_word {x : Wait} {ne wide : Bool} {cmp : BitVec 64} (h : x.kind = .word ne cmp wide) : x.wide = wide := by
  unfold Wait.wide
  rw [h]

theorem Wait.reason_word {x : Wait} {ne wide : Bool} {cmp : BitVec 64} (h : x.kind = .word ne cmp wide) :
    x.reason = if ne then 10 else 11 := by
  unfold Wait.reason
  rw [h]
  cases ne <;> rfl

theorem Wait.faddr_word {x : Wait} {ne wide : Bool} {cmp : BitVec 64} (h : x.kind = .word ne cmp wide) :
    x.faddr = BitVec.ofNat 64 x.addr := by
  unfold Wait.faddr
  rw [h]

/-! ### `waitw` and `waitf` (R251) -/

/-- The address that a word wait names. -/
def Env.wordAddr (e : Env) (w : XA) : Nat := (e.uni64 w.a).toNat % 2 ^ 57

/-- The comparand of a word wait. -/
def Env.comparand (e : Env) (w : XA) : BitVec 64 :=
  if wideFmt w.mf then e.uni64 w.b else (e.uni w.b).setWidth 64

/-- The wait that `waitw` or `waitf` starts at a clk. -/
def Env.wordWait (e : Env) (w : XA) (ne : Bool) (clk : Nat) : Wait :=
  { kind := .word ne (e.comparand w) (wideFmt w.mf), addr := e.wordAddr w, dst := w.d, act := e.act, scope := w.scope,
    sk := w.sk, deadline := if (e.uni w.c).toNat = 0 then none else some (clk + (e.uni w.c).toNat),
    timeout := (e.uni w.c).toNat, checked := decide ((e.uni w.c).toNat = 0 ∨ 2 ^ 20 < (e.uni w.c).toNat),
    hdr := w.h, spot := none, met := false }

section

variable {w : XA} {ne : Bool} {e : Env} {s : State}

theorem waitRes_idle (h : e.act = 0) : waitRes w ne e s = .adv s := if_pos h

theorem waitRes_misaligned (hact : e.act ≠ 0) (h : e.wordAddr w % fmtBytes w.mf ≠ 0) : waitRes w ne e s =
    .trap { cause := .memAlign, faddr := BitVec.ofNat 64 (e.wordAddr w), lmask := e.act } :=
  (if_neg hact).trans (if_pos h)

theorem waitRes_starts (hact : e.act ≠ 0) (h : e.wordAddr w % fmtBytes w.mf = 0) : waitRes w ne e s =
    .hold (s.carryWait { gid := s.cur.gid, path := e.pix } (e.wordWait w ne (s.dieOf e.g.die).clk)) := by
  refine (if_neg hact).trans ((if_neg (not_not.mpr h)).trans ?_)
  unfold startWait Env.wait Env.wordWait
  dsimp only
  rw [timeoutChecked_eq]
  rfl

end

/-- The path that an instruction of the current path parks. -/
def Env.who (e : Env) (gid : Nat) : Who := { gid := gid, path := e.pix }

/-- The wait that `waitw` or `waitf` of the current path starts. -/
def wordWaitOf (i : Instr) (w : XA) (ne : Bool) (s : State) : Wait :=
  (reads s i w.h).wordWait w ne (s.dieOf (reads s i w.h).g.die).clk

section

variable {i : Instr} {w : XA} {ne : Bool} {s s1 : State} {p : PLoc} {attr : BitVec 9}
  (hx : ∀ s, exec i s = issueC i w.h w.c (waitRes w ne) s) (hc : s.clear i w.h = true)
  (hact : (reads s i w.h).act ≠ 0) (halign : (reads s i w.h).wordAddr w % fmtBytes w.mf = 0)
include hx hc hact halign

theorem wordWait_becomes {t : State}
    (ht : (s.touch i).carryWait ((reads s i w.h).who s.cur.gid) (wordWaitOf i w ne s) = t) : Becomes i s t :=
  ht ▸ becomes_of_hold (hx s) hc (waitRes_starts hact halign)

variable (hn : fmtBytes w.mf = if wideFmt w.mf then 8 else 4)
  (ht : (s.touch i).target (reads s i w.h).g .gbl ((reads s i w.h).wordAddr w) (fmtBytes w.mf) needR =
    (s1, .ok (.at_ p attr)))
include hn ht

theorem wordWait_forbidden (h : attrPbmt attr ≠ 0 ∨ attrKind attr = 2) :
    Becomes i s (s1.waitFault ((reads s i w.h).who s.cur.gid) (wordWaitOf i w ne s) .memProtection) :=
  wordWait_becomes hx hc hact halign (carryWait_fault ((evalWait_word rfl).trans (evalWord_forbidden hn ht h)))

variable (hpb : attrPbmt attr = 0) (hkind : attrKind attr ≠ 2)
include hpb hkind

theorem wordWait_poison (hp : s1.poisonedAt p (fmtBytes w.mf) = true) :
    Becomes i s (s1.waitFault ((reads s i w.h).who s.cur.gid) (wordWaitOf i w ne s) .poison) :=
  wordWait_becomes hx hc hact halign (carryWait_fault ((evalWait_word rfl).trans (evalWord_poison hn ht hpb hkind hp)))

variable (hp : s1.poisonedAt p (fmtBytes w.mf) = false) (hgrain : grainOn s1 (reads s i w.h).g = false)
include hp hgrain

section

variable (hpass : wordMet ne ((reads s i w.h).comparand w) (fmtBytes w.mf) (ofLe (s1.rdLoc p (fmtBytes w.mf))) = true)
include hpass

omit hx hc hact halign in
/-- A word wait whose word already passes is complete in the state in which it has been heard. -/
theorem wordWait_evalMet : (s.touch i).evalWait ((reads s i w.h).who s.cur.gid) (wordWaitOf i w ne s) =
    .complete (s1.waitHears (reads s i w.h).g.gid (reads s i w.h).pix (wordWaitOf i w ne s) (.at_ p attr) (fmtBytes w.mf))
      (some (BitVec.ofNat 64 (ofLe (s1.rdLoc p (fmtBytes w.mf))))) :=
  (evalWait_word rfl).trans ((evalWord_reads hn ht hpb hkind hp).trans
    (evalLine_passes (loggedFor_of_grainOff (g := (s.touch i).grp s.cur.gid) hgrain _) hpass))

theorem wordWait_completes (hv : srValueBad w.d (BitVec.ofNat 64 (ofLe (s1.rdLoc p (fmtBytes w.mf)))) = false) :
    Becomes i s ((s1.waitHears (reads s i w.h).g.gid (reads s i w.h).pix (wordWaitOf i w ne s) (.at_ p attr)
      (fmtBytes w.mf)).endWait ((reads s i w.h).who s.cur.gid) (wordWaitOf i w ne s) (wideFmt w.mf)
      (some (BitVec.ofNat 64 (ofLe (s1.rdLoc p (fmtBytes w.mf)))))) :=
  wordWait_becomes hx hc hact halign
    (carryWait_completes (wordWait_evalMet hn ht hpb hkind hp hgrain hpass) hv)

theorem wordWait_refused (hv : srValueBad w.d (BitVec.ofNat 64 (ofLe (s1.rdLoc p (fmtBytes w.mf)))) = true) :
    Becomes i s ((s.touch i).precise s.cur.gid (reads s i w.h).pix
      { cause := .illegalField, lmask := (reads s i w.h).act }) :=
  wordWait_becomes hx hc hact halign
    (carryWait_refused (wordWait_evalMet hn ht hpb hkind hp hgrain hpass) hv)

end

/-- What the line of a word wait resolves to (R297). -/
def State.lineTarget (s : State) (p : PLoc) (attr : BitVec 9) : BitVec 2 × Option Launch :=
  tagTarget s (if attrSync attr then spGet none s.tags p.line else none)

section

variable (hpass : wordMet ne ((reads s i w.h).comparand w) (fmtBytes w.mf) (ofLe (s1.rdLoc p (fmtBytes w.mf))) = false)
include hpass

omit hx hc hact halign in
/-- A word wait whose word does not pass is about to park on the word's line. -/
theorem wordWait_evalUnmet : (s.touch i).evalWait ((reads s i w.h).who s.cur.gid) (wordWaitOf i w ne s) =
    .park s1 (.line p.line) false (s1.lineTarget p attr) (some (p.line, attrSync attr)) false :=
  (evalWait_word rfl).trans ((evalWord_reads hn ht hpb hkind hp).trans
    (evalLine_parks (loggedFor_of_grainOff (g := (s.touch i).grp s.cur.gid) hgrain _) hpass (not_due_of_new rfl)))

theorem wordWait_parks (hcheck : (wordWaitOf i w ne s).checked = true →
      (s1.launchOf (reads s i w.h).g.die (reads s i w.h).g.lchid).cls.toNat ≤ (s1.lineTarget p attr).1.toNat) :
    Becomes i s ((s1.rested ((reads s i w.h).who s.cur.gid) (.line p.line) false).waiting ((reads s i w.h).who s.cur.gid)
      { wordWaitOf i w ne s with spot := some (p.line, attrSync attr) } .parked (if ne then 10 else 11)) := by
  have hpark := carryWait_parks (wordWait_evalUnmet hn ht hpb hkind hp hgrain hpass)
    (fun h => checkWait_pass (hcheck h))
  rw [Wait.reason_word rfl] at hpark
  exact wordWait_becomes hx hc hact halign hpark

variable (hchecked : (wordWaitOf i w ne s).checked = true)
  (hbelow : (s1.lineTarget p attr).1.toNat <
    (s1.launchOf (reads s i w.h).g.die (reads s i w.h).g.lchid).cls.toNat)
include hchecked hbelow

theorem wordWait_inverts (hl : ∀ l, (s1.lineTarget p attr).2 = some l → l.pasid ≠ (reads s i w.h).g.pasid) :
    Becomes i s (s1.precise s.cur.gid (reads s i w.h).pix
      { cause := .progressInversion, faddr := BitVec.ofNat 64 ((reads s i w.h).wordAddr w), lmask := (reads s i w.h).act }) :=
  wordWait_becomes hx hc hact halign (carryWait_inverts
    (wordWait_evalUnmet hn ht hpb hkind hp hgrain hpass) hchecked (checkWait_inversion hbelow hl))

theorem wordWait_promotes {l : Launch} (hl : (s1.lineTarget p attr).2 = some l)
    (hctx : l.pasid = (reads s i w.h).g.pasid) :
    Becomes i s (((s1.rested ((reads s i w.h).who s.cur.gid) (.line p.line) false).waiting
      ((reads s i w.h).who s.cur.gid) { wordWaitOf i w ne s with spot := some (p.line, attrSync attr) } .promoting
      24).requestPromotion ((reads s i w.h).who s.cur.gid) l) :=
  wordWait_becomes hx hc hact halign (carryWait_promotes
    (wordWait_evalUnmet hn ht hpb hkind hp hgrain hpass) hchecked (checkWait_promote hbelow hl hctx))

end

end

end Sys2Proof.Machine

namespace Sys2Proof.Proofs

open Sys2Proof Sys2Proof.Machine Sys2Proof.Stated

/-- Settles O43: `waitw` and `waitf` start one wait, whose word is read and judged by the wait's own evaluation. -/
theorem wordWaits : Obligations.WordWaits := by
  intro w s s1 p attr r hr hc
  have hx : ∀ s, exec r.1 s = issueC r.1 w.h w.c (waitRes w r.2) s := by
    rcases List.mem_cons.mp hr with rfl | hr
    · exact fun _ => rfl
    · obtain rfl := List.mem_singleton.mp hr
      exact fun _ => rfl
  refine ⟨fun hact => runs_idle (hx s) hc (waitRes_idle hact),
    fun hact hmis => traps_of (hx s) hc (waitRes_misaligned hact hmis), fun hn hact halign _ hgrain ht => ?_⟩
  refine ⟨wordWait_forbidden hx hc hact halign hn ht, wordWait_poison hx hc hact halign hn ht, fun hpb hkind hp =>
    ⟨fun hpass => ?_, fun hpass => ?_, fun hpass hcheck => ?_, fun hpass hlong => ?_, fun l hpass hlong => ?_⟩⟩
  all_goals rw [← wordMet_iff] at hpass
  · exact wordWait_completes hx hc hact halign hn ht hpb hkind hp hgrain hpass
  · exact wordWait_refused hx hc hact halign hn ht hpb hkind hp hgrain hpass
  · refine wordWait_parks hx hc hact halign hn ht hpb hkind hp hgrain (Bool.eq_false_iff.mpr hpass) fun hchecked => ?_
    have hlong := of_decide_eq_true hchecked
    rcases hcheck with hshort | ⟨-, hclass⟩
    · omega
    · exact hclass
  · exact wordWait_inverts hx hc hact halign hn ht hpb hkind hp hgrain (Bool.eq_false_iff.mpr hpass)
      (decide_eq_true hlong)
  · exact fun hbelow hl hctx => wordWait_promotes hx hc hact halign hn ht hpb hkind hp hgrain
      (Bool.eq_false_iff.mpr hpass) (decide_eq_true hlong) hbelow hl hctx

end Sys2Proof.Proofs
end

section
/-! Proofs of the family of `13_sync_async.md`: barrier objects and semaphores (O45). The clause on the arrival of a
participant at a scratchpad object holds of every record of an arrival, whether its group has made it or not; the model
checks first whatever path of the record waits in a `bar` on a GLOBAL object (R295), and that check may trap. -/

namespace Sys2Proof.Machine

/-! ### A path that waits at a GLOBAL object, and a record that names a scratchpad object -/

/-- The wait of a `bar` on a GLOBAL object. -/
def globalBar : Wait :=
  { kind := .arriving .gbl false, addr := 0, dst := unused, act := 1, scope := 0, sk := false, deadline := none,
    timeout := 0, checked := true, hdr := { gn := false, gp := 7, stall := 0, yield := false, dup := 0 },
    spot := none, met := false }

/-- A path of one lane, halted in that `bar`. -/
def globalBarPath : Path :=
  { Path.free with live := true, mask := 1, stat := .parked, wait := some globalBar,
                   frame := { Frame.reset with pend := true } }

/-- The arrival that the path has recorded. -/
def globalArrival : BarArrival := { half := 0, sp := .gbl, addr := 0, paths := [0] }

/-- A record of the same path's arrival at a scratchpad object. -/
def scratchpadArrival : BarArrival := { half := 0, sp := .scr, addr := 0, paths := [0] }

/-- The scratchpad of the group's block, all of it zero. -/
def zeroAlloc : Alloc := { role := 0, core := 0, base := 0, bytes := [], poison := [], saved := none, freed := false }

/-- A launch of class 1 with one block of one group, whose one path has arrived at the GLOBAL object. -/
def arrivalState : State :=
  { State.reset with
    launches := [{ Launch.blank with cls := 1 }]
    blocks := [{ die := 0, lchid := 0, ix := 0, stat := .resident, ordinal := 0, gone := [], allocs := [zeroAlloc] }]
    groups := [{ Group.blank with gid := 1, ended := false, paths := [globalBarPath], arrival := [globalArrival] }] }

/-- The check raises PROGRESS_INVERSION, since the object's class is below the launch's: nothing is written. -/
theorem tryArrive_writes_nothing : (arrivalState.tryArrive 1 scratchpadArrival).stamp = 0 := by decide

/-- The arrival that the clause gives has written the object once, and its halted path writes nothing more. -/
theorem arrivedPaths_writes_once (m : List (Nat × List Msg)) (v : View) (pix : Nat) (bs : List Byte) :
    (arrivedPaths 1 0 scratchpadArrival.paths.reverse (({ arrivalState.wrScr 0 0 0 0 0 bs with objMsgs := m }.updGrp 1
      (fun g => g.updPath pix (fun p => p.hears v))).updGrp 1 (fun g =>
        { g.updPath pix (fun p => { p with holdSince := none }) with
          arrival := g.arrival.filter (fun x => x != scratchpadArrival) }))).stamp = 1 := by
  cases pix <;> rfl

end Sys2Proof.Machine

namespace Sys2Proof.Proofs

open Sys2Proof Sys2Proof.Machine Sys2Proof.Stated

/-- Refutes O45: in `arrivalState` every premise of the clause on arrivals holds of `scratchpadArrival`, but its path waits
at a GLOBAL object of a class below the launch's, so that `tryArrive` traps and writes nothing, where the clause has the
object written. -/
theorem not_barriersAndSemaphores : ¬ Obligations.BarriersAndSemaphores := by
  rintro ⟨⟨-, -, -, -, -, harrive⟩, -⟩
  obtain ⟨m, v, pix, hmade⟩ := harrive arrivalState 1 scratchpadArrival zeroAlloc (Or.inl rfl) rfl rfl rfl rfl rfl
    (by decide) (by decide)
  have hstamp := (congrArg State.stamp hmade).symm.trans tryArrive_writes_nothing
  exact absurd ((arrivedPaths_writes_once m v pix _).symm.trans hstamp) (by decide)

end Sys2Proof.Proofs
end

section
/-! Proofs of the family of `13_sync_async.md`: `xkick` and its copy (O48). -/

namespace Sys2Proof.Machine

open Stated

/-! ### The request (R261, R262) -/

/-- Bytes of the group's own scratchpad, as a number, from an offset. -/
def Env.ownBytes (e : Env) (s : State) (o n : Nat) : Nat := s.issueBytes e.g (e.g.role * 2 ^ 20 + o) n

/-- Whether bytes of the group's own scratchpad lie in bounds and can be read now. -/
def Env.CanRead (e : Env) (s : State) (o n : Nat) : Prop := o + n ≤ e.launch.hdr.scratch ∧ e.ready s o n = .go

theorem scrRead_of_canRead {e : Env} {s : State} {o n : Nat} (h : e.CanRead s o n) :
    e.scrRead s o n = some (e.ownBytes s o n) := if_neg (Nat.not_lt.mpr h.1)

section

variable {e : Env} {a x xs xd : Nat}

theorem requestTrap_unread (a : Nat) (ys yd : Option Nat) : requestTrap e a none ys yd =
    some { cause := if a % 128 ≠ 0 then .memAlign else .memBounds, faddr := BitVec.ofNat 64 a, lmask := e.act } := by
  unfold requestTrap
  dsimp only
  split <;> rfl

theorem requestTrap_illegal (h : requestIllegal x (some xs) (some xd) = true) :
    requestTrap e a (some x) (some xs) (some xd) = some { cause := .illegalOperand, lmask := e.act } := if_pos h

variable (hlegal : requestIllegal x (some xs) (some xd) = false)
include hlegal

theorem requestTrap_misaligned {f : Nat} (h : requestMisaligned a x (some xs) (some xd) = some f) :
    requestTrap e a (some x) (some xs) (some xd) =
      some { cause := .memAlign, faddr := BitVec.ofNat 64 f, lmask := e.act } := by
  refine (if_neg (Bool.eq_false_iff.mp hlegal)).trans ?_
  rw [h]

theorem requestTrap_aligned (h : requestMisaligned a x (some xs) (some xd) = none) :
    requestTrap e a (some x) (some xs) (some xd) = (requestOutside e x (some xs) (some xd)).map
      (fun f => { cause := .memBounds, faddr := BitVec.ofNat 64 f, lmask := e.act }) := by
  refine (if_neg (Bool.eq_false_iff.mp hlegal)).trans ?_
  rw [h]
  cases requestOutside e x (some xs) (some xd) <;> rfl

end

/-! ### The outcomes of `xkick` -/

section

variable {w : XN} {e : Env} {s : State} (hroom : (s.grp s.cur.gid).ctr .cp < 63)
include hroom

theorem xkickRes_idle (hact : e.act = 0) : xkickRes w e s =
    .adv (s.addOp s.cur.gid e.pix .cp 0 [] [] 0 false 0 true (.matrix .none)) := by
  refine (if_neg (Nat.not_le.mpr hroom)).trans ((if_pos hact).trans ?_)
  rw [hact]

variable (hact : e.act ≠ 0)
include hact

theorem xkickRes_unread (hout : e.launch.hdr.scratch < (e.uni w.a).toNat + 128) : xkickRes w e s =
    .trap { cause := if (e.uni w.a).toNat % 128 ≠ 0 then .memAlign else .memBounds,
            faddr := BitVec.ofNat 64 (e.uni w.a).toNat, lmask := e.act } := by
  have hread : e.scrRead s (e.uni w.a).toNat 128 = none := if_pos hout
  refine (if_neg (Nat.not_le.mpr hroom)).trans ((if_neg hact).trans ?_)
  dsimp only
  rw [hread, requestTrap_unread]
  rfl

variable {x xs xd : Nat} (hx : x = e.ownBytes s (e.uni w.a).toNat 128) (hxs : xs = e.ownBytes s (nbits x 31 0) 64)
  (hxd : xd = e.ownBytes s (nbits x 63 32) 64) (hin : e.CanRead s (e.uni w.a).toNat 128)
  (hins : e.CanRead s (nbits x 31 0) 64) (hind : e.CanRead s (nbits x 63 32) 64)
include hx hxs hxd hin hins hind

/-- What `xkick` does once its request and its two records are read. -/
theorem xkickRes_read : xkickRes w e s =
    match requestTrap e (e.uni w.a).toNat (some x) (some xs) (some xd) with
    | some t => .trap t
    | none =>
      match e.copyFlight s (requestOf x (tsrOf xs) (tsrOf xd)) with
      | some f => .trap { cause := .scoreboardUndersized, faddr := BitVec.ofNat 64 f, lmask := e.act }
      | none => .adv (s.addOp s.cur.gid e.pix .cp e.act [] ((s.grp s.cur.gid).depsOf e.pix 0 false) 0 false 0 false
          (.copy (requestOf x (tsrOf xs) (tsrOf xd)) [])) := by
  have hread : e.scrRead s (e.uni w.a).toNat 128 = some x := hx ▸ scrRead_of_canRead hin
  have hsrc : e.scrRead s (nbits x 31 0) 64 = some xs := hxs ▸ scrRead_of_canRead hins
  have hdst : e.scrRead s (nbits x 63 32) 64 = some xd := hxd ▸ scrRead_of_canRead hind
  refine (if_neg (Nat.not_le.mpr hroom)).trans ((if_neg hact).trans ?_)
  dsimp only
  rw [hread]
  dsimp only [Option.bind_some]
  have hready : firstUnready ([((e.uni w.a).toNat, 128), (nbits x 31 0, 64), (nbits x 63 32, 64)].map
      (fun p => e.ready s p.1 p.2)) = .go := by
    simp only [List.map_cons, List.map_nil, hin.2, hins.2, hind.2, firstUnready]
  rw [hready, hsrc, hdst] <;> rfl

theorem xkickRes_trap {t : Trap} (h : requestTrap e (e.uni w.a).toNat (some x) (some xs) (some xd) = some t) :
    xkickRes w e s = .trap t := by
  rw [xkickRes_read hroom hact hx hxs hxd hin hins hind, h]

variable (hok : requestTrap e (e.uni w.a).toNat (some x) (some xs) (some xd) = none)
include hok

theorem xkickRes_flight {f : Nat} (h : e.copyFlight s (requestOf x (tsrOf xs) (tsrOf xd)) = some f) : xkickRes w e s =
    .trap { cause := .scoreboardUndersized, faddr := BitVec.ofNat 64 f, lmask := e.act } := by
  rw [xkickRes_read hroom hact hx hxs hxd hin hins hind, hok]
  dsimp only
  rw [h]

theorem xkickRes_posts (h : e.copyFlight s (requestOf x (tsrOf xs) (tsrOf xd)) = none) : xkickRes w e s =
    .adv (s.addOp s.cur.gid e.pix .cp e.act [] ((s.grp s.cur.gid).depsOf e.pix 0 false) 0 false 0 false
      (.copy (requestOf x (tsrOf xs) (tsrOf xd)) [])) := by
  rw [xkickRes_read hroom hact hx hxs hxd hin hins hind, hok]
  dsimp only
  rw [h]

end

/-! ### The bytes of a source element (R232) -/

/-- An engine reads a byte of memory as some write has left it (R226). -/
theorem State.engineByte_memory (s : State) (g : Group) (o : Op) (va : Nat) (p : PLoc) (attr : BitVec 9) (k n : Nat) :
    ∃ x ∈ s.writesOf (p.cell + k), BitVec.ofNat 8 (s.engineByte g o va (.at_ (p.plus k) attr) n).1 = x.2 := by
  rw [← PLoc.cell_plus]
  exact ⟨_, State.pickByte_mem s _ _ _ _, (BitVec.ofNat_toNat _ _).trans (BitVec.setWidth_eq _)⟩

/-- What an engine reads of a source byte in memory, translated ahead (R360). -/
def State.sourceByte (s : State) (g : Group) (o : Op) (va : Nat) (p : PLoc) (attr : BitVec 9) (k : Nat) : Nat × Nat :=
  s.engineByte g { o with ahead := true } (va + k) (.at_ (p.plus k) attr) k

/-- The bytes of a source element, with the stamps of their writes. -/
def State.sourceBytes (s : State) (g : Group) (o : Op) (va : Nat) (p : PLoc) (attr : BitVec 9) (n : Nat) :
    List (Nat × Nat) := (upFrom 0 n).map (s.sourceByte g o va p attr)

theorem copySource_at (s : State) (g : Group) (o : Op) (va : Nat) (p : PLoc) (attr : BitVec 9) (n : Nat) :
    s.copySource g o va (.at_ p attr) n =
      some (ofLe ((s.sourceBytes g o va p attr n).map (fun x => BitVec.ofNat 8 x.1)), s.poisonedAt p n,
        viewOf (upFrom p.cell n) ((s.sourceBytes g o va p attr n).map (fun x => x.2))) := by
  have hall : (upFrom 0 n).filterMap (some ∘ s.sourceByte g o va p attr) = s.sourceBytes g o va p attr n :=
    congrFun List.filterMap_eq_map _
  have hlen : (s.sourceBytes g o va p attr n).length = n := (List.length_map _).trans (length_upFrom 0 n)
  show (if ((upFrom 0 n).filterMap (some ∘ s.sourceByte g o va p attr)).length = n then
    some (ofLe (((upFrom 0 n).filterMap (some ∘ s.sourceByte g o va p attr)).map (fun x => BitVec.ofNat 8 x.1)), _,
      viewOf _ (((upFrom 0 n).filterMap (some ∘ s.sourceByte g o va p attr)).map (fun x => x.2))) else none) = _
  rw [hall, if_pos hlen]
  rfl

/-- The bytes of a source element in memory: each as some write has left it, and none of them poisoned. -/
theorem copySource_memory {s : State} {p : PLoc} {n : Nat} (g : Group) (o : Op) (va : Nat) (attr : BitVec 9)
    (hp : s.poisonedAt p n = false) :
    ∃ bs seen, bs.length = n ∧ (∀ k, k < n → ∃ x ∈ s.writesOf (p.cell + k), x.2 = getAt 0 bs k) ∧
      s.copySource g o va (.at_ p attr) n = some (ofLe bs, false, seen) := by
  refine ⟨(s.sourceBytes g o va p attr n).map (fun x => BitVec.ofNat 8 x.1), _,
    (List.length_map _).trans ((List.length_map _).trans (length_upFrom 0 n)), fun k hk => ?_,
    (copySource_at s g o va p attr n).trans (by rw [hp])⟩
  obtain ⟨x, hx, hbyte⟩ := s.engineByte_memory g { o with ahead := true } (va + k) p attr k k
  refine ⟨x, hx, hbyte.symm.trans ?_⟩
  rw [State.sourceBytes, List.map_map, getAt_map_upFrom _ _ hk]
  rfl

/-! ### The place of an element (R263) -/

theorem copyTarget_global {t : Tsr} (hspace : t.space = 0) (hfmt : t.fmt ≠ 14) (s : State) (g : Group) (addr : Nat)
    (need : Need) : s.copyTarget g t addr need = s.targetIn g 2 .gbl addr (fmtBytes t.fmt) need := by
  unfold State.copyTarget
  rw [tsrSpace_global hspace, elemBytes_of_ne hfmt]
  rfl

section

variable {s s1 : State} {g : Group} {o : Op} {r : CopyReq} {c : List Nat}

theorem copyRead_outside (h : tsrElem r.src true (shifted c r.sorg) = none) :
    copyRead s g o r c = (s, .ok (0, false, [])) := by
  unfold copyRead
  rw [h]

theorem copyWrite_outside (h : tsrElem r.dst false (shifted c r.dorg) = none) (v : Nat) (bad : Bool) :
    copyWrite s g r c v bad = (s, .ok []) := by
  unfold copyWrite
  rw [h]

section

variable {a : Nat} {p : PLoc} {attr : BitVec 9} (hspace : r.src.space = 0) (hfmt : r.src.fmt ≠ 14)
  (ha : tsrElem r.src true (shifted c r.sorg) = some (a, none))
  (ht : s.targetIn g 2 .gbl a (fmtBytes r.src.fmt) needR = (s1, .ok (.at_ p attr)))
  (hp : s1.poisonedAt p (fmtBytes r.src.fmt) = false)
include hspace hfmt ha ht hp

theorem copyRead_memory : ∃ bs seen, bs.length = fmtBytes r.src.fmt ∧
    (∀ k, k < fmtBytes r.src.fmt → ∃ x ∈ s1.writesOf (p.cell + k), x.2 = getAt 0 bs k) ∧
    copyRead s g o r c = (s1, .ok (ofLe bs, false, seen)) := by
  obtain ⟨bs, seen, hlen, hbs, hread⟩ := copySource_memory g o a attr hp
  refine ⟨bs, seen, hlen, hbs, ?_⟩
  unfold copyRead
  rw [ha]
  dsimp only
  rw [copyTarget_global hspace hfmt, ht]
  dsimp only
  rw [elemBytes_of_ne hfmt, hread]

end

theorem copyWrite_memory {b : Nat} {q : PLoc} {attr : BitVec 9} (hspace : r.dst.space = 0) (hfmt : r.src.fmt ≠ 14)
    (hsame : r.dst.fmt = r.src.fmt) (hb : tsrElem r.dst false (shifted c r.dorg) = some (b, none))
    (ht : s.targetIn g 2 .gbl b (fmtBytes r.src.fmt) needW = (s1, .ok (.at_ q attr))) (v : Nat) : ∃ wrote,
    copyWrite s g r c v false = (s1.wrLoc q (leBytes (fmtBytes r.src.fmt) v), .ok wrote) := by
  refine ⟨(s1.wrLoc q (leBytes (fmtBytes r.src.fmt) v)).wroteAt g (.at_ q attr) (fmtBytes r.src.fmt), ?_⟩
  unfold copyWrite
  rw [hb]
  dsimp only
  rw [copyTarget_global hspace (hsame ▸ hfmt), hsame, ht]
  dsimp only
  rw [elemBytes_of_ne hfmt]
  rfl

end

/-! ### The events of a copy (R263) -/

/-- The state in which an element of a copy has been performed, and what its operation has read and written. -/
def State.copied (s : State) (gid id n : Nat) (o : Op) (r : CopyReq) (done : List Nat) (own : View) : State :=
  s.updGrp gid (fun g =>
    { g with ops := updBy (fun x => x.id == id) (fun _ => { o with kind := .copy r (n :: done), own := own }) g.ops })

section

variable {s : State} {gid id n : Nat} {o : Op} {r : CopyReq} {done : List Nat} (ho : (s.grp gid).op id = some o)
  (hk : o.kind = .copy r done)
include ho hk

theorem tceCopy_idle (h : boxSize r.box ≤ n ∨ n ∈ done) : Becomes (.tceCopy gid id [n]) s s := by
  have hstop : (o.done || o.deps.any (s.grp gid).pending || done.contains n || decide (boxSize r.box ≤ n)) = true := by
    rcases h with h | h <;> simp [h]
  show Host.Outcome.next (copyElem gid id n s) = .next s
  unfold copyElem
  dsimp only
  rw [ho]
  dsimp only
  rw [hk]
  dsimp only
  rw [if_pos hstop]

theorem copyComplete_waits (h : done.length < boxSize r.box) : Becomes (.tceCopyComplete gid id) s s := by
  have hstop : (o.done || o.deps.any (s.grp gid).pending || decide (done.length < boxSize r.box)) = true := by simp [h]
  show execTceCopyComplete gid id s = .next s
  unfold execTceCopyComplete
  dsimp only
  rw [ho]
  dsimp only
  rw [hk]
  dsimp only
  rw [if_pos hstop]

variable (hdone : o.done = false) (hdeps : o.deps.any (s.grp gid).pending = false)
include hdone hdeps

/-- An element that is performed: what its source gives and its destination takes. -/
theorem tceCopy_performs {s1 s2 : State} {v : Nat} {seen wrote : View} (hn : n < boxSize r.box) (hnew : n ∉ done)
    (hmode : r.mode ≠ 1) (hread : copyRead s (s.grp gid) o r (boxCoords r.box n) = (s1, .ok (v, false, seen)))
    (hwrite : copyWrite s1 (s.grp gid) r (boxCoords r.box n) v false = (s2, .ok wrote)) :
    ∃ own, Becomes (.tceCopy gid id [n]) s (s2.copied gid id n o r done own) := by
  refine ⟨viewJoin (viewJoin o.own seen) wrote, ?_⟩
  have hgo : ¬(o.done || o.deps.any (s.grp gid).pending || done.contains n || decide (boxSize r.box ≤ n)) = true := by
    simp [hdone, hdeps, hnew, hn]
  show Host.Outcome.next (copyElem gid id n s) = _
  unfold copyElem
  dsimp only
  rw [ho]
  dsimp only
  rw [hk]
  dsimp only
  rw [if_neg hgo, hread]
  dsimp only
  rw [hwrite]
  dsimp only
  rw [if_neg hmode]
  rfl

variable (hall : boxSize r.box ≤ done.length)
include hall

theorem copyComplete_done (hmode : r.mode ≠ 2) : Becomes (.tceCopyComplete gid id) s (s.copyDone gid o) := by
  have hgo : ¬(o.done || o.deps.any (s.grp gid).pending || decide (done.length < boxSize r.box)) = true := by
    simp [hdone, hdeps, hall]
  show execTceCopyComplete gid id s = _
  unfold execTceCopyComplete
  dsimp only
  rw [ho]
  dsimp only
  rw [hk]
  dsimp only
  rw [if_neg hgo, if_neg hmode]

theorem copyComplete_signals {s1 : State} {t : Target} (hmode : r.mode = 2)
    (ht : s.targetIn (s.grp gid) 2 .gbl r.sigaddr 8 needW = (s1, .ok t)) :
    Becomes (.tceCopyComplete gid id) s ((copySignal s1 (s.grp gid) o t r).copyDone gid o) := by
  have hgo : ¬(o.done || o.deps.any (s.grp gid).pending || decide (done.length < boxSize r.box)) = true := by
    simp [hdone, hdeps, hall]
  show execTceCopyComplete gid id s = _
  unfold execTceCopyComplete
  dsimp only
  rw [ho]
  dsimp only
  rw [hk]
  dsimp only
  rw [if_neg hgo, if_pos hmode, ht]

end

end Sys2Proof.Machine

namespace Sys2Proof.Proofs

open Sys2Proof Sys2Proof.Machine Sys2Proof.Stated

/-- Settles O48: `xkick` by what it reads and the first class of its request that fails; an element by its source and its
destination; the end of a copy by its mode. -/
theorem copiesRunElementByElement : Obligations.CopiesRunElementByElement := by
  refine ⟨fun w s hc => ?_, fun s gid id n o r done => ?_⟩
  · intro e s1 a at_ x inside xs xd hroom
    have hx : exec (.xkick w) s = issueC (.xkick w) w.h unused (xkickRes w) s := rfl
    refine ⟨fun hact => issues_of (f := fun s1 => s1.addOp s.cur.gid (reads s (.xkick w) w.h).pix .cp 0 [] [] 0 false 0
        true (.matrix .none)) hx hc (xkickRes_idle hroom hact),
      fun hact hout => traps_of hx hc (xkickRes_unread hroom hact hout), fun hact hin hins hind => ?_⟩
    have htrap : ∀ {t : Trap}, requestTrap e a (some x) (some xs) (some xd) = some t → Traps (.xkick w) s t :=
      fun h => traps_of hx hc (xkickRes_trap hroom hact rfl rfl rfl hin hins hind h)
    refine ⟨fun hill => htrap (requestTrap_illegal hill), fun hlegal =>
      ⟨fun f hmis => htrap (requestTrap_misaligned hlegal hmis), fun halign => ?_⟩⟩
    have haligned := requestTrap_aligned (e := e) hlegal halign
    refine ⟨fun f hout => htrap (haligned.trans (by rw [hout]; rfl)), fun hbounds => ?_⟩
    have hok : requestTrap e a (some x) (some xs) (some xd) = none := haligned.trans (by rw [hbounds]; rfl)
    exact ⟨fun f hfl => traps_of hx hc (xkickRes_flight hroom hact rfl rfl rfl hin hins hind hok hfl),
      fun hfl => issues_of (f := fun s1 => s1.addOp s.cur.gid e.pix .cp e.act [] (e.g.depsOf e.pix 0 false) 0 false 0
        false (.copy (requestOf x (tsrOf xs) (tsrOf xd)) [])) hx hc
        (xkickRes_posts hroom hact rfl rfl rfl hin hins hind hok hfl)⟩
  · intro g ho hk hdone hdeps fmt c marked place
    refine ⟨fun hn hnew hmode hsrc hdst hss hds => ⟨fun hno hdrop => ?_, fun b s1 q y hno hb ht => ?_,
        fun a b s1 s2 p q x y ha hb hta htb hp => ?_⟩, tceCopy_idle ho hk, copyComplete_waits ho hk,
      fun hall => ⟨copyComplete_done ho hk hdone hdeps hall, fun s1 p x hmode ht => ?_⟩⟩
    · exact tceCopy_performs ho hk hdone hdeps hn hnew hmode (copyRead_outside hno) (copyWrite_outside hdrop 0 false)
    · obtain ⟨wrote, hwrite⟩ := copyWrite_memory hds hsrc hdst hb ht 0
      exact tceCopy_performs ho hk hdone hdeps hn hnew hmode (copyRead_outside hno) hwrite
    · obtain ⟨bs, seen, hlen, hbs, hread⟩ := copyRead_memory (o := o) hss hsrc ha hta hp
      obtain ⟨wrote, hwrite⟩ := copyWrite_memory hds hsrc hdst hb htb (ofLe bs)
      obtain ⟨own, hcopy⟩ := tceCopy_performs ho hk hdone hdeps hn hnew hmode hread hwrite
      exact ⟨own, bs, hlen, hbs, hcopy⟩
    · have hgid : (s.grp gid).gid = gid := State.grp_gid (State.has_of_op ho)
      have hid : o.id = id := beq_iff_eq.mp (findBy_mem ho).2
      have hdone := copyComplete_signals ho hk hdone hdeps hall hmode ht
      rw [copySignal, hgid, hid] at hdone
      exact hdone

end Sys2Proof.Proofs
end
